-- ==== Sys2Proof/Word.lean ====
section
/-! DEFINITION. The word types of the N9 and the container types every other file uses: 64-bit words, 32-bit
register lanes, bytes, 32-lane vectors and sparse maps (02_numbers R29, 04_group R77). -/

namespace Sys2Proof

/-- A 64-bit word: an instruction word, an address, a system register. -/
abbrev Word := BitVec 64

/-- One lane of a `v` register (04_group R85: entries of 32 lanes of 32 bits). -/
abbrev W32 := BitVec 32

/-- The smallest addressable unit of memory. -/
abbrev Byte := BitVec 8

/-- A value for each of the 32 lanes of a group (04_group R77). -/
abbrev Lanes (α : Type) := Vector α 32

/-- A set of lanes, bit L for lane L. -/
abbrev Mask := BitVec 32

/-- Sparse data by key: the keys rise strictly. -/
abbrev SMap (α : Type) := List (Nat × α)

end Sys2Proof
end

