-- ==== Sys2Proof/Syntax.lean ====
section
/-! DEFINITION. The instructions and the other steps of the machine: the six instruction formats (03_encoding
R59-R66), the operands of the steps that are no instruction words (95_what_each_step_holds), and `Instr`, one
constructor per row of spec/opcode_table.json. -/

namespace Sys2Proof

/-- The guard of an instruction word: predicate G and negate N (03_encoding R59). -/
structure Guard where
  p : BitVec 3
  n : Bool
  deriving DecidableEq, Repr

/-- Format R (03_encoding R61). `mods` is [12:0], which an entry may redefine. -/
structure FmtR where
  d : BitVec 8
  a : BitVec 8
  b : BitVec 8
  c : BitVec 8
  ka : Bool
  kb : Bool
  kc : Bool
  ta : Bool
  tb : Bool
  tc : Bool
  ru : Bool
  mods : BitVec 13
  deriving DecidableEq, Repr

/-- Format I (03_encoding R63). -/
structure FmtI where
  d : BitVec 8
  a : BitVec 8
  ka : Bool
  ta : Bool
  md : BitVec 2
  imm : BitVec 32
  deriving DecidableEq, Repr

/-- Format M (03_encoding R64). For the atomics `off` holds the operation in [21:18] and the offset in [17:0]. -/
structure FmtM where
  data : BitVec 8
  base : BitVec 8
  kbase : Bool
  tbase : Bool
  kdata : Bool
  width : BitVec 3
  space : BitVec 3
  order : BitVec 2
  scope : BitVec 3
  off : BitVec 22
  deriving DecidableEq, Repr

/-- Format B (03_encoding R65). -/
structure FmtB where
  u : Bool
  link : Bool
  kind : BitVec 2
  reg : BitVec 8
  rsv : BitVec 8
  disp : BitVec 32
  deriving DecidableEq, Repr

/-- Format T (03_encoding R66). -/
structure FmtT where
  z : BitVec 3
  a : BitVec 8
  b : BitVec 8
  ka : Bool
  ru : Bool
  atype : BitVec 3
  btype : BitVec 3
  s : BitVec 8
  tb : Bool
  boff : BitVec 16
  deriving DecidableEq, Repr

/-- Format X (03_encoding R66, last paragraph): three register fields and [27:0]. -/
structure FmtX where
  d : BitVec 8
  a : BitVec 8
  b : BitVec 8
  low : BitVec 28
  deriving DecidableEq, Repr

/-- Bits [51:0] of an instruction word in one of the six formats. -/
inductive Fmt where
  | r (f : FmtR)
  | i (f : FmtI)
  | m (f : FmtM)
  | b (f : FmtB)
  | t (f : FmtT)
  | x (f : FmtX)
  deriving DecidableEq, Repr

/-- How a training attempt of the culvert ends (18_link R381). -/
inductive TrainOutcome where
  | allLanes
  | halfLanes
  | fails
  deriving DecidableEq, Repr

/-- The operations of a PCI Express AtomicOp (18_link R372). -/
inductive HostAtomic where
  | fetchAdd32
  | swap32
  | cas32
  | fetchAdd64
  | swap64
  | cas64
  deriving DecidableEq, Repr

/-- The place of a soft error (15_context R329), by the field of `ECC_CNT` that counts it. -/
inductive ErrPlace where
  | entry (d c slot name lane : Nat)     -- register file: one lane pair of an entry
  | scratch (team off : Nat)             -- an 8-byte unit of a team's scratchpad
  | berm (team win off : Nat)            -- an 8-byte unit of a berm window
  | cache (pa : Nat)                     -- an 8-byte unit held in a home slice
  | l1 (d c pa : Nat)                    -- an 8-byte unit held in a core's L1
  | icache (d c pa : Nat)                -- an instruction word held in a core's instruction cache
  | column (d c pa : Nat)                -- an 8-byte unit held in a column cache
  | memory (pa : Nat)                    -- an 8-byte unit of device memory
  | anvil (d c slot q z e : Nat)         -- an element of a z tile
  | dsb (d tile rank : Nat)              -- a record of a bucket's live set
  | scc (d cl idx : Nat)                 -- a record of a cluster's event queue
  deriving DecidableEq, Repr

/-- The instructions and the other steps of the machine, in the order of spec/opcode_table.json. The comment of a
constructor names the rule that the table gives for its row. Operands: `d` die, `c` core, `slot` group slot,
`cl` cluster, `x` context. -/
inductive Instr where
  | nop (g : Guard) (f : FmtX)  -- R112
  | bra (g : Guard) (f : FmtB)  -- R108
  | brx (g : Guard) (f : FmtB)  -- R108
  | call (g : Guard) (f : FmtB)  -- R108
  | callIndirect (g : Guard) (f : FmtB)  -- R108
  | ret (g : Guard) (f : FmtB)  -- R108
  | exit (g : Guard) (f : FmtX)  -- R109
  | yield (g : Guard) (f : FmtX)  -- R110
  | conv (g : Guard) (f : FmtX)  -- R111
  | trap (g : Guard) (f : FmtX)  -- R319
  | bkpt (g : Guard) (f : FmtX)  -- R338
  | tret (g : Guard) (f : FmtX)  -- R320
  | iadd (g : Guard) (f : FmtR)  -- R114
  | iaddi (g : Guard) (f : FmtI)  -- R122
  | isub (g : Guard) (f : FmtR)  -- R114
  | iaddc (g : Guard) (f : FmtR)  -- R115
  | imul (g : Guard) (f : FmtR)  -- R114
  | imuli (g : Guard) (f : FmtI)  -- R122
  | imulh (g : Guard) (f : FmtR)  -- R114
  | imad (g : Guard) (f : FmtR)  -- R114
  | imin (g : Guard) (f : FmtR)  -- R114
  | imax (g : Guard) (f : FmtR)  -- R114
  | iabs (g : Guard) (f : FmtR)  -- R114
  | isad (g : Guard) (f : FmtR)  -- R114
  | shl (g : Guard) (f : FmtR)  -- R116
  | shr (g : Guard) (f : FmtR)  -- R116
  | sar (g : Guard) (f : FmtR)  -- R116
  | shf (g : Guard) (f : FmtR)  -- R116
  | bitf (g : Guard) (f : FmtR)  -- R117
  | bitfi (g : Guard) (f : FmtI)  -- R117
  | popc (g : Guard) (f : FmtR)  -- R118
  | clz (g : Guard) (f : FmtR)  -- R118
  | brev (g : Guard) (f : FmtR)  -- R118
  | bfe (g : Guard) (f : FmtR)  -- R119
  | bfi (g : Guard) (f : FmtR)  -- R119
  | bswz (g : Guard) (f : FmtR)  -- R120
  | icmp (g : Guard) (f : FmtR)  -- R121
  | icmpi (g : Guard) (f : FmtI)  -- R121
  | sel (g : Guard) (f : FmtR)  -- R122
  | mov (g : Guard) (f : FmtR)  -- R122
  | movi (g : Guard) (f : FmtI)  -- R122
  | lea (g : Guard) (f : FmtR)  -- R122
  | plop (g : Guard) (f : FmtR)  -- R123
  | pmovGet (g : Guard) (f : FmtR)  -- R124
  | pmovSet (g : Guard) (f : FmtR)  -- R124
  | fadd (g : Guard) (f : FmtR)  -- R127
  | fmul (g : Guard) (f : FmtR)  -- R127
  | ffma (g : Guard) (f : FmtR)  -- R127
  | fmin (g : Guard) (f : FmtR)  -- R127
  | fmax (g : Guard) (f : FmtR)  -- R127
  | fcmp (g : Guard) (f : FmtR)  -- R128
  | fclamp (g : Guard) (f : FmtR)  -- R129
  | frnd (g : Guard) (f : FmtR)  -- R127
  | faddi (g : Guard) (f : FmtI)  -- R127
  | fmuli (g : Guard) (f : FmtI)  -- R127
  | padd2 (g : Guard) (f : FmtR)  -- R130
  | pmul2 (g : Guard) (f : FmtR)  -- R130
  | pfma2 (g : Guard) (f : FmtR)  -- R130
  | pmnx2 (g : Guard) (f : FmtR)  -- R130
  | pcmp2 (g : Guard) (f : FmtR)  -- R131
  | bfma2 (g : Guard) (f : FmtR)  -- R130
  | cvt (g : Guard) (f : FmtR)  -- R132
  | f2i (g : Guard) (f : FmtR)  -- R133
  | i2f (g : Guard) (f : FmtR)  -- R133
  | ncvtPack (g : Guard) (f : FmtR)  -- R134
  | ncvtUnpack (g : Guard) (f : FmtR)  -- R134
  | qcvtPack (g : Guard) (f : FmtR)  -- R135
  | qcvtUnpack (g : Guard) (f : FmtR)  -- R135
  | scaleExp (g : Guard) (f : FmtR)  -- R136
  | scaleWord (g : Guard) (f : FmtR)  -- R136
  | scaleWordinv (g : Guard) (f : FmtR)  -- R136
  | rcp (g : Guard) (f : FmtR)  -- R137
  | rsq (g : Guard) (f : FmtR)  -- R137
  | sqrt (g : Guard) (f : FmtR)  -- R137
  | lg2 (g : Guard) (f : FmtR)  -- R137
  | ex2 (g : Guard) (f : FmtR)  -- R137
  | sin (g : Guard) (f : FmtR)  -- R137
  | cos (g : Guard) (f : FmtR)  -- R137
  | tanh (g : Guard) (f : FmtR)  -- R137
  | shfl (g : Guard) (f : FmtR)  -- R140
  | poll (g : Guard) (f : FmtR)  -- R142
  | lead (g : Guard) (f : FmtR)  -- R142
  | ifold (g : Guard) (f : FmtR)  -- R143
  | ffold (g : Guard) (f : FmtR)  -- R143
  | peers (g : Guard) (f : FmtR)  -- R144
  | qbcast (g : Guard) (f : FmtR)  -- R141
  | prefixOp (g : Guard) (f : FmtR)  -- R143
  | smov (g : Guard) (f : FmtR)  -- R146
  | smovImm (g : Guard) (f : FmtR)  -- R146
  | smovIns (g : Guard) (f : FmtR)  -- R146
  | salu (g : Guard) (f : FmtR)  -- R146
  | scmp (g : Guard) (f : FmtR)  -- R147
  | v2sFirst (g : Guard) (f : FmtR)  -- R148
  | v2sUni (g : Guard) (f : FmtR)  -- R148
  | v2sLane (g : Guard) (f : FmtR)  -- R148
  | sload (g : Guard) (f : FmtM)  -- R149
  | sbra (g : Guard) (f : FmtB)  -- R150
  | slea (g : Guard) (f : FmtR)  -- R146
  | spark (g : Guard) (f : FmtX)  -- R152
  | rmask (g : Guard) (f : FmtX)  -- R153
  | ld (g : Guard) (f : FmtM)  -- R222
  | st (g : Guard) (f : FmtM)  -- R222
  | lds (g : Guard) (f : FmtM)  -- R222
  | sts (g : Guard) (f : FmtM)  -- R222
  | ldc (g : Guard) (f : FmtM)  -- R222
  | ldb (g : Guard) (f : FmtM)  -- R297
  | stb (g : Guard) (f : FmtM)  -- R297
  | ldl (g : Guard) (f : FmtM)  -- R223
  | stl (g : Guard) (f : FmtM)  -- R223
  | pref (g : Guard) (f : FmtM)  -- R224
  | fence (g : Guard) (f : FmtX)  -- R225
  | cinv (g : Guard) (f : FmtX)  -- R226
  | ccln (g : Guard) (f : FmtX)  -- R226
  | atom (g : Guard) (f : FmtM)  -- R228
  | atomc (g : Guard) (f : FmtM)  -- R228
  | atomf (g : Guard) (f : FmtM)  -- R228
  | red (g : Guard) (f : FmtM)  -- R228
  | atoms (g : Guard) (f : FmtM)  -- R228
  | waitc (g : Guard) (f : FmtX)  -- R256
  | mma (g : Guard) (f : FmtT)  -- R162
  | mmas (g : Guard) (f : FmtT)  -- R162
  | zclr (g : Guard) (f : FmtT)  -- R169
  | zrd (g : Guard) (f : FmtT)  -- R171
  | zst (g : Guard) (f : FmtT)  -- R173
  | zld (g : Guard) (f : FmtT)  -- R173
  | tld (g : Guard) (f : FmtT)  -- R174
  | tst (g : Guard) (f : FmtT)  -- R176
  | cpy (g : Guard) (f : FmtX)  -- R232
  | cpyo (g : Guard) (f : FmtX)  -- R232
  | cpys (g : Guard) (f : FmtX)  -- R232
  | cpyg (g : Guard) (f : FmtX)  -- R232
  | fesetFull (g : Guard) (f : FmtX)  -- R243
  | fesetEmpty (g : Guard) (f : FmtX)  -- R243
  | feqry (g : Guard) (f : FmtX)  -- R243
  | evpop (g : Guard) (f : FmtX)  -- R241
  | evpush (g : Guard) (f : FmtX)  -- R242
  | barInit (g : Guard) (f : FmtX)  -- R247
  | barArv (g : Guard) (f : FmtX)  -- R248
  | barWait (g : Guard) (f : FmtX)  -- R249
  | barSync (g : Guard) (f : FmtX)  -- R248
  | barDrop (g : Guard) (f : FmtX)  -- R248
  | barWpar (g : Guard) (f : FmtX)  -- R250
  | barQ (g : Guard) (f : FmtX)  -- R251
  | nprb (g : Guard) (f : FmtX)  -- R262
  | npre (g : Guard) (f : FmtX)  -- R262
  | nprOverrun (d : Nat) (c : Nat) (slot : Nat)  -- R263
  | trd (g : Guard) (f : FmtX)  -- R260
  | twr (g : Guard) (f : FmtX)  -- R260
  | tatm (g : Guard) (f : FmtX)  -- R260
  | enq (g : Guard) (f : FmtX)  -- R288
  | launch (g : Guard) (f : FmtX)  -- R274
  | depdec (g : Guard) (f : FmtX)  -- R289
  | grow (g : Guard) (f : FmtX)  -- R273
  | shrink (g : Guard) (f : FmtX)  -- R273
  | qpop (g : Guard) (f : FmtX)  -- R271
  | qrel (g : Guard) (f : FmtX)  -- R272
  | heat (g : Guard) (f : FmtX)  -- R298
  | srec (g : Guard) (f : FmtM)  -- R363
  | sld (g : Guard) (f : FmtM)  -- R363
  | sldSp (g : Guard) (f : FmtM)  -- R363
  | sbktQ (g : Guard) (f : FmtX)  -- R364
  | sbktLock (g : Guard) (f : FmtX)  -- R364
  | sbktUnlock (g : Guard) (f : FmtX)  -- R364
  | sevtLimit (g : Guard) (f : FmtX)  -- R364
  | sevtAge (g : Guard) (f : FmtX)  -- R364
  | sevtDrop (g : Guard) (f : FmtX)  -- R364
  | prio (g : Guard) (f : FmtX)  -- R365
  | prioW (g : Guard) (f : FmtX)  -- R365
  | emap (g : Guard) (f : FmtX)  -- R365
  | rbox (g : Guard) (f : FmtX)  -- R369
  | rtri (g : Guard) (f : FmtX)  -- R369
  | probe (g : Guard) (f : FmtX)  -- R369
  | reproj (g : Guard) (f : FmtX)  -- R367
  | xeye (g : Guard) (f : FmtX)  -- R367
  | rowq (g : Guard) (f : FmtX)  -- R370
  | roww (g : Guard) (f : FmtX)  -- R371
  | stamp (g : Guard) (f : FmtX)  -- R397
  | trail (g : Guard) (f : FmtX)  -- R397
  | tmark (g : Guard) (f : FmtX)  -- R390
  | perfc (g : Guard) (f : FmtX)  -- R397
  | sysrd (g : Guard) (f : FmtX)  -- R321
  | syswr (g : Guard) (f : FmtX)  -- R321
  | wset (g : Guard) (f : FmtX)  -- R339
  | wclr (g : Guard) (f : FmtX)  -- R339
  | hlist (g : Guard) (f : FmtX)  -- R341
  | hins (g : Guard) (f : FmtX)  -- R342
  | hput (g : Guard) (f : FmtX)  -- R342
  | hstep (g : Guard) (f : FmtX)  -- R343
  | hres (g : Guard) (f : FmtX)  -- R344
  | clauseIssue (d : Nat) (c : Nat) (slot : Nat) (sel : Nat)  -- R82
  | longLatencyComplete (d : Nat) (c : Nat) (slot : Nat) (op : Nat)  -- R90
  | allocationDeadlock (d : Nat) (c : Nat) (part : Nat)  -- R89
  | handlerEntry (d : Nat) (c : Nat) (slot : Nat)  -- R318
  | reportRecordWrite (d : Nat)  -- R195
  | faultReplay (ctx : Nat) (seq : Nat)  -- R197
  | faultDeliver (ctx : Nat) (seq : Nat)  -- R197
  | faultEndTeam (ctx : Nat) (seq : Nat)  -- R197
  | teamTimeLimit (team : Nat)  -- R323
  | tlbiRange (ctx : Nat) (glb : Bool)  -- R190
  | tlbiContext (ctx : Nat) (glb : Bool)  -- R190
  | tlbiAll (glb : Bool)  -- R190
  | tlbiComplete  -- R190
  | columnWriteback (d : Nat) (c : Nat) (line : Nat)  -- R202
  | copyLineFill (copy : Nat) (line : Nat)  -- R236
  | copyLanded (copy : Nat)  -- R237
  | copyPost (copy : Nat)  -- R239
  | laeServeStream (team : Nat)  -- R268
  | monitorWake (mon : Nat)  -- R256
  | monitorRecheck (mon : Nat)  -- R257
  | monitorTimeout (mon : Nat)  -- R257
  | swapOut (team : Nat)  -- R258
  | dieDistributorTake (d : Nat)  -- R283
  | chunkPlace (d : Nat) (cl : Nat)  -- R283
  | clusterSteal (d : Nat) (cl : Nat)  -- R284
  | crossDieSteal (d : Nat)  -- R284
  | distributorPreempt (d : Nat)  -- R287
  | nodeAging (d : Nat) (node : Nat)  -- R280
  | heldNodeEnterPool (d : Nat)  -- R279
  | teamAdmit (team : Nat)  -- R266
  | teamRetire (team : Nat)  -- R101
  | saveRequest (team : Nat) (reason : BitVec 8)  -- R324
  | teamHaltForSave (team : Nat)  -- R324
  | saveImageWrite (team : Nat)  -- R324
  | teamRestore (team : Nat) (d : Nat) (c : Nat)  -- R328
  | ctxCreate (x : Nat)  -- R311
  | ctxAdmit (x : Nat)  -- R311
  | ctxSuspend (x : Nat)  -- R311
  | ctxResume (x : Nat)  -- R311
  | ctxKill (x : Nat)  -- R312
  | ctxFree (x : Nat)  -- R311
  | ctxDestroyed (x : Nat)  -- R311
  | watchHaltLand (d : Nat) (c : Nat) (slot : Nat) (lane : Nat)  -- R332
  | bandPeriodBoundary (d : Nat)  -- R11
  | waveWrite (d : Nat)  -- R349
  | lowWaterMarkSend (d : Nat)  -- R350
  | sampleInsertion (d : Nat)  -- R355
  | bandDeadline (d : Nat)  -- R358
  | waitLimitExpiry (d : Nat)  -- R356
  | xeyeReceive (d : Nat)  -- R367
  | sensorSample (d : Nat) (c : Nat) (u : Nat) (l : Nat)  -- R301
  | sensorRearm (col : Nat)  -- R301
  | powerModelUpdate (d : Nat) (c : Nat) (mw : Nat) (est : Nat)  -- R305
  | powerCapInterval (d : Nat)  -- R307
  | droopAlarmRise (d : Nat) (cl : Nat)  -- R304
  | stretchEnd (d : Nat) (cl : Nat)  -- R304
  | holdEnd (d : Nat) (cl : Nat)  -- R304
  | bermReclaim (d : Nat) (c : Nat)  -- R296
  | junctionTrip (d : Nat)  -- R401
  | culvertTrain  -- R381
  | culvertReset  -- R381
  | culvertTrainingResult (outcome : TrainOutcome)  -- R381
  | culvertLossOfLock  -- R381
  | culvertWaitExpiry (d : Nat) (c : Nat) (slot : Nat)  -- R382
  | timeBaseCompare  -- R386
  | ptmDialog (ns : Word)  -- R387
  | displayEnable (d : Nat)  -- R385
  | displayDisable (d : Nat)  -- R385
  | displayRetrain (d : Nat)  -- R385
  | displayTrainingResult (d : Nat) (ok : Bool)  -- R385
  | displayLinkLoss (d : Nat)  -- R385
  | startOfScan (d : Nat)  -- R383
  | bar2Read (off : Nat) (n : Nat)  -- R375
  | bar2Write (off : Nat) (bytes : List Byte)  -- R375
  | bar2Atomicop (off : Nat) (op : HostAtomic) (a : Word) (b : Word)  -- R375
  | bar4Read (off : Nat)  -- R396
  | inputCommit (seq : Word)  -- R378
  | measExtend  -- R394
  | getQuote (nonce : List Byte) (mask : Byte)  -- R395
  | getCert  -- R395
  | getWindow (off : Nat)  -- R396
  | msixUnmaskSend (vec : Nat)  -- R376
  | tmodeWrite (v : Word)  -- R17
  | sceneEpochWrite (v : Word)  -- R17
  | l2QuotaWrite (slice : Nat) (v : Word)  -- R193
  | drpThrWrite (cl : Nat) (v : Word)  -- R302
  | registerWrite (off : Nat) (size : Nat) (v : Word)  -- R4
  | powerOn (hot0 : Bool) (hot1 : Bool)  -- R399
  | bootReset (hot0 : Bool) (hot1 : Bool)  -- R399
  | functionLevelReset (hot0 : Bool) (hot1 : Bool)  -- R372
  | bootStage1 (rails : Bool) (hot0 : Bool) (hot1 : Bool)  -- R399
  | bootStage2 (ok : Bool)  -- R399
  | bootStage3 (ok0 : Bool) (ok1 : Bool)  -- R399
  | bootStage4  -- R399
  | bootStage5 (ok : Bool)  -- R399
  | bootStage6 (ok : Bool)  -- R399
  | lowWaterMarkArrival (d : Nat)  -- R350
  | droopAlarmClear (d : Nat) (cl : Nat)  -- R304
  | softError (place : ErrPlace) (double : Bool)  -- R329
  | quoteResponse  -- R395
  deriving DecidableEq, Repr

end Sys2Proof
end

