-- ==== Sys2Proof/WellFormed.lean ====
section
/-! DEFINITION. The encoding checks of 03_encoding R67 that depend on the instruction word alone: reserved and unused
fields (R60), type codes, the register namespace (R68), alignment, reuse, `p7` destinations, SPACE, ORDER and SCOPE
(R64). `Instr.rules` states, for every instruction, what its entry in the manual says of its fields; the same table
lists the register operands that the entry reads and writes. -/

namespace Sys2Proof

/-- A trap cause: [7:4] family, [3:0] variant (15_context R314). -/
abbrev Cause := BitVec 8

/-- Engine classes (03_encoding R51). -/
inductive EngineClass where
  | gen | mem | mtx | asy | syn | smp | sys
  deriving DecidableEq, Repr

/-- A register operand of an instruction: the field, how many 32-bit registers it names, whether they are read or
written, which namespace values the entry allows (R68), and its last-read and trap-if-empty bits. -/
structure Operand where
  reg : BitVec 8
  n : Nat := 1
  src : Bool := false
  dst : Bool := false
  v : Bool := true
  s : Bool := false
  h : Bool := false
  sp : Bool := false
  z : Bool := false
  k : Bool := false
  t : Bool := false
  /-- a 64- or 128-bit datum of format M that is a destination: an `s` register is no aligned group (R64) -/
  datum : Bool := false
  deriving DecidableEq, Repr

/-- What an entry says of the fields of one instruction word. -/
structure EncRules where
  /-- order 5: a reserved or unused field or bit has a wrong value, or a sub-operation is undefined -/
  res : Bool := false
  /-- order 6: TYPE, WIDTH, ATYPE or BTYPE holds a code the opcode does not accept -/
  typ : Bool := false
  /-- the register operands, in the order A, B, C, D unless the entry reads another order -/
  ops : List Operand := []
  /-- order 10 -/
  reuse : Bool := false
  /-- order 12 -/
  p7 : Bool := false
  /-- order 13, and checks that an entry gives a cause of its own and that depend on the word alone -/
  late : Option Cause := none
  deriving DecidableEq, Repr

/-! ### Fields of the formats -/

def FmtR.ty (f : FmtR) : BitVec 3 := f.mods.extractLsb' 10 3
def FmtR.rnd (f : FmtR) : BitVec 2 := f.mods.extractLsb' 8 2
def FmtR.sat (f : FmtR) : Bool := f.mods.getLsbD 7
def FmtR.na (f : FmtR) : Bool := f.mods.getLsbD 6
def FmtR.nb (f : FmtR) : Bool := f.mods.getLsbD 5
def FmtR.aa (f : FmtR) : Bool := f.mods.getLsbD 4
def FmtR.sub (f : FmtR) : BitVec 4 := f.mods.extractLsb' 0 4
/-- Predicate fields at [9:7] and [6:4] of the compare layouts (05_group_integer R121). -/
def FmtR.p97 (f : FmtR) : BitVec 3 := f.mods.extractLsb' 7 3
def FmtR.p64 (f : FmtR) : BitVec 3 := f.mods.extractLsb' 4 3
/-- The comparison code at [2:0] (R121). -/
def FmtR.cmp (f : FmtR) : BitVec 3 := f.mods.extractLsb' 0 3
/-- IMM16 at [35:20] of the `SMOV` immediate forms (06_group_float R146). -/
def FmtR.imm16 (f : FmtR) : BitVec 16 := f.b ++ f.c
/-- DTYPE at [3:1] of the conversions (06_group_float R132). -/
def FmtR.dtype (f : FmtR) : BitVec 3 := f.mods.extractLsb' 1 3

/-- A bit and a field of [27:0] of format X. -/
def FmtX.bit (f : FmtX) (i : Nat) : Bool := f.low.getLsbD i
def FmtX.fld (f : FmtX) (lo n : Nat) : BitVec n := f.low.extractLsb' lo n

/-- The atomic operation and the offset of the atomics (03_encoding R64). -/
def FmtM.aop (f : FmtM) : BitVec 4 := f.off.extractLsb' 18 4

/-! ### Operand shapes (R68) -/

/-- A 32-bit source: any namespace value. -/
def src1 (r : BitVec 8) (k t : Bool) : Operand :=
  { reg := r, src := true, s := true, h := true, sp := true, z := true, k := k, t := t }
/-- A 64-bit source: an even pair, an `s` register or 255. -/
def src2 (r : BitVec 8) (k t : Bool) : Operand :=
  { reg := r, n := 2, src := true, s := true, h := true, z := true, k := k, t := t }
/-- `src1` or `src2` by the type's width. -/
def srcW (wide : Bool) (r : BitVec 8) (k t : Bool) : Operand := if wide then src2 r k t else src1 r k t
/-- A group of `n` `v` registers as a source. -/
def srcG (n : Nat) (r : BitVec 8) (k t : Bool) : Operand := { reg := r, n := n, src := true, k := k, t := t }
/-- `srcG` where the entry does not limit the group to `v` registers, so that R68 admits `h` registers in a handler. -/
def srcGH (n : Nat) (r : BitVec 8) (k t : Bool) : Operand := { srcG n r k t with h := true }
/-- A `v` or `s` register, or 255 where `z`, as a source of `n` registers. -/
def srcVS (n : Nat) (z : Bool) (r : BitVec 8) (k t : Bool) : Operand :=
  { reg := r, n := n, src := true, s := true, z := z, k := k, t := t }
/-- An even `v` or `h` pair as a source (15_context R321). -/
def srcVH2 (r : BitVec 8) (k t : Bool) : Operand := { reg := r, n := 2, src := true, h := true, k := k, t := t }
/-- A scalar-pipe source: an `s` or special register or 255 (06_group_float R145). -/
def srcS (r : BitVec 8) (k t : Bool) : Operand :=
  { reg := r, n := 2, src := true, v := false, s := true, sp := true, z := true, k := k, t := t }
/-- A 32-bit and a 64-bit destination. -/
def dst1 (r : BitVec 8) : Operand := { reg := r, dst := true, s := true, h := true, z := true }
def dst2 (r : BitVec 8) : Operand := { reg := r, n := 2, dst := true, s := true, h := true, z := true }
def dstW (wide : Bool) (r : BitVec 8) : Operand := if wide then dst2 r else dst1 r
/-- A destination of a long-latency producer: no `h` register (04_group R96). -/
def dstL (n : Nat) (r : BitVec 8) : Operand := { reg := r, n := n, dst := true, s := true, z := true }
/-- The destination of a load (R64). -/
def dstM (n : Nat) (r : BitVec 8) : Operand := { dstL n r with datum := 1 < n }
/-- A group of `n` registers as a destination of an entry that gives a meaning for `v` registers only; an `s` register fails
order 11 (R68). -/
def dstG (n : Nat) (r : BitVec 8) : Operand := { reg := r, n := n, dst := true, s := true }
/-- `dstG` where the entry admits `h` registers in a handler (R68). -/
def dstGH (n : Nat) (r : BitVec 8) : Operand := { dstG n r with h := true }
/-- A group of `n` `v` registers as a destination; any other fails order 7 (07_tile R161, 10_copy R241, 14_column R298). -/
def dstT (n : Nat) (r : BitVec 8) : Operand := { reg := r, n := n, dst := true }
/-- `dstVH2` where the entry gives any other value, an odd pair too, cause `0x03` (15_context R321). -/
def dstEven (r : BitVec 8) : Operand := { reg := r, n := 2, dst := true, v := !r.getLsbD 0, h := !r.getLsbD 0 }
/-- An even `v` or `h` pair as a destination. -/
def dstVH2 (r : BitVec 8) : Operand := { reg := r, n := 2, dst := true, h := true }
/-- An `s` destination of the scalar pipe. -/
def dstS (r : BitVec 8) : Operand := { reg := r, n := 2, dst := true, v := false, s := true }

/-! ### Unused fields (R60) -/

def FmtR.unA (f : FmtR) : Bool := f.a != 255 || f.ka || f.ta
def FmtR.unB (f : FmtR) : Bool := f.b != 255 || f.kb || f.tb
def FmtR.unC (f : FmtR) : Bool := f.c != 255 || f.kc || f.tc
def FmtR.unD (f : FmtR) : Bool := f.d != 255
def FmtR.oA (f : FmtR) (wide : Bool) : Operand := srcW wide f.a f.ka f.ta
def FmtR.oB (f : FmtR) (wide : Bool) : Operand := srcW wide f.b f.kb f.tb
def FmtR.oC (f : FmtR) (wide : Bool) : Operand := srcW wide f.c f.kc f.tc
/-- RND, NA, NB and AA, which no integer instruction defines (05_group_integer R105). -/
def FmtR.fpBits (f : FmtR) : Bool := f.rnd != 0 || f.na || f.nb || f.aa
/-- i64 and n64 (03_encoding R62). -/
def wideTy (t : BitVec 3) : Bool := t == 2 || t == 3
def FmtX.un (f : FmtX) (d a b : Bool) : Bool := (d && f.d != 255) || (a && f.a != 255) || (b && f.b != 255)
/-- The bits of [27:0] that `mask` names are not all zero. -/
def FmtX.nz (f : FmtX) (mask : BitVec 28) : Bool := f.low &&& mask != 0

/-- Registers of a datum of the given WIDTH (03_encoding R64). -/
def widthRegs (w : BitVec 3) : Nat := if w == 3 then 2 else if w == 4 then 4 else 1

/-- The checks of SPACE, ORDER and SCOPE, in that order (R64). `orders` has bit o set for an allowed ORDER. -/
def memLate (f : FmtM) (space : BitVec 3) (orders : BitVec 4) (maxScope : Nat) : Option Cause :=
  if f.space != space then some 0x44
  else if !(orders.getLsbD f.order.toNat) || (f.order != 0 && f.scope == 0) then some 0x45
  else if maxScope < f.scope.toNat then some 0x46
  else none

/-- `n` registers of a store's datum as a source: a 128-bit one is four registers from a multiple of 4, and any other register is
cause `0x04` (R64). -/
def srcData (w : BitVec 3) (r : BitVec 8) (k : Bool) : Operand :=
  if widthRegs w == 4 then { srcGH 4 r k false with s := true, z := true }
  else if widthRegs w == 2 then src2 r k false else src1 r k false

/-- Rules shared by the integer instructions of two sources (05_group_integer R113). -/
def intRules (f : FmtR) (badTy noSat : Bool) : EncRules :=
  let w := wideTy f.ty
  { res := f.fpBits || f.sub != 0 || f.unC || (noSat && f.sat), typ := badTy,
    ops := [f.oA w, f.oB w, dstW w f.d], reuse := f.ru }

/-- Rules shared by the shifts `SHL`, `SHR` and `SAR` (R116). -/
def shiftRules (f : FmtR) : EncRules :=
  let w := wideTy f.ty
  { res := f.fpBits || f.sat || f.sub.extractLsb' 1 3 != 0 || f.unC, typ := 3 < f.ty.toNat,
    ops := [f.oA w, f.oB false, dstW w f.d], reuse := f.ru }

/-- Rules shared by `POPC`, `CLZ` and `BREV` (R118). -/
def bitRules (f : FmtR) (wideDst : Bool) : EncRules :=
  let w := wideTy f.ty
  { res := f.fpBits || f.sat || f.sub != 0 || f.unB || f.unC, typ := 3 < f.ty.toNat,
    ops := [f.oA w, dstW (w && wideDst) f.d], reuse := f.ru }

/-- Rules shared by the compares of the layout of R121. -/
def cmpRules (f : FmtR) (badTy wide noNum : Bool) : EncRules :=
  { res := f.unD || f.unC || (noNum && 5 < f.cmp.toNat), typ := badTy,
    ops := [f.oA wide, f.oB wide], reuse := f.ru, p7 := f.p97 == 7 }

/-- Rules shared by the fp32 and packed instructions of two sources (06_group_float R127, R130). -/
def fpRules (f : FmtR) (badTy noRnd noSat : Bool) (subMask : BitVec 4) (useC : Bool) : EncRules :=
  { res := (noRnd && f.rnd != 0) || (noSat && f.sat) || f.sub &&& ~~~subMask != 0 || (!useC && f.unC),
    typ := badTy,
    ops := [f.oA false, f.oB false] ++ (if useC then [f.oC false] else []) ++ [dst1 f.d], reuse := f.ru }

/-- Rules shared by the special functions (06_group_float R137). -/
def sfuRules (f : FmtR) (noRnd : Bool) : EncRules :=
  { res := f.unB || f.unC || f.sat || f.sub != 0 || f.nb || (noRnd && f.rnd != 0), typ := 2 < f.ty.toNat,
    ops := [f.oA false, dstL 1 f.d], reuse := f.ru }

/-- Rules shared by the conversions with a RS bit at [5] (06_group_float R132, R133). -/
def rsRules (f : FmtR) (res badTy wideA wideD : Bool) : EncRules :=
  let rs := f.nb
  { res := res || f.mods.getLsbD 0 || (rs && f.rnd != 0) || (!rs && f.unB) || f.unC, typ := badTy,
    ops := [f.oA wideA] ++ (if rs then [f.oB false] else []) ++ [dstW wideD f.d], reuse := f.ru }

/-- Rules shared by the atomics with a result (09_memory R227, R228). `codes` has bit c set for an allowed code. -/
def atomRules (f : FmtM) (space : BitVec 3) (codes : BitVec 16) (maxScope : Nat) (result : Bool) : EncRules :=
  let fp := 11 ≤ f.aop.toNat && f.aop.toNat ≤ 14
  let n := (if f.width == 3 then 2 else 1) * (if f.aop == 15 then 2 else 1)
  let data : Operand :=
    if result then { reg := f.data, n := n, src := true, dst := f.aop != 15, s := true, z := true, datum := f.width == 3 }
    else if n == 2 then src2 f.data f.kdata false else src1 f.data f.kdata false
  let back : List Operand :=
    if result && f.aop == 15 then [{ reg := f.data, n := n / 2, dst := true, s := true, z := true }] else []
  { res := !(codes.getLsbD f.aop.toNat) || (result && f.kdata),
    typ := !(f.width == 2 || (f.width == 3 && !fp)),
    ops := [(if space == 0 then src2 else src1) f.base f.kbase f.tbase, data] ++ back,
    late := memLate f space (if result then 0xF else 0x5) maxScope }

/-- Rules shared by the branches (05_group_integer R106). -/
def branchRules (f : FmtB) (link canU : Bool) (kind : BitVec 2) (useDisp : Bool) : EncRules :=
  let ind := kind == 1
  { res := f.link != link || (!canU && f.u) || f.kind != kind || f.rsv != 0 || (!ind && f.reg != 255)
      || (!useDisp && f.disp != 0),
    ops := if ind then [{ reg := f.reg, n := 2, src := true, s := true, h := true }] else [] }

/-- Rules shared by the barrier instructions (11_barrier R245). -/
def barRules (f : FmtX) (dn : Nat) (tok waits : Bool) : EncRules :=
  { res := f.b != 255 || (dn == 0 && f.d != 255) || (!tok && f.a != 255) || f.nz 0x3FFFF
      || (!waits && f.nz 0xE40000) || (!tok && f.nz 0x180000),
    ops := (if tok then [src1 f.a (f.bit 20) (f.bit 19)] else [])
      ++ (if dn == 1 then [dst1 f.d] else if dn == 2 then [dst2 f.d] else []) }

/-- Rules shared by the copies (10_copy R231). The entry reads only some registers of the B group, so the group is
checked here and read by the entry. -/
def copyRules (f : FmtX) : EncRules :=
  { res := f.nz 0xFFF,
    ops := [srcVS 1 false f.d (f.bit 17) (f.bit 16), srcVS 2 false f.a (f.bit 15) (f.bit 14),
            { reg := f.b, n := 8, k := f.bit 13, t := f.bit 12 }] }

/-- Rules shared by the MTX instructions: the B address field of `n` registers (07_tile R158, R161). -/
def tileB (f : FmtT) (n : Nat) : Operand := srcVS n false f.b false false

/-- What the entry of each instruction says of its fields; a step that is no instruction word has no fields. -/
def Instr.rules : Instr → EncRules
  -- control (05_group_integer R106-R112, 15_context R319, R320, 16_watch R338)
  | .nop _ f => { res := f.d != 0 || f.a != 0 || f.b != 0 || f.low != 0 }
  | .bra _ f => branchRules f false true 0 true
  | .brx _ f => branchRules f false true 1 false
  | .call _ f => branchRules f true false 0 true
  | .callIndirect _ f => branchRules f true false 1 false
  | .ret _ f => branchRules f false false 2 false
  | .exit _ f => { res := f.un true true true || f.low != 0 }
  | .yield _ f => { res := f.un true true true || f.nz 0xFFF0000 }
  | .conv _ f => { res := f.un true true true || f.low != 0 }
  | .trap _ f => { res := f.un true false true || f.nz 0xFFFFFE0, ops := [srcVS 1 true f.a (f.bit 4) (f.bit 3)] }
  | .bkpt _ f => { res := f.un true true true || f.nz 0xFF80000 || f.fld 16 3 == 0 || 4 < (f.fld 16 3).toNat }
  | .tret _ f => { res := f.un true true true || f.nz 0xFFFFFFE }
  -- integer (05_group_integer R113-R124)
  | .iadd _ f => intRules f false false
  | .iaddi _ f => { ops := [srcW (f.md.getLsbD 0) f.a f.ka f.ta, dstW (f.md.getLsbD 0) f.d] }
  | .isub _ f => intRules f false false
  | .iaddc _ f => { res := f.mods.extractLsb' 0 3 != 0 || f.unC, typ := f.ty != 1,
                    ops := [f.oA false, f.oB false, dst1 f.d], reuse := f.ru }
  | .imul _ f => intRules f false false
  | .imuli _ f => { ops := [srcW (f.md.getLsbD 0) f.a f.ka f.ta, dstW (f.md.getLsbD 0) f.d] }
  | .imulh _ f => intRules f (3 < f.ty.toNat) true
  | .imad _ f =>
    let w := wideTy f.ty
    let wd := f.sub.getLsbD 0
    { res := f.fpBits || f.sub.extractLsb' 1 3 != 0 || (wd && f.sat), typ := if wd then 1 < f.ty.toNat else 3 < f.ty.toNat,
      ops := [f.oA w, f.oB w, f.oC (w || wd), dstW (w || wd) f.d], reuse := f.ru }
  | .imin _ f => intRules f false true
  | .imax _ f => intRules f false true
  | .iabs _ f => { res := f.fpBits || f.sub != 0 || f.unB || f.unC, typ := f.ty.getLsbD 0,
                   ops := [f.oA (wideTy f.ty), dstW (wideTy f.ty) f.d], reuse := f.ru }
  | .isad _ f => { res := f.fpBits || f.sub != 0, typ := wideTy f.ty,
                   ops := [f.oA false, f.oB false, f.oC false, dst1 f.d], reuse := f.ru }
  | .shl _ f => shiftRules f
  | .shr _ f => shiftRules f
  | .sar _ f => shiftRules f
  | .shf _ f => { res := f.fpBits || f.sat || f.sub.extractLsb' 2 2 != 0, typ := 1 < f.ty.toNat,
                  ops := [f.oA false, f.oB false, f.oC false, dst1 f.d], reuse := f.ru }
  | .bitf _ f => { res := f.mods.extractLsb' 0 5 != 0, ops := [f.oA false, f.oB false, f.oC false, dst1 f.d], reuse := f.ru }
  | .bitfi _ f => { ops := [src1 f.a f.ka f.ta, dst1 f.d] }
  | .popc _ f => bitRules f false
  | .clz _ f => bitRules f false
  | .brev _ f => bitRules f true
  | .bfe _ f =>
    let w := wideTy f.ty
    { res := f.fpBits || f.sat || f.sub != 0 || f.unC, typ := 3 < f.ty.toNat,
      ops := [f.oA w, f.oB false, dstW w f.d], reuse := f.ru }
  | .bfi _ f =>
    let w := wideTy f.ty
    { res := f.fpBits || f.sat || f.sub != 0, typ := 3 < f.ty.toNat,
      ops := [f.oA w, f.oB w, f.oC false, dstW w f.d], reuse := f.ru }
  | .bswz _ f => { res := f.fpBits || f.sat || f.sub.extractLsb' 1 3 != 0, typ := f.ty != 1,
                   ops := [f.oA false, f.oB false, f.oC false, dst1 f.d], reuse := f.ru }
  | .icmp _ f => cmpRules f (3 < f.ty.toNat) (wideTy f.ty) true
  | .icmpi _ f => { res := f.d != 255 || f.imm.extractLsb' 30 2 != 0 || 5 < (f.imm.extractLsb' 24 3).toNat,
                    ops := [srcW (f.md.getLsbD 1) f.a f.ka f.ta], p7 := f.imm.extractLsb' 27 3 == 7 }
  | .sel _ f =>
    let w := wideTy f.ty
    { res := f.mods.extractLsb' 7 3 != 0 || f.mods.extractLsb' 0 3 != 0 || f.unC, typ := 3 < f.ty.toNat,
      ops := [f.oA w, f.oB w, dstW w f.d], reuse := f.ru }
  | .mov _ f => { res := f.mods.extractLsb' 0 10 != 0 || f.unB || f.unC, typ := 3 < f.ty.toNat,
                  ops := [f.oA (wideTy f.ty), dstW (wideTy f.ty) f.d], reuse := f.ru }
  | .movi _ f => { res := f.a != 255 || f.ka || f.ta || f.md == 3, ops := [dstW (f.md != 0) f.d] }
  | .lea _ f =>
    let w := !f.mods.getLsbD 8
    { res := f.mods.getLsbD 9 || f.mods.extractLsb' 4 4 != 0 || f.unC, typ := 1 < f.ty.toNat,
      ops := [f.oA w, f.oB false, dstW w f.d], reuse := f.ru }
  | .plop _ f => { res := f.unD || f.unA || f.unB || f.unC, reuse := f.ru, p7 := f.ty == 7 }
  | .pmovGet _ f => { res := f.unA || f.unB || f.unC || f.mods != 0, ops := [dst1 f.d], reuse := f.ru }
  | .pmovSet _ f => { res := f.unD || f.unB || f.unC || f.mods.extractLsb' 11 2 != 0 || f.sub != 1, ops := [f.oA false], reuse := f.ru }
  -- floating point (06_group_float R126-R138)
  | .fadd _ f => fpRules f (f.ty != 0) false false 0 false
  | .fmul _ f => fpRules f (f.ty != 0) false false 0 false
  | .ffma _ f => fpRules f (f.ty != 0) false false 1 true
  | .fmin _ f => fpRules f (f.ty != 0) true true 1 false
  | .fmax _ f => fpRules f (f.ty != 0) true true 1 false
  | .fcmp _ f => cmpRules f (2 < f.ty.toNat) false false
  | .fclamp _ f => fpRules f (f.ty != 0) true true 0 true
  | .frnd _ f => { res := f.sat || f.sub != 0 || f.nb || f.unB || f.unC, typ := f.ty != 0,
                   ops := [f.oA false, dst1 f.d], reuse := f.ru }
  | .faddi _ f => { ops := [src1 f.a f.ka f.ta, dst1 f.d] }
  | .fmuli _ f => { ops := [src1 f.a f.ka f.ta, dst1 f.d] }
  | .padd2 _ f => fpRules f (!(f.ty == 1 || f.ty == 2)) false false 0 false
  | .pmul2 _ f => fpRules f (!(f.ty == 1 || f.ty == 2)) false false 0 false
  | .pfma2 _ f => fpRules f (f.ty != 1) false false 1 true
  | .pmnx2 _ f => fpRules f (!(f.ty == 1 || f.ty == 2)) true true 3 false
  | .pcmp2 _ f => { res := f.unD || f.unC || f.mods.getLsbD 3 || f.p97 == f.p64, typ := !(f.ty == 1 || f.ty == 2),
                    ops := [f.oA false, f.oB false], reuse := f.ru, p7 := f.p97 == 7 }
  | .bfma2 _ f => fpRules f (f.ty != 2) false false 1 true
  | .cvt _ f => rsRules f false (f.ty == 5 || f.ty == 7 || 4 < f.dtype.toNat) (f.ty == 6) false
  | .f2i _ f => { res := f.sat || f.nb || f.mods.getLsbD 0 || f.unB || f.unC, typ := 2 < f.ty.toNat || 3 < f.dtype.toNat,
                  ops := [f.oA false, dstW (wideTy f.dtype) f.d], reuse := f.ru }
  | .i2f _ f => rsRules f (f.na || f.aa) (3 < f.ty.toNat || 4 < f.dtype.toNat) (wideTy f.ty) false
  | .ncvtPack _ f => { res := f.sat || f.nb || f.mods.extractLsb' 0 2 != 0 || f.mods.getLsbD 3, typ := !(f.ty == 3 || f.ty == 4),
                       ops := [f.oA false, f.oB false, f.oC false, dst1 f.d], reuse := f.ru }
  | .ncvtUnpack _ f => { res := f.sat || f.nb || f.unB || f.unC || f.mods.getLsbD 2 || f.rnd != 0 || !f.mods.getLsbD 3,
                         typ := !(f.ty == 3 || f.ty == 4), ops := [f.oA false, dst1 f.d], reuse := f.ru }
  | .qcvtPack _ f => { res := f.sat || f.nb || f.mods.getLsbD 2 || f.mods.getLsbD 3, typ := f.ty != 5,
                       ops := [f.oA false, f.oB false, f.oC false, dst1 f.d], reuse := f.ru }
  | .qcvtUnpack _ f => { res := f.sat || f.nb || f.mods.getLsbD 2 || !f.mods.getLsbD 3 || f.unB || f.unC, typ := f.ty != 5,
                         ops := [f.oA false, dst2 f.d], reuse := f.ru }
  | .scaleExp _ f => { res := f.sub != 0 || f.nb || f.unC, typ := 2 < f.ty.toNat,
                       ops := [f.oA false, f.oB false, dst1 f.d], reuse := f.ru }
  | .scaleWord _ f => { res := f.sub != 1 || f.nb, typ := 2 < f.ty.toNat,
                        ops := [f.oA false, f.oB true, f.oC false, dst1 f.d], reuse := f.ru }
  | .scaleWordinv _ f => { res := f.sub != 2 || f.nb, typ := 2 < f.ty.toNat,
                           ops := [f.oA false, f.oB true, f.oC false, dst1 f.d], reuse := f.ru }
  | .rcp _ f => sfuRules f false
  | .rsq _ f => sfuRules f false
  | .sqrt _ f => sfuRules f false
  | .lg2 _ f => sfuRules f true
  | .ex2 _ f => sfuRules f true
  | .sin _ f => sfuRules f true
  | .cos _ f => sfuRules f true
  | .tanh _ f => sfuRules f true
  -- cross-lane (06_group_float R139-R144)
  | .shfl _ f => { res := f.unC || f.mods.extractLsb' 2 5 != 0, typ := 4 < f.ty.toNat,
                   ops := [f.oA false, f.oB false, dst1 f.d], reuse := f.ru }
  | .poll _ f =>
    let m := f.mods.extractLsb' 0 2 == 3
    { res := f.unA || f.unB || f.unC || f.ty != 0 || f.mods.getLsbD 3 || (!m && f.unD) || (m && f.p97 != 7),
      ops := if m then [dst1 f.d] else [], reuse := f.ru, p7 := !m && f.p97 == 7 }
  | .lead _ f => { res := f.unA || f.unB || f.unC || f.ty != 0 || f.mods.extractLsb' 0 7 != 0 || (f.p97 == 7 && f.d == 255),
                   ops := [dst1 f.d], reuse := f.ru }
  | .ifold _ f => { res := f.fpBits || f.unB || f.unC || 5 < f.sub.toNat || (f.sat && f.sub != 0), typ := 1 < f.ty.toNat,
                    ops := [f.oA false, dst1 f.d], reuse := f.ru }
  | .ffold _ f => { res := f.nb || f.unB || f.unC || 2 < f.sub.toNat || (f.sat && f.sub != 0), typ := f.ty != 0,
                    ops := [f.oA false, dst1 f.d], reuse := f.ru }
  | .peers _ f => { res := f.unB || f.unC || f.mods.extractLsb' 1 6 != 0 || (!f.mods.getLsbD 0 && f.p97 != 7),
                    typ := !(f.ty == 0 || f.ty == 2), ops := [f.oA (f.ty == 2), dst1 f.d], reuse := f.ru }
  | .qbcast _ f => { res := f.unB || f.unC || f.mods.extractLsb' 3 10 != 0, ops := [f.oA false, dst1 f.d], reuse := f.ru }
  | .prefixOp _ f => { res := f.fpBits || f.sat || f.unB || f.unC || f.sub.extractLsb' 1 3 != 0, typ := 1 < f.ty.toNat,
                       ops := [f.oA false, dst1 f.d], reuse := f.ru }
  -- scalar pipe (06_group_float R145-R150)
  | .smov _ f => { res := f.mods != 0 || f.unB || f.unC, ops := [srcS f.a f.ka f.ta, dstS f.d], reuse := f.ru }
  | .smovImm _ f => { res := f.mods != 1 || f.unA || f.kb || f.tb || f.kc || f.tc, ops := [dstS f.d], reuse := f.ru }
  | .smovIns _ f => { res := f.mods != 2 || f.ka || f.ta || f.kb || f.tb || f.kc || f.tc,
                      ops := [srcS f.a f.ka f.ta, dstS f.d], reuse := f.ru }
  | .salu _ f => { res := f.mods.extractLsb' 4 9 != 0 || 12 < f.sub.toNat || f.unC,
                   ops := [srcS f.a f.ka f.ta, srcS f.b f.kb f.tb, dstS f.d], reuse := f.ru }
  | .scmp _ f => { res := f.unD || f.unC || 5 < f.cmp.toNat, typ := !(f.ty == 2 || f.ty == 3),
                   ops := [srcS f.a f.ka f.ta, srcS f.b f.kb f.tb], reuse := f.ru, p7 := f.p97 == 7 }
  | .v2sFirst _ f => { res := f.fpBits || f.sat || f.sub != 0 || f.unB || f.unC, typ := !(f.ty == 0 || f.ty == 2),
                       ops := [{ f.oA (f.ty == 2) with sp := true }, dstS f.d], reuse := f.ru }
  | .v2sUni _ f => { res := f.fpBits || f.sat || f.sub != 1 || f.unB || f.unC, typ := !(f.ty == 0 || f.ty == 2),
                     ops := [{ f.oA (f.ty == 2) with sp := true }, dstS f.d], reuse := f.ru }
  | .v2sLane _ f => { res := f.fpBits || f.sat || f.sub != 2 || f.unC, typ := !(f.ty == 0 || f.ty == 2),
                      ops := [{ f.oA (f.ty == 2) with sp := true }, srcS f.b f.kb f.tb, dstS f.d], reuse := f.ru }
  | .sload _ f => { res := f.kbase || f.tbase || f.kdata, typ := !(f.width == 2 || f.width == 3),
                    ops := [{ srcS f.base false false with sp := false, z := false }, dstS f.data],
                    late := memLate f 0 0x3 6 }
  | .sbra _ f => { res := !f.u || f.link || 1 < f.kind.toNat || f.rsv != 0 || (f.kind == 0 && f.reg != 255)
                     || (f.kind == 1 && f.disp != 0),
                   ops := if f.kind == 1 then [{ reg := f.reg, n := 2, src := true, v := false, s := true }] else [] }
  | .slea _ f => { res := f.mods.extractLsb' 4 9 != 0 || f.unC,
                   ops := [srcS f.a f.ka f.ta, srcS f.b f.kb f.tb, dstS f.d], reuse := f.ru }
  -- sparks (06_group_float R152, R153)
  | .spark _ f =>
    let w := f.fld 6 2
    let wd := f.fld 4 2
    { res := f.b != 255 || f.nz 3 || (w == 1 && wd.getLsbD 0) || (w == 2 && wd != 0), typ := w == 3,
      ops := [srcVS 1 true f.a (f.bit 3) (f.bit 2),
              dstL (if w == 2 then 4 else if w == 1 then 2 else 1) f.d] }
  | .rmask _ f => { res := f.nz 1 || (f.fld 5 3 == 7 && f.d == 255),
                    ops := [src1 f.a (f.bit 4) (f.bit 3), src1 f.b (f.bit 2) (f.bit 1), dst1 f.d] }
  -- memory (09_memory R222-R228, 14_column R297)
  | .ld _ f => { res := f.kdata, typ := f.width == 7,
                 ops := [src2 f.base f.kbase f.tbase, dstM (widthRegs f.width) f.data], late := memLate f 0 0x3 6 }
  | .st _ f => { typ := f.width == 7,
                 ops := [src2 f.base f.kbase f.tbase, srcData f.width f.data f.kdata], late := memLate f 0 0x5 6 }
  | .lds _ f => { res := f.kdata, typ := f.width == 7,
                  ops := [src1 f.base f.kbase f.tbase, dstM (widthRegs f.width) f.data], late := memLate f 1 0x3 3 }
  | .sts _ f => { typ := f.width == 7,
                  ops := [src1 f.base f.kbase f.tbase, srcData f.width f.data f.kdata], late := memLate f 1 0x5 3 }
  | .ldc _ f => { res := f.kdata, typ := f.width == 7,
                  ops := [src1 f.base f.kbase f.tbase, dstM (widthRegs f.width) f.data], late := memLate f 3 0x1 0 }
  | .ldb _ f => { res := f.kdata, typ := f.width == 7,
                  ops := [src1 f.base f.kbase f.tbase, dstM (widthRegs f.width) f.data], late := memLate f 2 0x3 2 }
  | .stb _ f => { typ := f.width == 7,
                  ops := [src1 f.base f.kbase f.tbase, srcData f.width f.data f.kdata], late := memLate f 2 0x5 2 }
  | .ldl _ f => { res := f.kdata, typ := f.width != 2,
                  ops := [src2 f.base f.kbase f.tbase, dstL 1 f.data], late := memLate f 0 0x3 6 }
  | .stl _ f => { typ := f.width != 2,
                  ops := [src2 f.base f.kbase f.tbase, src1 f.data f.kdata false], late := memLate f 0 0x5 6 }
  | .pref _ f => { res := f.data != 255 || f.kdata || f.order != 0 || f.scope != 0, typ := 2 < f.width.toNat,
                   ops := [src2 f.base f.kbase f.tbase], late := if f.space != 0 then some 0x44 else none }
  | .fence _ f => { res := f.un true true true || f.nz 0x7FFFFF,
                    late := if f.fld 26 2 == 3 then some 0x45
                            else if f.fld 23 3 == 0 || f.fld 23 3 == 7 then some 0x46 else none }
  | .cinv _ f => { res := f.un true true true || f.low != 0 }
  | .ccln _ f => { res := f.un true true true || f.low != 0 }
  | .atom _ f => atomRules f 0 0x07FF 6 true
  | .atomc _ f => atomRules f 0 0x8000 6 true
  | .atomf _ f => atomRules f 0 0x7800 6 true
  | .red _ f => atomRules f 0 0x7FFF 6 false
  | .atoms _ f => atomRules f 1 0xFFFF 3 true
  | .waitc _ f => { res := f.nz 0x7FF || 4 < (f.fld 25 3).toNat || (f.bit 15 && f.d != 255),
                    ops := [src2 f.a (f.bit 14) (f.bit 13), srcW (f.bit 20) f.b (f.bit 12) (f.bit 11), dst1 f.d],
                    late := if f.bit 15 && f.bit 21 then some 0x45
                            else if f.fld 22 3 == 0 || f.fld 22 3 == 7 then some 0x84 else none }
  -- tile (07_tile R161)
  | .mma _ f => { res := f.s != 255, typ := 4 < f.atype.toNat || 4 < f.btype.toNat,
                  ops := [srcG 8 f.a f.ka false, tileB f 1] }
  | .mmas _ f => { typ := 4 < f.atype.toNat || 4 < f.btype.toNat,
                   ops := [srcG 8 f.a f.ka false, tileB f 1, { srcG 1 f.s false false with z := true }]
                     ++ (if f.atype == 2 then [{ srcG 1 (f.s + 1) false false with z := f.s == 254 }] else []) }
  | .zclr _ f => { res := f.a != 255 || f.b != 255 || f.s != 255 || f.ka || f.atype != 0 || f.btype != 0 || f.tb || f.boff != 0,
                   reuse := f.ru }
  | .zrd _ f =>
    { res := f.b != 255 || f.ka || f.atype != 0 || f.btype != 0 || f.tb || f.boff.extractLsb' 7 9 != 0,
      ops := [{ srcG 1 f.s false false with z := true, src := !f.boff.getLsbD 5, dst := f.boff.getLsbD 5 },
              dstT 8 f.a],
      reuse := f.ru }
  | .zst _ f => { res := f.a != 255 || f.s != 255 || f.ka || f.atype != 0 || f.btype != 0 || f.tb,
                  ops := [tileB f 1], reuse := f.ru }
  | .zld _ f => { res := f.a != 255 || f.s != 255 || f.ka || f.atype != 0 || f.btype != 0,
                  ops := [tileB f 1], reuse := f.ru }
  | .tld _ f => { res := f.z != 0 || (f.s != 255 && (f.atype == 3 || f.atype == 4)) || (f.btype != 0 && f.tb),
                  typ := 4 < f.atype.toNat,
                  ops := [tileB f (if f.btype == 2 then 2 else 1), { dstT 1 f.s with z := true }]
                    ++ (if f.atype == 2 && f.s != 255 then [dstT 1 (f.s + 1)] else []) ++ [dstT 8 f.a],
                  reuse := f.ru, late := if 2 < f.btype.toNat then some 0x44 else none }
  | .tst _ f => { res := f.z != 0 || f.btype != 0 || f.tb, typ := 2 < f.atype.toNat,
                  ops := [srcG 8 f.a f.ka false, tileB f 2, { srcG 1 f.s false false with z := true }], reuse := f.ru }
  -- copy (10_copy R231, R241-R243)
  | .cpy _ f => copyRules f
  | .cpyo _ f => copyRules f
  | .cpys _ f => copyRules f
  | .cpyg _ f => copyRules f
  | .fesetFull _ f => { res := f.d != 255 || f.nz 0x3FFFFF || f.fld 26 2 != 0,
                        ops := [src1 f.a (f.bit 25) (f.bit 24), src1 f.b (f.bit 23) (f.bit 22)] }
  | .fesetEmpty _ f => { res := f.d != 255 || f.nz 0x3FFFFF || f.fld 26 2 != 1,
                         ops := [src1 f.a (f.bit 25) (f.bit 24), src1 f.b (f.bit 23) (f.bit 22)] }
  | .feqry _ f => { res := f.nz 0xC3FFFFF,
                    ops := [src1 f.a (f.bit 25) (f.bit 24), src1 f.b (f.bit 23) (f.bit 22), dst1 f.d] }
  | .evpop _ f => { res := f.un false true true || f.nz 0x1FFFFFF, ops := [dstT 4 f.d], p7 := f.fld 25 3 == 7 }
  | .evpush _ f => { res := f.un true false true || f.nz 0x1FFFFFF, ops := [srcG 4 f.a (f.bit 26) (f.bit 25)] }
  -- barrier, team registers, regions (11_barrier R245, R260, R262)
  | .barInit _ f => barRules f 0 true false
  | .barArv _ f => barRules f 1 false false
  | .barWait _ f => barRules f 1 true true
  | .barSync _ f => barRules f 0 false false
  | .barDrop _ f => barRules f 1 false false
  | .barWpar _ f => barRules f 1 true true
  | .barQ _ f => barRules f 2 false false
  | .nprb _ f => { res := f.un true true true || f.low != 0 }
  | .npre _ f => { res := f.un true true true || f.low != 0 }
  | .nprOverrun .. => {}
  | .trd _ f => { res := f.b != 255 || f.nz 0x3CCFFF || f.nz 0x3000,
                  ops := [src1 f.a (f.bit 17) (f.bit 16), { dst1 f.d with z := false }] }
  | .twr _ f => { res := f.d != 255 || f.nz 0x3C3FFF,
                  ops := [src1 f.a (f.bit 17) (f.bit 16), src1 f.b (f.bit 15) (f.bit 14)] }
  | .tatm _ f =>
    let op := f.fld 18 4
    { res := f.nz 0x3FFF || (10 < op.toNat && op != 15),
      ops := [src1 f.a (f.bit 17) (f.bit 16), srcW (op == 15) f.b (f.bit 15) (f.bit 14), dst1 f.d] }
  -- queue and kernel (13_queue R288, R289, 12_kernel R271-R274, 14_column R298)
  | .enq _ f => { res := f.nz 0x1FFFFF,
                  ops := [src2 f.a (f.bit 27) (f.bit 26), src1 f.b (f.bit 25) (f.bit 24), dst1 f.d] }
  | .launch _ f => { res := f.b != 255 || f.nz 0x3FFFFFF, ops := [src2 f.a (f.bit 27) (f.bit 26), dst1 f.d] }
  | .depdec _ f => { res := f.nz 0xFFFFFF,
                     ops := [src2 f.a (f.bit 27) (f.bit 26), src1 f.b (f.bit 25) (f.bit 24), dst1 f.d] }
  | .grow _ f => { res := f.un true true true || f.nz 0x1FFFF || f.fld 20 8 == 0 }
  | .shrink _ f => { res := f.un true true true || f.nz 0xFFFFF || f.fld 20 8 == 0 }
  | .qpop _ f => { res := f.b != 255 || f.nz 0x1CFFFFF || (f.a != 255 && f.fld 25 3 != 0),
                   ops := [src1 f.a (f.bit 21) (f.bit 20), dstG 4 f.d] }
  | .qrel _ f => { res := f.un true true true || f.nz 0xFFFFF || f.fld 20 5 == 0 || 16 < (f.fld 20 5).toNat }
  | .heat _ f => { res := f.un false true true || f.low != 0, ops := [dstT 2 f.d] }
  -- sample (17_sample R363-R371)
  | .srec _ f => { res := f.base != 255 || f.off != 0 || f.kbase || f.tbase, typ := f.width != 4,
                   ops := [srcG 8 f.data f.kdata false], late := memLate f 4 0x1 0 }
  | .sld _ f => { res := f.kdata, typ := f.width != 4,
                  ops := [src1 f.base f.kbase f.tbase, dstG 8 f.data], late := memLate f 4 0x1 0 }
  | .sldSp _ f => { typ := f.width != 3, ops := [src1 f.base f.kbase f.tbase, srcVS 1 false f.data f.kdata false], late := memLate f 4 0x1 0 }
  | .sbktQ _ f => { res := f.b != 255 || f.nz 0x39FFFFF || f.fld 26 2 != 0,
                    ops := [src1 f.a (f.bit 22) (f.bit 21), dstL 2 f.d] }
  | .sbktLock _ f => { res := f.b != 255 || f.nz 0x1FFFFF || f.fld 26 2 != 1, ops := [src1 f.a (f.bit 22) (f.bit 21), dstL 2 f.d] }
  | .sbktUnlock _ f => { res := f.un true false true || f.nz 0x39FFFFF || f.fld 26 2 != 2, ops := [src1 f.a (f.bit 22) (f.bit 21)] }
  | .sevtLimit _ f => { res := f.d != 255 || f.nz 0x187FFFF || f.fld 26 2 != 0 || (f.bit 25 && f.a != 255),
                        ops := [src1 f.a (f.bit 22) (f.bit 21), src1 f.b (f.bit 20) (f.bit 19)] }
  | .sevtAge _ f => { res := f.d != 255 || f.nz 0x187FFFF || f.fld 26 2 != 1 || (f.bit 25 && f.a != 255),
                      ops := [src1 f.a (f.bit 22) (f.bit 21), src2 f.b (f.bit 20) (f.bit 19)] }
  | .sevtDrop _ f => { res := f.d != 255 || f.nz 0x187FFFF || f.fld 26 2 != 2 || (f.bit 25 && f.a != 255),
                       ops := [src1 f.a (f.bit 22) (f.bit 21), src1 f.b (f.bit 20) (f.bit 19)] }
  | .prio _ f => { res := f.d != 255 || f.nz 0x7FFFF || 2 < (f.fld 25 3).toNat || f.fld 23 2 == 3
                     || (f.fld 25 3 == 2 && f.fld 23 2 != 0),
                   ops := [src1 f.a (f.bit 22) (f.bit 21), src1 f.b (f.bit 20) (f.bit 19)] }
  | .prioW _ f => { res := f.un true true false || f.fld 25 3 != 3 || f.nz 0x7FFFF || f.fld 23 2 != 0 || f.bit 22 || f.bit 21,
                    ops := [src2 f.b (f.bit 20) (f.bit 19)] }
  | .emap _ f => { res := f.d != 255 || f.nz 0xE07FFFF || f.fld 23 2 == 3,
                   ops := [src1 f.a (f.bit 22) (f.bit 21), src1 f.b (f.bit 20) (f.bit 19)] }
  | .rbox _ f => { res := f.nz 0xF0FFFFF,
                   ops := [srcGH 8 f.a (f.bit 23) (f.bit 22), src2 f.b (f.bit 21) (f.bit 20), dstG 8 f.d] }
  | .rtri _ f => { res := f.nz 0xFFFFF,
                   ops := [srcGH 8 f.a (f.bit 23) (f.bit 22), src2 f.b (f.bit 21) (f.bit 20), dstG 4 f.d] }
  | .probe _ f => { res := f.nz 0x10FFFFF,
                    ops := [src1 f.a (f.bit 23) (f.bit 22), src2 f.b (f.bit 21) (f.bit 20), dstG 4 f.d] }
  | .reproj _ f => { res := f.b != 255 || f.nz 0x7FFFFF, ops := [srcGH 8 f.a (f.bit 24) (f.bit 23), dstG 8 f.d],
                     p7 := f.fld 25 3 == 7 }
  | .xeye _ f => { res := f.un true false true || f.nz 0x3FFFFF, ops := [srcGH 8 f.a (f.bit 24) (f.bit 23)],
                   p7 := f.fld 25 3 == 7 }
  | .rowq _ f => { res := f.b != 255 || f.nz 0x3FFFFFF, ops := [src1 f.a (f.bit 27) (f.bit 26), dstGH 4 f.d] }
  | .roww _ f => { res := f.nz 0x3FFFFF,
                   ops := [src1 f.a (f.bit 25) (f.bit 24), src1 f.b (f.bit 23) (f.bit 22), src1 f.d (f.bit 27) (f.bit 26)] }
  -- trail, system, watch (19_trail R390, R397, 15_context R321, 16_watch R339-R344)
  | .stamp _ f => { res := f.un false true true || f.low != 0, ops := [dstVH2 f.d] }
  | .trail _ f => { res := f.un true false true || f.nz 0x3FFFF || !f.bit 27, ops := [srcG 4 f.a (f.bit 19) (f.bit 18)] }
  | .tmark _ f =>
    let r := f.fld 25 3 == 4
    { res := f.d != 255 || f.nz 0x1FFFFF || 4 < (f.fld 25 3).toNat || (!r && (f.b != 255 || f.bit 22 || f.bit 21)),
      ops := [src1 f.a (f.bit 24) (f.bit 23)] ++ (if r then [src2 f.b (f.bit 22) (f.bit 21)] else []) }
  | .perfc _ f => { res := f.un false true true || f.nz 0xFFFF || 13 < (f.fld 16 12).toNat, ops := [dstVH2 f.d] }
  | .sysrd _ f => { res := f.b != 255 || f.nz 0x3FFF, ops := [src1 f.a (f.bit 15) (f.bit 14), dstEven f.d] }
  | .syswr _ f => { res := f.d != 255 || f.nz 0xFFF,
                    ops := [src1 f.a (f.bit 15) (f.bit 14), srcVH2 f.b (f.bit 13) (f.bit 12)] }
  | .wset _ f => { res := f.un true false true || f.nz 0x3FFFFF, ops := [src1 f.a (f.bit 23) (f.bit 22)] }
  | .wclr _ f => { res := f.un true true true || f.nz 0x7FFFFF }
  | .hlist _ f => { res := f.nz 0x1FFFFF, ops := [src1 f.a (f.bit 24) (f.bit 23), src1 f.b (f.bit 22) (f.bit 21), dstGH 4 f.d],
                    p7 := f.fld 25 3 == 7 }
  | .hins _ f => { res := f.b != 255 || f.nz 0x7FF || 8 < (f.fld 16 4).toNat,
                   ops := [src2 f.a (f.bit 12) (f.bit 11), dst2 f.d], p7 := f.fld 13 3 == 7 }
  | .hput _ f => { res := f.d != 255 || f.nz 0x1FF || 8 < (f.fld 16 4).toNat,
                   ops := [src2 f.a (f.bit 12) (f.bit 11), src2 f.b (f.bit 10) (f.bit 9)], p7 := f.fld 13 3 == 7 }
  | .hstep _ f => { res := f.b != 255 || f.nz 0x3FFFFFF, ops := [src2 f.a (f.bit 27) (f.bit 26), dst1 f.d] }
  | .hres _ f => { res := f.un true false true || f.nz 0xFFFFFF || f.fld 26 2 == 3, ops := [src2 f.a (f.bit 25) (f.bit 24)] }
  -- steps that are no instruction words
  | .clauseIssue .. => {}
  | .longLatencyComplete .. => {}
  | .allocationDeadlock .. => {}
  | .handlerEntry .. => {}
  | .reportRecordWrite .. => {}
  | .faultReplay .. => {}
  | .faultDeliver .. => {}
  | .faultEndTeam .. => {}
  | .teamTimeLimit .. => {}
  | .tlbiRange .. => {}
  | .tlbiContext .. => {}
  | .tlbiAll .. => {}
  | .tlbiComplete => {}
  | .columnWriteback .. => {}
  | .copyLineFill .. => {}
  | .copyLanded .. => {}
  | .copyPost .. => {}
  | .laeServeStream .. => {}
  | .monitorWake .. => {}
  | .monitorRecheck .. => {}
  | .monitorTimeout .. => {}
  | .swapOut .. => {}
  | .dieDistributorTake .. => {}
  | .chunkPlace .. => {}
  | .clusterSteal .. => {}
  | .crossDieSteal .. => {}
  | .distributorPreempt .. => {}
  | .nodeAging .. => {}
  | .heldNodeEnterPool .. => {}
  | .teamAdmit .. => {}
  | .teamRetire .. => {}
  | .saveRequest .. => {}
  | .teamHaltForSave .. => {}
  | .saveImageWrite .. => {}
  | .teamRestore .. => {}
  | .ctxCreate .. => {}
  | .ctxAdmit .. => {}
  | .ctxSuspend .. => {}
  | .ctxResume .. => {}
  | .ctxKill .. => {}
  | .ctxFree .. => {}
  | .ctxDestroyed .. => {}
  | .watchHaltLand .. => {}
  | .bandPeriodBoundary .. => {}
  | .waveWrite .. => {}
  | .lowWaterMarkSend .. => {}
  | .sampleInsertion .. => {}
  | .bandDeadline .. => {}
  | .waitLimitExpiry .. => {}
  | .xeyeReceive .. => {}
  | .sensorSample .. => {}
  | .sensorRearm .. => {}
  | .powerModelUpdate .. => {}
  | .powerCapInterval .. => {}
  | .droopAlarmRise .. => {}
  | .stretchEnd .. => {}
  | .holdEnd .. => {}
  | .bermReclaim .. => {}
  | .junctionTrip .. => {}
  | .culvertTrain => {}
  | .culvertReset => {}
  | .culvertTrainingResult .. => {}
  | .culvertLossOfLock => {}
  | .culvertWaitExpiry .. => {}
  | .timeBaseCompare => {}
  | .ptmDialog .. => {}
  | .displayEnable .. => {}
  | .displayDisable .. => {}
  | .displayRetrain .. => {}
  | .displayTrainingResult .. => {}
  | .displayLinkLoss .. => {}
  | .startOfScan .. => {}
  | .bar2Read .. => {}
  | .bar2Write .. => {}
  | .bar2Atomicop .. => {}
  | .bar4Read .. => {}
  | .inputCommit .. => {}
  | .measExtend => {}
  | .getQuote .. => {}
  | .getCert => {}
  | .getWindow .. => {}
  | .msixUnmaskSend .. => {}
  | .tmodeWrite .. => {}
  | .sceneEpochWrite .. => {}
  | .l2QuotaWrite .. => {}
  | .drpThrWrite .. => {}
  | .registerWrite .. => {}
  | .powerOn .. => {}
  | .bootReset .. => {}
  | .functionLevelReset .. => {}
  | .bootStage1 .. => {}
  | .bootStage2 .. => {}
  | .bootStage3 .. => {}
  | .bootStage4 => {}
  | .bootStage5 .. => {}
  | .bootStage6 .. => {}
  | .lowWaterMarkArrival .. => {}
  | .droopAlarmClear .. => {}
  | .softError .. => {}
  | .quoteResponse => {}

/-- OP, guard and [51:0] of an instruction word (03_encoding R59, R71); none for a step that is no word. -/
def Instr.word : Instr → Option (BitVec 8 × Guard × Fmt)
  | .nop g f => some (0x00, g, .x f)
  | .bra g f => some (0x01, g, .b f)
  | .brx g f => some (0x02, g, .b f)
  | .call g f => some (0x03, g, .b f)
  | .callIndirect g f => some (0x03, g, .b f)
  | .ret g f => some (0x04, g, .b f)
  | .exit g f => some (0x05, g, .x f)
  | .yield g f => some (0x06, g, .x f)
  | .conv g f => some (0x07, g, .x f)
  | .trap g f => some (0x08, g, .x f)
  | .bkpt g f => some (0x09, g, .x f)
  | .tret g f => some (0x0A, g, .x f)
  | .iadd g f => some (0x10, g, .r f)
  | .iaddi g f => some (0x11, g, .i f)
  | .isub g f => some (0x12, g, .r f)
  | .iaddc g f => some (0x13, g, .r f)
  | .imul g f => some (0x14, g, .r f)
  | .imuli g f => some (0x15, g, .i f)
  | .imulh g f => some (0x16, g, .r f)
  | .imad g f => some (0x17, g, .r f)
  | .imin g f => some (0x18, g, .r f)
  | .imax g f => some (0x19, g, .r f)
  | .iabs g f => some (0x1A, g, .r f)
  | .isad g f => some (0x1B, g, .r f)
  | .shl g f => some (0x1C, g, .r f)
  | .shr g f => some (0x1D, g, .r f)
  | .sar g f => some (0x1E, g, .r f)
  | .shf g f => some (0x1F, g, .r f)
  | .bitf g f => some (0x20, g, .r f)
  | .bitfi g f => some (0x21, g, .i f)
  | .popc g f => some (0x22, g, .r f)
  | .clz g f => some (0x23, g, .r f)
  | .brev g f => some (0x24, g, .r f)
  | .bfe g f => some (0x25, g, .r f)
  | .bfi g f => some (0x26, g, .r f)
  | .bswz g f => some (0x27, g, .r f)
  | .icmp g f => some (0x28, g, .r f)
  | .icmpi g f => some (0x29, g, .i f)
  | .sel g f => some (0x2A, g, .r f)
  | .mov g f => some (0x2B, g, .r f)
  | .movi g f => some (0x2C, g, .i f)
  | .lea g f => some (0x2D, g, .r f)
  | .plop g f => some (0x2E, g, .r f)
  | .pmovGet g f => some (0x2F, g, .r f)
  | .pmovSet g f => some (0x2F, g, .r f)
  | .fadd g f => some (0x30, g, .r f)
  | .fmul g f => some (0x31, g, .r f)
  | .ffma g f => some (0x32, g, .r f)
  | .fmin g f => some (0x33, g, .r f)
  | .fmax g f => some (0x34, g, .r f)
  | .fcmp g f => some (0x35, g, .r f)
  | .fclamp g f => some (0x36, g, .r f)
  | .frnd g f => some (0x37, g, .r f)
  | .faddi g f => some (0x3E, g, .i f)
  | .fmuli g f => some (0x3F, g, .i f)
  | .padd2 g f => some (0x38, g, .r f)
  | .pmul2 g f => some (0x39, g, .r f)
  | .pfma2 g f => some (0x3A, g, .r f)
  | .pmnx2 g f => some (0x3B, g, .r f)
  | .pcmp2 g f => some (0x3C, g, .r f)
  | .bfma2 g f => some (0x3D, g, .r f)
  | .cvt g f => some (0x40, g, .r f)
  | .f2i g f => some (0x41, g, .r f)
  | .i2f g f => some (0x42, g, .r f)
  | .ncvtPack g f => some (0x43, g, .r f)
  | .ncvtUnpack g f => some (0x43, g, .r f)
  | .qcvtPack g f => some (0x44, g, .r f)
  | .qcvtUnpack g f => some (0x44, g, .r f)
  | .scaleExp g f => some (0x45, g, .r f)
  | .scaleWord g f => some (0x45, g, .r f)
  | .scaleWordinv g f => some (0x45, g, .r f)
  | .rcp g f => some (0x48, g, .r f)
  | .rsq g f => some (0x49, g, .r f)
  | .sqrt g f => some (0x4A, g, .r f)
  | .lg2 g f => some (0x4B, g, .r f)
  | .ex2 g f => some (0x4C, g, .r f)
  | .sin g f => some (0x4D, g, .r f)
  | .cos g f => some (0x4E, g, .r f)
  | .tanh g f => some (0x4F, g, .r f)
  | .shfl g f => some (0x50, g, .r f)
  | .poll g f => some (0x51, g, .r f)
  | .lead g f => some (0x52, g, .r f)
  | .ifold g f => some (0x53, g, .r f)
  | .ffold g f => some (0x54, g, .r f)
  | .peers g f => some (0x55, g, .r f)
  | .qbcast g f => some (0x56, g, .r f)
  | .prefixOp g f => some (0x57, g, .r f)
  | .smov g f => some (0x58, g, .r f)
  | .smovImm g f => some (0x58, g, .r f)
  | .smovIns g f => some (0x58, g, .r f)
  | .salu g f => some (0x59, g, .r f)
  | .scmp g f => some (0x5A, g, .r f)
  | .v2sFirst g f => some (0x5B, g, .r f)
  | .v2sUni g f => some (0x5B, g, .r f)
  | .v2sLane g f => some (0x5B, g, .r f)
  | .sload g f => some (0x5C, g, .m f)
  | .sbra g f => some (0x5D, g, .b f)
  | .slea g f => some (0x5E, g, .r f)
  | .spark g f => some (0xB3, g, .x f)
  | .rmask g f => some (0xB4, g, .x f)
  | .ld g f => some (0x60, g, .m f)
  | .st g f => some (0x61, g, .m f)
  | .lds g f => some (0x62, g, .m f)
  | .sts g f => some (0x63, g, .m f)
  | .ldc g f => some (0x66, g, .m f)
  | .ldb g f => some (0x64, g, .m f)
  | .stb g f => some (0x65, g, .m f)
  | .ldl g f => some (0x67, g, .m f)
  | .stl g f => some (0x68, g, .m f)
  | .pref g f => some (0x69, g, .m f)
  | .fence g f => some (0x6A, g, .x f)
  | .cinv g f => some (0x6B, g, .x f)
  | .ccln g f => some (0x6C, g, .x f)
  | .atom g f => some (0x70, g, .m f)
  | .atomc g f => some (0x71, g, .m f)
  | .atomf g f => some (0x72, g, .m f)
  | .red g f => some (0x73, g, .m f)
  | .atoms g f => some (0x74, g, .m f)
  | .waitc g f => some (0x75, g, .x f)
  | .mma g f => some (0x78, g, .t f)
  | .mmas g f => some (0x79, g, .t f)
  | .zclr g f => some (0x7A, g, .t f)
  | .zrd g f => some (0x7B, g, .t f)
  | .zst g f => some (0x7C, g, .t f)
  | .zld g f => some (0x7D, g, .t f)
  | .tld g f => some (0x7E, g, .t f)
  | .tst g f => some (0x7F, g, .t f)
  | .cpy g f => some (0x80, g, .x f)
  | .cpyo g f => some (0x81, g, .x f)
  | .cpys g f => some (0x82, g, .x f)
  | .cpyg g f => some (0x83, g, .x f)
  | .fesetFull g f => some (0x84, g, .x f)
  | .fesetEmpty g f => some (0x84, g, .x f)
  | .feqry g f => some (0x85, g, .x f)
  | .evpop g f => some (0x86, g, .x f)
  | .evpush g f => some (0x87, g, .x f)
  | .barInit g f => some (0x88, g, .x f)
  | .barArv g f => some (0x89, g, .x f)
  | .barWait g f => some (0x8A, g, .x f)
  | .barSync g f => some (0x8B, g, .x f)
  | .barDrop g f => some (0x8C, g, .x f)
  | .barWpar g f => some (0x8D, g, .x f)
  | .barQ g f => some (0x8E, g, .x f)
  | .nprb g f => some (0x8F, g, .x f)
  | .npre g f => some (0x90, g, .x f)
  | .trd g f => some (0x91, g, .x f)
  | .twr g f => some (0x92, g, .x f)
  | .tatm g f => some (0x93, g, .x f)
  | .enq g f => some (0x98, g, .x f)
  | .launch g f => some (0x99, g, .x f)
  | .depdec g f => some (0x9A, g, .x f)
  | .grow g f => some (0x9B, g, .x f)
  | .shrink g f => some (0x9C, g, .x f)
  | .qpop g f => some (0x9D, g, .x f)
  | .qrel g f => some (0x9E, g, .x f)
  | .heat g f => some (0x9F, g, .x f)
  | .srec g f => some (0xA0, g, .m f)
  | .sld g f => some (0xA1, g, .m f)
  | .sldSp g f => some (0xA1, g, .m f)
  | .sbktQ g f => some (0xA2, g, .x f)
  | .sbktLock g f => some (0xA2, g, .x f)
  | .sbktUnlock g f => some (0xA2, g, .x f)
  | .sevtLimit g f => some (0xA3, g, .x f)
  | .sevtAge g f => some (0xA3, g, .x f)
  | .sevtDrop g f => some (0xA3, g, .x f)
  | .prio g f => some (0xA4, g, .x f)
  | .prioW g f => some (0xA4, g, .x f)
  | .emap g f => some (0xA5, g, .x f)
  | .rbox g f => some (0xA6, g, .x f)
  | .rtri g f => some (0xA7, g, .x f)
  | .probe g f => some (0xA8, g, .x f)
  | .reproj g f => some (0xA9, g, .x f)
  | .xeye g f => some (0xAC, g, .x f)
  | .rowq g f => some (0xAA, g, .x f)
  | .roww g f => some (0xAB, g, .x f)
  | .stamp g f => some (0xB0, g, .x f)
  | .trail g f => some (0xB1, g, .x f)
  | .tmark g f => some (0xB2, g, .x f)
  | .perfc g f => some (0xBE, g, .x f)
  | .sysrd g f => some (0xB5, g, .x f)
  | .syswr g f => some (0xB6, g, .x f)
  | .wset g f => some (0xB7, g, .x f)
  | .wclr g f => some (0xB8, g, .x f)
  | .hlist g f => some (0xBD, g, .x f)
  | .hins g f => some (0xB9, g, .x f)
  | .hput g f => some (0xBA, g, .x f)
  | .hstep g f => some (0xBB, g, .x f)
  | .hres g f => some (0xBC, g, .x f)
  | .nprOverrun .. => none
  | .clauseIssue .. => none
  | .longLatencyComplete .. => none
  | .allocationDeadlock .. => none
  | .handlerEntry .. => none
  | .reportRecordWrite .. => none
  | .faultReplay .. => none
  | .faultDeliver .. => none
  | .faultEndTeam .. => none
  | .teamTimeLimit .. => none
  | .tlbiRange .. => none
  | .tlbiContext .. => none
  | .tlbiAll .. => none
  | .tlbiComplete => none
  | .columnWriteback .. => none
  | .copyLineFill .. => none
  | .copyLanded .. => none
  | .copyPost .. => none
  | .laeServeStream .. => none
  | .monitorWake .. => none
  | .monitorRecheck .. => none
  | .monitorTimeout .. => none
  | .swapOut .. => none
  | .dieDistributorTake .. => none
  | .chunkPlace .. => none
  | .clusterSteal .. => none
  | .crossDieSteal .. => none
  | .distributorPreempt .. => none
  | .nodeAging .. => none
  | .heldNodeEnterPool .. => none
  | .teamAdmit .. => none
  | .teamRetire .. => none
  | .saveRequest .. => none
  | .teamHaltForSave .. => none
  | .saveImageWrite .. => none
  | .teamRestore .. => none
  | .ctxCreate .. => none
  | .ctxAdmit .. => none
  | .ctxSuspend .. => none
  | .ctxResume .. => none
  | .ctxKill .. => none
  | .ctxFree .. => none
  | .ctxDestroyed .. => none
  | .watchHaltLand .. => none
  | .bandPeriodBoundary .. => none
  | .waveWrite .. => none
  | .lowWaterMarkSend .. => none
  | .sampleInsertion .. => none
  | .bandDeadline .. => none
  | .waitLimitExpiry .. => none
  | .xeyeReceive .. => none
  | .sensorSample .. => none
  | .sensorRearm .. => none
  | .powerModelUpdate .. => none
  | .powerCapInterval .. => none
  | .droopAlarmRise .. => none
  | .stretchEnd .. => none
  | .holdEnd .. => none
  | .bermReclaim .. => none
  | .junctionTrip .. => none
  | .culvertTrain => none
  | .culvertReset => none
  | .culvertTrainingResult .. => none
  | .culvertLossOfLock => none
  | .culvertWaitExpiry .. => none
  | .timeBaseCompare => none
  | .ptmDialog .. => none
  | .displayEnable .. => none
  | .displayDisable .. => none
  | .displayRetrain .. => none
  | .displayTrainingResult .. => none
  | .displayLinkLoss .. => none
  | .startOfScan .. => none
  | .bar2Read .. => none
  | .bar2Write .. => none
  | .bar2Atomicop .. => none
  | .bar4Read .. => none
  | .inputCommit .. => none
  | .measExtend => none
  | .getQuote .. => none
  | .getCert => none
  | .getWindow .. => none
  | .msixUnmaskSend .. => none
  | .tmodeWrite .. => none
  | .sceneEpochWrite .. => none
  | .l2QuotaWrite .. => none
  | .drpThrWrite .. => none
  | .registerWrite .. => none
  | .powerOn .. => none
  | .bootReset .. => none
  | .functionLevelReset .. => none
  | .bootStage1 .. => none
  | .bootStage2 .. => none
  | .bootStage3 .. => none
  | .bootStage4 => none
  | .bootStage5 .. => none
  | .bootStage6 .. => none
  | .lowWaterMarkArrival .. => none
  | .droopAlarmClear .. => none
  | .softError .. => none
  | .quoteResponse => none

/-- The engine class of an opcode (R71). -/
def opClass (op : Nat) : EngineClass :=
  if op < 0x60 then .gen else if op < 0x78 then .mem else if op < 0x80 then .mtx else if op < 0x88 then .asy
  else if op < 0xA0 then .syn else if op < 0xB0 then .smp else .sys

/-- CLASS of a clause header as a number (R51). -/
def EngineClass.code : EngineClass → Nat
  | .gen => 0 | .mem => 1 | .mtx => 2 | .asy => 3 | .syn => 4 | .smp => 5 | .sys => 6

/-- `NOP` and the helper set, which may stand in a clause of any class (R57). -/
def helperOp (op : Nat) : Bool := op == 0x00 || op == 0x10 || op == 0x11 || op == 0x2C || op == 0x2D || op == 0x2B

/-- The control instructions (R57). -/
def controlOp (op : Nat) : Bool := (1 ≤ op && op ≤ 0x0A) || op == 0x5D

/-- The scalar-pipe instructions (04_group R84). -/
def scalarOp (op : Nat) : Bool := 0x58 ≤ op && op ≤ 0x5E

/-- The privileged instructions `EVPOP` and `ENQ` (15_context R310). -/
def privilegedOp (op : Nat) : Bool := op == 0x86 || op == 0x98

/-- The MTX instructions, which issue by quarter (04_group R83). -/
def mtxOp (op : Nat) : Bool := 0x78 ≤ op && op ≤ 0x7F

def Instr.op (i : Instr) : Nat := (i.word.map (·.1.toNat)).getD 0
def Instr.guard (i : Instr) : Guard := (i.word.map (·.2.1)).getD ⟨7, false⟩
def Instr.isWord (i : Instr) : Bool := i.word.isSome

/-! ### The register checks of R67, orders 5 and 7 to 11 -/

/-- Kinds of namespace values (R68). -/
inductive RegKind where
  | v | s | h | special | reserved | zero
  deriving DecidableEq, Repr

def regKind (r : BitVec 8) : RegKind :=
  if r.toNat < 192 then .v else if r.toNat < 216 then .s else if r.toNat < 232 then .h
  else if r.toNat < 252 then .special else if r.toNat < 255 then .reserved else .zero

/-- Last-read and trap-if-empty bits have meaning only for `v` registers (R68, last paragraph): cause `0x01`. -/
def Operand.badBits (o : Operand) : Bool := (o.k || o.t) && regKind o.reg != .v

/-- Order 7. -/
def Operand.badName (o : Operand) : Bool :=
  match regKind o.reg with
  | .v => !o.v
  | .s => !o.s
  | .h => !o.h
  | .special => !o.sp || o.dst
  | .reserved => true
  | .zero => !o.z

/-- Order 8: an `s` register is no group of four, and no datum that a load or an atomic returns as a group (R64). -/
def Operand.misaligned (o : Operand) : Bool :=
  ((regKind o.reg == .v || regKind o.reg == .h) && o.reg.toNat % o.n != 0) || (regKind o.reg == .s && (o.datum || o.src && o.n == 4))

/-- Order 9, outside a handler. -/
def Operand.namesH (o : Operand) : Bool := regKind o.reg == .h

/-- Order 11, in an instruction that is not of the scalar pipe. -/
def Operand.writesS (o : Operand) : Bool := o.dst && regKind o.reg == .s

/-- The check of the given order of R67, as far as it depends on the word alone. -/
def Instr.staticCheck (i : Instr) (order : Nat) : Option Cause :=
  let r := i.rules
  match order with
  | 5 => if r.res || r.ops.any Operand.badBits then some 0x01 else none
  | 6 => if r.typ then some 0x02 else none
  | 7 => if r.ops.any Operand.badName then some 0x03 else none
  | 8 => if r.ops.any Operand.misaligned then some 0x04 else none
  | 10 => if r.reuse then some 0x06 else none
  | 11 => if !scalarOp i.op && r.ops.any Operand.writesS then some 0x25 else none
  | 12 => if r.p7 then some 0x26 else none
  | 13 => r.late
  | _ => none

/-- The orders of R67 that depend on the word alone. -/
def staticOrders : List Nat := [5, 6, 7, 8, 10, 11, 12, 13]

/-- The first static check that fails: the reason a decoder rejects the word. -/
def Instr.illFormed (i : Instr) : Option Cause := staticOrders.findSome? i.staticCheck

/-- An instruction word that passes every check of R67 that depends on the word alone. -/
def Instr.wf (i : Instr) : Bool := i.isWord && i.illFormed.isNone

end Sys2Proof
end

