-- ==== Sys2Proof/Decode.lean ====
section
/-! DEFINITION. The decoder of 64-bit instruction words (03_encoding R59-R66, R71), total, which rejects a word by the
cause of R67 that it meets, and the encoder of well-formed instructions, written from the same tables. The steps of the
machine that are no instruction words have no encoding. -/

namespace Sys2Proof

/-! ### The six formats -/

/-- [51:0] of a word as format R (R61). -/
def parseR (w : Word) : FmtR :=
  { d := w.extractLsb' 44 8, a := w.extractLsb' 36 8, b := w.extractLsb' 28 8, c := w.extractLsb' 20 8,
    ka := w.getLsbD 19, kb := w.getLsbD 18, kc := w.getLsbD 17, ta := w.getLsbD 16, tb := w.getLsbD 15,
    tc := w.getLsbD 14, ru := w.getLsbD 13, mods := w.extractLsb' 0 13 }
/-- Format I (R63). -/
def parseI (w : Word) : FmtI :=
  { d := w.extractLsb' 44 8, a := w.extractLsb' 36 8, ka := w.getLsbD 35, ta := w.getLsbD 34,
    md := w.extractLsb' 32 2, imm := w.extractLsb' 0 32 }
/-- Format M (R64). -/
def parseM (w : Word) : FmtM :=
  { data := w.extractLsb' 44 8, base := w.extractLsb' 36 8, kbase := w.getLsbD 35, tbase := w.getLsbD 34,
    kdata := w.getLsbD 33, width := w.extractLsb' 30 3, space := w.extractLsb' 27 3, order := w.extractLsb' 25 2,
    scope := w.extractLsb' 22 3, off := w.extractLsb' 0 22 }
/-- Format B (R65). -/
def parseB (w : Word) : FmtB :=
  { u := w.getLsbD 51, link := w.getLsbD 50, kind := w.extractLsb' 48 2, reg := w.extractLsb' 40 8,
    rsv := w.extractLsb' 32 8, disp := w.extractLsb' 0 32 }
/-- Format T (R66). -/
def parseT (w : Word) : FmtT :=
  { z := w.extractLsb' 49 3, a := w.extractLsb' 41 8, b := w.extractLsb' 33 8, ka := w.getLsbD 32, ru := w.getLsbD 31,
    atype := w.extractLsb' 28 3, btype := w.extractLsb' 25 3, s := w.extractLsb' 17 8, tb := w.getLsbD 16,
    boff := w.extractLsb' 0 16 }
/-- Format X (R66). -/
def parseX (w : Word) : FmtX :=
  { d := w.extractLsb' 44 8, a := w.extractLsb' 36 8, b := w.extractLsb' 28 8, low := w.extractLsb' 0 28 }
/-- The guard (R59). -/
def parseGuard (w : Word) : Guard := { p := w.extractLsb' 53 3, n := w.getLsbD 52 }

/-- One bit. -/
def bit1 (b : Bool) : BitVec 1 := BitVec.ofBool b

/-- [51:0] of a word from its fields. -/
def Fmt.bits : Fmt → BitVec 52
  | .r f => f.d ++ f.a ++ f.b ++ f.c ++ bit1 f.ka ++ bit1 f.kb ++ bit1 f.kc ++ bit1 f.ta ++ bit1 f.tb ++ bit1 f.tc
      ++ bit1 f.ru ++ f.mods
  | .i f => f.d ++ f.a ++ bit1 f.ka ++ bit1 f.ta ++ f.md ++ f.imm
  | .m f => f.data ++ f.base ++ bit1 f.kbase ++ bit1 f.tbase ++ bit1 f.kdata ++ f.width ++ f.space ++ f.order ++ f.scope
      ++ f.off
  | .b f => bit1 f.u ++ bit1 f.link ++ f.kind ++ f.reg ++ f.rsv ++ f.disp
  | .t f => f.z ++ f.a ++ f.b ++ bit1 f.ka ++ bit1 f.ru ++ f.atype ++ f.btype ++ f.s ++ bit1 f.tb ++ f.boff
  | .x f => f.d ++ f.a ++ f.b ++ f.low

/-! ### Words -/

/-- The row of the opcode map for an opcode (R71), with [51:0] read as each of the six formats. Where an opcode has several
rows, the row's selector field decides; a selector value that no row has goes to one of the opcode's rows, whose checks then
refuse it. -/
def rowOf (op : Nat) (g : Guard) (r : FmtR) (i : FmtI) (m : FmtM) (b : FmtB) (t : FmtT) (x : FmtX) : Option Instr :=
  match op with
  | 0x00 => some (.nop g x)
  | 0x01 => some (.bra g b)
  | 0x02 => some (.brx g b)
  | 0x03 => if b.kind == 1#2 then some (.callIndirect g b) else some (.call g b)
  | 0x04 => some (.ret g b)
  | 0x05 => some (.exit g x)
  | 0x06 => some (.yield g x)
  | 0x07 => some (.conv g x)
  | 0x08 => some (.trap g x)
  | 0x09 => some (.bkpt g x)
  | 0x0A => some (.tret g x)
  | 0x10 => some (.iadd g r)
  | 0x11 => some (.iaddi g i)
  | 0x12 => some (.isub g r)
  | 0x13 => some (.iaddc g r)
  | 0x14 => some (.imul g r)
  | 0x15 => some (.imuli g i)
  | 0x16 => some (.imulh g r)
  | 0x17 => some (.imad g r)
  | 0x18 => some (.imin g r)
  | 0x19 => some (.imax g r)
  | 0x1A => some (.iabs g r)
  | 0x1B => some (.isad g r)
  | 0x1C => some (.shl g r)
  | 0x1D => some (.shr g r)
  | 0x1E => some (.sar g r)
  | 0x1F => some (.shf g r)
  | 0x20 => some (.bitf g r)
  | 0x21 => some (.bitfi g i)
  | 0x22 => some (.popc g r)
  | 0x23 => some (.clz g r)
  | 0x24 => some (.brev g r)
  | 0x25 => some (.bfe g r)
  | 0x26 => some (.bfi g r)
  | 0x27 => some (.bswz g r)
  | 0x28 => some (.icmp g r)
  | 0x29 => some (.icmpi g i)
  | 0x2A => some (.sel g r)
  | 0x2B => some (.mov g r)
  | 0x2C => some (.movi g i)
  | 0x2D => some (.lea g r)
  | 0x2E => some (.plop g r)
  | 0x2F => if r.sub == 1#4 then some (.pmovSet g r) else some (.pmovGet g r)
  | 0x30 => some (.fadd g r)
  | 0x31 => some (.fmul g r)
  | 0x32 => some (.ffma g r)
  | 0x33 => some (.fmin g r)
  | 0x34 => some (.fmax g r)
  | 0x35 => some (.fcmp g r)
  | 0x36 => some (.fclamp g r)
  | 0x37 => some (.frnd g r)
  | 0x38 => some (.padd2 g r)
  | 0x39 => some (.pmul2 g r)
  | 0x3A => some (.pfma2 g r)
  | 0x3B => some (.pmnx2 g r)
  | 0x3C => some (.pcmp2 g r)
  | 0x3D => some (.bfma2 g r)
  | 0x3E => some (.faddi g i)
  | 0x3F => some (.fmuli g i)
  | 0x40 => some (.cvt g r)
  | 0x41 => some (.f2i g r)
  | 0x42 => some (.i2f g r)
  | 0x43 => if r.sub.getLsbD 3 then some (.ncvtUnpack g r) else some (.ncvtPack g r)
  | 0x44 => if r.sub.getLsbD 3 then some (.qcvtUnpack g r) else some (.qcvtPack g r)
  | 0x45 => if r.sub == 1#4 then some (.scaleWord g r) else if r.sub == 2#4 then some (.scaleWordinv g r) else some (.scaleExp g r)
  | 0x48 => some (.rcp g r)
  | 0x49 => some (.rsq g r)
  | 0x4A => some (.sqrt g r)
  | 0x4B => some (.lg2 g r)
  | 0x4C => some (.ex2 g r)
  | 0x4D => some (.sin g r)
  | 0x4E => some (.cos g r)
  | 0x4F => some (.tanh g r)
  | 0x50 => some (.shfl g r)
  | 0x51 => some (.poll g r)
  | 0x52 => some (.lead g r)
  | 0x53 => some (.ifold g r)
  | 0x54 => some (.ffold g r)
  | 0x55 => some (.peers g r)
  | 0x56 => some (.qbcast g r)
  | 0x57 => some (.prefixOp g r)
  | 0x58 => if r.sub == 1#4 then some (.smovImm g r) else if r.sub == 2#4 then some (.smovIns g r) else some (.smov g r)
  | 0x59 => some (.salu g r)
  | 0x5A => some (.scmp g r)
  | 0x5B => if r.sub == 1#4 then some (.v2sUni g r) else if r.sub == 2#4 then some (.v2sLane g r) else some (.v2sFirst g r)
  | 0x5C => some (.sload g m)
  | 0x5D => some (.sbra g b)
  | 0x5E => some (.slea g r)
  | 0x60 => some (.ld g m)
  | 0x61 => some (.st g m)
  | 0x62 => some (.lds g m)
  | 0x63 => some (.sts g m)
  | 0x64 => some (.ldb g m)
  | 0x65 => some (.stb g m)
  | 0x66 => some (.ldc g m)
  | 0x67 => some (.ldl g m)
  | 0x68 => some (.stl g m)
  | 0x69 => some (.pref g m)
  | 0x6A => some (.fence g x)
  | 0x6B => some (.cinv g x)
  | 0x6C => some (.ccln g x)
  | 0x70 => some (.atom g m)
  | 0x71 => some (.atomc g m)
  | 0x72 => some (.atomf g m)
  | 0x73 => some (.red g m)
  | 0x74 => some (.atoms g m)
  | 0x75 => some (.waitc g x)
  | 0x78 => some (.mma g t)
  | 0x79 => some (.mmas g t)
  | 0x7A => some (.zclr g t)
  | 0x7B => some (.zrd g t)
  | 0x7C => some (.zst g t)
  | 0x7D => some (.zld g t)
  | 0x7E => some (.tld g t)
  | 0x7F => some (.tst g t)
  | 0x80 => some (.cpy g x)
  | 0x81 => some (.cpyo g x)
  | 0x82 => some (.cpys g x)
  | 0x83 => some (.cpyg g x)
  | 0x84 => if x.fld 26 2 == 1#2 then some (.fesetEmpty g x) else some (.fesetFull g x)
  | 0x85 => some (.feqry g x)
  | 0x86 => some (.evpop g x)
  | 0x87 => some (.evpush g x)
  | 0x88 => some (.barInit g x)
  | 0x89 => some (.barArv g x)
  | 0x8A => some (.barWait g x)
  | 0x8B => some (.barSync g x)
  | 0x8C => some (.barDrop g x)
  | 0x8D => some (.barWpar g x)
  | 0x8E => some (.barQ g x)
  | 0x8F => some (.nprb g x)
  | 0x90 => some (.npre g x)
  | 0x91 => some (.trd g x)
  | 0x92 => some (.twr g x)
  | 0x93 => some (.tatm g x)
  | 0x98 => some (.enq g x)
  | 0x99 => some (.launch g x)
  | 0x9A => some (.depdec g x)
  | 0x9B => some (.grow g x)
  | 0x9C => some (.shrink g x)
  | 0x9D => some (.qpop g x)
  | 0x9E => some (.qrel g x)
  | 0x9F => some (.heat g x)
  | 0xA0 => some (.srec g m)
  | 0xA1 => if m.width == 3#3 then some (.sldSp g m) else some (.sld g m)
  | 0xA2 => if x.fld 26 2 == 1#2 then some (.sbktLock g x) else if x.fld 26 2 == 2#2 then some (.sbktUnlock g x) else some (.sbktQ g x)
  | 0xA3 => if x.fld 26 2 == 1#2 then some (.sevtAge g x) else if x.fld 26 2 == 2#2 then some (.sevtDrop g x) else some (.sevtLimit g x)
  | 0xA4 => if x.fld 25 3 == 3#3 then some (.prioW g x) else some (.prio g x)
  | 0xA5 => some (.emap g x)
  | 0xA6 => some (.rbox g x)
  | 0xA7 => some (.rtri g x)
  | 0xA8 => some (.probe g x)
  | 0xA9 => some (.reproj g x)
  | 0xAA => some (.rowq g x)
  | 0xAB => some (.roww g x)
  | 0xAC => some (.xeye g x)
  | 0xB0 => some (.stamp g x)
  | 0xB1 => some (.trail g x)
  | 0xB2 => some (.tmark g x)
  | 0xB3 => some (.spark g x)
  | 0xB4 => some (.rmask g x)
  | 0xB5 => some (.sysrd g x)
  | 0xB6 => some (.syswr g x)
  | 0xB7 => some (.wset g x)
  | 0xB8 => some (.wclr g x)
  | 0xB9 => some (.hins g x)
  | 0xBA => some (.hput g x)
  | 0xBB => some (.hstep g x)
  | 0xBC => some (.hres g x)
  | 0xBD => some (.hlist g x)
  | 0xBE => some (.perfc g x)
  | _ => none

/-- The instruction that a word names, whatever its fields hold; none when OP is not in the opcode map. -/
def decodeRaw (w : Word) : Option Instr :=
  rowOf (w.extractLsb' 56 8).toNat (parseGuard w) (parseR w) (parseI w) (parseM w) (parseB w) (parseT w) (parseX w)

/-- Why a word is rejected. -/
inductive Reject where
  | illegalOpcode                -- `0x00`: OP is not in the opcode map
  | illFormed (cause : Cause)    -- a static check of R67 fails
  deriving DecidableEq, Repr

/-- The decoder: the instruction of a well-formed word. -/
def decode (w : Word) : Except Reject Instr :=
  match decodeRaw w with
  | none => .error .illegalOpcode
  | some i =>
    match i.illFormed with
    | some c => .error (.illFormed c)
    | none => .ok i

/-- The word of an instruction. -/
def encode (i : Instr) : Option Word :=
  i.word.map fun (op, g, f) => op ++ g.p ++ bit1 g.n ++ f.bits

/-- Eight bytes, lowest address first, as a word (00_scope R2). -/
def wordOfBytes (bs : List Byte) : Word := bs.foldr (fun b w => (w <<< 8) ||| b.setWidth 64) 0

/-- The bytes of a word, lowest address first. -/
def bytesOfWord (w : Word) : List Byte := (List.range 8).map fun k => w.extractLsb' (8 * k) 8

/-- The decoder over memory bytes: an instruction is 8 bytes. -/
def decodeBytes (bs : List Byte) : Option (Instr × List Byte) :=
  if bs.length < 8 then none
  else match decode (wordOfBytes (bs.take 8)) with
    | .ok i => some (i, bs.drop 8)
    | .error _ => none

/-- The host's probe: the instruction whose word has the bits `w`, the bits from `nbits` up being zero. -/
def decodeTableWord (nbits w : Nat) : Option Instr :=
  (decodeBytes (bytesOfWord (BitVec.ofNat 64 (w % (1 <<< nbits))))).map (·.1)

end Sys2Proof
end

