-- ==== Sys2Proof/Machine/SMap.lean ====
section
/-! DEFINITION. Operations over sparse maps, memory cells and lane vectors: lookup, update in canonical form, and the
small list and bit helpers that the rest of the machine uses. -/

namespace Sys2Proof.Machine

namespace SMap

/-- The value at key `k`. -/
def get? {α : Type} (m : SMap α) (k : Nat) : Option α :=
  match m with
  | [] => none
  | (j, v) :: r => if j = k then some v else get? r k

def getD {α : Type} (m : SMap α) (k : Nat) (d : α) : α := (get? m k).getD d

/-- Insert or replace, keeping the keys rising. -/
def set {α : Type} (m : SMap α) (k : Nat) (v : α) : SMap α :=
  match m with
  | [] => [(k, v)]
  | (j, u) :: r => if k < j then (k, v) :: (j, u) :: r else if j = k then (k, v) :: r else (j, u) :: set r k v

def erase {α : Type} (m : SMap α) (k : Nat) : SMap α :=
  match m with
  | [] => []
  | (j, u) :: r => if j = k then r else (j, u) :: erase r k

/-- Set to a value, or remove the entry when the value is the one an absent key reads as. -/
def put {α : Type} [DecidableEq α] (m : SMap α) (dflt : α) (k : Nat) (v : α) : SMap α :=
  if v = dflt then erase m k else set m k v

def has {α : Type} (m : SMap α) (k : Nat) : Bool := (get? m k).isSome

/-- The keys rise strictly. -/
def sorted {α : Type} : SMap α → Bool
  | [] => true
  | [_] => true
  | (j, _) :: (k, v) :: r => decide (j < k) && sorted ((k, v) :: r)

/-- Canonical form: the keys rise strictly and no entry holds what an absent key reads as. -/
def wf {α : Type} [DecidableEq α] (m : SMap α) (dflt : α) : Bool := sorted m && m.all fun p => decide (p.2 ≠ dflt)

end SMap

/-! ### Lanes and masks -/

/-- The 32 lanes, ascending. -/
def laneList : List Nat := List.range 32

def lanes {α : Type} (f : Nat → α) : Lanes α := Vector.ofFn fun i => f i.val
def Lanes.at {α : Type} [Inhabited α] (v : Lanes α) (l : Nat) : α := v.toArray.getD l default
def Lanes.upd {α : Type} (v : Lanes α) (l : Nat) (f : α → α) : Lanes α :=
  Vector.ofFn fun i => if i.val = l then f v[i] else v[i]

/-- The lanes of a mask, ascending. -/
def maskLanes (m : Mask) : List Nat := laneList.filter fun l => m.getLsbD l
/-- The mask of the lanes for which `f` holds. -/
def maskOf (f : Nat → Bool) : Mask := laneList.foldl (fun m l => if f l then m ||| (1#32 <<< l) else m) 0
def laneBit (l : Nat) : Mask := 1#32 <<< l
/-- The lowest lane of a mask. -/
def lowest (m : Mask) : Option Nat := laneList.find? fun l => m.getLsbD l

/-! ### Lists and numbers -/

/-- The first element for which `f` is largest, none for the empty list. -/
def maxOn {α : Type} (f : α → Nat) : List α → Option α
  | [] => none
  | a :: r => match maxOn f r with
    | none => some a
    | some b => if f a < f b then some b else some a

/-- The first element for which `f` is smallest. -/
def minOn {α : Type} (f : α → Nat) : List α → Option α
  | [] => none
  | a :: r => match minOn f r with
    | none => some a
    | some b => if f b < f a then some b else some a

/-- Insert by a key into a list whose keys do not fall. -/
def insertOn {α : Type} (f : α → Nat) (a : α) : List α → List α
  | [] => [a]
  | b :: r => if f a < f b then a :: b :: r else b :: insertOn f a r

def sortOn {α : Type} (f : α → Nat) (l : List α) : List α := l.foldl (fun acc a => insertOn f a acc) []

/-- Bits [lo + n - 1 : lo] of a number. -/
def bitsOf (x lo n : Nat) : Nat := (x >>> lo) % (1 <<< n)
def bitOf (x i : Nat) : Bool := (x >>> i) % 2 == 1
def b2n (b : Bool) : Nat := if b then 1 else 0
/-- The field [lo + n - 1 : lo] of a register replaced. -/
def setBits (w : Word) (lo n v : Nat) : Word :=
  let m : Word := BitVec.ofNat 64 ((1 <<< n) - 1) <<< lo
  (w &&& ~~~m) ||| ((BitVec.ofNat 64 v <<< lo) &&& m)
def fld (w : Word) (lo n : Nat) : Nat := bitsOf w.toNat lo n
/-- A number as a signed value of `n` bits. -/
def signedOf (x n : Nat) : Int := if 2 * (x % (1 <<< n)) < 1 <<< n then Int.ofNat (x % (1 <<< n)) else Int.ofNat (x % (1 <<< n)) - Int.ofNat (1 <<< n)
def ceilDiv (a b : Nat) : Nat := (a + b - 1) / b

/-- Little-endian value of bytes, and the bytes of a value (00_scope R2). -/
def leNat : List Byte → Nat
  | [] => 0
  | b :: r => b.toNat + 256 * leNat r
def leBytes (n v : Nat) : List Byte := (List.range n).map fun k => BitVec.ofNat 8 (v >>> (8 * k))

end Sys2Proof.Machine
end

