-- ==== Sys2Proof/Machine/Num.lean ====
section
/-! DEFINITION. Floating-point values: formats, exact values, decoding, rounding, saturation, NaN rules, q4o pairs, scale
words and the exact sum (02_numbers). Flag bits are those of `FX_FLAGS` (R47). -/

namespace Sys2Proof.Machine

/-- Format exceptions of one lane, laid out as `FX_FLAGS` (R46, R47). -/
abbrev Fx := BitVec 8
def fxInv : Fx := 1
def fxDz : Fx := 2
def fxOvf : Fx := 4
def fxUnf : Fx := 8
def fxSat : Fx := 16
def fxInfr : Fx := 32
def fxOutl : Fx := 64
def fxScmp : Fx := 128
def fxIf (b : Bool) (f : Fx) : Fx := if b then f else 0

/-- The floating-point formats (R21). -/
inductive Fp where
  | f32 | f16 | bf16 | k8e4 | k8e5 | a56
  deriving DecidableEq, Repr

/-- Fraction width, exponent width and bias (R21). -/
def Fp.w : Fp → Nat
  | .f32 => 23 | .f16 => 10 | .bf16 => 7 | .k8e4 => 3 | .k8e5 => 2 | .a56 => 45
def Fp.ew : Fp → Nat
  | .f32 => 8 | .f16 => 5 | .bf16 => 8 | .k8e4 => 4 | .k8e5 => 5 | .a56 => 10
def Fp.bias : Fp → Int
  | .f32 => 127 | .f16 => 15 | .bf16 => 127 | .k8e4 => 7 | .k8e5 => 15 | .a56 => 511
def Fp.emin (f : Fp) : Int := 1 - f.bias
/-- The all-ones exponent field. -/
def Fp.top (f : Fp) : Nat := (1 <<< f.ew) - 1
def Fp.narrow (f : Fp) : Bool := f == .k8e4 || f == .k8e5
/-- The code of the largest finite value: 448 in k8e4, 57,344 in k8e5. -/
def Fp.maxCode (f : Fp) : Nat := if f == .k8e4 then 0x7E else (f.top <<< f.w) - 1
def Fp.signBit (f : Fp) : Nat := f.w + f.ew
def Fp.infCode (f : Fp) : Nat := f.top <<< f.w
/-- The canonical NaN (R22, R28, R40). -/
def Fp.nanCode : Fp → Nat
  | .f32 => 0x7FC00000 | .f16 => 0x7E00 | .bf16 => 0x7FC0 | .k8e4 => 0x7F | .k8e5 => 0x7F | .a56 => 0x7FF00000000000

/-- An exact value: (-1)^neg x m x 2^e, an infinity, or a NaN with its fraction left-aligned to 23 bits. -/
inductive Ex where
  | fin (neg : Bool) (m : Nat) (e : Int)
  | inf (neg : Bool)
  | nan (neg : Bool) (frac : Nat)
  deriving DecidableEq, Repr

def Ex.zero : Ex := .fin false 0 0
def Ex.neg : Ex → Ex
  | .fin n m e => .fin (!n) m e
  | .inf n => .inf (!n)
  | .nan n f => .nan (!n) f
def Ex.abs : Ex → Ex
  | .fin _ m e => .fin false m e
  | .inf _ => .inf false
  | .nan _ f => .nan false f
def Ex.isNan : Ex → Bool
  | .nan .. => true
  | _ => false
def Ex.isNeg : Ex → Bool
  | .fin n _ _ => n | .inf n => n | .nan n _ => n
def Ex.isZero : Ex → Bool
  | .fin _ 0 _ => true
  | _ => false
/-- The most significant fraction bit clear means signalling (R22). -/
def Ex.signalling : Ex → Bool
  | .nan _ f => !bitOf f 22
  | _ => false
/-- AA and then NA or NB, as sign operations (06_group_float R126). -/
def Ex.mods (x : Ex) (aa na : Bool) : Ex :=
  let y := if aa then x.abs else x
  if na then y.neg else y

/-- `Decode` of a code of a format other than q4o (R34), with the infinity-read exception. Of an a56 NaN, whose fraction R40 fits into no
narrower format, the upper 23 bits stand, with the quiet bit set (log entry 86). -/
def decodeFp (f : Fp) (code : Nat) : Ex × Fx :=
  let neg := bitOf code f.signBit
  let e := bitsOf code f.w f.ew
  let fr := bitsOf code 0 f.w
  if f == .k8e4 && e == 15 && fr == 7 then (.nan neg (0x400000 + code % 256), 0)
  else if f == .k8e5 && e == 31 then
    if fr != 0 then (.nan neg (0x400000 + code % 256), 0) else (.fin neg 57344 0, fxInfr)
  else if !f.narrow && e == f.top then
    if fr == 0 then (.inf neg, 0)
    else if f == .a56 then (.nan neg ((fr >>> 22) ||| 0x400000), 0) else (.nan neg (fr <<< (23 - f.w)), 0)
  else if e == 0 then (.fin neg fr (f.emin - f.w), 0)
  else (.fin neg ((1 <<< f.w) + fr) ((e : Int) - f.bias - f.w), 0)

/-- Rounding modes (R35); a stochastic mode carries its 16 drawn bits (R36). -/
inductive RMode where
  | rn | rz | rd | ru
  | rs (r : Nat)
  deriving DecidableEq, Repr

def rmode (code : BitVec 2) : RMode := if code == 0 then .rn else if code == 1 then .rz else if code == 2 then .rd else .ru

/-- Whether the magnitude k + r/d (r < d) of the given sign is rounded up to k + 1. -/
def roundsUp (mode : RMode) (neg : Bool) (k r d : Nat) : Bool :=
  match mode with
  | .rn => d < 2 * r || (2 * r == d && k % 2 == 1)
  | .rz => false
  | .rd => neg && r != 0
  | .ru => !neg && r != 0
  | .rs draw => draw < 65536 * r / d

/-- floor(log2(num / den)) of a positive quotient. -/
def log2Q (num den : Nat) : Int :=
  let a : Int := (Nat.log2 num : Int) - Nat.log2 den
  if a < 0 then (if den ≤ num <<< a.natAbs then a else a - 1)
  else if den <<< a.natAbs ≤ num then a else a - 1

/-- num / den divided by 2^q, as a quotient of naturals. -/
def scaleQ (num den : Nat) (q : Int) : Nat × Nat :=
  if q < 0 then (num <<< q.natAbs, den) else (num, den <<< q.natAbs)

/-- m x 2^e as a quotient. -/
def dyadicQ (m : Nat) (e : Int) : Nat × Nat := scaleQ m 1 (-e)

def signCode (f : Fp) (neg : Bool) (mag : Nat) : Nat := if neg then mag + (1 <<< f.signBit) else mag

/-- The code of the magnitude k x 2^q, where k is at most 2^(w+1) and q at least emin - w. -/
def magCode (f : Fp) (k : Nat) (q : Int) : Nat :=
  let (k, q) := if k == 1 <<< (f.w + 1) then (1 <<< f.w, q + 1) else (k, q)
  if k < 1 <<< f.w then k else ((q + f.w + f.bias).toNat <<< f.w) + (k - (1 <<< f.w))

/-- The result of an overflow by the rounding mode (R37). -/
def overflowCode (f : Fp) (mode : RMode) (neg : Bool) : Nat :=
  let toInf := match mode with
    | .rn => true | .rz => false | .rd => neg | .ru => !neg | .rs _ => false
  signCode f neg (if toInf then f.infCode else f.maxCode)

/-- `Round` of the non-zero value of magnitude num / den (R37), with `Sat` when `sat` is set (R39). -/
def roundQ (f : Fp) (mode : RMode) (sat neg : Bool) (num den : Nat) : Nat × Fx :=
  let ex := log2Q num den
  let q := (if ex < f.emin then f.emin else ex) - f.w
  let (maxM, maxE) := match decodeFp f f.maxCode with
    | (.fin _ m e, _) => (m, e)
    | _ => (0, 0)
  let above := let (n, d) := scaleQ num den maxE; decide (maxM * d < n)
  let stoch := match mode with | .rs _ => true | _ => false
  if stoch && above then
    let (n, d) := scaleQ num den maxE
    let draw := match mode with | .rs r => r | _ => 0
    let code := signCode f neg f.maxCode
    if draw < 65536 * (n - maxM * d) / d then (code, fxSat ||| fxIf (!f.narrow) fxOvf) else (code, 0)
  else
    let (n, d) := scaleQ num den q
    let k := n / d
    let r := n % d
    let k' := if roundsUp mode neg k r d then k + 1 else k
    let mag := magCode f k' q
    if f.narrow then
      if f.maxCode < mag then (signCode f neg f.maxCode, fxSat)
      else (signCode f neg mag, 0)
    else if f.maxCode < mag then
      if sat then (signCode f neg f.maxCode, fxOvf ||| fxSat) else (overflowCode f mode neg, fxOvf)
    else
      let tiny :=
        if stoch then decide (mag < 1 <<< f.w)
        else if f.emin ≤ ex then false
        else if ex < f.emin - 1 then true
        else
          let (n2, d2) := scaleQ num den (ex - f.w)
          let k2 := n2 / d2
          let k3 := if roundsUp mode neg k2 (n2 % d2) d2 then k2 + 1 else k2
          decide (k3 < 1 <<< (f.w + 1))
      (signCode f neg mag, fxIf (r != 0 && tiny) fxUnf)

/-- `ConvertNaN` (R40): the code in the target, and invalid for a signalling source. -/
def convertNan (f : Fp) (neg : Bool) (frac : Nat) : Nat × Fx :=
  let fx := fxIf (!bitOf frac 22) fxInv
  match f with
  | .k8e4 | .k8e5 =>
    let c := frac - 0x400000
    let marked := 0x400000 ≤ frac && c < 256 && (decodeFp f c).1.isNan && bitOf c 7 == neg
    (if marked then c else 0x7F, fx)
  | .a56 => (Fp.a56.nanCode, fx)
  | _ => (signCode f neg (f.infCode + (bitsOf frac (23 - f.w) f.w ||| (1 <<< (f.w - 1)))), fx)

/-- `Round` (R37) of any exact value, with `Sat` when `sat` is set. -/
def roundEx (f : Fp) (mode : RMode) (sat : Bool) : Ex → Nat × Fx
  | .fin neg m e =>
    if m == 0 then (signCode f neg 0, 0) else let (n, d) := dyadicQ m e; roundQ f mode sat neg n d
  | .inf neg =>
    if f.narrow || sat then (signCode f neg f.maxCode, fxSat) else (signCode f neg f.infCode, 0)
  | .nan neg frac => convertNan f neg frac

/-- `Round` of a conversion from a scaled element or an a56 value, with the flush rule of R37. -/
def roundFlush (f : Fp) (mode : RMode) (sat : Bool) (x : Ex) : Nat × Fx :=
  match x with
  | .fin neg m e =>
    let flush := !f.narrow && f != .a56 && m != 0 &&
      (let (n, d) := dyadicQ m e; decide (log2Q n d < f.emin - f.w))
    if flush then (signCode f neg 0, fxUnf) else roundEx f mode sat x
  | _ => roundEx f mode sat x

/-! ### Arithmetic -/

/-- The exact product of two values that are not NaN; none for 0 x infinity. -/
def Ex.mul : Ex → Ex → Option Ex
  | .fin n m e, .fin n' m' e' => some (.fin (n != n') (m * m') (e + e'))
  | .inf n, .fin n' m' _ => if m' == 0 then none else some (.inf (n != n'))
  | .fin n m _, .inf n' => if m == 0 then none else some (.inf (n != n'))
  | .inf n, .inf n' => some (.inf (n != n'))
  | x, _ => some x

/-- The exact sum of two finite dyadic values, signed by IEEE 754-2019 when it is zero. -/
def addFin (down : Bool) (n : Bool) (m : Nat) (e : Int) (n' : Bool) (m' : Nat) (e' : Int) : Ex :=
  let lo := if e ≤ e' then e else e'
  let a := m <<< (e - lo).toNat
  let b := m' <<< (e' - lo).toNat
  if n == n' then .fin n (a + b) lo
  else if a == b then .fin down 0 0
  else if b < a then .fin n (a - b) lo else .fin n' (b - a) lo

/-- The exact sum of two values that are not NaN; none for the difference of infinities. -/
def Ex.add (down : Bool) : Ex → Ex → Option Ex
  | .fin n m e, .fin n' m' e' => some (addFin down n m e n' m' e')
  | .inf n, .inf n' => if n == n' then some (.inf n) else none
  | .inf n, _ => some (.inf n)
  | _, .inf n => some (.inf n)
  | x, _ => some x

/-- The first NaN of the operands, quieted (R22); invalid when any of them is signalling. -/
def nanOf (f : Fp) (xs : List Ex) : Option (Nat × Fx) :=
  match xs.find? Ex.isNan with
  | some (.nan neg frac) =>
    some (signCode f neg (f.infCode + (bitsOf frac (23 - f.w) f.w ||| (1 <<< (f.w - 1)))), fxIf (xs.any Ex.signalling) fxInv)
  | _ => none

/-- The rounded result of an exact operation on operands, none of it meaning an invalid operation. -/
def fpResult (f : Fp) (mode : RMode) (sat : Bool) (ops : List Ex) (x : Option Ex) : Nat × Fx :=
  match nanOf f ops with
  | some r => r
  | none => match x with
    | none => (f.nanCode, fxInv)
    | some y => roundEx f mode sat y

def isDown (m : RMode) : Bool := m == .rd

def fpAdd (f : Fp) (m : RMode) (sat : Bool) (a b : Ex) : Nat × Fx := fpResult f m sat [a, b] (a.add (isDown m) b)
def fpMul (f : Fp) (m : RMode) (sat : Bool) (a b : Ex) : Nat × Fx := fpResult f m sat [a, b] (a.mul b)
/-- One rounding of a x b + c (R45). -/
def fpFma (f : Fp) (m : RMode) (sat : Bool) (a b c : Ex) : Nat × Fx :=
  fpResult f m sat [a, b, c] ((a.mul b).bind fun p => p.add (isDown m) c)

/-- a < b for values that are not NaN; with `signed`, -0 lies below +0 (R127). -/
def Ex.lt (signed : Bool) (a b : Ex) : Bool :=
  match a, b with
  | .inf n, .inf n' => n && !n'
  | .inf n, _ => n
  | _, .inf n' => !n'
  | .fin n m e, .fin n' m' e' =>
    if m == 0 && m' == 0 then signed && n && !n'
    else match addFin false n m e (!n') m' e' with
      | .fin neg d _ => neg && d != 0
      | _ => false
  | _, _ => false

def Ex.eq (a b : Ex) : Bool := !a.isNan && !b.isNan && !a.lt false b && !b.lt false a

/-- `FMIN`, `FMAX` and their `.num` forms (R127), on the operands' own codes. -/
def fpMinMax (f : Fp) (max num : Bool) (ca cb : Nat) (a b : Ex) : Nat × Fx :=
  let fx := fxIf (a.signalling || b.signalling) fxInv
  if a.isNan || b.isNan then
    if num && !a.isNan then (ca, fx) else if num && !b.isNan then (cb, fx)
    else (((nanOf f [a, b]).getD (f.nanCode, 0)).1, fx)
  else if max then (if a.lt true b then cb else ca, 0)
  else (if b.lt true a then cb else ca, 0)

/-- The comparisons of R128 by code, and whether invalid is raised. -/
def fpCompare (cmp : Nat) (a b : Ex) : Bool × Fx :=
  let nan := a.isNan || b.isNan
  let sig := a.signalling || b.signalling
  let ordered := fun (r : Bool) => (!nan && r, fxIf nan fxInv)
  match cmp with
  | 0 => (a.eq b, fxIf sig fxInv)
  | 1 => (!a.eq b, fxIf sig fxInv)
  | 2 => ordered (a.lt false b)
  | 3 => ordered (!b.lt false a)
  | 4 => ordered (b.lt false a)
  | 5 => ordered (!a.lt false b)
  | 6 => (!nan, fxIf sig fxInv)
  | _ => (nan, fxIf sig fxInv)

/-! ### Integers -/

/-- A value of magnitude num / den rounded to an integer. -/
def roundIntQ (mode : RMode) (neg : Bool) (num den : Nat) : Int :=
  let k := num / den
  let k' := if roundsUp mode neg k (num % den) den then k + 1 else k
  if neg then - (k' : Int) else k'

/-- The range of an integer type: width and signedness. -/
def intRange (w : Nat) (sgn : Bool) : Int × Int :=
  if sgn then (- ((1 <<< (w - 1) : Nat) : Int), ((1 <<< (w - 1) : Nat) : Int) - 1) else (0, ((1 <<< w : Nat) : Int) - 1)

/-- `Sat` of an integer (R38): the value and whether it changed. -/
def satInt (w : Nat) (sgn : Bool) (x : Int) : Int × Bool :=
  let (lo, hi) := intRange w sgn
  if x < lo then (lo, true) else if hi < x then (hi, true) else (x, false)

/-- A floating-point value to an integer type (R39), as a w-bit pattern. -/
def toInt (w : Nat) (sgn : Bool) (mode : RMode) (x : Ex) : Nat × Fx :=
  let pat := fun (i : Int) => (i % ((1 <<< w : Nat) : Int)).toNat
  match x with
  | .nan .. => (0, fxInv)
  | .inf neg => let (lo, hi) := intRange w sgn; (pat (if neg then lo else hi), fxSat)
  | .fin neg m e =>
    let (n, d) := dyadicQ m e
    let (y, ch) := satInt w sgn (roundIntQ mode neg n d)
    (pat y, fxIf ch fxSat)

def Ex.ofInt (i : Int) : Ex := .fin (decide (i < 0)) i.natAbs 0

/-! ### q4o (R26, R27) -/

/-- A byte's even and odd elements and the outlier exception. -/
def decodeQ4 (code : Nat) : (Ex × Ex) × Fx :=
  let lo := code % 16
  let hi := code / 16 % 16
  let out := fun (n : Nat) => (decodeFp .k8e4 (n * 16 + 8)).1
  if lo == 8 then ((out hi, .zero), fxOutl)
  else if hi == 8 then ((.zero, out lo), fxOutl)
  else ((.ofInt (signedOf lo 4), .ofInt (signedOf hi 4)), 0)

/-- The magnitudes of the q4o value set above 7 (R27). -/
def q4Big : List Nat := [16, 64, 256]

/-- Step 1 of R27 for one element: sign and magnitude in the value set, and the exceptions. -/
def roundQ4 (mode : RMode) (x : Ex) : (Bool × Nat) × Fx :=
  match x with
  | .nan .. => ((false, 0), fxInv)
  | .inf neg => ((neg, 256), fxSat)
  | .fin neg m e =>
    let (n, d) := dyadicQ m e
    if 256 * d < n then ((neg, 256), fxSat)
    else if n < 7 * d then
      let k := n / d
      ((neg, if roundsUp mode neg k (n % d) d then k + 1 else k), 0)
    else
      let lo := if n < 16 * d then 7 else if n < 64 * d then 16 else if n < 256 * d then 64 else 256
      let hi := if lo == 7 then 16 else if lo == 16 then 64 else 256
      if lo == hi || n == lo * d then ((neg, lo), 0)
      else
        -- r/d' is the fraction of the way from lo to hi
        let r := n - lo * d
        let d' := (hi - lo) * d
        -- a tie goes to the even value: 16 against the odd 7, and otherwise the smaller magnitude
        let up := match mode with
          | .rn => decide (d' < 2 * r) || (2 * r == d' && lo == 7)
          | m => roundsUp m neg 0 r d'
        ((neg, if up then hi else lo), 0)

/-- The neighbour nibble of an outlier (R26). -/
def outlierNibble (neg : Bool) (mag : Nat) : Nat := (if neg then 8 else 0) + (if mag == 16 then 5 else if mag == 64 then 6 else 7)
def nibble (neg : Bool) (mag : Nat) : Nat := if neg then (16 - mag) % 16 else mag

/-- Steps 2 to 4 of R27: the canonical byte of a pair. -/
def encodeQ4 (mode : RMode) (a b : Ex) : Nat × Fx :=
  let ((na, ma), fa) := roundQ4 mode a
  let ((nb, mb), fb) := roundQ4 mode b
  let fx := fa ||| fb
  let oa := 7 < ma
  let ob := 7 < mb
  if !oa && !ob then (nibble na ma + 16 * nibble nb mb, fx)
  else if oa && (!ob || mb ≤ ma) then (8 + 16 * outlierNibble na ma, fx ||| fxIf (mb != 0) fxSat)
  else (outlierNibble nb mb + 16 * 8, fx ||| fxIf (ma != 0) fxSat)

/-! ### Scale words (R30-R33) -/

def scaleE (w : Word) : Nat := fld w 0 8
def scaleRe (w : Word) (i : Nat) : Nat := fld w (8 + 2 * i) 2
def scaleCe (w : Word) (j : Nat) : Nat := fld w (24 + 2 * j) 2
def scaleBad (w : Word) : Bool := fld w 40 24 != 0
/-- E - 127 - re[i] - ce[j]. -/
def scaleExp (w : Word) (i j : Nat) : Int := (scaleE w : Int) - 127 - scaleRe w i - scaleCe w j
/-- The transposed scale word (R32). -/
def scaleT (w : Word) : Word :=
  BitVec.ofNat 64 (scaleE w + (fld w 24 16 <<< 8) + (fld w 8 16 <<< 24) + (fld w 40 24 <<< 40))
def Ex.shift (x : Ex) (k : Int) : Ex :=
  match x with
  | .fin n m e => .fin n m (e + k)
  | y => y

/-! ### The exact sum (R42) -/

/-- A finite term truncated to a multiple of 2^lsb: the signed multiple and whether anything was lost. -/
def truncTerm (lsb : Int) (neg : Bool) (m : Nat) (e : Int) : Int × Bool :=
  let (n, d) := scaleQ (dyadicQ m e).1 (dyadicQ m e).2 lsb
  let k := n / d
  (if neg then - (k : Int) else k, n % d != 0)

/-- `ExactSum` in nearest-even mode: an a56 code and the exceptions. -/
def exactSum (terms : List Ex) : Nat × Fx :=
  if terms.any Ex.isNan then (Fp.a56.nanCode, 0)
  else
    let pinf := terms.any fun t => t == .inf false
    let ninf := terms.any fun t => t == .inf true
    if pinf && ninf then (Fp.a56.nanCode, fxInv)
    else if pinf || ninf then (signCode .a56 ninf Fp.a56.infCode, 0)
    else
      let zeroSum := if terms.all fun t => t.isNeg && t.isZero then signCode .a56 true 0 else 0
      let nz := terms.filter fun t => !t.isZero
      let exps := nz.map fun t => match t with
        | .fin _ m e => (Nat.log2 m : Int) + e
        | _ => 0
      match exps with
      | [] => (zeroSum, 0)
      | x :: r =>
        let emax := r.foldl (fun a b => if a < b then b else a) x
        let lsb := emax - 152
        let (s, sticky) := nz.foldl (fun (acc : Int × Bool) t => match t with
          | .fin neg m e => let (k, st) := truncTerm lsb neg m e; (acc.1 + k, acc.2 || st)
          | _ => acc) ((0 : Int), false)
        if s == 0 then (zeroSum, 0)
        else
          -- the sticky bit stands for a quantity just beyond S in magnitude
          let mag := s.natAbs * (1 <<< 64) + b2n sticky
          roundEx .a56 .rn false (.fin (decide (s < 0)) mag (lsb - 64))

/-! ### Exact functions (06_group_float R137), by fixed point with 512 fraction bits -/

def fixP : Nat := 512
def fixOne : Nat := 1 <<< fixP

/-- floor of the square root, one bit of the result a step, from bit `k` down. -/
def isqrtGo (n : Nat) : Nat → Nat → Nat
  | 0, r => r
  | k + 1, r => let t := r + (1 <<< k); isqrtGo n k (if t * t ≤ n then t else r)
def isqrt (n : Nat) : Nat := isqrtGo n (Nat.log2 n / 2 + 1) 0

/-- The sum of y^k / k! for k from `k` on, in fixed point, `fuel` terms. -/
def expGo (y : Nat) : Nat → Nat → Nat → Nat
  | 0, _, _ => 0
  | fuel + 1, k, term => term + expGo y fuel (k + 1) (term * y / (fixOne * (k + 1)))
def fixExp (y : Nat) : Nat := expGo y 140 0 fixOne

/-- The sum of z^(2k+1) / (2k+1), the inverse hyperbolic tangent, for |z| at most 1/3. -/
def atanhGo (z2 : Nat) : Nat → Nat → Nat → Nat
  | 0, _, _ => 0
  | fuel + 1, k, p => p / (2 * k + 1) + atanhGo z2 fuel (k + 1) (p * z2 / fixOne)
def fixAtanh (z : Nat) : Nat := atanhGo (z * z / fixOne) 340 0 z
def fixLn2 : Nat := 2 * fixAtanh (fixOne / 3)

/-- The inverse tangent of 1/n with 720 fraction bits, for pi. -/
def arccotGo (n2 : Nat) : Nat → Nat → Nat → Bool → Int
  | 0, _, _, _ => 0
  | fuel + 1, k, p, neg =>
    let t : Int := (p / (2 * k + 1) : Nat)
    (if neg then -t else t) + arccotGo n2 fuel (k + 1) (p / n2) (!neg)
def arccot (n : Nat) : Int := arccotGo (n * n) 400 0 ((1 <<< 720) / n) false
/-- pi with 720 fraction bits. -/
def fixPi : Nat := (4 * (4 * arccot 5 - arccot 239)).toNat

/-- sin and cos of y in [0, pi/4] in fixed point: the alternating series from term `k`. -/
def trigGo (y2 : Nat) : Nat → Nat → Nat → Bool → Int
  | 0, _, _, _ => 0
  | fuel + 1, k, term, neg =>
    (if neg then - (term : Int) else term) + trigGo y2 fuel (k + 2) (term * y2 / (fixOne * (k * (k + 1)))) (!neg)
def fixSin (y : Nat) : Nat := (trigGo (y * y / fixOne) 70 2 y false).toNat
def fixCos (y : Nat) : Nat := (trigGo (y * y / fixOne) 70 1 fixOne false).toNat

/-- Round a value known to lie strictly between v and v + 1 in units of 2^-512 x 2^e. -/
def roundFix (f : Fp) (mode : RMode) (neg : Bool) (v : Nat) (e : Int) : Nat × Fx :=
  roundEx f mode false (.fin neg (2 * v + 1) (e - fixP - 1))

/-- x of magnitude m x 2^e in fixed point with `p` fraction bits. -/
def toFix (p m : Nat) (e : Int) : Nat := let s := e + p; if s < 0 then m >>> s.natAbs else m <<< s.natAbs

/-- sin or cos of a finite non-zero magnitude: the sign and the magnitude in fixed point. -/
def trig (cos : Bool) (m : Nat) (e : Int) : Bool × Nat :=
  let x := toFix 720 m e
  let half := fixPi / 2
  let n := x / half
  let r := x % half
  let low := r >>> 208
  let halfL := half >>> 208
  -- fold the remainder into [0, pi/4]
  let big := halfL < 2 * low
  let y := if big then halfL - low else low
  let useCos := Bool.xor (Bool.xor (n % 2 == 1) cos) big
  let v := if useCos then fixCos y else fixSin y
  let quad := n % 4
  let neg := if cos then quad == 1 || quad == 2 else quad == 2 || quad == 3
  (neg, v)

inductive Func where
  | rcp | rsq | sqrt | lg2 | ex2 | sin | cos | tanh
  deriving DecidableEq, Repr

/-- log2 of m x 2^e, m > 0. -/
def fpLg2 (f : Fp) (m : Nat) (e : Int) : Nat × Fx :=
  let k := Nat.log2 m
  let ex : Int := (k : Int) + e
  if m == 1 <<< k then roundEx f .rn false (.ofInt ex)
  else
    -- x = m / 2^k in (1, 2): log2 x = 2 atanh((x - 1) / (x + 1)) / ln 2
    let x := (m <<< fixP) >>> k
    let z := (x - fixOne) * fixOne / (x + fixOne)
    let l : Int := (2 * fixAtanh z * fixOne / fixLn2 : Nat)
    let v := ex * fixOne + l
    if v < 0 then roundFix f .rn true (v.natAbs - 1) 0 else roundFix f .rn false v.toNat 0

/-- 2^x for a finite x = +-m x 2^e. -/
def fpEx2 (f : Fp) (neg : Bool) (m : Nat) (e : Int) : Nat × Fx :=
  if m == 0 then roundEx f .rn false (.ofInt 1)
  else
    let (n, d) := dyadicQ m e
    let q := n / d
    if n % d == 0 then
      let k : Int := if q < 4096 then q else 4096
      roundEx f .rn false (.fin false 1 (if neg then -k else k))
    else if 4096 ≤ q then roundFix f .rn false fixOne (if neg then -4096 else 4096)
    else
      let fr := toFix fixP (n % d) 0 / d
      let (i, g) := if neg then (- (q : Int) - 1, fixOne - fr - 1) else ((q : Int), fr)
      roundFix f .rn false (fixExp (g * fixLn2 / fixOne)) i

def fpTanh (f : Fp) (neg : Bool) (m : Nat) (e : Int) : Nat × Fx :=
  let (n, d) := dyadicQ m e
  if 100 * d ≤ n then roundFix f .rn neg (fixOne - 2) 0
  else
    -- t = exp(2x) - 1 by halving: exp(2x) = exp(2x / 256)^256
    let y := toFix fixP m e / 128
    let ey := fixExp y
    let sq := fun (v : Nat) => v * v / fixOne
    let big := sq (sq (sq (sq (sq (sq (sq (sq ey)))))))
    let small := decide (n * 1024 < d)
    if small then
      -- x - x^3/3 + 2x^5/15 - ... is x less a part below 2^-20 of it: sum the odd series of sinh and cosh
      let x := toFix fixP m e
      let ep := fixExp x
      let sinh2 := ep - fixOne * fixOne / ep
      let cosh2 := ep + fixOne * fixOne / ep
      if e < -60 then roundEx f .rn false (.fin neg (m * (1 <<< 200) - 1) (e - 200))
      else roundFix f .rn neg (sinh2 * fixOne / cosh2) 0
    else roundFix f .rn neg ((big - fixOne) * fixOne / (big + fixOne)) 0

/-- The eight functions (R137) with their special operands (R138). -/
def fpFunc (fn : Func) (f : Fp) (mode : RMode) (x : Ex) : Nat × Fx :=
  let invalid : Nat × Fx := (f.nanCode, fxInv)
  let one := fun (neg : Bool) => roundEx f mode false (.fin neg 1 0)
  let zero := fun (neg : Bool) => (signCode f neg 0, (0 : Fx))
  let inf := fun (neg : Bool) => (signCode f neg f.infCode, (0 : Fx))
  match nanOf f [x] with
  | some r => r
  | none =>
    match x with
    | .nan .. => invalid
    | .inf neg =>
      match fn with
      | .rcp => zero neg
      | .rsq => if neg then invalid else zero false
      | .sqrt | .lg2 => if neg then invalid else inf false
      | .ex2 => if neg then zero false else inf false
      | .tanh => one neg
      | .sin | .cos => invalid
    | .fin neg m e =>
      if m == 0 then
        match fn with
        | .rcp | .rsq => ((inf neg).1, fxDz)
        | .lg2 => ((inf true).1, fxDz)
        | .ex2 | .cos => one false
        | .sqrt | .sin | .tanh => zero neg
      else
        match fn with
        | .rcp => let (n, d) := dyadicQ m e; roundQ f mode false neg d n
        | .rsq =>
          if neg then invalid
          else
            -- 1 / sqrt(n / d) = sqrt(d / n), with 200 extra bits and a sticky bit
            let (n, d) := dyadicQ m e
            let s := 400 + 2 * Nat.log2 n
            let t := (d <<< s) / n
            let r := isqrt t
            let exact := r * r * n == d <<< s
            roundEx f mode false (.fin false (2 * r + b2n (!exact)) (- ((s / 2 : Nat) : Int) - 1))
        | .sqrt =>
          if neg then invalid
          else
            let m' := if e % 2 == 0 then m else 2 * m
            let e' := if e % 2 == 0 then e else e - 1
            let t := m' <<< 400
            let r := isqrt t
            roundEx f mode false (.fin false (2 * r + b2n (r * r != t)) (e' / 2 - 201))
        | .lg2 => if neg then invalid else fpLg2 f m e
        | .ex2 => fpEx2 f neg m e
        | .sin =>
          if e + Nat.log2 m < -60 then roundEx f .rn false (.fin neg (m * (1 <<< 200) - 1) (e - 200))
          else let (n, v) := trig false m e; roundFix f .rn (n != neg) v 0
        | .cos =>
          if e + Nat.log2 m < -60 then roundEx f .rn false (.fin false ((1 <<< 200) - 1) (-200))
          else let (n, v) := trig true m e; roundFix f .rn n v 0
        | .tanh => fpTanh f neg m e

end Sys2Proof.Machine
end

