-- ==== Sys2Proof/Config.lean ====
section
/-! DEFINITION. What an implementation or a part fixes and the values the manual leaves free. A constant without a body
has no value that a proof could use: a statement that mentions one holds for every value of it. -/

namespace Sys2Proof.Config

/-- A free choice: applied to `State.choice`, which every use advances (log entry 8). -/
opaque pick : Nat → Nat
/-- A free truth value (log entry 8): whether a held copy is still held (09_memory R200, 08_page R188), whether an old
or a new instruction word is fetched (03_encoding R58), whether a value of a team register less than 4 cycles old is
seen (11_barrier R261). -/
opaque flip : Nat → Bool
/-- The set of a column cache, and of a home slice, in which a line lies (09_memory R200, log entry 94). -/
opaque colSet : Nat → Nat
opaque sliceSet : Nat → Nat
/-- How often a step that is possible is passed over at most (04_group R102, log entry 95). -/
opaque patience : Nat
/-- The fused body-bias code of cluster `c` (14_column R302, log entry 5). -/
opaque biasCal : Nat → BitVec 8
/-- The digests that the boot ROM, firmware, SCC code and admit program have (19_trail R393), by measurement index. -/
opaque digest : Nat → BitVec 256
/-- The device serial (19_trail R395). -/
opaque serial : Word
/-- The signature that the device identity key makes over a message (19_trail R395), 7,856 bytes: byte `n` of it. -/
opaque signature : List Byte → Nat → Byte
/-- The identity public key and certificate chain (19_trail R395). -/
opaque certificate : List Byte
/-- The value that a location holds in the one place where the manual leaves a result undefined (12_kernel R265). -/
opaque freeByte : Nat → Byte

/-- The depth and weights of `PROBE` for a triangle without area, which the manual does not state (17_sample R369, log entry 8):
result register `k` for a position and a binned record. -/
opaque probeVoid : BitVec 32 → List Byte → Nat → BitVec 32

end Sys2Proof.Config
end

