-- ==== Sys2Proof/Machine/Turn.lean ====
section
/-! DEFINITION. What the machine may do next by itself: the events that it raises, and the turns among which a step chooses (log
entry 1). -/

namespace Sys2Proof.Machine

/-! ### The machine's own events -/

/-- The events of the instruction table that the machine raises by itself, with their operands: those of `Instr` that the lists below
name. Everything else in the table is an instruction word or comes from outside (log entry 1). -/
inductive Own where
  | stretchEnd (d : Nat) (cl : Nat)  -- R304
  | holdEnd (d : Nat) (cl : Nat)  -- R304
  | nprOverrun (d : Nat) (c : Nat) (slot : Nat)  -- R263
  | teamTimeLimit (team : Nat)  -- R323
  | waitLimitExpiry (d : Nat)  -- R356
  | bandDeadline (d : Nat)  -- R358
  | startOfScan (d : Nat)  -- R383
  | bandPeriodBoundary (d : Nat)  -- R11
  | clauseIssue (d : Nat) (c : Nat) (slot : Nat) (sel : Nat)  -- R82
  | longLatencyComplete (d : Nat) (c : Nat) (slot : Nat) (op : Nat)  -- R90
  | handlerEntry (d : Nat) (c : Nat) (slot : Nat)  -- R318
  | watchHaltLand (d : Nat) (c : Nat) (slot : Nat) (lane : Nat)  -- R332
  | culvertWaitExpiry (d : Nat) (c : Nat) (slot : Nat)  -- R382
  | teamAdmit (team : Nat)  -- R266
  | teamRetire (team : Nat)  -- R101
  | teamHaltForSave (team : Nat)  -- R324
  | saveImageWrite (team : Nat)  -- R324
  | swapOut (team : Nat)  -- R258
  | laeServeStream (team : Nat)  -- R268
  | teamRestore (team : Nat) (d : Nat) (c : Nat)  -- R328
  | copyLineFill (copy : Nat) (line : Nat)  -- R236
  | copyLanded (copy : Nat)  -- R237
  | copyPost (copy : Nat)  -- R239
  | monitorWake (mon : Nat)  -- R256
  | monitorRecheck (mon : Nat)  -- R257
  | monitorTimeout (mon : Nat)  -- R257
  | chunkPlace (d : Nat) (cl : Nat)  -- R283
  | clusterSteal (d : Nat) (cl : Nat)  -- R284
  | reportRecordWrite (d : Nat)  -- R195
  | dieDistributorTake (d : Nat)  -- R283
  | heldNodeEnterPool (d : Nat)  -- R279
  | nodeAging (d : Nat) (node : Nat)  -- R280
  | crossDieSteal (d : Nat)  -- R284
  | distributorPreempt (d : Nat)  -- R287
  | bermReclaim (d : Nat) (c : Nat)  -- R296
  | sampleInsertion (d : Nat)  -- R355
  | xeyeReceive (d : Nat)  -- R367
  | lowWaterMarkSend (d : Nat)  -- R350
  | lowWaterMarkArrival (d : Nat)  -- R350
  | waveWrite (d : Nat)  -- R349
  | powerCapInterval (d : Nat)  -- R307
  | displayTrainingResult (d : Nat) (ok : Bool)  -- R385
  | allocationDeadlock (d : Nat) (c : Nat) (part : Nat)  -- R89
  | columnWriteback (d : Nat) (c : Nat) (line : Nat)  -- R202
  | bootStage1 (rails : Bool) (hot0 : Bool) (hot1 : Bool)  -- R399
  | bootStage2 (ok : Bool)  -- R399
  | bootStage3 (ok0 : Bool) (ok1 : Bool)  -- R399
  | bootStage4  -- R399
  | bootStage5 (ok : Bool)  -- R399
  | bootStage6 (ok : Bool)  -- R399
  | tlbiComplete  -- R190
  | culvertTrainingResult (outcome : TrainOutcome)  -- R381
  | timeBaseCompare  -- R386
  | quoteResponse  -- R395
  | msixUnmaskSend (vec : Nat)  -- R376
  | ctxDestroyed (x : Nat)  -- R311
  deriving DecidableEq, Repr

/-- What the machine may do next: issue a word on a partition, take an enabled step, let the admit program process a slot, answer a read
of BAR 0 or a configuration request, or let a cycle pass. -/
inductive Turn where
  | word (pk : Nat)
  | event (o : Own)
  | admission
  | bar0Read
  | config
  | idle
  deriving DecidableEq, Repr

end Sys2Proof.Machine
end

