-- ==== Sys2Proof/Machine/State.lean ====
section
/-! DEFINITION. The state of the N9 as plain data: threads, groups, teams, nodes, contexts, cores, clusters, dies, the
links, memory and the system registers, and the state right after reset. Absent keys of a sparse map read as the value
that the accessor of Machine/Ops.lean names. -/

namespace Sys2Proof.Machine

/-! ### Groups -/

/-- Why an issue group, or a thread at a header, does not go on (04_group R99, R100). -/
inductive Block where
  | operand | allocation | grow | barrier | monitor | sluice | fault | quarter | conv | copies | line | events | pool
  | culvert | regions | report | step
  | clean       -- an ordering whose write-backs wait for the culvert (18_link R382)
  | fetch (sent : Bool)  -- an instruction that waits to be read through the culvert, which has accepted the request or not (18_link R380)
  | lost        -- a request that the culvert had accepted and lost: its threads trap (18_link R382)
  | bucket      -- an `SBKT.lock` of a band node whose bucket is not complete (17_sample R356)
  | header      -- a header whose wait mask or CONV condition is not met
  | watch       -- a collective of which a watch has halted a lane (16_watch R334)
  | anew        -- not blocked: what a clause's first instruction has done for threads that reach its header anew (R56)
  deriving DecidableEq, Repr

/-- A physical entry: the full/empty bit and the 32 lanes (04_group R85, R90). -/
structure Entry where
  full : Bool
  val : Lanes W32
  deriving DecidableEq, Repr

/-- A halt by a watch, `BKPT` or team stop (16_watch R341): cause, predicate index and skid. -/
structure Halt where
  cause : Cause
  pred : Nat
  skid : Nat
  deriving DecidableEq, Repr

/-- A thread (04_group R99). `hdr` and `pos` are its PC while it is in no issue group; position 0 names the header, k > 0
the instruction word at `hdr` + 8 x (k + 1) (03_encoding R56). -/
structure Thread where
  hdr : Word
  pos : Nat
  viaBranch : Bool        -- how the header was reached (R53)
  opMark : Nat            -- operations the group had issued when the header was reached (R54)
  exited : Bool
  inIssue : Bool          -- the thread is in an issue group, running or suspended
  block : Option Block    -- blocked at a header
  halt : Option Halt
  gen : W32               -- halt count (16_watch R340)
  preds : BitVec 7
  waits : Nat             -- wait count (04_group R82)
  hold : Option Nat       -- time to which YIELD holds the thread (05_group_integer R110)
  conv : Bool             -- arrived at a CONV (R111)
  since : Nat             -- time at which it blocked at its header
  deriving DecidableEq, Repr

/-- An issue group (03_encoding R56): its threads, the clause, the next instruction and what that instruction has done
so far. `raised` holds the exceptions of the lanes in `done`, `arr` the lanes that have arrived at a barrier, `was` the lanes whose wait blocked, `tok` their tokens. -/
structure IssueGroup where
  slot : Nat
  mask : Mask
  hdr : Word
  pos : Nat
  cls : Nat
  conv : Bool
  count : Nat
  done : Mask
  raised : Lanes (BitVec 8)
  arr : Mask
  was : Mask
  tok : Lanes W32
  bar : Option (Nat × Bool × Mask)   -- barrier at which it waits, whether it drops, lanes that have still to arrive
  mons : List (Nat × Nat)       -- lane and monitor of a blocked WAITC
  block : Option Block
  since : Nat                   -- time at which it blocked
  sent : Bool                   -- the culvert has accepted what it waits for (18_link R380, R382)
  op : Nat                      -- the number that an accepted request takes among the group's operations (03_encoding R54)
  waited : Nat                  -- ticks in a monitor's wait while no thread of the team was halted (16_watch R335)
  traps : List (Cause × Word)   -- traps to take after the instruction (02_numbers R49, 07_tile R166)
  stepFor : Option Nat          -- it runs one instruction for an HSTEP of this group (16_watch R343)
  stepOf : Option (Nat × Nat)   -- the group and lane that its HSTEP steps
  stepRes : Option Nat          -- the status of that step
  deriving DecidableEq, Repr

/-- A handler frame or a trap that waits for a handler set (15_context R316-R318). -/
structure Frame where
  cause : Cause
  hdr : Word
  pos : Nat
  issue : Mask
  done : Mask
  info : Word
  threads : Lanes Thread
  susp : List IssueGroup
  hset : Nat
  h : SMap (Lanes W32)
  kind : Nat          -- KIND, LVL and LANE of a fault's record (08_page R194)
  lvl : Nat
  lane : Nat
  ig : Option IssueGroup   -- an issue group whose format or accumulator trap waits for its other quarters (07_tile R166)
  deriving DecidableEq, Repr

/-- What a long-latency operation waits for. -/
inductive Pending where
  | ready
  | replies                                           -- SREC and XEYE requests of the operation (17_sample R362)
  | sluice (q : Nat)                                  -- QPOP (12_kernel R271)
  | sld (reads : List (Nat × Nat × Nat))              -- lane, tile, rank
  | sbkt (opc : Nat) (p : Nat) (reads : List (Nat × Nat))  -- lane, tile
  deriving DecidableEq, Repr

/-- The wait-mask class of an operation (03_encoding R54). -/
inductive OpClass where
  | ld | at | mx | sm | rt | other
  deriving DecidableEq, Repr

/-- A long-latency operation in flight (04_group R90): the values it writes when it completes and the entries it fills. -/
structure PendOp where
  id : Nat
  cls : OpClass
  dests : List Nat
  writes : List (Nat × Mask × Lanes W32)
  fx : Lanes (BitVec 8)
  wait : Pending
  mask : Mask
  hdr : Word
  sync : Bool         -- its threads issue nothing more until it completes (02_numbers R49, 16_watch R332)
  watched : List (Nat × List Word)  -- value predicates that were enabled when it issued (16_watch R332)
  deriving DecidableEq, Repr

/-- A sluice queue (12_kernel R269, R270). `reserved` counts the reservations not released, `taken` those of them whose
entry has not been delivered; `items` are the entries not yet delivered, oldest first. -/
structure Sluice where
  permits : Nat
  reserved : Nat
  taken : Nat
  items : List (W32 × W32 × W32 × W32)
  finished : Bool
  failure : Option Cause
  err : Bool
  deriving DecidableEq, Repr

/-- A watch action that has matched and not yet landed (16_watch R332): predicate, lane, action, the skid it has if it lands at the
thread's next instruction boundary, and the instruction whose matches it is of. -/
structure PendHalt where
  pred : Nat
  lane : Nat
  act : Nat
  skid : Nat
  now : Bool          -- lands at this instruction's boundary
  op : Nat
  deriving DecidableEq, Repr

/-- The reuse latch of a quarter (04_group R93). -/
structure Latch where
  a : BitVec 8
  vals : List (Lanes W32)
  deriving DecidableEq, Repr

/-- A group (04_group R77, R100). -/
structure Group where
  team : Nat
  gidx : Nat
  role : Nat
  threads : Lanes Thread
  v : SMap Entry
  s : SMap Word
  fx : BitVec 8
  budget : Nat
  z : SMap (BitVec 56)           -- key (quarter x 8 + tile) x 64 + element; absent elements are +0
  latch : SMap Latch
  frames : List Frame            -- innermost first
  entering : List Frame          -- traps that wait for a handler set
  hostTrap : Option (Frame × Nat)  -- a trap delivered to the host, with the SEQ of its record (15_context R322)
  pending : List Frame           -- traps behind a halt (02_numbers R50)
  susp : List IssueGroup         -- blocked issue groups
  ops : List PendOp
  opSeq : Nat
  queues : SMap Sluice
  region : Option Nat            -- cycles of the open non-preemptible region (11_barrier R262)
  halts : List PendHalt
  parked : Bool
  first : Option Block           -- the kind of the first block, while the group is blocked (R100)
  yielded : Bool                 -- a thread of it yielded and no clause has started on the partition since (05_group_integer R110)
  passed : Nat                   -- clauses of other groups started while it was ready (R81)
  issued : Word                  -- PERFC 2
  readyCycles : Word             -- PERFC 3
  ran : Bool                     -- it has issued in the current cycle
  deriving DecidableEq, Repr

/-! ### Teams, nodes and contexts -/

/-- The fields of a kernel image header that the device keeps (12_kernel R264). -/
structure Kernel where
  image : Word
  size : Nat
  codeSize : Nat
  constOff : Nat
  constSize : Nat
  entry : Nat
  handler : Option Nat
  loopnest : Option Nat
  team : Nat
  npr : Bool
  heat : Nat
  barriers : Nat
  teamregs : Nat
  anvil : Nat
  berm : Nat
  scratch : Nat
  roles : List (Nat × Nat)        -- groups and budget of each role
  deriving DecidableEq, Repr

/-- A barrier object (11_barrier R244). -/
structure Barrier where
  init : Bool
  ph : BitVec 24
  a : Nat
  e : Nat
  en : Nat
  deriving DecidableEq, Repr

/-- A berm window a team holds (14_column R294, R296). -/
structure Window where
  lender : Nat          -- column index
  edge : Nat            -- edge of the borrower
  reclaimed : Bool
  data : SMap Byte
  deriving DecidableEq, Repr

/-- A stream of a loop-nest record (12_kernel R267). -/
structure Stream where
  copy : Bool
  addr : Word
  queue : Nat
  gidx : Nat
  sh : Nat
  nbuf : Nat
  dbase : Nat
  dstride : Nat
  c0 : Int
  c1 : Int
  k0 : List Int
  k1 : List Int
  tx0 : Int
  ty0 : Int
  tx1 : Int
  ty1 : Int
  deriving DecidableEq, Repr

/-- The Loop and Address Engine's walk for a team (12_kernel R268-R270). -/
structure Lae where
  trips : List Nat
  streams : List Stream
  iter : Nat
  stream : Nat
  stopped : Bool
  fault : Option (Cause × Nat)      -- a translation fault at check 8: its cause and the SEQ of its record
  deriving DecidableEq, Repr

/-- A tile stamp slot (19_trail R390): ticks and clock of each stage. -/
structure StampSlot where
  tag : W32
  marks : SMap (Word × Word)
  deriving DecidableEq, Repr

/-- Where a team stands (04_group R101). -/
inductive TeamStage where
  | placed | admitted | running | draining | saving (reason : BitVec 8) | saved
  deriving DecidableEq, Repr

/-- A value a team register held before its last write, and when that write was made (11_barrier R261). -/
structure OldReg where
  val : W32
  time : Nat
  writer : Nat       -- thread: group slot x 32 + lane
  deriving DecidableEq, Repr

/-- A team (04_group R101). -/
structure Team where
  node : Nat
  x : Nat
  y : Nat
  z : Nat
  index : Nat
  die : Nat
  core : Nat
  base : Nat                    -- base partition (R78)
  stage : TeamStage
  kernel : Kernel
  code : SMap Word              -- instruction words as they stood at placement, by address (03_encoding R58)
  const : SMap Byte             -- the constant bank, fixed while placed
  scratchBase : Nat
  scratch : SMap Byte
  empty : List Nat              -- empty lines, ascending
  bars : SMap Barrier
  barStop : Option (SMap Barrier)   -- recorded at a team stop (16_watch R336)
  wregs : SMap W32
  wold : SMap (List OldReg)     -- newest first
  windows : List Window
  lae : Option Lae
  stamps : List StampSlot       -- oldest first
  ticks : Nat                   -- resident ticks used before this admission (15_context R323)
  admitTime : Nat
  admitSeq : Nat
  phases : BitVec 24            -- phase completions (16_watch R337)
  saveReq : Option (BitVec 8)   -- a requested save and its reason (15_context R324)
  saveHalt : Bool               -- halted for the save
  saveFault : Bool
  migrateTo : Option Nat        -- target core of a migration
  slotUsed : Option Nat         -- save slot of a saved team
  swapMons : List (Nat × Nat × Nat)   -- waiting thread's gidx, lane, monitor, of a saved team
  pendFlt : List (Nat × Nat)    -- resumes written while the team was saved: SEQ and action
  kept : List Group             -- the groups of a saved team, without what its image holds (15_context R327)
  stopped : Bool                -- team stop in force
  ending : Option Cause         -- the team ends (R322) or is killed
  limited : Bool                -- its time limit has passed
  limitSeq : Option Nat         -- SEQ of its time limit record while that is not answered
  deriving DecidableEq, Repr

/-- Which node it is (13_queue R276, 17_sample R346). -/
inductive NodeKind where
  | plain
  | band (p : Nat) (due : Nat)     -- its period, and its deadline in 1/27 ticks
  | policy (p : Nat)
  | wave (w : Nat) (slot : Nat) (region : Nat)
  deriving DecidableEq, Repr

/-- Where a node stands (13_queue R278). -/
inductive NodeStage where
  | pending | held | ready | distributing | running
  deriving DecidableEq, Repr

/-- A node (13_queue R276-R278). -/
structure Node where
  kind : NodeKind
  ctx : Nat
  image : Word
  kernel : Kernel
  id : BitVec 40
  prio : Nat
  level : Nat
  dieSel : Nat
  die : Nat
  evr : Bool
  gridx : Nat
  gridy : Nat
  gridz : Nat
  succ : Word                        -- address of the successor list
  nsucc : Nat
  recPa : Nat                        -- physical address of its record
  done : Word
  tlimit : Nat
  depth : Nat
  ops : List (Word × Nat × Int)      -- declared operands: address, length, stride
  stage : NodeStage
  since : Nat                        -- time at which it entered its level
  order : Nat                        -- position in its level
  untaken : List (Nat × Nat × Nat)   -- die and untaken index range, lo to hi - 1
  live : Nat                         -- teams not yet retired
  deriving DecidableEq, Repr

/-- Context states (15_context R311). -/
inductive CtxStage where
  | free | created | admitted | running | suspended | faulted | draining | destroyed
  deriving DecidableEq, Repr

/-- A context's state behind its registers. -/
structure Ctx where
  stage : CtxStage
  slots : List Nat          -- save slots in use
  deriving DecidableEq, Repr

/-! ### Copies and monitors -/

/-- A layout record with its metadata (10_copy R229, R230). -/
structure Layout where
  base : Word
  ext : List Nat
  ndim : Nat
  sfmt : Nat
  etype : Nat
  sparse : Bool
  spack : Nat
  tr : Bool
  rnd : Nat
  dord : Bool
  box0 : Nat
  box1 : Nat
  strides : List Nat
  scales : Word
  srow : Nat
  splane : Nat
  maskOff : Nat
  slot : Nat
  deriving DecidableEq, Repr

inductive CopyStage where
  | accepted | moving | landed | posting
  deriving DecidableEq, Repr

/-- A held translation (08_page R188). `unit` is the 4 KiB unit number of the page's first address, `slot` the address of the entry that was read. -/
structure TlbEntry where
  ctx : Nat
  unit : Nat
  leaf : Word
  slot : Nat
  lvl : Nat
  deriving DecidableEq, Repr

/-- An accepted copy (10_copy R231-R238). `form` 0-3 is FORM of R238; 4 is the scratchpad form of `SLD`. -/
structure Copy where
  core : Nat
  team : Nat
  gk : Nat
  lane : Nat
  form : Nat
  off : Nat                     -- scratchpad offset of the records
  bytes : Nat                   -- bytes of the records
  lay : Layout
  coords : List Nat
  index : List Nat
  masks : List Byte
  source : List Byte            -- CPYO: the records as read at issue
  srcBad : List Nat             -- offsets within them of poisoned 8-byte units (15_context R329)
  pages : List (Nat × TlbEntry)   -- the translations made at issue, by 4 KiB unit of virtual address
  tag : Byte
  ev : Bool
  cw : Option Nat               -- physical address of the completion word
  ctx : Nat
  nodeId : W32
  formed : SMap (List Byte × List Byte)   -- the records formed so far: their bytes, and the mask of the poisoned ones (R234, R237)
  left : List Nat               -- destination lines not yet full
  fx : BitVec 8
  status : BitVec 8
  stage : CopyStage
  tile : Nat
  deriving DecidableEq, Repr

/-- A monitor of one lane or of lanes that share it (11_barrier R255-R259). -/
structure Monitor where
  gk : Option Nat            -- the waiting group while resident
  team : Nat
  gidx : Nat
  lanes : Mask
  va : Word
  pa : Nat
  ctx : Nat
  cmp : Nat
  val : Word
  wide : Bool
  scope : Nat
  async : Bool
  opSeq : Nat
  prio : Nat
  start : Nat
  expire : Option Nat
  entered : Bool             -- in the home slice's table
  polling : Bool
  last : Nat                 -- cycle of the waiter's cluster at the last recheck
  hit : Bool                 -- a matching write entered the order
  outcome : Option Nat       -- 0 met, 1 timeout, 2 evicted
  deriving DecidableEq, Repr

/-! ### Cores, clusters and dies -/

/-- A byte in a column cache, whether it is dirty (09_memory R201), and the tick at which it was stored (R202). -/
structure ColByte where
  val : Byte
  dirty : Bool
  since : Nat
  deriving DecidableEq, Repr

/-- A core (01_device R14). -/
structure Core where
  col : SMap ColByte
  pins : List (Nat × TlbEntry)   -- lines pinned in the column cache, each with the translation through which it was (08_page R191)
  l1 : SMap Byte
  tlb : List TlbEntry
  watch : SMap Word          -- watch bank, by register number (16_watch R330)
  mxToggle : SMap Word       -- by partition (07_tile R178)
  mxZero : SMap Word
  mxPrev : SMap (List Byte × List Byte)   -- A and B operand bytes of a partition's previous quarter operation
  perf : SMap Word           -- PERFC 4, 5, 9, 10, 11
  deadlock : SMap Nat        -- cycles in which a partition met R89's condition
  deriving DecidableEq, Repr

/-- A record of an event queue (10_copy R238). -/
abbrev EvRec := Word × Word

/-- The cluster clock's state (14_column R304): a stretch with the cycles left to its cap and the tick of its first cycle, a hold
with the cycles left and whether its partitions issue in the current one (24_program_droop R410). -/
inductive ClockPhase where
  | normal
  | stretch (left : Nat) (start : Nat)
  | hold (left : Nat) (issues : Bool)
  deriving DecidableEq, Repr

/-- A cluster. -/
structure Cluster where
  cycles : Nat                 -- cycles of its cores since reset (04_group R79)
  edge : Nat                   -- tick at or before the leading edge of the current cycle (19_trail R397)
  part : Nat                   -- time of the current cycle that has passed, in ticks x MHz of the die's clock: a cycle is 10,000
  events : List EvRec
  evWait : List EvRec          -- engine records that wait for room (10_copy R239)
  tlb : List TlbEntry
  alarm : Bool
  phase : ClockPhase
  applied : BitVec 8           -- body bias in force
  chunks : List (Nat × Nat × Nat)    -- node and team indices lo to hi - 1, not yet placed
  perf : SMap Word             -- PERFC 6, 7, 8
  power : Nat
  deriving DecidableEq, Repr

/-- A sensor (14_column R300, R301). -/
inductive SensorState where
  | ok | suspect (fails : Nat) (passes : Nat) | failed
  deriving DecidableEq, Repr

structure Sensor where
  state : SensorState
  eff : Nat
  accepted : Option Nat
  code : Nat
  same : Nat
  partner : Option Nat   -- the partner's accepted value when the run of equal codes began, or its first after that
  deriving DecidableEq, Repr

/-- A column's sensors, estimates and reported conditions (14_column R302, R303). -/
structure Column where
  u : Sensor
  l : Sensor
  mw : Nat
  est : Nat
  reported : List Nat       -- EVENT codes reported and not cleared
  deriving DecidableEq, Repr

/-- A sample record (17_sample R351): 8 words of 32 bits. -/
abbrev SampleRec := List W32

/-- A sample on its way to a bucket: record, and the group and operation to reply to. -/
structure Insertion where
  smp : SampleRec
  reply : Option (Nat × Nat)
  deriving DecidableEq, Repr

/-- A bucket (17_sample R353-R355), its live set in rank order. -/
structure Bucket where
  live : List SampleRec
  limit : Nat
  age : Nat
  deferred : List SampleRec
  owner : Option Nat
  held : List Insertion          -- insertions that wait for the unlock, in arrival order
  newLimit : Option Nat
  newAge : Option Nat
  deriving DecidableEq, Repr

/-- Map writes (17_sample R365, R366). -/
inductive MapOp where
  | set | max | add
  deriving DecidableEq, Repr

/-- A map write that waits for the next boundary. -/
structure MapWrite where
  map : Nat           -- 0 gaze, 1 motion, 2 kind, 3 weights, 4 error
  cell : Nat          -- of the weights: which of the four
  op : MapOp
  val : Nat
  deriving DecidableEq, Repr

/-- A draw of the sampler (17_sample R348). -/
structure Draw where
  x : Nat
  y : Nat
  time : Nat
  kind : Bool
  policy : Nat
  index : Nat
  region : Nat
  deriving DecidableEq, Repr

/-- A wave of the sampler that is not yet written (17_sample R349). -/
structure Wave where
  num : Nat
  kind : Bool
  region : Nat
  draws : List Draw
  deriving DecidableEq, Repr

/-- A wave whose node has not retired: the node, the ring slot and the smallest scene time. -/
structure LiveWave where
  node : Nat
  slot : Nat
  time : Nat
  deriving DecidableEq, Repr

/-- A period's band (17_sample R358): whether its node exists, and the counts of R360. -/
structure Band where
  p : Nat
  node : Option Nat        -- its node
  due : Bool               -- its node was created, or could not be for want of a context
  retired : Bool           -- the node has retired before T: the band is written
  reads : List Nat         -- buckets that the node has read
  late : SMap Nat          -- late samples by tile row
  overs : SMap Nat         -- deferral overflows by tile row
  lateMaps : Nat
  lostX : Nat
  incomplete : Bool
  waitPassed : Bool
  deriving DecidableEq, Repr

/-- A report record that waits on its die (08_page R195). -/
structure Report where
  w0 : Word
  w1 : Word
  w2 : Word
  w3 : Word
  deriving DecidableEq, Repr

/-- A die. -/
structure Die where
  ticks : Nat                    -- time base (19_trail R386)
  tripped : Bool
  reports : List Report
  walk : List TlbEntry           -- walk cache: pointer entries (08_page R188)
  periodStart : Nat              -- start of the band period, in 1/27 ticks (17_sample R345)
  period : Nat
  phase : Nat                    -- 0 in the period; 1 after its deadline; 2 after the start of scan
  boundaries : Nat               -- boundaries since reset
  draws0 : Nat                   -- D0 (17_sample R348)
  firstDraw : Nat                -- index of the period's first draw
  gaze : SMap (BitVec 16)
  motion : SMap (BitVec 16)
  error : SMap (BitVec 16)
  kinds : SMap Bool
  chosenAt : SMap Nat            -- the boundary count when a cell was last chosen (R347: its age)
  mapWrites : List MapWrite
  waves : List Wave              -- not yet written
  waveNum : Nat
  waveLive : List LiveWave
  waveFault : Option (Nat × Nat) -- SEQ and CTX of the report of a fault on the wave ring
  lowSent : Nat
  lowTime : Nat                  -- cycle of the die's cluster 0 before which the next one is not sent
  lowPeer : Nat                  -- the other die's mark as last received
  lowPending : List (Nat × Nat)  -- marks on the culvert toward this die, with the records ahead of each
  buckets : SMap Bucket          -- key 57,600: the settings of a bucket that has none of its own
  insertions : List Insertion
  xeyes : List Insertion         -- accepted by the culvert toward this die
  bands : List Band
  polNode : Option Nat           -- the policy node of the period
  oldCuts : SMap Int             -- the latest cut-off of each band in periods before a restart of their numbering (17_sample R357)
  shown : SMap Nat               -- which of a band's two copies is shown (18_link R384)
  issuedAll : Word               -- PERFC 12
  lateBands : Word               -- PERFC 13
  issuedDraws : Nat
  retiredWaves : Nat
  applied : Nat                  -- insertions applied in the period
  trailSeq : Nat
  rate : Nat
  rateNext : Option Nat          -- RATE as the left eye's band 0 took it, for a die that is still to begin that frame (18_link R385)
  dispOn : Nat                   -- DISP_STAT.STATE
  scanning : Bool                -- the output has been ACTIVE since a band-0 start and sends pixels (18_link R385)
  scan : Option (Nat × List Host.Cell)  -- the band that the output sends, as scan-out read its shown copy: listed bytes by offset
  columns : SMap Column
  eccTime : Option Nat           -- time of the last soft error report
  powerSum : Nat
  powerN : Nat
  clockMhz : Nat
  overCap : Bool
  deriving DecidableEq, Repr

/-! ### Links and the whole machine -/

/-- The protocols of the Data Object Exchange mailbox (R372), as DOE Discovery enumerates them; the spec gives them no numbers. -/
inductive DoeProtocol where
  | discovery | kuide
  deriving DecidableEq, Repr

/-- The uncorrectable errors of Advanced Error Reporting (18_link R372) that the endpoint has met as a completer: a request that it does
not support, one that it aborted, poisoned data that it sent (log entry 103). -/
structure AerStatus where
  unsupported : Bool
  abort : Bool
  poisoned : Bool
  deriving DecidableEq, Repr

/-- Configuration requests (18_link R372): DOE Discovery of an index, a read of the errors and a clear of some of them, a new size of
BAR 2 as 2^n GiB. -/
inductive ConfigReq where
  | discovery (index : Nat)
  | errors
  | clearErrors (bits : AerStatus)
  | resize (log : Nat)
  deriving DecidableEq, Repr

/-- What the device sends to the host (18_link R372-R376, 19_trail R395). -/
inductive HostMsg where
  | data (bytes : List Byte)
  | poisoned (bytes : List Byte)
  | unsupported
  | abort
  | retry
  | msix (vec : Nat)
  | busy
  | quote (bytes : List Byte)
  | tripAlert (d : Nat)
  | protocol (p : Option DoeProtocol) (next : Nat)
  | errors (bits : AerStatus)
  | configured
  deriving DecidableEq, Repr

/-- A request of the host or of a peer that waits on BAR 2 (18_link R375, R382): its requester, 0 for the host, and the time at which
it arrived; of a write, whether it carries the Relaxed Ordering attribute. -/
inductive HostReq where
  | write (req : Nat) (relaxed : Bool) (pa : Nat) (bytes : List Byte)
  | read (req pa n time : Nat)
  | atomic (req pa : Nat) (op : HostAtomic) (a b : Word) (time : Nat)
  | input (req : Nat) (bytes : List Byte)    -- a committed input record, as stamped, that is still to enter its ring (R378)
  deriving DecidableEq, Repr

inductive CulvertState where
  | down | training | up | degraded | failed
  deriving DecidableEq, Repr

/-- The culvert (18_link R379-R382). -/
structure Culvert where
  state : CulvertState
  tries : Nat
  retry : Nat
  lost : Nat
  deriving DecidableEq, Repr

/-- A change of mode or scene epoch that waits for its boundary (01_device R17). -/
structure PendMode where
  val : Word
  written : Nat
  back : Option Nat      -- time at which the culvert returned, after the change fell due
  due : Bool
  first : Option Nat     -- the die that has restarted already
  deriving DecidableEq, Repr

/-- Which partition's issue group the next instruction belongs to: die x 384 + core x 4 + partition. -/
abbrev Focus := Nat

structure State where
  /-- the memory map of 08_page R180, device and host memory, as written -/
  mem : List Host.Cell
  /-- poisoned units (15_context R329) -/
  marks : List ErrPlace
  /-- units that hold poisoned data whose mark was made elsewhere (15_context R329) -/
  moved : List ErrPlace
  /-- system registers by number; an absent one holds its reset value -/
  regs : SMap Word
  /-- writes that wait for the next period boundary (17_sample R361), oldest first: die, number, value, bits written -/
  regWaits : List (Nat × Nat × Word × Word)
  groups : SMap Group            -- key (die x 96 + core) x 48 + slot
  active : SMap IssueGroup       -- the issue group a partition runs, by partition key
  teams : SMap Team
  nodes : SMap Node
  ctxs : SMap Ctx
  cores : SMap Core              -- key die x 96 + core
  clusters : SMap Cluster        -- key die x 8 + cluster
  dies : SMap Die
  copies : SMap Copy
  slicePins : List (Nat × TlbEntry)   -- lines pinned in home slices (08_page R191), oldest first
  monitors : SMap Monitor
  culvert : Culvert
  tlbi : Option (Word × Word)    -- an invalidation in progress: TLBI_CTL and TLBI_VA at GO
  mode : Bool                    -- TMODE.ACTIVE
  modeWait : Option PendMode
  epochWait : Option PendMode
  msix : SMap Word               -- MSI-X table, two words a vector
  msixPend : List Nat
  window : SMap Byte             -- input window (18_link R377)
  measured : List (Nat × Word)   -- images measured (19_trail R393)
  meas : SMap Word               -- MEAS words
  quote : Option (List Byte)     -- the message that is being signed (19_trail R395)
  hostQueue : List HostReq       -- requests on BAR 2 that wait for the culvert, in the order received (18_link R382)
  bar0Reads : List (Nat × Nat)   -- reads of BAR 0 that the host has made and that are not answered: offset and size (18_link R374)
  configs : List ConfigReq       -- configuration requests that are not answered (18_link R372, 20_bringup R400)
  aer : AerStatus
  inputs : Nat                   -- records committed since reset (18_link R378)
  awake : Bool                   -- boot stage 2 has ended since power-on (20_bringup R400)
  requester : Nat × Bool         -- who makes the next request on BAR 2, 0 the host, and whether it carries Relaxed Ordering (R375)
  bar2Size : Nat                 -- size of BAR 2 that the host has set: 2^n GiB (18_link R372)
  tbNext : Nat                   -- tick of the left die at which the time bases are compared next (19_trail R386)
  slew : Option (Bool × Nat)     -- the right die's counter slews: faster or slower, and reference ticks since (19_trail R386)
  boot : Nat                     -- BOOT_STAT.STAGE
  bootErr : Nat
  bootDie : Nat
  memUp : List Nat               -- dies whose memory boot has trained (20_bringup R399, R400)
  seq : BitVec 16                -- next report SEQ (08_page R194)
  nextId : Nat                   -- fresh keys of teams, nodes, copies, monitors
  hostOut : List HostMsg
  /-- the model's own: steps waiting to be taken -/
  agenda : List Instr
  /-- the cycle of its cluster in which a partition last issued (04_group R81, 24_program_droop R409), by partition key -/
  lastIssue : SMap Nat
  /-- the model's own: the partition that issues next -/
  focus : Option Focus
  /-- the model's own: how often each step that was possible has been passed over (log entry 95) -/
  ages : List (Turn × Nat)
  /-- the model's own: the counter to which free values are applied -/
  choice : Nat
  deriving DecidableEq, Repr

/-- What stops the machine. -/
inductive Fault where
  /-- Raised by the meaning of an instruction word when no partition has an issue group to issue it; `step` never runs
  a word in that state. Safe: no state follows. -/
  | noIssueGroup
  deriving DecidableEq, Repr

/-- What the model gives no meaning. -/
inductive Refusal where
  /-- Raised by `exec` for an instruction that has no meaning yet. Safe: no state follows. -/
  | notModelled (mnemonic : String)
  deriving DecidableEq, Repr

/-- The culvert after reset (18_link R382, reset column). -/
def Culvert.reset : Culvert := { state := .down, tries := 0, retry := 0, lost := 0 }

def AerStatus.none : AerStatus := { unsupported := false, abort := false, poisoned := false }

/-- The machine right after device reset, in boot stage 1 (20_bringup R399, R400). -/
def State.reset : State :=
  { mem := [], marks := [], moved := [], regs := [], regWaits := [], groups := [], active := [], teams := [], nodes := [],
    ctxs := [], cores := [], clusters := [], dies := [], copies := [], slicePins := [], monitors := [], culvert := Culvert.reset,
    tlbi := none, mode := false, modeWait := none, epochWait := none, msix := [], msixPend := [], window := [],
    measured := [], meas := [], quote := none, hostQueue := [], bar0Reads := [], configs := [],
    aer := AerStatus.none, inputs := 0, awake := false, requester := (0, false), bar2Size := 7, tbNext := 0, slew := none, boot := 1,
    bootErr := 0, bootDie := 0, memUp := [], seq := 0, nextId := 0,
    hostOut := [], agenda := [], lastIssue := [], focus := none, ages := [], choice := 0 }

end Sys2Proof.Machine
end

