-- ==== Sys2Proof/Machine/Access.lean ====
section
/-! DEFINITION. Accessors of the state: keys of dies, cores, partitions and groups, the values that absent entries stand
for, and the small updates that every operation goes through. -/

namespace Sys2Proof.Machine

/-! ### Keys (01_device R14, 04_group R78) -/

def coreKey (d c : Nat) : Nat := d * 96 + c
def groupKey (d c slot : Nat) : Nat := coreKey d c * 48 + slot
def partKey (d c p : Nat) : Nat := coreKey d c * 4 + p
def gkCore (gk : Nat) : Nat := gk / 48
def gkSlot (gk : Nat) : Nat := gk % 48
def gkDie (gk : Nat) : Nat := gk / 48 / 96
def gkNum (gk : Nat) : Nat := gk / 48 % 96
def gkPart (gk : Nat) : Nat := gkCore gk * 4 + gkSlot gk / 12
def clusterOf (ck : Nat) : Nat := ck / 96 * 8 + ck % 96 / 12

/-! ### Values of absent entries -/

def Thread.init (hdr : Word) : Thread :=
  { hdr := hdr, pos := 0, viaBranch := false, opMark := 0, exited := false, inIssue := false,
    block := none, halt := none, gen := 0, preds := 0, waits := 0, hold := none, conv := false, since := 0 }

def Core.init : Core :=
  { col := [], pins := [], l1 := [], tlb := [], watch := [], mxToggle := [], mxZero := [], mxPrev := [], perf := [], deadlock := [] }

def Cluster.init (k : Nat) : Cluster :=
  { cycles := 0, edge := 0, part := 0, events := [], evWait := [], tlb := [], alarm := false, phase := .normal, applied := Config.biasCal k,
    chunks := [], perf := [], power := 0 }

def Sensor.init : Sensor := { state := .ok, eff := 0, accepted := none, code := 0, same := 0, partner := none }

def Column.init : Column := { u := Sensor.init, l := Sensor.init, mw := 0, est := 0, reported := [] }

def Die.init : Die :=
  { ticks := 0, tripped := false, reports := [], walk := [], periodStart := 0, period := 0, phase := 0, boundaries := 0,
    draws0 := 0, firstDraw := 0, gaze := [], motion := [], error := [], kinds := [], chosenAt := [], mapWrites := [],
    waves := [], waveNum := 0, waveLive := [], waveFault := none, lowSent := 0, lowTime := 0, lowPeer := 0,
    lowPending := [], buckets := [], insertions := [], xeyes := [], bands := [], polNode := none, oldCuts := [], shown := [], issuedAll := 0,
    lateBands := 0, issuedDraws := 0, retiredWaves := 0, applied := 0, trailSeq := 0, rate := 2, rateNext := none, dispOn := 0,
    scanning := false, scan := none,
    columns := [], eccTime := none, powerSum := 0, powerN := 0, clockMhz := 1200, overCap := false }

def Barrier.fresh : Barrier := { init := false, ph := 0, a := 0, e := 0, en := 0 }
def Team.bar (t : Team) (k : Nat) : Barrier := SMap.getD t.bars k Barrier.fresh
/-- A phase has reached its count and is held (R246). -/
def Barrier.held (b : Barrier) : Bool := b.init && b.a == b.e

def Sluice.init : Sluice :=
  { permits := 0, reserved := 0, taken := 0, items := [], finished := false, failure := none, err := false }

def Ctx.init : Ctx := { stage := .free, slots := [] }

/-! ### Reading and updating the parts of the state -/

def State.die (s : State) (d : Nat) : Die := SMap.getD s.dies d Die.init
def State.setDie (s : State) (d : Nat) (x : Die) : State := { s with dies := SMap.set s.dies d x }
def State.modDie (s : State) (d : Nat) (f : Die → Die) : State := s.setDie d (f (s.die d))
def State.core (s : State) (ck : Nat) : Core := SMap.getD s.cores ck Core.init
def State.setCore (s : State) (ck : Nat) (x : Core) : State := { s with cores := SMap.set s.cores ck x }
def State.modCore (s : State) (ck : Nat) (f : Core → Core) : State := s.setCore ck (f (s.core ck))
def State.cluster (s : State) (k : Nat) : Cluster := SMap.getD s.clusters k (Cluster.init k)
def State.setCluster (s : State) (k : Nat) (x : Cluster) : State := { s with clusters := SMap.set s.clusters k x }
def State.modCluster (s : State) (k : Nat) (f : Cluster → Cluster) : State := s.setCluster k (f (s.cluster k))
def State.group? (s : State) (gk : Nat) : Option Group := SMap.get? s.groups gk
def State.setGroup (s : State) (gk : Nat) (g : Group) : State := { s with groups := SMap.set s.groups gk g }
def State.modGroup (s : State) (gk : Nat) (f : Group → Group) : State :=
  match s.group? gk with
  | some g => s.setGroup gk (f g)
  | none => s
def State.team? (s : State) (t : Nat) : Option Team := SMap.get? s.teams t
def State.setTeam (s : State) (t : Nat) (x : Team) : State := { s with teams := SMap.set s.teams t x }
def State.modTeam (s : State) (t : Nat) (f : Team → Team) : State :=
  match s.team? t with
  | some x => s.setTeam t (f x)
  | none => s
def State.node? (s : State) (n : Nat) : Option Node := SMap.get? s.nodes n
def State.setNode (s : State) (n : Nat) (x : Node) : State := { s with nodes := SMap.set s.nodes n x }
def State.modNode (s : State) (n : Nat) (f : Node → Node) : State :=
  match s.node? n with
  | some x => s.setNode n (f x)
  | none => s
def State.ctx (s : State) (x : Nat) : Ctx := SMap.getD s.ctxs x Ctx.init
def State.setCtx (s : State) (x : Nat) (c : Ctx) : State := { s with ctxs := SMap.set s.ctxs x c }
def State.copy? (s : State) (k : Nat) : Option Copy := SMap.get? s.copies k
def State.setCopy (s : State) (k : Nat) (x : Copy) : State := { s with copies := SMap.set s.copies k x }
def State.monitor? (s : State) (k : Nat) : Option Monitor := SMap.get? s.monitors k
def State.setMonitor (s : State) (k : Nat) (x : Monitor) : State := { s with monitors := SMap.set s.monitors k x }
def State.fresh (s : State) : Nat × State := (s.nextId, { s with nextId := s.nextId + 1 })

def Group.thread (g : Group) (l : Nat) : Thread := (g.threads.toArray.getD l (Thread.init 0))
def Group.modThread (g : Group) (l : Nat) (f : Thread → Thread) : Group := { g with threads := Lanes.upd g.threads l f }
/-- Change the threads of a mask. -/
def Group.modThreads (g : Group) (m : Mask) (f : Thread → Thread) : Group :=
  { g with threads := Vector.ofFn fun i => if m.getLsbD i.val then f g.threads[i] else g.threads[i] }
/-- The threads that have not exited. -/
def Group.live (g : Group) : Mask := maskOf fun l => !(g.thread l).exited
def Group.inHandler (g : Group) : Bool := !g.frames.isEmpty
def Group.allExited (g : Group) : Bool := g.live == 0

/-- Cycles of the cluster of a core (00_scope R3). -/
def State.cyclesOf (s : State) (ck : Nat) : Nat := (s.cluster (clusterOf ck)).cycles

/-- Left-die ticks: the measured time of every rule that does not name a die (19_trail R386). -/
def State.now (s : State) : Nat := (s.die 0).ticks

/-- Free values: each use advances the counter (log entry 8). -/
def State.flip (s : State) : Bool × State := (Config.flip s.choice, { s with choice := s.choice + 1 })
def State.pick (s : State) (n : Nat) : Nat × State := (Config.pick s.choice % n, { s with choice := s.choice + 1 })

/-- The context of a team, through its node. -/
def State.teamCtx (s : State) (t : Team) : Nat := (s.node? t.node).elim 0 (·.ctx)
def State.teamPrio (s : State) (t : Team) : Nat := (s.node? t.node).elim 23 (·.prio)
def State.teamNodeId (s : State) (t : Team) : BitVec 40 := (s.node? t.node).elim 0 (·.id)

/-- The groups of a team: key and group, by ascending slot. -/
def State.groupsOf (s : State) (t : Nat) : List (Nat × Group) := s.groups.filter fun p => p.2.team == t
/-- The groups of a core. -/
def State.groupsOn (s : State) (ck : Nat) : List (Nat × Group) := s.groups.filter fun p => gkCore p.1 == ck
/-- The groups of a partition. -/
def State.groupsIn (s : State) (pk : Nat) : List (Nat × Group) := s.groups.filter fun p => gkPart p.1 == pk
/-- The teams resident on a core (04_group R77). -/
def Team.resident (t : Team) : Bool :=
  match t.stage with
  | .admitted | .running | .draining | .saving _ => true
  | _ => false
def State.teamsOn (s : State) (ck : Nat) : List (Nat × Team) :=
  s.teams.filter fun p => p.2.resident && coreKey p.2.die p.2.core == ck
/-- Names mapped by a group, and entries in use on a partition (04_group R85-R88). -/
def Group.mapped (g : Group) : Nat := g.v.length
def State.entriesUsed (s : State) (pk : Nat) : Nat := ((s.groupsIn pk).map fun p => p.2.mapped).sum
def State.budgets (s : State) (pk : Nat) : Nat := ((s.groupsIn pk).map fun p => p.2.budget).sum

end Sys2Proof.Machine
end

