-- ==== Sys2Proof/Machine/SysReg.lean ====
section
/-! DEFINITION. The system registers: which numbers name registers, their fields' access, reset values and reads
(00_scope R4, 15_context R413 and the field maps of every chapter). Writes with further effects are in
Machine/HostRegs.lean. -/

namespace Sys2Proof.Machine

/-- A register's field map, as masks: RW, W1C and WO fields of the host, the RW fields that privileged code may also
write, whether programs may read it, and the reset value. -/
structure RegDesc where
  rw : Word := 0
  w1c : Word := 0
  wo : Word := 0
  priv : Word := 0
  prog : Bool := false
  reset : Word := 0
  deriving DecidableEq, Repr

def frameMask : Word := 0x000FFFFFFFFFF000
def hostRw (m : Word) (reset : Word := 0) : RegDesc := { rw := m, reset := reset }
def privRw (m : Word) (reset : Word := 0) : RegDesc := { rw := m, priv := m, prog := true, reset := reset }

/-- The register of a number, other than the group's own `FX_FLAGS` and trap state; none where no register is named. -/
def regDesc (n : Nat) : Option RegDesc :=
  let within := fun (lo k : Nat) => decide (lo ≤ n) && decide (n < lo + k)
  if within 0x100 64 then some (privRw 0xFF)                                   -- FX_TRAP
  else if within 0x140 64 then some { w1c := 0xFF, prog := true }              -- FX_CTX
  else if within 0x180 64 then some (privRw 0x3)                               -- MX_TRAP
  else if within 0x200 32 then some { privRw 0x1F1F1F 0x204 with w1c := 0x80000000 }  -- L2_QUOTA
  else if n == 0x220 then some (privRw 0x00FFFFFFFFFFF000)                     -- TLBI_VA
  else if n == 0x221 then some { privRw 0x73F with wo := 0x10000, w1c := 0x40000 }    -- TLBI_CTL
  else if n == 0x224 then some (hostRw frameMask)                              -- RQ_BASE
  else if n == 0x225 then some (hostRw 0x07FF001F)                             -- RQ_SIZE
  else if n == 0x226 then some {}                                              -- RQ_TAIL
  else if n == 0x227 then some (hostRw 0xFFFF)                                 -- RQ_HEAD
  else if n == 0x228 then some { wo := 0x03FFFF3F }                            -- FLT_RESUME
  else if n == 0x230 then some (privRw 0xFFFF 200)                             -- MON_SWAP
  else if n == 0x234 then some (privRw 0xFFFF 50)                              -- AGE_Q
  else if n == 0x235 then some (hostRw frameMask)                              -- ADM_BASE
  else if within 0x240 16 then some { privRw 0x7F 45 with w1c := 0x80 }        -- DRP_THR
  else if within 0x250 16 then some (privRw 0xFFFF 64)                         -- DRP_HOLD
  else if within 0x260 16 then some { reset := (Config.biasCal (n - 0x260)).setWidth 64 }          -- BIAS_CAL
  else if within 0x270 16 then some (hostRw 0xFF ((Config.biasCal (n - 0x270)).setWidth 64))       -- BIAS_SET
  else if within 0x280 2 then some (hostRw 0xFFF 300)                          -- PWR_CAP
  else if n == 0x282 then some (hostRw 0x7)                                    -- THM_POLICY
  else if n == 0x283 then some { wo := 0xFF }                                  -- BERM_RCL
  else if within 0x290 2 then some (hostRw 0xFFFFFFFFFFFFFFFF)                 -- ECC_CNT
  else if within 0x300 192 then some { wo := 0x40000000 }                      -- THM_STAT
  else if within 0x3C0 192 then some {}                                        -- PWR_EST
  else if within 0x480 64 then some (hostRw frameMask)                         -- CTX_ROOT
  else if within 0x4C0 64 then some { hostRw 0x31F 4 with prog := true }       -- CTX_ATTR
  else if within 0x500 64 then some { hostRw 0xFFFFFFFFFFFFFFFF with prog := true }  -- CTX_SEED
  else if within 0x540 64 then some (hostRw 0xFFFFFFFFFFFFF000)                -- CTX_SAVE
  else if within 0x580 64 then some (hostRw 0x000FFFFFFFFFFFF9)                -- CTX_HANDLER
  else if n == 0x5C0 then some { rw := 0x3F, wo := 0x700, w1c := 0x20000 }     -- CTX_CMD
  else if within 0x600 64 then some { prog := true }                           -- CTX_STATE
  else if within 0x680 16 then some (privRw 0xFFFFFFFF0007FFFF)                -- WP_CTL
  else if within 0x690 32 then some (privRw 0xFFFFFFFFFFFFFFFF)                -- WP_A, WP_B
  else if within 0x6B0 16 then some (privRw 0x00FFFFFFFFFFFFFF)                -- WP_FLT
  else if within 0x6C0 16 then some (privRw 0xFFFFFFFF)                        -- WP_LANE
  else if within 0x6D0 16 then some (privRw 0x000FFFFFFFFFFF01)                -- WP_KERN
  else if within 0x6E0 16 then some { w1c := 0x3, prog := true }               -- WP_STAT
  else if n == 0x6F0 then some (hostRw 0xFF)                                   -- WP_SEL
  else if within 0x700 2 then some (hostRw 0x7FF7FFFFF 0x08400000)                     -- SMP_CFG
  else if within 0x702 2 then some (hostRw 0xFFFFFFFFFFFFFFFF)                 -- SMP_SEED
  else if within 0x704 2 then some (hostRw 0xFFFFFFFFFFFFFFFF 0x0001000100010001)  -- SMP_W
  else if within 0x706 4 then some (hostRw 0x000FFFFFFFFFFF01)                 -- SMP_KERN
  else if within 0x70A 2 then some (hostRw 0x000FFFFFFFFFF01F 4)               -- WAVE_BASE
  else if within 0x70C 2 then some (hostRw 0x1FFFFFFFFFFFFFFF ((20000#64 <<< 40) + 347222#64))  -- BAND_CFG
  else if within 0x70E 2 then some (hostRw 0x000FFFFFFFFFFF01)                 -- ROW_KERN
  else if within 0x710 2 then some (hostRw 0x000FFFFFFFFFFF3F 8)               -- POL_KERN
  else if n == 0x712 then some (hostRw 0xFFFFFFFFFF)                           -- SCENE_EPOCH
  else if within 0x714 2 then some (hostRw 0xFFFF 0xFF)                        -- XEYE_OVL
  else if within 0x720 24 then some (hostRw 0xFFFFFFFF)                        -- RPJ_M
  else if n == 0x740 then some { rw := 0x1FFC, wo := 0x3 }                     -- CUL_CTL
  else if n == 0x741 then some { w1c := 0xFFFFFFFF00000000 }                   -- CUL_STAT
  else if n == 0x742 then some (hostRw 0xFFFF 100)                             -- CUL_WAIT
  else if n == 0x744 then some (hostRw 0x000FFFFFFFFFF01F)                     -- INP_RING
  else if n == 0x745 then some { w1c := 0xFFFFFFFF00000000, prog := true }     -- INP_STAT
  else if n == 0x748 then some { hostRw 0x7FFD 0x8 with wo := 0x2 }            -- DISP_CFG[0]
  else if n == 0x749 then some { hostRw 0xFFFF00007FFD 0x8 with wo := 0x2 }    -- DISP_CFG[1]
  else if within 0x74A 2 then some { w1c := 0xFFFFFFFF00000000 }               -- DISP_STAT
  else if within 0x74C 2 then some (hostRw 0x000FFFFFFFE00000)                 -- DISP_BUF
  else if within 0x780 2 then some {}                                          -- TB_NOW, TB_SKEW
  else if n == 0x782 then some (hostRw 0xFF01 0xA00)                           -- PTM_CTL
  else if within 0x783 2 then some {}                                          -- PTM_HOST, PTM_DEV
  else if n == 0x785 then some (hostRw 0x1)                                    -- TMODE
  else if within 0x786 2 then some (hostRw 0x000FFFFFFFFFF01F)                 -- TRAIL_BASE
  else if within 0x788 2 then some {}                                          -- TRAIL_STAT
  else if within 0x790 4 then some { wo := 0xFFFFFFFFFFFFFFFF }                -- MEAS_IN
  else if n == 0x794 then some { wo := 0x1 }                                   -- MEAS_CMD
  else if within 0x796 2 then some (hostRw 0x107FF 1200)                       -- CLK_SET
  else if within 0x7A0 32 then some {}                                         -- MEAS
  else if n == 0x7C0 then some { w1c := 0xC0 }                                 -- BOOT_STAT
  else if n == 0x7C1 then some { wo := 0x1 }                                   -- BOOT_CTL
  else none

/-- The stored bits of a register. -/
def State.raw (s : State) (n : Nat) : Word := SMap.getD s.regs n (((regDesc n).map (·.reset)).getD 0)
def State.setRaw (s : State) (n : Nat) (v : Word) : State :=
  { s with regs := SMap.put s.regs (((regDesc n).map (·.reset)).getD 0) n v }
/-- A field of a register as a number. -/
def State.rf (s : State) (n lo k : Nat) : Nat := fld (s.raw n) lo k

/-! ### Registers by name -/

/-- A stored register's frame field, as an address. -/
def State.base (s : State) (n : Nat) : Nat := s.rf n 12 40 * 4096
/-- The open or the tournament cut-off (17_sample R356, R361). -/
def State.cut (s : State) (d : Nat) : Bool := s.mode || bitOf (s.raw (0x70C + d)).toNat 60
def State.privileged (s : State) (x : Nat) : Bool := bitOf (s.raw (0x4C0 + x)).toNat 8
def State.debug (s : State) (x : Nat) : Bool := bitOf (s.raw (0x4C0 + x)).toNat 9

def CtxStage.code : CtxStage → Nat
  | .free => 0 | .created => 1 | .admitted => 2 | .running => 3 | .suspended => 4 | .faulted => 5 | .draining => 6
  | .destroyed => 7

/-- Teams of a context resident on cores and in save images (15_context R309). -/
def State.resTeams (s : State) (x : Nat) : Nat := (s.teams.filter fun p => p.2.resident && s.teamCtx p.2 == x).length
def State.savedTeams (s : State) (x : Nat) : Nat :=
  (s.teams.filter fun p => p.2.stage == .saved && s.teamCtx p.2 == x).length

def CulvertState.code : CulvertState → Nat
  | .down => 0 | .training => 1 | .up => 2 | .degraded => 3 | .failed => 4
/-- The culvert carries traffic (18_link R379). -/
def State.culvertOpen (s : State) : Bool := s.culvert.state == .up || s.culvert.state == .degraded

/-- Column states (14_column R291): dark 0, lending 1, lit 2-5, migrating 6. -/
def State.columnClass (s : State) (ck : Nat) : Option Nat :=
  ((s.teamsOn ck).map fun p => p.2.kernel.heat).foldl (fun a h => some (max h (a.getD 0))) none
/-- The windows of a lender that are granted and not reclaimed. -/
def State.lent (s : State) (ck : Nat) : Nat :=
  ((s.teams.filter fun p => p.2.resident).map fun p =>
    (p.2.windows.filter fun w => w.lender == ck && !w.reclaimed).length).sum
def State.column (s : State) (ck : Nat) : Column := SMap.getD (s.die (ck / 96)).columns (ck % 96) Column.init
def State.setColumn (s : State) (ck : Nat) (x : Column) : State :=
  s.modDie (ck / 96) fun d => { d with columns := SMap.set d.columns (ck % 96) x }
def State.columnState (s : State) (ck : Nat) : Nat :=
  if (s.teamsOn ck).any fun p => p.2.migrateTo.isSome then 6
  else match s.columnClass ck with
    | some h => 2 + h
    | none => if s.lent ck == 0 then 0 else 1

def SensorState.code : SensorState → Nat
  | .ok => 0 | .suspect _ _ => 1 | .failed => 2

/-- `THM_STAT` of a column (14_column R302). -/
def State.thmStat (s : State) (ck : Nat) : Word :=
  let c := s.column ck
  let has := fun e => b2n (c.reported.contains e)
  BitVec.ofNat 64 (c.u.eff % 1024 + ((c.l.eff % 1024) <<< 10) + (c.u.state.code <<< 20) + (c.l.state.code <<< 22)
    + (b2n (c.u.state == .failed) <<< 24) + (b2n (c.l.state == .failed) <<< 25)
    + (max (has 1) (has 2) <<< 26) + (max (has 3) (has 4) <<< 27)
    + (max (has 2) (max (has 4) (has 5)) <<< 28) + (s.columnState ck <<< 32))

/-- A register's stored bits as last written: the sampler's registers keep a write until the next boundary (17_sample R361). -/
def State.kept (s : State) (n : Nat) : Word :=
  s.regWaits.foldl (fun v w => if w.2.1 == n && w.1 < 2 then (v &&& ~~~w.2.2.2) ||| (w.2.2.1 &&& w.2.2.2) else v) (s.raw n)

/-- A SUSPEND is not yet complete, or the effect of a KILL: it lasts until the context's operations and copies are (15_context R309,
R312). -/
def State.cmdBusy (s : State) : Bool :=
  (List.range 64).any fun x => (s.ctx x).stage == .draining || ((s.ctx x).stage == .suspended && s.resTeams x != 0)

/-- A register as it reads (00_scope R4): stored fields, with those the device keeps. -/
def State.readReg (s : State) (n : Nat) : Word :=
  let within := fun (lo k : Nat) => decide (lo ≤ n) && decide (n < lo + k)
  let v := s.kept n
  if within 0x270 16 then setBits v 8 8 (s.cluster (n - 0x270)).applied.toNat
  else if n == 0x5C0 then setBits (v &&& 0x2003F) 16 1 (b2n s.cmdBusy)
  else if within 0x280 2 then setBits v 12 1 (b2n (s.die (n - 0x280)).overCap)
  else if n == 0x221 then setBits v 17 1 (b2n s.tlbi.isSome)
  else if within 0x300 192 then s.thmStat (n - 0x300)
  else if within 0x3C0 192 then
    let c := s.column (n - 0x3C0)
    BitVec.ofNat 64 (c.mw % 65536 + ((c.est % 1024) <<< 16))
  else if within 0x600 64 then
    let x := n - 0x600
    BitVec.ofNat 64 ((s.ctx x).stage.code + ((s.resTeams x % 4096) <<< 8) + ((s.savedTeams x % 65536) <<< 20))
  else if within 0x680 0x70 then
    let sel := s.raw 0x6F0
    if 96 ≤ fld sel 0 7 then 0 else SMap.getD (s.core (coreKey (fld sel 7 1) (fld sel 0 7))).watch n 0
  else if within 0x70C 2 then setBits v 60 1 (b2n (s.cut (n - 0x70C)))
  else if n == 0x741 then
    BitVec.ofNat 64 (s.culvert.state.code + ((s.culvert.tries % 4) <<< 3) + ((s.culvert.retry % 65536) <<< 32)
      + ((s.culvert.lost % 65536) <<< 48))
  else if within 0x74A 2 then setBits v 0 3 (s.die (n - 0x74A)).dispOn
  else if n == 0x780 then BitVec.ofNat 64 (s.die 0).ticks
  else if n == 0x785 then setBits v 1 1 (b2n s.mode)
  else if within 0x788 2 then BitVec.ofNat 64 ((s.die (n - 0x788)).trailSeq % (1 <<< 32))
  else if within 0x796 2 then setBits v 32 11 (s.die (n - 0x796)).clockMhz
  else if within 0x7A0 32 then SMap.getD s.meas (n - 0x7A0) 0
  else if n == 0x7C0 then
    setBits (setBits (setBits v 0 3 s.boot) 3 2 s.bootErr) 5 1 s.bootDie
  else
    match regDesc n with
    | some d => v &&& ~~~d.wo
    | none => 0

end Sys2Proof.Machine
end

