-- ==== Sys2Proof/Machine/Memory.lean ====
section
/-! DEFINITION. Memory: the bytes of the physical address map, their write order as seen by monitors, page translation,
and the column cache and L1 copies of a core (08_page, 09_memory). Every location is read and written here. -/

namespace Sys2Proof.Machine

/-! ### Physical memory -/

/-- What a byte that nothing has written reads as (log entry 2). -/
def unwritten : Byte := 0

/-- Canonical form of memory: rising addresses, and no entry equal to what an unlisted address reads as. -/
abbrev Memory.wf (m : List Host.Cell) : Prop := SMap.wf m unwritten = true

def Memory.read (m : List Host.Cell) (pa : Nat) : Byte := SMap.getD m pa unwritten
def Memory.write (m : List Host.Cell) (pa : Nat) (b : Byte) : List Host.Cell := SMap.put m unwritten pa b
def Memory.writes (m : List Host.Cell) (pa : Nat) : List Byte → List Host.Cell
  | [] => m
  | b :: r => Memory.writes (Memory.write m pa b) (pa + 1) r

/-- The physical ranges of 08_page R180. -/
def deviceTop : Nat := 0x1800000000
def isDevice (pa : Nat) : Bool := decide (pa < deviceTop)
def isHost (pa : Nat) : Bool := decide (0x8000000000000 ≤ pa) && decide (pa < 0x10000000000000)
def dieOf (pa : Nat) : Nat := if pa < 0xC00000000 then 0 else 1
/-- Bounds of the range of R180 that holds `pa`. -/
def physRange (pa : Nat) : Option (Nat × Nat) :=
  if pa < 0xC00000000 then some (0, 0xC00000000)
  else if pa < deviceTop then some (0xC00000000, deviceTop)
  else if isHost pa then some (0x8000000000000, 0x10000000000000) else none
/-- The home slice of a device address (09_memory R199). -/
def homeSlice (pa : Nat) : Nat :=
  16 * dieOf pa + (Nat.xor (bitsOf pa 8 4) (Nat.xor (bitsOf pa 12 4) (Nat.xor (bitsOf pa 16 4) (Nat.xor (bitsOf pa 20 4)
    (Nat.xor (bitsOf pa 24 4) (Nat.xor (bitsOf pa 28 4) (bitsOf pa 32 4)))))))
/-- An access from die `d` to `pa` is carried by the culvert (R199, 18_link R379). -/
def crosses (d pa : Nat) : Bool := if isHost pa then d == 1 else dieOf pa != d

def State.byte (s : State) (pa : Nat) : Byte := Memory.read s.mem pa
def State.bytes (s : State) (pa n : Nat) : List Byte := (List.range n).map fun k => s.byte (pa + k)
def State.word64 (s : State) (pa : Nat) : Word := wordOfBytes (s.bytes pa 8)

/-- The comparison of a monitor (11_barrier R255). -/
def cmpWord (cmp : Nat) (w v : Nat) : Bool :=
  match cmp with
  | 0 => w == v
  | 1 => w != v
  | 2 => decide (w < v)
  | 3 => decide (v ≤ w)
  | 4 => Nat.land w v != 0
  | _ => false

/-- The word a monitor compares. -/
def State.monWord (s : State) (m : Monitor) : Nat := leNat (s.bytes m.pa (if m.wide then 8 else 4))
def State.monHolds (s : State) (m : Monitor) : Bool := cmpWord m.cmp (s.monWord m) m.val.toNat

/-- A monitor whose word a write of `n` bytes at `pa` touches, and whose condition holds after it. -/
def State.wakes (s : State) (pa n : Nat) (m : Monitor) : Bool :=
  m.entered && m.outcome.isNone && !m.hit && !m.expire.any (fun t => decide (t < s.now)) && decide (m.pa < pa + n) && decide (pa < m.pa + (if m.wide then 8 else 4))
    && s.monHolds m

/-- A monitor reaches its word across the culvert, which carries nothing now (11_barrier R257). -/
def State.monCut (s : State) (m : Monitor) : Bool :=
  !s.culvertOpen && crosses (match m.gk with | some gk => gkDie gk | none => ((s.team? m.team).map (·.die)).getD 0) m.pa

/-- Monitors entered in a table are compared against a write that has entered the write order (R256): the first match ends a monitor as
met. Across a culvert that carries nothing the wake waits; an async monitor leaves the table. -/
def State.wakeMonitors (s : State) (pa n : Nat) : State :=
  if s.monitors.isEmpty then s
  else
    let end_ := fun (p : Nat × Monitor) =>
      if !s.wakes pa n p.2 then some p
      else if s.monCut p.2 then some (p.1, { p.2 with hit := true })
      else if p.2.async then none
      else some (p.1, { p.2 with hit := true, outcome := some 0 })
    { s with monitors := s.monitors.filterMap end_ }

/-- Marks of units that a write covers wholly are removed. -/
def State.unmark (s : State) (pa n : Nat) : State :=
  let gone := fun (e : ErrPlace) => match e with
    | .memory u => decide (pa ≤ u) && decide (u + 8 ≤ pa + n)
    | .cache u => decide (pa ≤ u) && decide (u + 8 ≤ pa + n)
    | _ => false
  if s.marks.isEmpty && s.moved.isEmpty then s
  else { s with marks := s.marks.filter (fun e => !gone e), moved := s.moved.filter (fun e => !gone e) }

/-- One event that writes bytes at their serialisation point (09_memory R203, R209). -/
def State.writeHome (s : State) (pa : Nat) (bs : List Byte) : State :=
  (State.unmark { s with mem := Memory.writes s.mem pa bs } pa bs.length).wakeMonitors pa bs.length

/-- An 8-byte unit from `u` meets `n` bytes at `pa`. -/
def meetsUnit (pa n u : Nat) : Bool := decide (u < pa + n) && decide (pa < u + 8)
/-- The unit of a home slice or of memory that a place names. -/
def ErrPlace.home? : ErrPlace → Option Nat
  | .memory u => some u
  | .cache u => some u
  | _ => none
/-- The unit of a core's L1, of its column cache, of its instruction cache. -/
def ErrPlace.l1? (ck : Nat) : ErrPlace → Option Nat
  | .l1 d c u => if coreKey d c == ck then some u else none
  | _ => none
def ErrPlace.column? (ck : Nat) : ErrPlace → Option Nat
  | .column d c u => if coreKey d c == ck then some u else none
  | _ => none
def ErrPlace.icache? (ck : Nat) : ErrPlace → Option Nat
  | .icache d c u => if coreKey d c == ck then some u else none
  | _ => none
/-- The poison cause of a read of `n` bytes at their home (15_context R329). -/
def State.homePoison (s : State) (pa n : Nat) : Option Cause :=
  if s.marks.isEmpty && s.moved.isEmpty then none
  else
    let covers := fun (e : ErrPlace) => (ErrPlace.home? e).any (meetsUnit pa n)
    let slice := fun (e : ErrPlace) => match e with | .cache _ => covers e | _ => false
    if s.marks.any slice then some 0xE2 else if s.marks.any covers then some 0xE3 else if s.moved.any covers then some 0xE5 else none
/-- The poison cause of a read of `n` bytes of a cache, whose units `at_` gives. -/
def State.copyPoison (s : State) (at_ : ErrPlace → Option Nat) (pa n : Nat) : Option Cause :=
  let covers := fun (e : ErrPlace) => (at_ e).any (meetsUnit pa n)
  if s.marks.any covers then some 0xE2 else if s.moved.any covers then some 0xE5 else none
/-- Marks of the units of a cache for which `f` holds are dropped. -/
def State.dropCopyMarks (s : State) (at_ : ErrPlace → Option Nat) (f : Nat → Bool) : State :=
  if s.marks.isEmpty && s.moved.isEmpty then s
  else
    let stays := fun (e : ErrPlace) => !(at_ e).any f
    { s with marks := s.marks.filter stays, moved := s.moved.filter stays }

/-- The 8-byte units that a range touches. -/
def unitsOf (pa n : Nat) : List Nat :=
  ((List.range (n / 8 + 2)).map fun k => (pa / 8 + k) * 8).filter fun u => decide (u < pa + n)
/-- Poison the 8-byte units of a written range. -/
def State.poisonMem (s : State) (pa n : Nat) : State :=
  { s with moved := (unitsOf pa n).map ErrPlace.memory ++ s.moved }

/-- The poisoned units of a range that core `ck` has read. -/
def State.badUnits (s : State) (ck pa n : Nat) : List Nat :=
  let at_ := fun (e : ErrPlace) => ErrPlace.home? e <|> ErrPlace.l1? ck e <|> ErrPlace.column? ck e
  (unitsOf pa n).filter fun u => (s.marks ++ s.moved).any fun e => at_ e == some u

/-- Poison 8-byte units that core `ck` has stored to: where its column cache holds the byte, or at the home. -/
def State.poisonStored (s : State) (ck : Nat) (units : List Nat) : State :=
  let place := fun (u : Nat) =>
    if (List.range 8).any fun k => (SMap.get? (s.core ck).col (u + k)).any (·.dirty) then ErrPlace.column (ck / 96) (ck % 96) u else .memory u
  { s with moved := units.map place ++ s.moved }

/-! ### Translation (08_page R181-R191) -/

def leafV (e : Word) : Bool := e.getLsbD 0
def leafFrame (e : Word) : Nat := fld e 12 40
def leafK (e : Word) : Nat := fld e 52 4
def leafHome (e : Word) : Nat := fld e 56 2
def leafClass (e : Word) : Nat := fld e 58 2
def leafGlobal (e : Word) : Bool := e.getLsbD 7

/-- A pointer entry at its level (R181). -/
def isPointer (lvl : Nat) (e : Word) : Bool := lvl == 3 || lvl == 2 || (lvl == 1 && leafK e == 0)

/-- A valid entry is malformed (R183). -/
def malformed (lvl : Nat) (e : Word) : Bool :=
  let frame := leafFrame e
  if isPointer lvl e then
    e &&& ~~~0x000FFFFFFFFFE001 != 0 || !isDevice (frame * 4096)
  else
    let k := leafK e
    let size := 4096 <<< k
    fld e 8 4 != 0 || fld e 60 4 != 0 || (if lvl == 1 then decide (k < 10) else decide (10 ≤ k))
      || frame % (1 <<< k) != 0
      || (match physRange (frame * 4096) with
          | none => true
          | some (_, hi) => decide (hi < frame * 4096 + size))

/-- What a walk finds: a leaf with its level and slot, or a fault, or that it must wait for the culvert. -/
inductive Walk where
  | leaf (e : Word) (lvl slot : Nat)
  | fault (cause : Cause) (lvl : Nat)
  | wait
  deriving DecidableEq, Repr

/-- Keep a pointer entry in the walk cache of a die (R188). -/
def State.holdWalk (s : State) (d : Nat) (t : TlbEntry) : State :=
  s.modDie d fun x => { x with walk := (t :: x.walk.filter fun u => !(u.ctx == t.ctx && u.slot == t.slot)).take 1024 }

/-- The walk of R185 from table `t` at level `lvl`, reading entries at their home. A pointer that the walk cache holds may
serve in place of the entry (R188). -/
def State.walkGo (s : State) (d x va : Nat) : Nat → Nat → Nat → Walk × State
  | 0, _, _ => (.fault 0x35 0, s)
  | fuel + 1, t, lvl =>
    let slot := t + 8 * bitsOf va (12 + 10 * lvl) 10
    let held := ((s.die d).walk.find? fun w => w.ctx == x && w.slot == slot).map (·.leaf)
    if crosses d slot && !s.culvertOpen && held.isNone then (.wait, s)
    else
      let now := s.word64 slot
      let es : Word × State := match held with
        | none => (now, s)
        | some w => if w == now then (now, s) else (if s.flip.1 then w else now, s.flip.2)
      let e := es.1
      if !leafV e then (.fault 0x30 lvl, es.2)
      else if malformed lvl e then (.fault 0x35 lvl, es.2)
      else if isPointer lvl e then
        walkGo (es.2.holdWalk d { ctx := x, unit := va / 4096, leaf := e, slot := slot, lvl := lvl }) d x va fuel
          (leafFrame e * 4096) (lvl - 1)
      else (.leaf e lvl slot, es.2)

/-- The walk of context `x` on die `d` (R185, R179). -/
def State.walkVa (s : State) (d x va : Nat) : Walk × State :=
  let root := s.base (0x480 + x)
  if !isDevice root || bitOf root 12 then (.fault 0x35 3, s) else s.walkGo d x va 4 root 3

/-- Whether a held entry translates the address for the context (R189). -/
def TlbEntry.covers (t : TlbEntry) (x va : Nat) : Bool :=
  (leafGlobal t.leaf || t.ctx == x) && (va / 4096) / (1 <<< leafK t.leaf) == t.unit / (1 <<< leafK t.leaf)

/-- A page that maps a trail ring must have HOME 11 (19_trail R388, R191). -/
def State.mapsTrail (s : State) (lo hi : Nat) : Bool :=
  [0, 1].any fun d =>
    let r := s.raw (0x786 + d)
    let log := fld r 0 5
    let b := fld r 12 40 * 4096
    decide (8 ≤ log) && decide (log ≤ 20) && decide (b < hi) && decide (lo < b + (32 <<< log))

/-- `HomeViolation` (R191). -/
def State.homeViolation (s : State) (e : Word) : Bool :=
  let pa := leafFrame e * 4096
  let h := leafHome e
  (h == 1 && (leafClass e != 2 || isHost pa)) || (h == 2 && isHost pa)
    || (h != 3 && s.mapsTrail pa (pa + (4096 <<< leafK e)))

/-- The checks of `Translate` on a leaf (R185). `kind` is KIND of R194: 0 read, 1 write, 2 execute, 3 atomic. The header of a clause, of
kind execute (R187), needs EXEC alone, though R182 has READ allow it (log entry 115). -/
def State.leafFault (s : State) (e : Word) (kind : Nat) : Option Cause :=
  let wr := kind == 1 || kind == 3
  let rd := kind == 0 || kind == 3
  if leafClass e == 1 && wr then some 0x36
  else if kind == 3 && !e.getLsbD 4 then some 0x34
  else if rd && !e.getLsbD 1 then some 0x31
  else if wr && !e.getLsbD 2 then some 0x32
  else if kind == 2 && !e.getLsbD 3 then some 0x33
  else if s.homeViolation e then some 0x37 else none

/-- A translated address. -/
structure Phys where
  pa : Nat
  home : Nat
  cls : Nat
  lvl : Nat
  src : TlbEntry      -- the translation
  deriving DecidableEq, Repr

/-- What a translation makes of an address of its page (R185). -/
def TlbEntry.phys (t : TlbEntry) (va : Nat) : Phys :=
  { pa := leafFrame t.leaf * 4096 + va % (4096 <<< leafK t.leaf), home := leafHome t.leaf, cls := leafClass t.leaf, lvl := t.lvl, src := t }
/-- Bytes from an address to the end of its page. -/
def Phys.left (p : Phys) (va : Nat) : Nat := (4096 <<< leafK p.src.leaf) - va % (4096 <<< leafK p.src.leaf)

inductive Tr where
  | ok (p : Phys)
  | fault (cause : Cause) (lvl : Nat)
  | wait
  deriving DecidableEq, Repr

/-- Keep a translation in the core and cluster TLBs (R188). -/
def State.holdTlb (s : State) (ck : Nat) (t : TlbEntry) : State :=
  let keep := fun (n : Nat) (l : List TlbEntry) => (t :: l.filter fun u => !(u.ctx == t.ctx && u.slot == t.slot && u.unit == t.unit)).take n
  let s := s.modCore ck fun c => { c with tlb := keep 64 c.tlb }
  s.modCluster (clusterOf ck) fun c => { c with tlb := keep 4096 c.tlb }

/-- ACC, and for a write or atomic DIRTY too (R186). -/
def accessBits (kind : Nat) : Word := if kind == 1 || kind == 3 then 0x60 else 0x20
/-- An OR into the 8-byte unit at `pa`, one event at its home. It covers no unit: a poisoned one keeps its mark (15_context R329). -/
def State.orHome (s : State) (pa : Nat) (w : Word) : State :=
  ({ s with mem := Memory.writes s.mem pa (bytesOfWord (s.word64 pa ||| w)) } : State).wakeMonitors pa 8
/-- `SetAccessed` (R186): the OR of ACC and DIRTY at the entry's home. -/
def State.setAccessed (s : State) (slot : Nat) (e : Word) (kind : Nat) : Word × State :=
  let need := accessBits kind
  if e &&& need == need then (e, s)
  else (e ||| need, s.orHome slot need)

/-- A performance counter of the core counts an event (19_trail R397). -/
def State.countPerf (s : State) (ck sel : Nat) : State :=
  s.modCore ck fun c => { c with perf := SMap.set c.perf sel (SMap.getD c.perf sel 0 + 1) }

/-- A held translation serves the access without a walk: it faults, or its ACC and DIRTY are set already (R185, R186). -/
def State.heldServes (s : State) (t : TlbEntry) (kind : Nat) : Bool :=
  (s.leafFault t.leaf kind).isSome || t.leaf &&& accessBits kind == accessBits kind

/-- `Translate` (03_encoding R70, 08_page R185) of a 52-bit address for context `x` through core `ck`. A translation that
a TLB holds and that differs from the walk's result may serve in its place (R188-R190). -/
def State.translate (s : State) (ck x va kind : Nat) : Tr × State :=
  let d := ck / 96
  let (walked, s) := s.walkVa d x va
  let s := if (s.core ck).tlb.any fun t => t.covers x va then s else s.countPerf ck 11
  let held := (((s.core ck).tlb ++ (s.cluster (clusterOf ck)).tlb).find? fun t => t.covers x va).filter fun t => s.heldServes t kind
  let (use, s) : Walk × State := match held with
    | some t =>
      if walked == .leaf t.leaf t.lvl t.slot then (walked, s)
      else let (f, s') := s.flip; (if f then .leaf t.leaf t.lvl t.slot else walked, s')
    | none => (walked, s)
  match use with
  | .fault c l => (.fault c l, s)
  | .wait => (.wait, s)
  | .leaf e lvl slot =>
    match s.leafFault e kind with
    | some c => (.fault c lvl, s)
    | none =>
      let (e', s) := s.setAccessed slot e kind
      let t : TlbEntry := { ctx := x, unit := va / 4096, leaf := e', slot := slot, lvl := lvl }
      (.ok (t.phys va), s.holdTlb ck t)

/-- Bytes of an access that lie in one page. -/
structure Seg where
  p : Phys
  len : Nat
  deriving DecidableEq, Repr

inductive TrRange where
  | ok (segs : List Seg)
  | fault (cause : Cause) (lvl : Nat) (va : Nat)
  | wait
  deriving DecidableEq, Repr

/-- Translate an access of `n` bytes, which lies in one page or in two (09_memory R203, R221). A second page beyond the 52-bit space
gives `0x43` (R179). -/
def State.translateRange (s : State) (ck x va n kind : Nat) : TrRange × State :=
  match s.translate ck x va kind with
  | (.fault c l, s) => (.fault c l va, s)
  | (.wait, s) => (.wait, s)
  | (.ok p, s) =>
    let first := min n (p.left va)
    if first == n then (.ok [⟨p, n⟩], s)
    else if 0x10000000000000 ≤ va + first then (.fault 0x43 0 va, s)
    else match s.translate ck x (va + first) kind with
      | (.fault c l, s) => (.fault c l (va + first), s)
      | (.wait, s) => (.wait, s)
      | (.ok q, s) => (.ok [⟨p, first⟩, ⟨q, n - first⟩], s)

/-- Some page of the access needs the culvert, which carries nothing now. -/
def State.blockedSegs (s : State) (d : Nat) (segs : List Seg) : Bool :=
  !s.culvertOpen && segs.any fun g => crosses d g.p.pa

/-! ### The caches of a core (09_memory R200-R202, R213) -/

def lineOf (pa : Nat) : Nat := pa / 256
/-- The lines of a core's column cache: those with a byte, and those that are pinned. -/
def Core.lines (c : Core) : List Nat := (c.col.map (fun e => lineOf e.1) ++ c.pins.map (·.1)).eraseDups
def colMates (a b : Nat) : Bool := Config.colSet a % 256 == Config.colSet b % 256
def cachesL1 (p : Phys) : Bool := p.home == 0 && !isHost p.pa
def cachesColumn (p : Phys) : Bool := (p.home == 0 || p.home == 1) && p.cls == 2 && !isHost p.pa

/-- The marked units of a core's column cache that have a dirty byte among those for which `f` holds. -/
def State.dirtyMarks (s : State) (ck : Nat) (f : Nat → Bool) : List Nat :=
  ((s.marks ++ s.moved).filterMap (ErrPlace.column? ck)).filter fun u =>
    (s.core ck).col.any fun b => b.2.dirty && f b.1 && b.1 / 8 == u / 8
/-- Bytes of a line may be written back now: their home is on the core's die, or the culvert carries traffic (R199, 18_link R382). -/
def State.canClean (s : State) (ck line : Nat) : Bool := s.culvertOpen || !crosses (ck / 96) (256 * line)
/-- Dirty bytes of a core's column cache wait for the culvert, which carries nothing now. -/
def State.cleanWaits (s : State) (ck : Nat) : Bool :=
  !s.culvertOpen && (s.core ck).col.any fun e => e.2.dirty && crosses (ck / 96) e.1
/-- An ordering at a scope of die or wider writes back every dirty byte of the core (R213), and some have to wait. -/
def State.orderWaits (s : State) (ck scope : Nat) : Bool := decide (4 ≤ scope) && s.cleanWaits ck

/-- Write back the dirty bytes of a core's column cache for which `f` holds, one event for each run of dirty bytes of an 8-byte unit,
and mark them clean. A poisoned unit keeps its mark at its home (15_context R329). Bytes that cannot cross the culvert now stay dirty. -/
def State.cleanColumn (s : State) (ck : Nat) (f : Nat → Bool) : State :=
  let c := s.core ck
  let f := fun (a : Nat) => f a && s.canClean ck (lineOf a)
  let dirty := c.col.filter fun (a, b) => b.dirty && f a
  if dirty.isEmpty then s
  else
    let bad := s.dirtyMarks ck f
    let s := s.setCore ck { c with col := c.col.map fun (a, b) => if f a then (a, { b with dirty := false }) else (a, b) }
    let step := fun (acc : State × Option (Nat × List Byte)) (e : Nat × ColByte) =>
      match acc.2 with
      | none => (acc.1, some (e.1, [e.2.val]))
      | some (a, bs) =>
        if e.1 == a + bs.length && e.1 / 8 == a / 8 then (acc.1, some (a, bs ++ [e.2.val]))
        else (acc.1.writeHome a bs, some (e.1, [e.2.val]))
    let s := match dirty.foldl step (s, none) with
      | (s, none) => s
      | (s, some (a, bs)) => s.writeHome a bs
    if bad.isEmpty then s else { s with moved := bad.map ErrPlace.memory ++ s.moved }

/-- `CCLN` (R226): every dirty byte is written back. -/
def State.ccln (s : State) (ck : Nat) : State := s.cleanColumn ck fun _ => true
/-- The bytes of the lines for which `f` holds leave the L1, and the column cache, with their marks; a byte that could not be written
back stays in the column cache. -/
def State.dropL1 (s : State) (ck : Nat) (f : Nat → Bool) : State :=
  (s.modCore ck fun c => { c with l1 := c.l1.filter fun e => !f e.1 }).dropCopyMarks (ErrPlace.l1? ck) f
def State.dropColumn (s : State) (ck : Nat) (f : Nat → Bool) : State :=
  let s := (s.cleanColumn ck f).modCore ck fun c => { c with col := c.col.filter fun e => !f e.1 || e.2.dirty }
  s.dropCopyMarks (ErrPlace.column? ck) fun u => f u && !(s.core ck).col.any fun e => e.2.dirty && e.1 / 8 == u / 8
/-- `CINV` (R226): clean, then invalidate the column cache and the L1. Pinned lines keep their ways. -/
def State.cinv (s : State) (ck : Nat) : State := (s.dropColumn ck fun _ => true).dropL1 ck fun _ => true
/-- Before an atomic, `LDL`, `STL` or `TST`: the line's dirty bytes are written back and its copies invalidated (R215). -/
def State.dropLine (s : State) (ck pa : Nat) : State :=
  let same := fun (a : Nat) => lineOf a == lineOf pa
  (s.dropColumn ck same).dropL1 ck same

/-- The orderings of R213 on the caches of the issuing core. -/
def State.acquire (s : State) (ck scope : Nat) : State := if 4 ≤ scope then s.cinv ck else s
def State.release (s : State) (ck scope : Nat) : State := if 4 ≤ scope then s.ccln ck else s

/-- The other lines of a line's set. -/
def Core.mates (c : Core) (line : Nat) : List Nat := c.lines.filter fun l => l != line && colMates l line
/-- Those that may leave: lines that are not pinned and whose dirty bytes can be written back now. -/
def State.victims (s : State) (ck line : Nat) : List Nat :=
  let c := s.core ck
  (c.mates line).filter fun l =>
    !(c.pins.any fun q => q.1 == l) && (s.canClean ck l || !c.col.any fun e => lineOf e.1 == l && e.2.dirty)
/-- The 16 ways of a line's set are taken (R201). -/
def Core.setFull (c : Core) (line : Nat) : Bool := !c.lines.contains line && decide (16 ≤ (c.mates line).length)
/-- No way of its set can take a line: the access passes to the home slice. -/
def State.noRoom (s : State) (ck line : Nat) : Bool := (s.core ck).setFull line && (s.victims ck line).isEmpty
/-- A line comes into the column cache: another line of its set leaves where the 16 ways are taken. -/
def State.columnRoom (s : State) (ck line : Nat) : State :=
  if !(s.core ck).setFull line || (s.victims ck line).isEmpty then s
  else
    let (k, t) := s.pick (s.victims ck line).length
    t.dropColumn ck fun a => lineOf a == (s.victims ck line).getD k 0

/-- A core holds bytes of the line of an address. -/
def Core.holds (c : Core) (pa : Nat) : Bool :=
  c.col.any (fun e => lineOf e.1 == lineOf pa) || c.l1.any fun e => lineOf e.1 == lineOf pa
/-- The line leaves a core that holds it. -/
def State.dropHeld (s : State) (ck pa : Nat) : State := if (s.core ck).holds pa then s.dropLine ck pa else s
/-- A line takes a way of its home slice: it is kept nowhere else (R200). -/
def State.pinSlice (s : State) (p : Phys) : State :=
  (s.cores.map (·.1)).foldl (fun s ck => s.dropHeld ck p.pa) { s with slicePins := s.slicePins ++ [(lineOf p.pa, p.src)] }
/-- A line takes one of the 4 ways of a column cache (08_page R191); the L1 keeps no pinned line. -/
def State.pinColumn (s : State) (ck : Nat) (p : Phys) : State :=
  ((s.columnRoom ck (lineOf p.pa)).dropL1 ck fun a => lineOf a == lineOf p.pa).modCore ck fun c =>
    { c with pins := c.pins ++ [(lineOf p.pa, p.src)] }
/-- How a line is kept: HOME, but that a pinned line beyond the ways of its home is kept as HOME `00` would keep it (08_page R191). A
line that can take a pinned way takes it at this access, and keeps it. -/
def State.keptAs (s : State) (ck : Nat) (p : Phys) : Nat × State :=
  let line := lineOf p.pa
  if p.home == 1 then
    let c := s.core ck
    if c.pins.any fun q => q.1 == line then (1, s)
    else if (c.pins.filter fun q => colMates q.1 line).length < 4 && !s.noRoom ck line then (1, s.pinColumn ck p)
    else (0, s)
  else if p.home == 2 then
    let slice := homeSlice p.pa
    let mates := s.slicePins.filter fun q => homeSlice (256 * q.1) == slice && Config.sliceSet q.1 % 1024 == Config.sliceSet line % 1024
    if s.slicePins.any fun q => q.1 == line then (2, s.dropHeld ck p.pa)
    else if mates.length < s.rf (0x200 + slice) 16 5 then (2, s.pinSlice p)
    else (0, s)
  else (p.home, s)

/-- The value of a byte below the L1: a dirty byte of the column cache, with `held` a clean one too, otherwise the home's. -/
def State.below (s : State) (ck : Nat) (held : Bool) (pa n : Nat) : List Byte :=
  let c := s.core ck
  (List.range n).map fun k => match SMap.get? c.col (pa + k) with
    | some b => if b.dirty || held then b.val else s.byte (pa + k)
    | none => s.byte (pa + k)

/-- The column cache holds a whole 8-byte unit, all of it dirty. -/
def Core.owns (c : Core) (u : Nat) : Bool := (List.range 8).all fun k => (SMap.get? c.col (u + k)).any (·.dirty)
/-- A miss of the column cache fetches the line: every byte that is not dirty comes from the home, poison marks with it. -/
def State.fillColumn (s : State) (ck : Nat) (p : Phys) : State :=
  let s := s.columnRoom ck (lineOf p.pa)
  let lo := p.pa / 256 * 256
  let c := s.core ck
  let s' := s.modCore ck fun c => { c with
    col := (List.range 256).foldl (fun m k =>
      if (SMap.get? m (lo + k)).any (·.dirty) then m else SMap.set m (lo + k) { val := s.byte (lo + k), dirty := false, since := 0 }) c.col }
  if s.marks.isEmpty && s.moved.isEmpty then s'
  else
    let units := ((List.range 32).map fun k => lo + 8 * k).filter fun u => !c.owns u
    let s' := s'.dropCopyMarks (ErrPlace.column? ck) units.contains
    { s' with moved := (units.filter fun u => (s.homePoison u 8).isSome).map (ErrPlace.column (ck / 96) (ck % 96)) ++ s'.moved }

/-- A read of `n` bytes of one line past the L1: the bytes and the poison they carry. A clean copy that differs from the home may or
may not still be held, a free value, unless it is pinned. -/
def State.readColumn (s : State) (ck : Nat) (p : Phys) (n : Nat) : List Byte × Option Cause × State :=
  if !cachesColumn p || s.noRoom ck (lineOf p.pa) then (s.bytes p.pa n, s.homePoison p.pa n, s)
  else
    let same := fun (a : Nat) => lineOf a == lineOf p.pa
    let held := (List.range n).all fun k => SMap.has (s.core ck).col (p.pa + k)
    let all := s.below ck true p.pa n
    let stale := held && all != s.below ck false p.pa n && !(s.core ck).pins.any fun q => q.1 == lineOf p.pa
    let (keep, s) : Bool × State := if stale then s.flip else (held, s)
    if keep then (all, s.copyPoison (ErrPlace.column? ck) p.pa n, s.countPerf ck 4)
    else
      let s := if held then s.modCore ck fun c => { c with col := c.col.filter fun e => e.2.dirty || !same e.1 } else s
      let c := s.core ck
      let bad := (unitsOf p.pa n).findSome? fun u =>
        if c.owns u then s.copyPoison (ErrPlace.column? ck) u 8 else s.homePoison u 8 <|> s.copyPoison (ErrPlace.column? ck) u 8
      (s.below ck false p.pa n, if s.marks.isEmpty && s.moved.isEmpty then none else bad, (s.fillColumn ck p).countPerf ck 5)

/-- Clean bytes of an 8-byte unit that a core's column cache holds in part leave it: no copy is made of a unit from two times (R203). -/
def State.dropParts (s : State) (ck lo len : Nat) : State :=
  let c := s.core ck
  let part := fun (a : Nat) => decide (lo ≤ a) && decide (a < lo + len) && !(List.range 8).all fun k => SMap.has c.col (a / 8 * 8 + k)
  if c.col.any fun e => !e.2.dirty && part e.1 then s.modCore ck fun c => { c with col := c.col.filter fun e => e.2.dirty || !part e.1 } else s

/-- The 32-byte sectors of an access come into the L1, and another line leaves where its 512 lines are taken (01_device R15). -/
def State.fillL1 (s : State) (ck : Nat) (p : Phys) (n : Nat) : State :=
  let lo := p.pa / 32 * 32
  let len := (p.pa + n - 1) / 32 * 32 + 32 - lo
  let others := (((s.core ck).l1.map fun e => lineOf e.1).eraseDups).filter (· != lineOf p.pa)
  let s := if others.length < 512 then s
    else let (k, s) := s.pick others.length; s.dropL1 ck fun a => lineOf a == others.getD k 0
  let s := s.dropParts ck lo len
  let v := s.below ck true lo len
  let s' := s.modCore ck fun c => { c with l1 := (List.range len).foldl (fun m k => SMap.set m (lo + k) (v.getD k 0)) c.l1 }
  if s.marks.isEmpty && s.moved.isEmpty then s'
  else
    let inCol := fun (u : Nat) => SMap.has (s.core ck).col u
    let bad := fun (u : Nat) => ((if inCol u then none else s.homePoison u 8) <|> s.copyPoison (ErrPlace.column? ck) u 8).isSome
    let units := (List.range (len / 8)).map fun k => lo + 8 * k
    let s' := s'.dropCopyMarks (ErrPlace.l1? ck) units.contains
    { s' with moved := (units.filter bad).map (ErrPlace.l1 (ck / 96) (ck % 96)) ++ s'.moved }

/-- A plain read of `n` bytes of one line through the core's L1 and column cache (R200, R203): the bytes and the poison they carry. An
L1 copy that differs from what lies below it may or may not still be held: a free value. -/
def State.readLine (s : State) (ck : Nat) (p : Phys) (n : Nat) : List Byte × Option Cause × State :=
  let (home, s) := s.keptAs ck p
  let p := { p with home := home }
  if !cachesL1 p then s.readColumn ck p n
  else
    let range := (List.range n).map (p.pa + ·)
    let held := range.all fun a => SMap.has (s.core ck).l1 a
    let top := range.map fun a => SMap.getD (s.core ck).l1 a 0
    let (keep, s) : Bool × State := if held && top != s.below ck false p.pa n then s.flip else (held, s)
    if keep then (top, s.copyPoison (ErrPlace.l1? ck) p.pa n, s.countPerf ck 9)
    else
      let s := s.dropL1 ck fun a => decide (p.pa / 32 ≤ a / 32) && decide (a / 32 ≤ (p.pa + n - 1) / 32)
      let (bs, bad, s) := s.readColumn ck p n
      (bs, bad, (s.fillL1 ck p n).countPerf ck 10)

/-- The parts of `n` bytes at `pa` by line: address and length. -/
def linePartsAux : Nat → Nat → Nat → List (Nat × Nat)
  | 0, _, _ => []
  | fuel + 1, pa, n =>
    let k := min n (256 - pa % 256)
    if n == 0 then [] else (pa, k) :: linePartsAux fuel (pa + k) (n - k)
def lineParts (pa n : Nat) : List (Nat × Nat) := linePartsAux (n / 256 + 2) pa n

/-- A plain read of `n` bytes of one page. -/
def State.readCached (s : State) (ck : Nat) (p : Phys) (n : Nat) : List Byte × Option Cause × State :=
  (lineParts p.pa n).foldl (fun (acc : List Byte × Option Cause × State) q =>
    let r := acc.2.2.readLine ck { p with pa := q.1 } q.2
    (acc.1 ++ r.1, acc.2.1 <|> r.2.1, r.2.2)) ([], none, s)

/-- The events of a store that goes to its home (R203): one of a naturally aligned datum of up to 8 bytes, two of an aligned one of 16,
and one a byte of any other, here in ascending order (log entry 96). -/
def State.writeEvents (s : State) (pa : Nat) (bs : List Byte) : State :=
  let n := bs.length
  if n ≤ 8 && pa % n == 0 then s.writeHome pa bs
  else if n == 16 && pa % 16 == 0 then (s.writeHome pa (bs.take 8)).writeHome (pa + 8) (bs.drop 8)
  else bs.zipIdx.foldl (fun s b => s.writeHome (pa + b.2) [b.1]) s

/-- When the oldest store that a dirty byte holds back was made: R202 bounds each store. -/
def firstStore (now : Nat) (old : Option ColByte) : Nat := (old.filter (·.dirty)).elim now (·.since)

/-- A store of bytes within one line (R201): the L1 copy, then the column cache of an activations page, or the home. A line that the
dead-block predictor marks, or for which no way is free, passes to the home slice. It hits what it finds held, and misses otherwise
(19_trail R397). -/
def State.writeLine (s : State) (ck : Nat) (p : Phys) (bs : List Byte) : State :=
  let n := bs.length
  let (home, s) := s.keptAs ck p
  let p := { p with home := home }
  let whole := fun (u : Nat) => decide (p.pa ≤ u) && decide (u + 8 ≤ p.pa + n)
  let upd := fun (m : SMap Byte) => (List.range n).foldl (fun m k =>
    if SMap.has m (p.pa + k) then SMap.set m (p.pa + k) (bs.getD k 0) else m) m
  let inL1 := (List.range n).all fun k => SMap.has (s.core ck).l1 (p.pa + k)
  let s := if cachesL1 p then s.countPerf ck (if inL1 then 9 else 10) else s
  let s := if (s.core ck).l1.isEmpty then s else (s.modCore ck fun c => { c with l1 := upd c.l1 }).dropCopyMarks (ErrPlace.l1? ck) whole
  if !cachesColumn p then s.writeEvents p.pa bs
  else
    let inCol := (s.core ck).col.any fun e => lineOf e.1 == lineOf p.pa
    let full := s.noRoom ck (lineOf p.pa)
    let s := s.countPerf ck (if inCol then 4 else 5)
    let (bypass, s) := if inCol || p.home == 1 then (false, s) else if full then (true, s) else s.flip
    if bypass then s.writeEvents p.pa bs
    else
      let s := s.columnRoom ck (lineOf p.pa)
      (s.modCore ck fun c => { c with
        col := (List.range n).foldl (fun m k =>
          SMap.set m (p.pa + k) { val := bs.getD k 0, dirty := true, since := firstStore s.now (SMap.get? m (p.pa + k)) }) c.col }).dropCopyMarks (ErrPlace.column? ck) whole

/-- A store of bytes within one page. -/
def State.writeCached (s : State) (ck : Nat) (p : Phys) (bs : List Byte) : State :=
  (lineParts p.pa bs.length).foldl (fun (s : State) q => s.writeLine ck { p with pa := q.1 } ((bs.drop (q.1 - p.pa)).take q.2)) s

/-- `Mem.Read` of generic space (R70, R213): acquires at die scope and above read at the home slice. The bytes, and the poison they
carry. -/
def State.memRead (s : State) (ck : Nat) (segs : List Seg) (acq : Bool) (scope : Nat) : List Byte × Option Cause × State :=
  let home := acq && 4 ≤ scope
  segs.foldl (fun (acc : List Byte × Option Cause × State) g =>
    let r : List Byte × Option Cause × State :=
      if home then
        let s := acc.2.2.dropLine ck g.p.pa
        (s.bytes g.p.pa g.len, s.homePoison g.p.pa g.len, s)
      else acc.2.2.readCached ck g.p g.len
    (acc.1 ++ r.1, acc.2.1 <|> r.2.1, r.2.2)) ([], none, s)

/-- `Mem.Write` of generic space: releases at die scope and above write at the home slice after the core's dirty bytes. -/
def State.memWrite (s : State) (ck : Nat) (segs : List Seg) (bs : List Byte) (rel : Bool) (scope : Nat) : State :=
  let home := rel && 4 ≤ scope
  (segs.foldl (fun (acc : List Byte × State) g =>
    let part := acc.1.take g.len
    let s := if home then (acc.2.dropLine ck g.p.pa).writeHome g.p.pa part else acc.2.writeCached ck g.p part
    (acc.1.drop g.len, s)) (bs, s)).2

/-- The device's own translation of the pages of a virtual range sets their ACC (R186); pages that it may not read stay as they are. -/
def State.touchPages (s : State) (d x va n kind : Nat) : State :=
  if 0x10000000000000 < va + n then s
  else (List.range ((va % 4096 + n + 4095) / 4096)).foldl (fun s k =>
    match s.walkVa d x ((va / 4096 + k) * 4096) with
    | (.leaf e _ slot, t) => if (t.leafFault e kind).isSome then t else (t.setAccessed slot e kind).2
    | (_, t) => t) s

/-- The bytes of a virtual range as a context maps it, for the device's own reads of images and records: no permission
but that the pages are present and allow the kind, and no cache. -/
def State.readVirt (s : State) (d x va n kind : Nat) : Option (List Byte) :=
  let page := fun (a : Nat) => match (s.walkVa d x a).1 with
    | .leaf e _ _ => if (s.leafFault e kind).isSome then none else some (leafFrame e * 4096 + a % (4096 <<< leafK e))
    | _ => none
  let rec go : Nat → Nat → Nat → Option (List Byte)
    | 0, _, _ => some []
    | _ + 1, _, 0 => some []
    | fuel + 1, a, k =>
      let len := min k (4096 - a % 4096)
      match page (a % 0x10000000000000) with
      | none => none
      | some pa => match go fuel (a + len) (k - len) with
        | none => none
        | some r => some (s.bytes pa len ++ r)
  if 0x10000000000000 < va + n then none else go (n / 4096 + 2) va n

end Sys2Proof.Machine
end

