-- ==== Sys2Proof/Machine/Report.lean ====
section
/-! DEFINITION. What the device tells the host: MSI-X messages (18_link R376), the report queue (08_page R194, R195) and
the trail (19_trail R388, R389). -/

namespace Sys2Proof.Machine

/-- Word 1 of a vector that nothing has written: masked (log entry 4). -/
def msixDefault : Word := 0x100000000
/-- MSI-X table words: two a vector; vector control is [63:32] of the second. -/
def State.msixWord (s : State) (i : Nat) : Word := SMap.getD s.msix i (if i % 2 = 1 then msixDefault else 0)
def State.msixMasked (s : State) (v : Nat) : Bool := (s.msixWord (2 * v + 1)).getLsbD 32

/-- The errors that a message tells of (18_link R372). -/
def AerStatus.note (a : AerStatus) (m : HostMsg) : AerStatus :=
  match m with
  | .unsupported => { a with unsupported := true }
  | .abort => { a with abort := true }
  | .poisoned _ => { a with poisoned := true }
  | _ => a
def State.send (s : State) (m : HostMsg) : State := { s with hostOut := s.hostOut ++ [m], aer := s.aer.note m }
/-- The left die is halted: what the endpoint serves beside its always-on registers completes with Completer Abort (20_bringup
R401). -/
def State.endpointDown (s : State) : Bool := (s.die 0).tripped

/-- A command that reaches the device through BAR 0: before boot stage 3 it is ignored, and while the left die is halted it completes with
Completer Abort (20_bringup R400, R401). -/
def State.hostCommand (s : State) (f : State → State) : State :=
  if s.endpointDown then s.send .abort else if s.boot < 3 then s else f s

/-- Raise an MSI-X vector: a masked one becomes pending (R376), and while the left die is halted none is sent. -/
def State.raiseVec (s : State) (v : Nat) : State :=
  if s.msixMasked v || s.endpointDown then { s with msixPend := if s.msixPend.contains v then s.msixPend else s.msixPend ++ [v] }
  else s.send (.msix v)

/-- A record joins those that wait on its die; it receives the device's next SEQ (R194, R195). Of records that no faulting instruction
causes none is lost: they join beyond 256 too (log entry 91). -/
def State.report (s : State) (d : Nat) (mk : Nat → Report) : State :=
  ({ s with seq := s.seq + 1 } : State).modDie d fun x => { x with reports := x.reports ++ [mk s.seq.toNat] }

/-- The store of waiting records of a die is full (R195). -/
def State.reportsFull (s : State) (d : Nat) : Bool := decide (256 ≤ (s.die d).reports.length)

/-- The fields of the layout of R194. -/
structure Rec where
  va : Nat := 0
  cause : Cause := 0
  kind : Nat := 0
  lvl : Nat := 0
  pc : Nat := 0
  pos : Nat := 0
  lane : Nat := 0
  ctx : Nat := 0
  die : Nat := 0
  core : Nat := 0
  slot : Nat := 0
  done : Mask := 0
  node : W32 := 0
  rkind : Nat := 0
  deriving DecidableEq, Repr

def Rec.report (r : Rec) (seq : Nat) : Report :=
  { w0 := BitVec.ofNat 64 (r.va % (1 <<< 52) + (r.cause.toNat <<< 52) + ((r.kind % 4) <<< 60) + ((r.lvl % 4) <<< 62)),
    w1 := BitVec.ofNat 64 (r.pc % (1 <<< 52) + ((r.pos % 16) <<< 52) + ((r.lane % 256) <<< 56)),
    w2 := BitVec.ofNat 64 (r.ctx % 64 + ((r.die % 2) <<< 6) + ((r.core % 128) <<< 7) + ((r.slot % 64) <<< 14)
      + (r.done.toNat <<< 20)),
    w3 := BitVec.ofNat 64 (r.node.toNat + ((seq % 65536) <<< 32) + ((r.rkind % 256) <<< 56)) }

def Report.bytes (r : Report) : List Byte := bytesOfWord r.w0 ++ bytesOfWord r.w1 ++ bytesOfWord r.w2 ++ bytesOfWord r.w3
/-- SEQ, CTX and CAUSE of a record. -/
def Report.seq (r : Report) : Nat := fld r.w3 32 16

/-- The report queue is set up: its size in records (R195). -/
def State.rqSize (s : State) : Option Nat :=
  let log := s.rf 0x225 0 5
  if 4 ≤ log && log ≤ 16 then some (1 <<< log) else none
/-- A record can be written to the ring (R195). -/
def State.rqRoom (s : State) : Bool :=
  match s.rqSize with
  | none => false
  | some n => (s.rf 0x226 0 16 + 1) % n != s.rf 0x227 0 16 % n

/-- The oldest record of a die can be written: there is room, the endpoint runs and the right die reaches it. -/
def State.canReport (s : State) (d : Nat) : Bool :=
  s.rqRoom && !s.endpointDown && (d == 0 || s.culvertOpen) && !(s.die d).reports.isEmpty

/-- The vector that the transition raises of which a record of the links tells (18_link R376, R381, R385): of the culvert, of an
output. -/
def State.linkVec (s : State) (r : Report) : Option Nat :=
  if fld r.w3 56 8 != 0x0B then none
  else if fld r.w1 0 8 == 1 then some (s.rf 0x740 2 11)
  else if fld r.w1 0 8 == 3 then some (s.rf (0x748 + fld r.w1 16 1) 4 11)
  else none

/-- `REPORT RECORD WRITE` (R195): the die's oldest waiting record goes to the ring, TAIL advances, VEC is raised, and after it the vector
of the transition that the record announces (log entry 111). -/
def State.writeReport (s : State) (d : Nat) : State :=
  match (s.die d).reports, s.rqSize with
  | r :: rest, some n =>
    if !s.canReport d then s
    else
      let tail := s.rf 0x226 0 16
      let s := s.modDie d fun x => { x with reports := rest }
      let s := s.writeHome (s.base 0x224 + 32 * (tail % n)) r.bytes
      let s := s.setRaw 0x226 (BitVec.ofNat 64 ((tail + 1) % n))
      (s.linkVec r).toList.foldl State.raiseVec (s.raiseVec (s.rf 0x225 16 11))
  | _, _ => s

/-- A trail record of die `d` (19_trail R388, R389): TIME, KIND, DIE and CTX, INDEX, SEQ and 16 payload bytes. -/
def State.trailAt (s : State) (d time kind ctx index : Nat) (payload : List Byte) : State :=
  if (s.die d).tripped then s else
  let seq := (s.die d).trailSeq
  let log := s.rf (0x786 + d) 0 5
  let bytes := leBytes 8 time ++ [BitVec.ofNat 8 kind, BitVec.ofNat 8 (d + 2 * ctx)] ++ leBytes 2 index ++ leBytes 4 seq
    ++ (payload ++ List.replicate 16 0).take 16
  let s := if 8 ≤ log && log ≤ 20 then s.writeHome (s.base (0x786 + d) + 32 * (seq % (1 <<< log))) bytes else s
  s.modDie d fun x => { x with trailSeq := seq + 1 }
def State.trail (s : State) (d kind ctx index : Nat) (payload : List Byte) : State :=
  s.trailAt d (s.die d).ticks kind ctx index payload

/-- Ticks of a number of µs. -/
def usTicks (us : Nat) : Nat := us * 10000

/-- Count of lost requests of the culvert, saturating (18_link R382). -/
def State.countLost (s : State) (n : Nat) : State :=
  { s with culvert := { s.culvert with lost := min 65535 (s.culvert.lost + n) } }

end Sys2Proof.Machine
end

