-- ==== Sys2Proof/Machine/Ops.lean ====
section
/-! DEFINITION. The named operations over groups and teams: placing threads, issue groups, halts, TAKING A TRAP (15_context
R314-R322) as one shared operation with the return from one beside it, and the exit of threads, groups and teams. -/

namespace Sys2Proof.Machine

/-! ### Issue groups -/

def State.ig? (s : State) (pk : Nat) : Option IssueGroup := SMap.get? s.active pk
def State.setIg (s : State) (pk : Nat) (ig : IssueGroup) : State := { s with active := SMap.set s.active pk ig }
def State.dropIg (s : State) (pk : Nat) : State := { s with active := SMap.erase s.active pk }

/-- Address of the issue group's next instruction word (03_encoding R52). -/
def IssueGroup.pc (ig : IssueGroup) : Word := ig.hdr + BitVec.ofNat 64 (8 * (ig.pos + 1))
/-- The header that follows the clause (R52). -/
def IssueGroup.nextHdr (ig : IssueGroup) : Word := ig.hdr + BitVec.ofNat 64 (8 * (ig.count + 1))
/-- Where a lane that has completed the current instruction stands: header and position. -/
def IssueGroup.after (ig : IssueGroup) : Word × Nat :=
  if ig.pos + 1 < ig.count then (ig.hdr, ig.pos + 1) else (ig.nextHdr, 0)

/-- Threads that leave an issue group and stand at a header and position. -/
def Thread.stand (t : Thread) (hdr : Word) (pos : Nat) (branch : Bool) (mark : Nat) : Thread :=
  { t with
      hdr := hdr, pos := pos, viaBranch := branch, opMark := mark, inIssue := false, block := none,
      hold := none }

/-- Part of a suspended issue group. -/
def IssueGroup.part (ig : IssueGroup) (m : Mask) : IssueGroup :=
  { ig with
      mask := ig.mask &&& m, done := ig.done &&& m, raised := lanes fun l => if m.getLsbD l then Lanes.at ig.raised l else 0,
      arr := ig.arr &&& m, was := ig.was &&& m,
      bar := ig.bar.map fun b => (b.1, b.2.1, b.2.2 &&& m),
      mons := ig.mons.filter fun p => m.getLsbD p.1, traps := ig.traps.filter fun p => m.getLsbD p.2.toNat }

/-- A fresh issue group at a header and position. -/
def IssueGroup.form (slot : Nat) (mask : Mask) (hdr : Word) (pos cls count : Nat) (conv : Bool) : IssueGroup :=
  { slot := slot, mask := mask, hdr := hdr, pos := pos, cls := cls, conv := conv, count := count, done := 0,
    raised := Vector.replicate 32 0, arr := 0, was := 0, tok := Vector.replicate 32 0, bar := none, mons := [], block := none, since := 0,
    sent := false, op := 0, waited := 0, traps := [], stepFor := none,
    stepOf := none, stepRes := none }

/-- The instruction of an issue group has been about to issue and waits; its access has been made and waits. -/
def IssueGroup.tried (ig : IssueGroup) : Bool := match ig.block with | none | some (.fetch _) => false | some _ => true
def IssueGroup.accessed (ig : IssueGroup) : Bool := ig.block == some .culvert || ig.block == some .report
/-- The culvert has accepted the request for which an issue group waits, or has not (18_link R382). -/
def IssueGroup.accepted (ig : IssueGroup) : Bool := match ig.block with | some .culvert => ig.sent | some (.fetch b) => b | _ => false
def IssueGroup.unaccepted (ig : IssueGroup) : Bool :=
  match ig.block with | some .culvert => !ig.sent | some (.fetch b) => !b | some .clean => true | _ => false

/-- The issue group of a partition blocks: it keeps what it has done and releases the partition (03_encoding R56). Whether the culvert
accepts a request for which it waits (18_link R382) is free; one that it has accepted is an operation of the group (R54). -/
def State.suspend (s : State) (pk : Nat) (ig : IssueGroup) (b : Block) : State :=
  let (sent, s) := if b == .culvert && ig.block != some b then s.flip else (ig.sent && b == .culvert, s)
  let new := ig.block != some b
  (s.modGroup (pk / 4 * 48 + ig.slot) fun g =>
    let ig := if new then { ig with block := some b, since := s.now, sent := sent, op := g.opSeq, waited := 0 } else ig
    { g with susp := g.susp ++ [ig], opSeq := if new && sent then g.opSeq + 1 else g.opSeq }).dropIg pk

/-- The first instruction has done something for a thread of the issue group. -/
def IssueGroup.begun (ig : IssueGroup) : Bool :=
  ig.done ||| ig.arr ||| ig.was != 0 || !ig.mons.isEmpty || !ig.traps.isEmpty || ig.bar.isSome || ig.stepOf.isSome

/-- What the first instruction of a clause has done for other threads that reach the header anew joins an issue group (R56). -/
def IssueGroup.absorb (ig o : IssueGroup) : IssueGroup :=
  { ig with
      done := ig.done ||| o.done, raised := lanes fun l => Lanes.at ig.raised l ||| Lanes.at o.raised l, arr := ig.arr ||| o.arr,
      was := ig.was ||| o.was, tok := lanes fun l => if o.mask.getLsbD l then Lanes.at o.tok l else Lanes.at ig.tok l,
      bar := match ig.bar, o.bar with
        | some (k, d, m), some (_, _, n) => some (k, d, m ||| n)
        | none, b => b
        | b, none => b
      mons := ig.mons ++ o.mons, traps := ig.traps ++ o.traps, stepOf := ig.stepOf <|> o.stepOf, stepRes := ig.stepRes <|> o.stepRes }

/-- An issue group at a clause's first instruction takes what that instruction has done for its threads already (R56). -/
def Group.takeAnew (g : Group) (ig : IssueGroup) : IssueGroup :=
  let mine := fun (o : IssueGroup) => ig.pos == 0 && o.block == some .anew && o.hdr == ig.hdr && o.mask &&& ig.mask != 0
  (g.susp.filter mine).foldl (fun a o => a.absorb (o.part ig.mask)) ig

/-- Threads of a mask that stand at a header reach it now: operations issued before count for its wait mask (R54). -/
def Group.atHeader (g : Group) (m : Mask) : Group :=
  g.modThreads m fun t => if t.pos == 0 && !t.inIssue then { t with opMark := g.opSeq } else t

/-- Threads of a mask reach their headers anew, those among them that are held in a clause's first instruction; what the instruction has
done for them is kept beside (R56). -/
def Group.reachAnew (g : Group) (m : Mask) : Group :=
  let move := fun (ig : IssueGroup) => ig.pos == 0 && ig.block != some .anew && ig.mask &&& m != 0
  let back := g.susp.filter move
  let g := back.foldl (fun g ig => g.modThreads (ig.mask &&& m) fun t => t.stand ig.hdr 0 t.viaBranch t.opMark) g
  let split := fun (ig : IssueGroup) =>
    if move ig then
      let p := { (ig.part m) with block := some .anew }
      (if p.begun then [p] else []) ++ [ig.part (~~~m)].filter fun q => q.mask != 0
    else [ig]
  ({ g with susp := (g.susp.map split).flatten } : Group).atHeader m

/-! ### Who a group is, for records -/

/-- The fields of R194 that name a group. -/
def State.recOf (s : State) (gk : Nat) : Rec :=
  match s.group? gk with
  | none => {}
  | some g =>
    match s.team? g.team with
    | none => {}
    | some t => { ctx := s.teamCtx t, die := gkDie gk, core := gkNum gk, slot := gkSlot gk,
                  node := (s.teamNodeId t).setWidth 32 }

/-- The lowest lane of a mask, 0 for the empty mask. -/
def lowLane (m : Mask) : Nat := (lowest m).getD 0

/-! ### Exit of threads, groups and teams (04_group R99-R101, 05_group_integer R109, 15_context R322) -/

/-- `CONV` releases its arrivals when every thread that has not exited has arrived (R111): together they reach the headers after it. -/
def Group.convRelease (g : Group) : Group :=
  if laneList.all (fun l => (g.thread l).exited || ((g.thread l).conv && (g.thread l).halt.isNone)) then
    g.modThreads g.live fun t => { t with conv := false, block := none, opMark := g.opSeq }
  else g

/-- OR flags into `FX_CTX` of a context (02_numbers R47). -/
def State.orFxCtx (s : State) (x : Nat) (f : BitVec 8) : State :=
  s.setRaw (0x140 + x) (s.raw (0x140 + x) ||| f.setWidth 64)

/-- A read of a bucket that has been issued and waits for it (17_sample R356): it is made even when its threads have exited. -/
def PendOp.reads (o : PendOp) : Bool := match o.wait with | .sld _ => true | .sbkt _ _ _ => true | _ => false

/-- The last thread of a group exits (R100): names freed, flags ORed into `FX_CTX`, handler sets returned, the region
closed. The flags of operations in flight are set first; reads of buckets still complete (05_group_integer R109). -/
def State.groupExit (s : State) (gk : Nat) : State :=
  match s.group? gk with
  | none => s
  | some g =>
    let x := ((s.team? g.team).map s.teamCtx).getD 0
    let fx := g.ops.foldl (fun f op => op.fx.toList.foldl (· ||| ·) f) g.fx
    let s := s.orFxCtx x fx
    let pk := gkPart gk
    let s := match s.ig? pk with
      | some ig => if ig.slot == gkSlot gk then s.dropIg pk else s
      | none => s
    let ops := (g.ops.filter PendOp.reads).map fun o => { o with dests := [], writes := [], fx := Vector.replicate 32 0 }
    { s with monitors := s.monitors.filter fun m => m.2.gk != some gk }.setGroup gk { g with
        v := [], fx := 0, latch := [], frames := [], entering := [], hostTrap := none, pending := [],
        susp := [], ops := ops, region := none, halts := [], parked := false, first := none }

/-- A team whose threads have all exited drains (R101). -/
def State.teamCheck (s : State) (t : Nat) : State :=
  if (s.groupsOf t).all (fun p => p.2.allExited) then
    s.modTeam t fun x => match x.stage with
      | .running | .admitted => { x with stage := .draining }
      | _ => x
  else s

/-- After threads of a group have exited or resumed. -/
def State.settle (s : State) (gk : Nat) : State :=
  match s.group? gk with
  | none => s
  | some g =>
    if g.allExited then (s.groupExit gk).teamCheck g.team
    else s.setGroup gk g.convRelease

/-- A team ends (R322): its threads exit and a record with RKIND 7 and the cause is written. A save of it that is under way is
given up. -/
def State.endTeam (s : State) (t : Nat) (cause : Cause) : State :=
  match s.team? t with
  | none => s
  | some tm =>
    let gs := (s.groupsOf t).filter fun p => !p.2.allExited
    let s := s.report tm.die (({ cause := cause, ctx := s.teamCtx tm, die := tm.die, core := tm.core,
                                 node := (s.teamNodeId tm).setWidth 32, rkind := 7 } : Rec).report)
    let s := gs.foldl (fun s p =>
      (s.modGroup p.1 fun g => g.modThreads g.live fun th =>
        { th with exited := true, inIssue := false, block := none, halt := none, conv := false }).groupExit p.1) s
    (s.modTeam t fun x => { x with
        ending := some cause, stopped := false, saveReq := none, saveHalt := false, saveFault := false, migrateTo := none,
        stage := match x.stage with | .saving _ => .running | st => st }).teamCheck t

/-! ### Taking a trap -/

/-- Families delivered to the host (R314): translation, context, machine, and `0x27`. -/
def hostCause (c : Cause) : Bool :=
  let fam := c.toNat / 16
  fam == 3 || fam == 0xD || fam == 0xE || c == 0x27

/-- The trapping instruction and what the trap state records (R316, R317). -/
structure TrapAt where
  cause : Cause
  info : Word := 0
  hdr : Word
  pos : Nat
  issue : Mask
  done : Mask := 0
  /-- the fault record's KIND, LVL and LANE (08_page R194); KIND is 4 more for a copy's fault (10_copy R240) -/
  kind : Nat := 0
  lvl : Nat := 0
  lane : Nat := 0
  ig : Option IssueGroup := none
  deriving DecidableEq, Repr

/-- The handler's header (R315): the kernel's, otherwise the context's. -/
def State.handlerOf (s : State) (t : Team) : Option Word :=
  match t.kernel.handler with
  | some h => some (t.kernel.image + BitVec.ofNat 64 h)
  | none =>
    let v := s.raw (0x580 + s.teamCtx t)
    if v.getLsbD 0 then some (v &&& 0x000FFFFFFFFFFFF8) else none

/-- Handler sets of a partition in use (04_group R96). -/
def State.setsUsed (s : State) (pk : Nat) : List Nat := ((s.groupsIn pk).map fun p => p.2.frames.map (·.hset)).flatten
def State.freeSet (s : State) (pk : Nat) : Option Nat := [0, 1, 2, 3].find? fun k => !(s.setsUsed pk).contains k
/-- A group of the partition waits for a handler set. -/
def State.setWaiters (s : State) (pk : Nat) : List Nat := ((s.groupsIn pk).filter fun p => !p.2.entering.isEmpty).map (·.1)

/-- A trap delivered to the host (R322, 08_page R194; RKIND 2 is a copy's, 10_copy R240): the group blocks in fault and a
record is written. -/
def State.toHost (s : State) (gk : Nat) (f : Frame) (rkind : Nat) : State :=
  let seq := s.seq.toNat
  let tr := rkind == 1 || rkind == 2
  let r := { s.recOf gk with
    va := f.info.toNat % (1 <<< 52), cause := f.cause, kind := if tr then f.kind else 0, lvl := if tr then f.lvl else 0,
    pc := f.hdr.toNat, pos := if tr && f.kind == 2 then 15 else f.pos, lane := f.lane, done := f.done, rkind := rkind }
  (s.modGroup gk fun g => { g with hostTrap := some (f, seq) }).report (gkDie gk) r.report

/-- The group holds handler set `k` and enters the handler at `h` (R318): every thread that has not exited stands there,
converged. A thread that a watch has halted stays halted until `HRES` (16_watch R335). -/
def Group.enter (g : Group) (f : Frame) (k : Nat) (h : Word) : Group :=
  { (g.modThreads g.live fun t => { (t.stand h 0 false g.opSeq) with waits := 0, conv := false })
    with frames := { f with hset := k, h := [] } :: g.frames }

/-- Delivery to a handler (R315, R318, 04_group R96). -/
def State.toHandler (s : State) (gk : Nat) (f : Frame) : State :=
  match s.group? gk with
  | none => s
  | some g =>
    match s.team? g.team with
    | none => s
    | some t =>
      match s.handlerOf t with
      | none => s.endTeam g.team f.cause
      | some h =>
        let pk := gkPart gk
        match s.freeSet pk with
        | some k =>
          if (s.setWaiters pk).isEmpty || !g.frames.isEmpty then s.setGroup gk (g.enter f k h)
          else s.setGroup gk { g with entering := g.entering ++ [f] }
        | none =>
          if g.frames.isEmpty then s.setGroup gk { g with entering := g.entering ++ [f] }
          else s.toHost gk { f with cause := 0x27 } 6

/-- A group of a team whose time limit has passed: its trap stands behind the team's one record, or goes to the handler once that
record has been answered so (R323). -/
def State.deliverLimit (s : State) (gk : Nat) (f : Frame) : State :=
  match ((s.group? gk).bind fun g => s.team? g.team).bind (·.limitSeq) with
  | some q => s.modGroup gk fun g => { g with hostTrap := some (f, q) }
  | none => s.toHandler gk f

/-- Deliver a frame by its family (R314). -/
def State.deliver (s : State) (gk : Nat) (f : Frame) : State :=
  if f.cause == 0xD7 then s.deliverLimit gk f
  else if hostCause f.cause then s.toHost gk f (if f.cause.toNat / 16 != 3 then 6 else if f.kind < 4 then 1 else 2)
  else s.toHandler gk f

/-- The issue group that runs for group `gk`, if any, leaves its partition. Threads for which its instruction has done nothing stand at
it; otherwise it is kept with the suspended ones. -/
def State.parkIg (s : State) (gk : Nat) : State :=
  let pk := gkPart gk
  match s.ig? pk with
  | none => s
  | some ig =>
    if ig.slot != gkSlot gk then s
    else
      (s.dropIg pk).modGroup gk fun g =>
        if !ig.begun then g.modThreads ig.mask fun t => t.stand ig.hdr ig.pos t.viaBranch t.opMark
        else { g with susp := g.susp ++ [{ ig with block := none }] }

/-- The frame of a trap taken while the group stands as `g`. While it is pending, `hset` holds the nesting depth at which
it is delivered. -/
def Group.frameOf (g : Group) (a : TrapAt) : Frame :=
  { cause := a.cause, hdr := a.hdr, pos := a.pos, issue := a.issue, done := a.done, info := a.info, threads := g.threads,
    susp := g.susp, hset := g.frames.length, h := [], kind := a.kind, lvl := a.lvl, lane := a.lane, ig := a.ig }

def Group.anyHalted (g : Group) : Bool := laneList.any fun l => (g.thread l).halt.isSome
/-- The threads that are halted. -/
def Group.halted (g : Group) : Mask := maskOf fun l => !(g.thread l).exited && (g.thread l).halt.isSome
/-- A trap of the threads of `issue` is delivered now and not behind a halt of one of them (16_watch R333); one that names no thread, once
some thread is not halted. -/
def Group.mayTake (g : Group) (issue : Mask) : Bool :=
  if issue &&& g.live == 0 then g.live &&& ~~~g.halted != 0 else issue &&& g.halted == 0
/-- A pending trap of the nesting depth at which the group stands. -/
def Group.atDepth (g : Group) (f : Frame) : Bool := f.hset == g.frames.length

/-- Issue groups of the group that are held: blocked ones, and those behind a trap that waits for the host or for a handler set. -/
def Group.heldIgs (g : Group) : List IssueGroup :=
  g.susp ++ (g.entering.map (·.susp)).flatten ++ (g.hostTrap.map fun h => h.1.susp).getD []
/-- The held issue group of a lane. -/
def Group.igOf (g : Group) (l : Nat) : Option IssueGroup :=
  if (g.thread l).inIssue then g.heldIgs.find? fun ig => ig.mask.getLsbD l && ig.block != some .anew else none
/-- Where a thread of a group that is not issuing stands: its own PC, or that of the issue group that holds it. -/
def Group.pcOf (g : Group) (l : Nat) : Word × Nat :=
  match g.igOf l with
  | some ig => (ig.hdr, ig.pos)
  | none => ((g.thread l).hdr, (g.thread l).pos)
/-- With those of the threads that its handlers interrupted. -/
def Group.allIgs (g : Group) : List IssueGroup := g.heldIgs ++ (g.frames.map (·.susp)).flatten

/-- A trap as it is delivered: the threads as they stand now. Threads of ISSUE that no longer stand at the saved PC are not of it;
where none stands there, the saved PC is the lowest thread's. -/
def Frame.refresh (f : Frame) (g : Group) : Frame :=
  let m := maskOf fun l => f.issue.getLsbD l && !(g.thread l).exited
  let here := fun (pc : Word × Nat) => maskOf fun l => m.getLsbD l && !(g.thread l).inIssue && g.pcOf l == pc
  let pc := if here (f.hdr, f.pos) == 0 && m != 0 then g.pcOf (lowLane m) else (f.hdr, f.pos)
  { f with threads := g.threads, susp := g.susp, hdr := pc.1, pos := pc.2, issue := here pc }

/-- TAKING A TRAP (R316-R318, R322). The trapping threads already stand where they resume; every other thread keeps its
PC and its wait state. A trap behind a halt of its threads stays pending (16_watch R333, 04_group R100), as does the second of two traps
at one boundary (02_numbers R50); `force` delivers it all the same, for a stepped thread (16_watch R343). -/
def State.takeTraps (s : State) (gk : Nat) (as : List TrapAt) (force : Bool) : State :=
  match as with
  | [] => s
  | a :: rest =>
    let s := s.parkIg gk
    match s.group? gk with
    | none => s
    | some g =>
      let wait := (!force && !g.mayTake a.issue) || g.hostTrap.isSome || !g.entering.isEmpty
      let fs := rest.map g.frameOf
      let f := g.frameOf a
      let g := { g with latch := [] }
      if wait then s.setGroup gk { g with pending := g.pending ++ f :: fs }
      else (s.setGroup gk { g with susp := [], pending := fs ++ g.pending }).deliver gk f

def State.takeTrap (s : State) (gk : Nat) (a : TrapAt) : State := s.takeTraps gk [a] false

/-- A trap that no instruction of the group raises (11_barrier R263, 15_context R312, R323): every thread stops at its own
boundary and keeps its own saved PC, so `TS_MASK` names none; `TS_PC` is the lowest thread's. -/
def State.asyncTrap (s : State) (gk : Nat) (cause : Cause) : State :=
  let s := s.parkIg gk
  match s.group? gk with
  | none => s
  | some g =>
    let (hdr, pos) := g.pcOf (lowLane g.live)
    s.takeTrap gk { cause := cause, hdr := hdr, pos := pos, issue := 0, lane := lowLane g.live }

/-- A trap after the completion of an operation or of a watched instruction, at the next boundary of its threads (12_kernel R271,
16_watch R333): TS_PC is where the lowest of them stands, in the issue group that holds it or by itself. TS_MASK names the threads of
that issue group, or those that stand there in none, and DONE what the instruction there has done, as R316 has it of an instruction
that has completed in every lane (log entry 99). -/
def State.laneTrap (s : State) (gk : Nat) (cause : Cause) (m : Mask) : State :=
  let s := s.parkIg gk
  match s.group? gk with
  | none => s
  | some g =>
    let free := maskOf fun l => !(g.thread l).exited && !(g.thread l).inIssue
    let low := lowLane (if m &&& free == 0 then m &&& g.live else m &&& free)
    let (hdr, pos) := g.pcOf low
    match (if (g.thread low).inIssue then g.susp.find? fun ig => ig.mask.getLsbD low && ig.block != some .anew else none) with
    | some ig =>
      let g := { (g.modThreads ig.mask fun t => t.stand hdr pos t.viaBranch t.opMark) with susp := g.susp.filter fun o => o != ig }
      (s.setGroup gk g).takeTrap gk { cause := cause, hdr := hdr, pos := pos, issue := ig.mask, done := ig.done, lane := low,
                                      ig := if ig.begun then some ig else none }
    | none =>
      s.takeTrap gk { cause := cause, hdr := hdr, pos := pos, issue := maskOf fun l => free.getLsbD l && g.pcOf l == (hdr, pos), lane := low }

/-- Suspended issue groups hold halted threads apart from the others. -/
def Group.splitHalted (g : Group) : Group :=
  { g with susp := ((g.susp.map fun ig => [ig.part g.halted, ig.part (~~~g.halted)]).flatten).filter fun ig => ig.mask != 0 }

/-! ### Returning from a trap -/

/-- An instruction word or header as the team's clause fetch would see it, without effects: the word as placed, otherwise
memory's. -/
def State.peekCode (s : State) (t : Team) (va : Word) : Option Word :=
  match SMap.get? t.code va.toNat with
  | some w => some w
  | none => (s.readVirt t.die (s.teamCtx t) va.toNat 8 2).map wordOfBytes

/-- The words that a fetch of a code address may give (03_encoding R58): the word as placed and, where it has been overwritten, the
word that memory holds. -/
def State.codeWords (s : State) (t : Team) (va : Word) : List Word :=
  match SMap.get? t.code va.toNat, (s.readVirt t.die (s.teamCtx t) va.toNat 8 2).map wordOfBytes with
  | some w, some v => if w == v then [w] else [w, v]
  | some w, none => [w]
  | none, some v => [v]
  | none, none => []

/-- Fields of a clause header (03_encoding R51). -/
def hdrCount (h : Word) : Nat := fld h 52 4 + 1
def hdrClass (h : Word) : Nat := fld h 48 4
def hdrWait (h : Word) : Nat := fld h 32 9
def hdrConv (h : Word) : Bool := h.getLsbD 31
/-- The checks of R53 on the header word, in the order of its table. -/
def hdrBad (branch : Bool) (va h : Word) : Option Cause :=
  if fld va 0 3 != 0 then some 0x13
  else if fld h 56 8 != 0xA5 then some (if branch then 0x13 else 0x10)
  else if 6 < hdrClass h then some (if branch then 0x13 else 0x01)
  else if fld h 24 7 != 0 then some (if branch then 0x13 else 0x01)
  else if fld h 41 7 != 0 then some 0x16 else none

/-- The position after word `pos` of the clause at `hdr` (R320); a PC that names no word of a clause stands for itself, and traps when
it is reached. -/
def State.afterPos (s : State) (t : Team) (hdr : Word) (pos : Nat) : Word × Nat :=
  match s.peekCode t hdr with
  | none => (hdr, pos)
  | some h =>
    if (hdrBad false hdr h).isSome || !(pos < hdrCount h) then (hdr, pos)
    else if pos + 1 < hdrCount h then (hdr, pos + 1) else (hdr + BitVec.ofNat 64 (8 * (hdrCount h + 1)), 0)

/-- Threads after a trap (R320): those of ISSUE at TS_PC or, when done, after it; the others at their interrupted PCs, in
their interrupted wait states. Those that were held in a clause's first instruction reach its header anew (03_encoding R56).
Predicates and exits made in the handler stand, and halts stay as they are now (16_watch R335). `ret` is true of `TRET`, whose threads
reach TS_PC as its target (R53); a thread that goes on at another header reaches it by fall-through (log entry 110). -/
def Group.restore (g : Group) (f : Frame) (skip ret : Bool) (next : Word × Nat) : Group :=
  let done := if skip then f.issue else f.done
  let th := fun (l : Nat) =>
    let now := g.thread l
    let old := f.threads.toArray.getD l (Thread.init 0)
    if now.exited then now
    else if f.issue.getLsbD l then
      if done.getLsbD l then { (old.stand next.1 next.2 (next == (f.hdr, f.pos)) g.opSeq) with preds := now.preds, gen := now.gen, halt := now.halt }
      else { (old.stand f.hdr f.pos (ret || old.viaBranch) g.opSeq) with preds := now.preds, gen := now.gen, halt := now.halt }
    else { old with preds := now.preds, gen := now.gen, halt := now.halt }
  let live := fun (ig : IssueGroup) => ig.part (maskOf fun l => !(g.thread l).exited)
  let g := { g with threads := lanes th, susp := (f.susp.map live).filter (fun (ig : IssueGroup) => ig.mask != 0) ++ g.susp }
  let g : Group := match f.ig with
    | none => g
    | some ig =>
      -- the instruction goes on in the quarters that are not done; its pending trap follows it (07_tile R166)
      let ig := live { ig with mask := f.issue, done := done, block := some .quarter }
      if ig.mask == 0 then g
      else { (g.modThreads ig.mask fun t => { t with inIssue := true }) with susp := ig :: g.susp }
  (g.reachAnew 0xFFFFFFFF).splitHalted

/-- Leave a trap: the group runs on as `TRET` says. -/
def State.resumeFrame (s : State) (gk : Nat) (f : Frame) (skip ret : Bool) : State :=
  match s.group? gk with
  | none => s
  | some g =>
    match s.team? g.team with
    | none => s
    | some t => (s.setGroup gk (g.restore f skip ret (s.afterPos t f.hdr f.pos))).settle gk

/-- Deliver the next pending trap, once none of its threads is halted (02_numbers R50, 16_watch R333); a trap of the threads of `force`, which
are stepped, all the same. -/
def State.deliverPending (s : State) (gk : Nat) (force : Mask) : State :=
  match s.group? gk with
  | none => s
  | some g =>
    let may := fun (f : Frame) => g.atDepth f && (g.mayTake f.issue || (force != 0 && (f.issue &&& force != 0 || f.issue &&& g.live == 0)))
    if g.hostTrap.isSome || !g.entering.isEmpty then s
    else match g.pending.find? may with
      | none => s
      | some f => (s.setGroup gk { g with pending := g.pending.erase f, susp := [] }).deliver gk (f.refresh g)

/-! ### Halts (16_watch R335-R337, R340) -/

/-- Any thread of a team is halted: barrier phases, time limits and swap-out counts are suspended (R335). -/
def State.teamHalted (s : State) (t : Nat) : Bool :=
  (s.groupsOf t).any fun p => p.2.anyHalted

/-- Halt lanes of one group: running ones stand at the first instruction not executed, those in an instruction that has done something
for them stay in it, as blocked ones do, and complete it when they resume (02_numbers R49, 07_tile R166). -/
def State.haltLanes (s : State) (gk : Nat) (m : Mask) (h : Halt) : State :=
  match s.group? gk with
  | none => s
  | some g =>
    let m := maskOf fun l => m.getLsbD l && !(g.thread l).exited && (g.thread l).halt.isNone
    if m == 0 then s
    else
      let pk := gkPart gk
      let mine := (s.ig? pk).filter fun ig => ig.slot == gkSlot gk && ig.mask &&& m != 0
      let s := match mine with
        | some ig => if ig.mask &&& ~~~m == 0 then s.dropIg pk else s.setIg pk (ig.part (~~~m))
        | none => s
      let g := match mine with
        | some ig =>
          if (ig.part m).begun then { g with susp := g.susp ++ [{ (ig.part m) with block := none }] }
          else g.modThreads (ig.mask &&& m) fun t => t.stand ig.hdr ig.pos t.viaBranch t.opMark
        | none => g
      let split := fun (ig : IssueGroup) => [ig.part (~~~m), ig.part m].filter fun p => p.mask != 0
      let g := { g with susp := (g.susp.map split).flatten, latch := [] }
      s.setGroup gk (g.modThreads m fun t => { t with halt := some h, gen := t.gen + 1 })

/-- The lowest halted thread of a group: lane, header and position. -/
def Group.lowestHalted (g : Group) : Nat × Word × Nat :=
  let l := (laneList.find? fun l => (g.thread l).halt.isSome).getD 0
  (l, g.pcOf l)

/-- The record of a halt event (R337), for the group of the lowest halted thread. R51 says that a clause's TAG appears in halt
reports, and the layout of R337 has no field for it: it is left out (log entry 83). -/
def State.haltReport (s : State) (gk : Nat) (h : Halt) : State :=
  match s.group? gk with
  | none => s
  | some g =>
    match s.team? g.team with
    | none => s
    | some t =>
      let (l, hdr, pos) := g.lowestHalted
      let r := s.recOf gk
      s.report (gkDie gk) fun seq =>
        let b := { r with done := maskOf (fun l => (g.thread l).halt.isSome) }.report seq
        { w0 := BitVec.ofNat 64 (t.x + (t.y <<< 16) + (t.z <<< 32) + (h.cause.toNat <<< 48) + ((h.pred % 16) <<< 56)
                  + ((h.skid % 4) <<< 60)),
          w1 := BitVec.ofNat 64 (hdr.toNat % (1 <<< 52) + ((pos % 16) <<< 52) + (l <<< 56)),
          w2 := b.w2,
          w3 := BitVec.ofNat 64 (t.phases.toNat + ((seq % 65536) <<< 32) + (9 <<< 56)) }

/-- Record every barrier object of a team at its stop (R336) or, where `all` is false, at the halt of one of its groups (04_group
R100). -/
def State.stopTeam (s : State) (t : Nat) (all : Bool) : State :=
  s.modTeam t fun x => if x.stopped then x else { x with stopped := all, barStop := some x.bars }

/-- Threads of a mask that are not halted yet. -/
def Group.halts? (g : Group) (m : Mask) : Bool := (maskLanes m).any fun l => !(g.thread l).exited && (g.thread l).halt.isNone

/-- A halt of lanes, of the group or of the team (R335): scope 1, 2 or 3 as ACT codes it. At a team stop the threads that
the event names halt with its cause, the others with `0xC4`; its one record names the team's lowest halted thread. An event that halts
no thread that is not halted already writes no record. -/
def State.haltScope (s : State) (gk : Nat) (m : Mask) (scope : Nat) (h : Halt) : State :=
  match s.group? gk with
  | none => s
  | some g =>
    if scope == 3 then
      let gs := s.groupsOf g.team
      let new := gs.any fun p => p.2.halts? 0xFFFFFFFF
      let s := (s.stopTeam g.team true).haltLanes gk m h
      let s := gs.foldl (fun s p => s.haltLanes p.1 0xFFFFFFFF { h with cause := 0xC4 }) s
      if new then
        s.haltReport (((s.groupsOf g.team).find? fun p => p.2.anyHalted).elim gk (·.1)) { h with cause := 0xC4 }
      else s
    else
      let m := if scope == 2 then 0xFFFFFFFF else m
      if !g.halts? m then s
      else
        let s := if scope == 2 then s.stopTeam g.team false else s
        ((s.haltLanes gk m h).modGroup gk fun g => { g with parked := true }).haltReport gk h

/-! ### Steps of one thread (16_watch R343) -/

/-- Issue groups of `HSTEP` that step a lane of `m` of group `gk`. -/
def IssueGroup.steps (ig : IssueGroup) (gk : Nat) (m : Mask) : Bool :=
  ig.block == some .step && ig.stepOf.any fun p => p.1 == gk && m.getLsbD p.2

/-- Give an `HSTEP` of group `by_` the status of its step of group `gk`. -/
def State.stepStatus (s : State) (by_ gk : Nat) (m : Mask) (st : Nat) : State :=
  let tell := fun (ig : IssueGroup) => if ig.steps gk m then { ig with stepRes := some st } else ig
  s.modGroup by_ fun g => { g with susp := g.susp.map tell, frames := g.frames.map fun f => { f with susp := f.susp.map tell } }

/-- The thread that an `HSTEP` of group `by_` has stepped stands halted again, its halt count as it was. -/
def State.rehalt (s : State) (by_ gk : Nat) (m : Mask) : State :=
  let l := ((s.group? by_).bind fun g => g.susp.find? fun ig => ig.steps gk m).bind fun ig => ig.stepOf.map (·.2)
  match l with
  | none => s
  | some l => s.modGroup gk fun g => g.modThread l fun t => { t with halt := some { cause := 0xC3, pred := 0, skid := 0 } }

end Sys2Proof.Machine
end

