-- ==== Sys2Proof/Machine/Operands.lean ====
section
/-! DEFINITION. Register operands: the namespace of 03_encoding R68 as sources and destinations, guards, the rename map with
last-read bits and allocation (R69, 04_group R85-R91), and the special registers of 04_group R79. -/

namespace Sys2Proof.Machine

/-! ### Reading -/

def zeros : Lanes W32 := Vector.replicate 32 0
def zeros64 : Lanes Word := Vector.replicate 32 0

/-- Lanes for which a predicate field holds; p7 is true (R94). -/
def Group.predMask (g : Group) (p : BitVec 3) : Mask :=
  if p == 7 then 0xFFFFFFFF else maskOf fun l => (g.thread l).preds.getLsbD p.toNat
/-- Lanes whose guard holds (03_encoding R59). -/
def Group.guardMask (g : Group) (gd : Guard) : Mask := if gd.n then ~~~(g.predMask gd.p) else g.predMask gd.p

def Group.readV (g : Group) (n : Nat) : Lanes W32 := ((SMap.get? g.v n).map (·.val)).getD zeros
def Group.readH (g : Group) (n : Nat) : Lanes W32 :=
  match g.frames with
  | f :: _ => SMap.getD f.h n zeros
  | [] => zeros
def Group.readS (g : Group) (n : Nat) : Word := SMap.getD g.s n 0

/-- `%heat` of a team's thread (14_column R299). -/
def State.heatWord (s : State) (ck : Nat) (t : Team) : Nat :=
  t.windows.zipIdx.foldl (fun v p => v + ((p.1.edge % 4) <<< (8 + 2 * p.2)) + (b2n p.1.reclaimed <<< (16 + p.2)))
    (s.columnState ck + (t.windows.length <<< 4))

/-- The special register of namespace value `n` in a lane (04_group R79). -/
def State.special (s : State) (gk : Nat) (g : Group) (t : Team) (n l : Nat) : W32 :=
  let nd := s.node? t.node
  let ck := gkCore gk
  let gx := (nd.map (·.gridx)).getD 0
  let gy := (nd.map (·.gridy)).getD 0
  let gz := (nd.map (·.gridz)).getD 0
  let clock : Word := BitVec.ofNat 64 (s.cyclesOf ck)
  match n with
  | 232 => BitVec.ofNat 32 l
  | 233 => BitVec.ofNat 32 g.gidx
  | 234 => BitVec.ofNat 32 t.x
  | 235 => BitVec.ofNat 32 t.y
  | 236 => BitVec.ofNat 32 t.z
  | 237 => BitVec.ofNat 32 gx
  | 238 => BitVec.ofNat 32 gy
  | 239 => BitVec.ofNat 32 gz
  | 240 => BitVec.ofNat 32 g.role
  | 241 => BitVec.ofNat 32 (l / 8)
  | 242 => BitVec.ofNat 32 (gkNum gk)
  | 243 => BitVec.ofNat 32 (gkDie gk)
  | 244 => BitVec.ofNat 32 (s.teamCtx t)
  | 245 => (s.teamNodeId t).setWidth 32
  | 246 => clock.setWidth 32
  | 247 => (clock >>> 32).setWidth 32
  | 248 => BitVec.ofNat 32 (s.heatWord ck t)
  | 249 => BitVec.ofNat 32 (gkDie gk)
  | 250 => BitVec.ofNat 32 (32 * t.kernel.team)
  | 251 => BitVec.ofNat 32 (gx * gy * gz)
  | _ => 0

/-- One 32-bit register in every lane. -/
def State.read32 (s : State) (gk : Nat) (g : Group) (t : Team) (r : BitVec 8) : Lanes W32 :=
  match regKind r with
  | .v => g.readV r.toNat
  | .s => Vector.replicate 32 ((g.readS (r.toNat - 192)).setWidth 32)
  | .h => g.readH (r.toNat - 216)
  | .special => lanes fun l => s.special gk g t r.toNat l
  | .reserved => zeros
  | .zero => zeros

def pair64 (lo hi : W32) : Word := hi ++ lo
def lo32 (w : Word) : W32 := w.setWidth 32
def hi32 (w : Word) : W32 := (w >>> 32).setWidth 32

/-- One 64-bit operand in every lane: a pair, an `s` register, or a special register zero-extended (R68, R145). -/
def State.read64 (s : State) (gk : Nat) (g : Group) (t : Team) (r : BitVec 8) : Lanes Word :=
  match regKind r with
  | .v | .h =>
    let lo := s.read32 gk g t r
    let hi := s.read32 gk g t (r + 1)
    lanes fun l => pair64 (Lanes.at lo l) (Lanes.at hi l)
  | .s => Vector.replicate 32 (g.readS (r.toNat - 192))
  | .special => lanes fun l => (s.special gk g t r.toNat l).setWidth 64
  | .reserved => zeros64
  | .zero => zeros64

/-- The values of an operand: one 64-bit value for a pair, otherwise one value a register. -/
def State.readOp (s : State) (gk : Nat) (g : Group) (t : Team) (o : Operand) : List (Lanes Word) :=
  if !o.src then []
  else if o.n == 2 then [s.read64 gk g t o.reg]
  else (List.range o.n).map fun k =>
    let r := if regKind o.reg == .zero then o.reg else o.reg + BitVec.ofNat 8 k
    (s.read32 gk g t r).map fun v => v.setWidth 64

/-! ### The registers that an instruction names -/

/-- Operands of the instruction: those of its entry, and the link pair of `RET` and `CALL` (05_group_integer R107). -/
def operandsOf (i : Instr) : List Operand :=
  match i with
  | .ret _ _ => [{ reg := 190, n := 2, src := true }]
  | .call _ _ => [{ reg := 190, n := 2, dst := true }]
  | .mma _ f => [srcG 8 f.a f.ka false, srcVS 1 false f.b false false]
  | .mmas _ f => [srcG 8 f.a f.ka false, srcVS 1 false f.b false false, srcG 1 f.s false false,
                  srcG (if f.atype == 2 then 1 else 0) (f.s + 1) false false]
  | .zrd _ f =>
    -- the destinations of R170: the row's registers and, with SC, S
    let n := if f.boff.extractLsb' 0 3 == 0 then 8 else if f.boff.extractLsb' 0 3 == 1 then 4 else 2
    [{ (srcG 1 f.s false false) with src := !f.boff.getLsbD 5, dst := f.boff.getLsbD 5 }, dstG n f.a]
  | .rbox _ f => [srcGH 8 f.a (f.bit 23) (f.bit 22), src2 f.b (f.bit 21) (f.bit 20), dstG 5 f.d]
  | .tst _ f => [srcG (if f.atype == 2 then 1 else 2) f.a f.ka false, srcVS 2 false f.b false false, srcG 1 f.s false false]
  | .callIndirect _ _ => i.rules.ops ++ [{ reg := 190, n := 2, dst := true }]
  | _ => i.rules.ops

/-- Numbers of the `v` registers an operand names. -/
def opNames (o : Operand) : List Nat :=
  if regKind o.reg == .v then (List.range o.n).map fun k => o.reg.toNat + k else []
def srcNames (ops : List Operand) : List Nat := ((ops.filter (·.src)).map opNames).flatten
def dstNames (ops : List Operand) : List Nat := (((ops.filter (·.dst)).map opNames).flatten).eraseDups
def freedNames (ops : List Operand) : List Nat := (((ops.filter fun o => o.src && o.k).map opNames).flatten).eraseDups

/-- An operand names an empty entry. -/
def Group.emptyOp (g : Group) (o : Operand) : Bool := (opNames o).any fun n => (SMap.get? g.v n).any fun e => !e.full
def Group.unmappedOp (g : Group) (o : Operand) : Bool := (opNames o).any fun n => !SMap.has g.v n

/-- A poisoned entry that an active lane reads (15_context R329). -/
def State.poisonedReg (s : State) (gk : Nat) (act : Mask) (ops : List Operand) : Bool :=
  if s.marks.isEmpty then false
  else s.marks.any fun e => match e with
    | .entry d c slot n l => groupKey d c slot == gk && (srcNames ops).contains n
        && (act.getLsbD (l / 2 * 2) || act.getLsbD (l / 2 * 2 + 1))
    | _ => false

/-- `0x20`, `0x21`, or a block on an empty source, in operand order (R69, 04_group R86, R91). -/
def Group.srcCheck (g : Group) (ops : List Operand) : Option (Except Block Cause) :=
  let srcs := ops.filter (·.src)
  match srcs.findSome? fun o => if g.unmappedOp o then some (0x21 : Cause) else if g.emptyOp o && o.t then some 0x20 else none with
  | some c => some (.ok c)
  | none => if srcs.any g.emptyOp then some (.error .operand) else none

/-- Names to be mapped for the destinations, once last-read bits have freed theirs (R69, 04_group R85). -/
def Group.newNames (g : Group) (ops : List Operand) : List Nat :=
  (dstNames ops).filter fun n => !SMap.has g.v n || (freedNames ops).contains n
/-- Mapped names that last-read bits free. -/
def Group.freeCount (g : Group) (ops : List Operand) : Nat := ((freedNames ops).filter fun n => SMap.has g.v n).length
/-- The allocation would exceed the group's budget (04_group R87). -/
def Group.overBudget (g : Group) (ops : List Operand) : Bool :=
  let new := (g.newNames ops).length
  decide (0 < new) && decide (g.budget + g.freeCount ops < g.mapped + new)
/-- The partition's pool has no room for the allocation (04_group R88). -/
def State.poolShort (s : State) (pk : Nat) (g : Group) (ops : List Operand) : Bool :=
  let new := (g.newNames ops).length
  decide (0 < new) && decide (1024 + g.freeCount ops < s.entriesUsed pk + new)

/-- Groups of the partition of lower slot than `gk`, or all others, that wait for entries: freed entries are theirs (04_group R88). -/
def State.poolWaits (s : State) (gk : Nat) (lower : Bool) : Bool :=
  (s.groupsIn (gkPart gk)).any fun p => p.1 != gk && (!lower || decide (p.1 < gk)) && p.2.hostTrap.isNone && p.2.entering.isEmpty
    && p.2.susp.any fun ig => ig.block == some .pool && !(maskLanes ig.mask).any fun l => (p.2.thread l).halt.isSome

/-! ### Writing -/

/-- Write lanes of a `v` register, mapping it to a zero entry when it is unmapped (04_group R85). -/
def Group.writeV (g : Group) (n : Nat) (m : Mask) (vals : Lanes W32) : Group :=
  let e := (SMap.get? g.v n).getD { full := true, val := zeros }
  { g with v := SMap.set g.v n { e with val := lanes fun l => if m.getLsbD l then Lanes.at vals l else Lanes.at e.val l } }
def Group.writeH (g : Group) (n : Nat) (m : Mask) (vals : Lanes W32) : Group :=
  match g.frames with
  | f :: r =>
    let e := SMap.getD f.h n zeros
    { g with frames := { f with h := SMap.put f.h zeros n (lanes fun l => if m.getLsbD l then Lanes.at vals l else Lanes.at e l) } :: r }
  | [] => g
def Group.writeS (g : Group) (n : Nat) (v : Word) : Group := { g with s := SMap.put g.s 0 n v }

/-- A write of one register in the lanes of a mask. -/
structure RegWrite where
  reg : BitVec 8
  mask : Mask
  vals : Lanes W32
  deriving DecidableEq, Repr

/-- A destination write (R68): 255 discards it. -/
def Group.writeReg (g : Group) (w : RegWrite) : Group :=
  match regKind w.reg with
  | .v => g.writeV w.reg.toNat w.mask w.vals
  | .h => g.writeH (w.reg.toNat - 216) w.mask w.vals
  | .s => g
  | .special => g
  | .reserved => g
  | .zero => g

/-- Predicate writes in the lanes of a mask; p7 discards them (04_group R94). -/
structure PredWrite where
  p : BitVec 3
  mask : Mask
  vals : Mask
  deriving DecidableEq, Repr
def Group.writePred (g : Group) (w : PredWrite) : Group :=
  if w.p == 7 then g
  else { g with threads := lanes fun l =>
    let t := g.thread l
    if w.mask.getLsbD l then
      { t with preds := if w.vals.getLsbD l then t.preds ||| (1#7 <<< w.p.toNat) else t.preds &&& ~~~(1#7 <<< w.p.toNat) }
    else t }

/-- Unmap names: their entries return to the pool, and operations in flight no longer fill them (04_group R86). -/
def Group.unmap (g : Group) (ns : List Nat) : Group :=
  if ns.isEmpty then g
  else
    { g with
      v := ns.foldl (fun v n => SMap.erase v n) g.v
      ops := g.ops.map fun op => { op with
        dests := op.dests.filter fun n => !ns.contains n, writes := op.writes.filter fun w => !ns.contains w.1 } }

/-- Map names to zero entries. -/
def Group.mapNames (g : Group) (ns : List Nat) : Group :=
  { g with v := ns.foldl (fun v n => if SMap.has v n then v else SMap.set v n { full := true, val := zeros }) g.v }

/-- Register marks of 15_context R329 that a write of both lanes of a unit, or an unmapping, removes. -/
def State.unmarkRegs (s : State) (gk : Nat) (freed : List Nat) (ws : List RegWrite) : State :=
  if s.marks.isEmpty then s
  else
    let gone := fun (e : ErrPlace) => match e with
      | .entry d c slot n l => groupKey d c slot == gk && (freed.contains n || ws.any fun w =>
          w.reg.toNat == n && w.mask.getLsbD (l / 2 * 2) && w.mask.getLsbD (l / 2 * 2 + 1))
      | _ => false
    { s with marks := s.marks.filter fun e => !gone e }

/-- Writes of a 64-bit value to a pair, or of a 32-bit value to a register. -/
def write32 (r : BitVec 8) (m : Mask) (f : Nat → W32) : RegWrite := { reg := r, mask := m, vals := lanes f }
def write64 (r : BitVec 8) (m : Mask) (f : Nat → Word) : List RegWrite :=
  if regKind r == .zero then [] else
  let v := lanes f
  [{ reg := r, mask := m, vals := v.map lo32 }, { reg := r + 1, mask := m, vals := v.map hi32 }]
def writeW (wide : Bool) (r : BitVec 8) (m : Mask) (f : Nat → Word) : List RegWrite :=
  if wide then write64 r m f else [write32 r m fun l => lo32 (f l)]

/-! ### What the instruction sees -/

/-- The environment of an issuing instruction: where it runs, its lanes and its captured sources. -/
structure Env where
  op : Nat
  pk : Nat
  gk : Nat
  tid : Nat
  x : Nat
  g : Group
  t : Team
  ig : IssueGroup
  /-- lanes whose guard holds and that are not done -/
  act : Mask
  /-- lanes whose guard holds -/
  guarded : Mask
  ops : List Operand
  vals : List (List (Lanes Word))
  deriving DecidableEq, Repr

def Env.ck (e : Env) : Nat := e.pk / 4
def Env.d (e : Env) : Nat := e.pk / 384
/-- Register `k` of operand `o` in a lane. -/
def Env.reg (e : Env) (o k l : Nat) : Word := Lanes.at ((e.vals.getD o []).getD k zeros64) l
/-- The single value of an operand in a lane. -/
def Env.src (e : Env) (o l : Nat) : Word := e.reg o 0 l
def Env.src32 (e : Env) (o l : Nat) : W32 := lo32 (e.reg o 0 l)
/-- The lowest active lane. -/
def Env.low (e : Env) : Nat := lowLane e.act
def Env.lanes (e : Env) : List Nat := maskLanes e.act

/-- The environment of the focus partition's issue group for an instruction. -/
def State.env? (s : State) (i : Instr) : Option Env :=
  match s.focus with
  | none => none
  | some pk =>
    match s.ig? pk with
    | none => none
    | some ig =>
      let gk := pk / 4 * 48 + ig.slot
      match s.group? gk with
      | none => none
      | some g =>
        match s.team? g.team with
        | none => none
        | some t =>
          let ops := operandsOf i
          some { op := i.op, pk := pk, gk := gk, tid := g.team, x := s.teamCtx t, g := g, t := t, ig := ig,
                 act := ig.mask &&& g.guardMask i.guard &&& ~~~ig.done, guarded := ig.mask &&& g.guardMask i.guard, ops := ops,
                 vals := ops.map (s.readOp gk g t) }

end Sys2Proof.Machine
end

