-- ==== Sys2Proof/Machine/Flags.lean ====
section
/-! DEFINITION. Format flags and format traps (02_numbers R46-R50) and the watch bank: which predicates match and what their
actions do (16_watch R330-R333). -/

namespace Sys2Proof.Machine

/-! ### Format flags -/

def noFx : Lanes Fx := Vector.replicate 32 0
/-- The flags that any lane raised. -/
def fxUnion (f : Lanes Fx) : Fx := f.toList.foldl (· ||| ·) 0
/-- The lowest exception of a set of flags. -/
def fxLowest (f : Fx) : Option Nat := (List.range 8).find? fun v => f.getLsbD v
/-- The trap of R49: the lowest enabled exception raised in any lane, with the lowest lane that raised it. -/
def State.formatTrap (s : State) (x : Nat) (f : Lanes Fx) : Option (Cause × Word) :=
  let en : Fx := (s.raw (0x100 + x)).setWidth 8
  (fxLowest (fxUnion f &&& en)).map fun v =>
    (0x60 + BitVec.ofNat 8 v, BitVec.ofNat 64 (lowLane (maskOf fun l => (Lanes.at f l).getLsbD v)))

/-! ### Watch predicates (R330) -/

structure Watch where
  n : Nat
  ctl : Word
  a : Word
  b : Word
  flt : Word
  lane : Word
  kern : Word
  deriving DecidableEq, Repr

def Watch.kind (w : Watch) : Nat := fld w.ctl 1 3
def Watch.act (w : Watch) : Nat := fld w.ctl 4 3
def Watch.arg (w : Watch) : Nat := fld w.ctl 8 8
def Watch.cmp (w : Watch) : Nat := fld w.ctl 16 3
def Watch.enabled (w : Watch) : Bool := w.ctl.getLsbD 0
/-- The predicate without its COUNT: one that has been changed since is another. -/
def Watch.words (w : Watch) : Nat × List Word := (w.n, [setBits w.ctl 32 32 0, w.a, w.b, w.flt, w.lane, w.kern])

def Core.watchOf (c : Core) (n : Nat) : Watch :=
  let r := fun k => SMap.getD c.watch (k + n) 0
  { n := n, ctl := r 0x680, a := r 0x690, b := r 0x6A0, flt := r 0x6B0, lane := r 0x6C0, kern := r 0x6D0 }

/-- An invalid predicate never matches (R330). -/
def Watch.invalid (w : Watch) : Bool :=
  let k := w.kind
  3 < k || 4 < w.act || fld w.ctl 19 13 != 0 || fld w.flt 56 8 != 0 || fld w.lane 32 32 != 0 || fld w.kern 1 7 != 0
    || fld w.kern 52 12 != 0
    || (if k == 0 then 15 < w.arg || w.arg == 0 || w.cmp != 0 || fld w.a 52 12 != 0 || decide (w.b < w.a)
        else if k == 1 then 191 < w.arg || 4 < w.cmp || w.b != 0
        else if k == 2 then w.arg == 0 || w.cmp != 0 || w.a != 0 || w.b != 0
        else w.arg != 0 || w.cmp != 0 || fld w.a 32 32 != 0 || w.b != 0)

/-- The enabled, valid predicates of a core, of one kind. -/
def State.watches (s : State) (ck kind : Nat) : List Watch :=
  let c := s.core ck
  if c.watch.isEmpty then []
  else ((List.range 16).map c.watchOf).filter fun w => w.enabled && !w.invalid && w.kind == kind

/-- A thread passes the filter (R331). -/
def Watch.passes (w : Watch) (x : Nat) (t : Team) (l : Nat) : Bool :=
  w.lane.getLsbD l && (w.flt.getLsbD 54 || fld w.flt 48 6 == x)
    && (w.flt.getLsbD 55 || (fld w.flt 0 16 == t.x && fld w.flt 16 16 == t.y && fld w.flt 32 16 == t.z))
    && (w.kern.getLsbD 0 || fld w.kern 8 44 == t.kernel.image.toNat / 256)

/-- A predicate with the lanes in which it matched. -/
abbrev Hits := List (Watch × Mask)

/-- Lanes of `m` in which an address predicate matches an access of the given kind (0 read, 1 write, 2 execute, 3 atomic) to
the bytes that `range` gives (R332). An access that waits for the culvert, or for room for its fault's record, was counted when it was
made. -/
def State.addrHits (s : State) (e : Env) (kind : Nat) (m : Mask) (range : Nat → Nat × Nat) : Hits :=
  let bit := if kind == 0 then 0 else if kind == 1 then 1 else if kind == 3 then 2 else 3
  ((s.watches e.ck 0).map fun w =>
    (w, if kind != 2 && w.act == 0 && e.ig.accessed then 0 else maskOf fun l => m.getLsbD l && w.passes e.x e.t l && bitOf w.arg bit
      && decide ((range l).1 ≤ w.b.toNat) && decide (w.a.toNat < (range l).1 + (range l).2))).filter fun h => h.2 != 0

/-- Value predicates matched by register writes (R332). -/
def State.valueHits (s : State) (e : Env) (ws : List RegWrite) : Hits :=
  ((s.watches e.ck 1).map fun w =>
    (w, ws.foldl (fun m r =>
      if r.reg.toNat == w.arg then
        m ||| maskOf fun l => r.mask.getLsbD l && w.passes e.x e.t l
          && cmpWord w.cmp (Nat.land (Lanes.at r.vals l).toNat (fld w.a 32 32)) (fld w.a 0 32)
      else m) 0)).filter fun h => h.2 != 0

/-- Format predicates matched by raised exceptions. -/
def State.formatHits (s : State) (e : Env) (f : Lanes Fx) : Hits :=
  ((s.watches e.ck 2).map fun w =>
    (w, maskOf fun l => w.passes e.x e.t l && (Lanes.at f l).toNat.land w.arg != 0)).filter fun h => h.2 != 0

def popMask (m : Mask) : Nat := (maskLanes m).length

/-- Count predicates: each lane that completes with its guard holding adds 1 (R332). -/
def State.countHits (s : State) (e : Env) (m : Mask) : Hits × State :=
  (s.watches e.ck 3).foldl (fun (acc : Hits × State) w =>
    let ls := (maskLanes m).filter (w.passes e.x e.t)
    let c0 := fld w.ctl 32 32
    let lim := fld w.a 0 32
    let at_ := ls.zipIdx.filter fun p => (c0 + p.2 + 1) % (1 <<< 32) == lim && lim != 0
    let s := acc.2.modCore e.ck fun c =>
      { c with watch := SMap.put c.watch 0 (0x680 + w.n) (setBits w.ctl 32 32 (c0 + ls.length)) }
    (if at_.isEmpty then acc.1 else acc.1 ++ [(w, maskOf fun l => at_.any fun p => p.1 == l)], s)) ([], s)

/-- Record matches (R332, R333): COUNT, HIT, OVF, the lowest hitting lane, ONCE. -/
def State.recordHits (s : State) (e : Env) (hits : Hits) : State :=
  hits.foldl (fun s h =>
    s.modCore e.ck fun c =>
      let w := h.1
      let ctl := SMap.getD c.watch (0x680 + w.n) 0
      let ctl := if w.kind == 3 then ctl else setBits ctl 32 32 (fld ctl 32 32 + popMask h.2)
      let ctl := if bitOf ctl.toNat 7 then setBits ctl 0 1 0 else ctl
      let st := SMap.getD c.watch (0x6E0 + w.n) 0
      let st := if st.getLsbD 0 then setBits st 1 1 1 else st
      let st := setBits (setBits (setBits (setBits (setBits st 0 1 1) 2 2 0) 4 5 (lowLane h.2)) 9 6 (gkSlot e.gk)) 15 6 e.x
      { c with watch := SMap.put (SMap.put c.watch 0 (0x680 + w.n) ctl) 0 (0x6E0 + w.n) st }) s

/-- The strongest halt among matches (R333): its scope, predicate and lanes. -/
def strongest (hits : Hits) : Option (Nat × Nat × Mask) :=
  let h := hits.filter fun p => 1 ≤ p.1.act && p.1.act ≤ 3
  match maxOn (fun p : Watch × Mask => p.1.act) h with
  | none => none
  | some p => some (p.1.act, p.1.n, (h.filter fun q => q.1.act == p.1.act).foldl (fun m q => m ||| q.2) 0)

/-- Lanes in which a trap action matched. -/
def trapLanes (hits : Hits) : Mask := (hits.filter fun p => p.1.act == 4).foldl (fun m p => m ||| p.2) 0

/-- A long-latency producer of the instruction completes before the next instruction: where it can raise exceptions, with an
enabled format trap or a format predicate; with a value predicate on a register that it writes (R49, R332). -/
def State.inOrder (s : State) (e : Env) (raises : Bool) (dests : List Nat) : Bool :=
  (raises && ((s.raw (0x100 + e.x)).setWidth 8 != (0 : Fx)
    || (s.watches e.ck 2).any (fun w => (maskLanes e.ig.mask).any (w.passes e.x e.t))))
    || (s.watches e.ck 1).any (fun w => dests.contains w.arg && (maskLanes e.ig.mask).any (w.passes e.x e.t))

end Sys2Proof.Machine
end

