-- ==== Sys2Proof/Machine/Issue.lean ====
section
/-! DEFINITION. The issue of one instruction word: the checks of 03_encoding R67, guards and never-guarded words (R59), empty
and unmapped sources, allocation (R69, 04_group R85-R91), the effect of the instruction, format traps and watch actions at
its boundary, and where the threads stand afterwards. Every instruction's meaning is `runWord` over its own effect. -/

namespace Sys2Proof.Machine

abbrev Out := Host.Outcome State Fault Refusal

/-- Register effects of an instruction. `long` names the wait class of a long-latency producer (04_group R90). -/
structure Eff where
  regs : List RegWrite := []
  preds : List PredWrite := []
  sreg : Option (BitVec 8 × Word) := none
  fx : Lanes Fx := noFx
  long : Option OpClass := none
  wait : Pending := .ready
  deriving DecidableEq, Repr

/-- Why an instruction ends before completion. -/
inductive Stop where
  | trap (cause : Cause) (info : Word)
  | fault (cause : Cause) (kind lvl va lane : Nat)
  | block (b : Block)
  | halt (hits : Hits)
  deriving DecidableEq, Repr

/-- How an instruction ends: completed; completed with the traps that follow it given, in place of its format trap; completed
with its threads placed (control); or stopped, with the lanes in `done`
keeping their effects. -/
inductive Res where
  | done (s : State) (f : Eff)
  | doneWith (s : State) (f : Eff) (post : List (Cause × Word))
  | move (s : State) (f : Eff) (place : Nat → Thread → Thread) (post : List (Cause × Word)) (after : State → State)
  | stop (s : State) (f : Eff) (done : Mask) (why : Stop)

/-! ### Checks -/

/-- The checks of R67 in their order, 2 to 13. -/
def State.encCheck (s : State) (i : Instr) (e : Env) : Option Cause :=
  if (opClass i.op).code != e.ig.cls && !helperOp i.op then some 0x11
  else if controlOp i.op && e.ig.pos + 1 != e.ig.count then some 0x12
  else if privilegedOp i.op && !s.privileged e.x then some 0x07
  else match i.staticCheck 5 <|> i.staticCheck 6 <|> i.staticCheck 7 <|> i.staticCheck 8 with
    | some c => some c
    | none =>
      if i.rules.ops.any Operand.namesH && !e.g.inHandler then some 0x05
      else i.staticCheck 10 <|> i.staticCheck 11 <|> i.staticCheck 12 <|> i.staticCheck 13

def neverGuard (g : Guard) : Bool := g.p == 7 && g.n

/-- The issue group holds every thread of the group that has not exited (04_group R83). -/
def Env.converged (e : Env) : Bool := e.ig.mask == e.g.live

/-! ### Committing register effects -/

/-- Sources freed, destinations mapped, results written (R69). Lanes that were done in an earlier issue of the instruction
keep what it wrote. -/
def Group.commit (g : Group) (ops : List Operand) (doneBefore : Mask) (f : Eff) : Group :=
  let freed := freedNames ops
  let dsts := dstNames ops
  let kept := dsts.filter fun n => freed.contains n && doneBefore != 0
  let old := kept.map fun n => (n, g.readV n)
  let g := (g.unmap freed).mapNames dsts
  let g := old.foldl (fun g p => g.writeV p.1 doneBefore p.2) g
  let g := f.regs.foldl Group.writeReg g
  let g := f.preds.foldl Group.writePred g
  match f.sreg with
  | some (r, v) => if regKind r == .s then g.writeS (r.toNat - 192) v else g
  | none => g

/-- The destinations of a long-latency producer are empty until it completes (04_group R90). -/
def Group.launchOp (g : Group) (ops : List Operand) (doneBefore act : Mask) (hdr : Word) (f : Eff) (cls : OpClass) (sync : Bool) (watched : List (Nat × List Word)) :
    Group :=
  let dsts := dstNames ops
  let g := g.commit ops doneBefore { f with regs := [], fx := noFx }
  let g := { g with
      v := dsts.foldl (fun v n => match SMap.get? v n with
        | some en => SMap.set v n { en with full := false }
        | none => v) g.v }
  { g with
    ops := g.ops ++ [{ id := g.opSeq, cls := cls, dests := dsts,
                       writes := f.regs.map fun w => (w.reg.toNat, w.mask, w.vals), fx := f.fx, wait := f.wait, mask := act,
                       hdr := hdr, sync := sync, watched := watched }]
    opSeq := g.opSeq + 1 }

/-! ### Ends before completion -/

/-- Families whose traps before completion have a value in `TS_INFO` (15_context R317). -/
def infoCause (c : Cause) : Bool := let fam := c.toNat / 16; decide (3 ≤ fam) && decide (fam ≤ 7)
/-- The lanes of `done` leave an instruction that stops for the others: they have completed it. They count (16_watch R332), and what
they meet after completion stands behind what stops it (02_numbers R49, 16_watch R333). An MTX instruction whose traps wait goes on
in its other quarters and is not left (07_tile R166). -/
def State.leaveDone (s : State) (e : Env) (ig : IssueGroup) : List TrapAt × Hits × State :=
  if ig.done == 0 || !ig.traps.isEmpty then ([], [], s)
  else
    let (ch, s) := s.countHits e (ig.done &&& e.guarded)
    let post := (if trapLanes ch == 0 then [] else [((0xC1 : Cause), (0 : Word))]) ++ (s.formatTrap e.x ig.raised).toList
    (post.map fun p => { cause := p.1, info := p.2, hdr := ig.after.1, pos := ig.after.2, issue := ig.done, lane := lowLane ig.done },
      ch, s.recordHits e ch)

/-- A halt that the strongest of the matches asks for, if any does (16_watch R333). -/
def State.haltFor (s : State) (e : Env) (skid : Nat) (hits : Hits) : State :=
  match strongest hits with
  | some (scope, n, m) => s.haltScope e.gk m scope { cause := 0xC0, pred := n, skid := skid }
  | none => s

/-- A trap before completion of the instruction of an issue group (15_context R316): the saved PC is this instruction, the done lanes
keep their effects. -/
def State.trapIg (s : State) (e : Env) (ig : IssueGroup) (cause : Cause) (info : Word) (kind lvl lane : Nat) : State :=
  let s := (s.dropIg e.pk).modGroup e.gk fun g => g.modThreads ig.mask fun t => t.stand ig.hdr ig.pos t.viaBranch t.opMark
  let a : TrapAt := { cause := cause, info := if infoCause cause then info else 0, hdr := ig.hdr, pos := ig.pos, issue := ig.mask, done := ig.done,
                      kind := kind, lvl := lvl, lane := lane, ig := if ig.traps.isEmpty then none else some ig }
  let (behind, ch, s) := s.leaveDone e ig
  let s := s.haltFor e 0 ch
  match ig.stepFor with
  | some by_ => (s.takeTraps e.gk (a :: behind) true).stepStatus by_ e.gk ig.mask 2
  | none => s.takeTraps e.gk (a :: behind) false

/-- A trap before completion of the instruction that is issuing, with the lanes of `done` done beside those done before. -/
def State.trapBefore (s : State) (e : Env) (done : Mask) (cause : Cause) (info : Word) (kind lvl lane : Nat) : State :=
  let ig := (s.ig? e.pk).getD e.ig
  s.trapIg e { ig with done := ig.done ||| done } cause info kind lvl lane

/-- The issue group blocks at this instruction. A stepped thread stays where it is, halted (16_watch R343). -/
def State.blockHere (s : State) (e : Env) (done : Mask) (b : Block) : State :=
  let ig := (s.ig? e.pk).getD e.ig
  let ig := { ig with done := ig.done ||| done }
  match ig.stepFor with
  | some by_ =>
    ((s.suspend e.pk { ig with stepFor := none } b).modGroup e.gk Group.splitHalted).stepStatus by_ e.gk ig.mask 1
  | none => s.suspend e.pk ig b

/-- The copies make their operand checks after the one on the copies in flight (10_copy R232). -/
def copyOp (op : Nat) : Bool := 0x80 ≤ op && op ≤ 0x83

/-- The instructions that an address match stops as a whole (16_watch R334): `LDL`, `STL` and the copies; and `SLOAD` and `TMARK`, which
act once for the issue group (log entry 92). The quarters of `TLD` and `TST` wait for their 8 threads in any case. -/
def collectiveOp (op : Nat) : Bool := op == 0x67 || op == 0x68 || copyOp op || op == 0x5C || op == 0xB2

/-- Address matches take their action before the access (16_watch R332-R334): the matching lanes are not done. The other lanes of a
collective wait at it while a thread of it is halted. -/
def State.watchStop (s : State) (e : Env) (done : Mask) (hits : Hits) : State :=
  let s := s.recordHits e hits
  let ig := (s.ig? e.pk).getD e.ig
  let ig := { ig with done := ig.done ||| done }
  let s := s.setIg e.pk ig
  let tl := trapLanes hits
  if tl != 0 then (s.haltFor e 0 hits).trapIg e ig 0xC1 0 0 0 (lowLane tl)
  else match ig.stepFor with
    | some by_ =>
      -- a stepped thread is halted already: it stays at its PC
      (((s.dropIg e.pk).modGroup e.gk fun g => g.modThreads ig.mask fun t => t.stand ig.hdr ig.pos t.viaBranch t.opMark).haltFor e 0 hits).stepStatus
        by_ e.gk ig.mask 1
    | none =>
      let s := s.haltFor e 0 hits
      match s.ig? e.pk with
      | some rest => if collectiveOp e.op then s.suspend e.pk rest .watch else s
      | none => s

/-! ### The boundary after completion -/

/-- SKID of the status of the predicates whose actions land. -/
def State.setSkids (s : State) (ck : Nat) (hs : List (Nat × Nat)) : State :=
  s.modCore ck fun c => { c with
    watch := hs.foldl (fun w h => SMap.put w 0 (0x6E0 + h.1) (setBits (SMap.getD w (0x6E0 + h.1) 0) 2 2 h.2)) c.watch }

/-- Value-watch actions that wait: those of lanes of this issue group have seen one more instruction; they land now or, up to
a skid of 2, later (R332: a free value). Those of one instruction land together. -/
def State.landHalts (s : State) (e : Env) (m : Mask) : State × Hits :=
  match s.group? e.gk with
  | none => (s, [])
  | some g =>
    let mine := g.halts.filter fun h => m.getLsbD h.lane
    if mine.isEmpty then (s, [])
    else
      let (early, s) := s.flip
      let (late, s) := s.flip
      let land := fun (h : PendHalt) => h.now || decide (2 ≤ h.skid) || (if h.skid == 0 then early else late)
      let ops := (mine.filter land).map (·.op)
      let down := g.halts.filter fun h => ops.contains h.op
      let s := s.setGroup e.gk { g with
        halts := (g.halts.filter fun h => !ops.contains h.op).map fun h => if m.getLsbD h.lane then { h with skid := h.skid + 1 } else h }
      let s := s.setSkids e.ck (down.map fun h => (h.pred, h.skid))
      (s, down.map fun h => ({ ((s.core e.ck).watchOf h.pred) with ctl := setBits 0 4 3 h.act }, laneBit h.lane))

/-- Threads move on after an instruction: to the next word of the clause, or out of the issue group (03_encoding R52). -/
def State.advance (s : State) (e : Env) (place : Option (Nat → Thread → Thread)) : State :=
  let ig := (s.ig? e.pk).getD e.ig
  let last := place.isSome || !(ig.pos + 1 < ig.count)
  if !last && ig.stepFor.isNone then
    s.setIg e.pk { ig with
      pos := ig.pos + 1, done := 0, raised := noFx, arr := 0, was := 0, bar := none, mons := [], block := none, traps := [], stepOf := none, stepRes := none }
  else
    let f := place.getD fun _ t => t
    (s.dropIg e.pk).modGroup e.gk fun g =>
      { g with
          threads := lanes fun l =>
            let t := g.thread l
            if ig.mask.getLsbD l then f l (t.stand ig.after.1 ig.after.2 false g.opSeq) else t }

/-- Where the traps after completion resume: the PC of the lowest thread of the issue group, and the threads that share it. -/
def Group.standing (g : Group) (m : Mask) : Word × Nat × Mask :=
  let m := maskOf fun l => m.getLsbD l && !(g.thread l).exited
  let t := g.thread (lowLane m)
  (t.hdr, t.pos, maskOf fun l => m.getLsbD l && (g.thread l).hdr == t.hdr && (g.thread l).pos == t.pos)

/-- Halts and traps at the boundary after an instruction (02_numbers R49, R50; 16_watch R332, R333): halts first, then the
watch trap, then the others. -/
def State.boundary (s : State) (e : Env) (m : Mask) (hits : Hits) (traps : List (Cause × Word)) (force : Bool) : State :=
  let tl := trapLanes hits
  let post := (if tl == 0 then [] else [((0xC1 : Cause), (0 : Word))]) ++ traps
  match strongest hits, post with
  | none, [] => s
  | h, post =>
    -- a running issue group gives its threads up at this boundary
    let s := if post.isEmpty then s else
      match s.ig? e.pk with
      | none => s
      | some ig => (s.dropIg e.pk).modGroup e.gk fun g => g.modThreads ig.mask fun t => t.stand ig.hdr ig.pos t.viaBranch g.opSeq
    let s := match h with
      | some (scope, n, lanes) =>
        let skid := fld (SMap.getD (s.core e.ck).watch (0x6E0 + n) 0) 2 2
        s.haltScope e.gk lanes scope { cause := 0xC0, pred := n, skid := skid }
      | none => s
    match s.group? e.gk with
    | none => s
    | some g =>
      let (hdr, pos, issue) := g.standing m
      s.takeTraps e.gk (post.map fun p => { cause := p.1, info := p.2, hdr := hdr, pos := pos, issue := issue,
                                            lane := lowLane issue }) force

/-- Actions of value matches, which land at a later boundary (16_watch R332): of the halts of one instruction the strongest, and its
trap actions (R333). `op` names the instruction. -/
def haltsOf (op skid : Nat) (vh : Hits) : List PendHalt :=
  let most := (strongest vh).elim 0 (·.1)
  (((vh.filter fun h => h.1.act == 4 || (h.1.act != 0 && h.1.act == most)).map fun h => (maskLanes h.2).map fun l =>
    ({ pred := h.1.n, lane := l, act := h.1.act, skid := skid, now := false, op := op } : PendHalt)).flatten)

/-- The number by which waiting watch actions name the instruction that is issuing. -/
def Env.opNum (e : Env) : Nat := e.g.issued.toNat <<< 64 ||| e.ig.pc.toNat

/-- Whether a long-latency producer settles its results with the instruction: an enabled trap or a watch needs them there (02_numbers
R49, 16_watch R332). -/
def State.settlesInOrder (s : State) (e : Env) (f : Eff) : Bool :=
  s.inOrder e (f.wait == .ready && (f.long == some .other || f.long == some .at || f.long == some .mx)) (dstNames e.ops)

/-- The wait class under which the results of an instruction stay in flight after it, if they do (04_group R90). -/
def State.inFlight (s : State) (e : Env) (f : Eff) : Option OpClass :=
  f.long.filter fun _ => !s.settlesInOrder e f || f.wait != .ready

/-- The flags that an instruction has raised at its boundary: in flight, those of its lanes done before. -/
def State.raisedNow (s : State) (e : Env) (f : Eff) : Lanes Fx :=
  if (s.inFlight e f).isSome then e.ig.raised else lanes fun l => Lanes.at f.fx l ||| Lanes.at e.ig.raised l

/-- What a completed instruction makes of its group before its threads move on: it has issued one more word, and its results are written
or in flight. -/
def State.wordDone (s : State) (e : Env) (f : Eff) (g : Group) : Group :=
  let h := match s.inFlight e f with
    | some cls => g.launchOp e.ops e.ig.done e.act e.ig.hdr f cls (s.settlesInOrder e f) ((s.watches e.ck 1).map Watch.words)
    | none => { g.commit e.ops e.ig.done f with fx := g.fx ||| fxUnion f.fx }
  { h with issued := h.issued + 1 }

/-- Completion of an instruction. -/
def State.finish (s : State) (e : Env) (f : Eff) (place : Option (Nat → Thread → Thread)) (post : List (Cause × Word))
    (fmt : Bool) (after : State → State) : State :=
  let m := e.ig.mask
  let raised := s.raisedNow e f
  let fx := if (s.inFlight e f).isSome then noFx else f.fx
  let vh := s.valueHits e f.regs
  let s := (s.unmarkRegs e.gk (freedNames e.ops) f.regs).modGroup e.gk (s.wordDone e f)
  let fh := s.formatHits e fx
  let (ch, s) := s.countHits e e.guarded
  let s := s.recordHits e (vh ++ fh ++ ch)
  let traps := post ++ (if fmt then (s.formatTrap e.x raised).toList else [])
  let s := after (s.advance e place)
  let (s, landed) := s.landHalts e m
  -- with a halt at this boundary the value matches of the same instruction act at it too
  let at_ := if (strongest (fh ++ ch)).isSome then vh else []
  let waits := if at_.isEmpty then haltsOf e.opNum 1 vh else []
  let s := if waits.isEmpty then s else s.modGroup e.gk fun g => { g with halts := g.halts ++ waits }
  let s := match e.ig.stepFor with
    | some by_ => (s.rehalt by_ e.gk m).stepStatus by_ e.gk m (if traps.isEmpty then 0 else 2)
    | none => s
  ((s.boundary e m (at_ ++ fh ++ ch ++ landed) traps e.ig.stepFor.isSome).settle e.gk).deliverPending e.gk 0

/-- How an instruction's effect ends the issue. -/
def Res.apply (s0 : State) (e : Env) : Res → State
  | .done s f => s.finish e f none [] true id
  | .doneWith s f post => s.finish e f none post false id
  | .move s f place post after => s.finish e f (some place) post true after
  | .stop s f dn why =>
    let vh := if dn == 0 then [] else s.valueHits e f.regs
    let s := match (if dn == 0 then none else s.ig? e.pk) with
      | some ig => s.setIg e.pk { ig with raised := lanes fun l => Lanes.at ig.raised l ||| (if dn.getLsbD l then Lanes.at f.fx l else 0) }
      | none => s
    let s := if dn == 0 then s else (s.recordHits e (vh ++ s.formatHits e f.fx)).modGroup e.gk fun g =>
      { (f.preds.foldl Group.writePred (f.regs.foldl Group.writeReg (g.mapNames (dstNames e.ops)))) with
          fx := g.fx ||| fxUnion f.fx, halts := g.halts ++ haltsOf e.opNum 0 vh ++ (haltsOf e.opNum 0 (s.formatHits e f.fx)).map fun h => { h with now := true } }
    match why with
    | .trap c info => s.trapBefore e dn c info 0 0 (lowLane (e.act &&& ~~~dn))
    | .fault c kind lvl va lane =>
      if c.toNat / 16 == 3 && s0.reportsFull e.d then s0.blockHere e 0 .report
      else s.trapBefore e dn c (BitVec.ofNat 64 va) kind lvl lane
    | .block b => s.blockHere e dn b
    | .halt hits => s.watchStop e dn hits

/-! ### The issue -/

/-- The operand checks that every instruction makes before its effect: `0x20`, `0x21`, poison, empty destinations, `0x22`,
an empty pool; none lets it go on. -/
def State.operandCheck (s : State) (e : Env) : Option Stop :=
  let live := e.act != 0
  match (if live then e.g.srcCheck e.ops else none) with
  | some (.ok c) => some (.trap c 0)
  | some (.error b) => some (.block b)
  | none =>
    if live && s.poisonedReg e.gk e.act e.ops then some (.trap 0xE0 0)
    else if live && (e.ops.any fun o => o.dst && e.g.emptyOp o) then some (.block .operand)
    else if e.g.overBudget e.ops then some (.trap 0x22 0)
    else if s.poolShort e.pk e.g e.ops || (!(e.g.newNames e.ops).isEmpty && s.poolWaits e.gk (e.ig.block == some .pool)) then some (.block .pool)
    else none

/-- An entry's own checks, made before the operand checks. -/
abbrev PreCheck := Env → State → Option Cause
def noCheck : PreCheck := fun _ _ => none

/-- The scalar pipe needs a converged group (04_group R84), unless no guard holds (00_scope R7). -/
def scalarCheck (i : Instr) (e : Env) : Option Cause :=
  if scalarOp i.op && e.guarded != 0 && !e.ig.conv && !e.converged then some 0x15 else none

/-- One instruction about to issue in environment `e`. The operand checks of `V2S` come before 0x14, which its result raises (log entry
85). -/
def State.issueWord (s : State) (i : Instr) (e : Env) (pre : PreCheck) (body : Env → State → Res) : State :=
  -- a word that has blocked was matched when it was first about to issue
  let xh := s.addrHits e 2 (e.ig.mask &&& ~~~e.ig.done) fun _ => (e.ig.pc.toNat, 8)
  let stops := xh.any fun h => h.1.act != 0
  if stops then s.watchStop e 0 xh
  else
    let s := if e.ig.tried then s else s.recordHits e xh
    match s.encCheck i e with
    | some c => s.trapBefore e 0 c 0 0 0 (lowLane (e.ig.mask &&& ~~~e.ig.done))
    | none =>
      if neverGuard i.guard then s.finish { e with act := 0, guarded := 0, ops := [] } {} none [] true id
      else match scalarCheck i e <|> pre e s with
        | some c => s.trapBefore e 0 c 0 0 0 (lowLane (e.ig.mask &&& ~~~e.ig.done))
        | none =>
          match (if mtxOp i.op || copyOp i.op then none else s.operandCheck e) with
          | some why => (Res.stop s {} 0 why).apply s e
          | none => (body e s).apply s e

/-- The meaning of an instruction word over its own effect. -/
def runWord (i : Instr) (pre : PreCheck) (body : Env → State → Res) (s : State) : Out :=
  match s.env? i with
  | none => .fault .noIssueGroup
  | some e => .next (s.issueWord i e pre body)

/-- An instruction that only writes registers, predicates and flags. -/
def runAlu (i : Instr) (body : Env → State → Eff) (s : State) : Out :=
  runWord i noCheck (fun e s => .done s (body e s)) s

end Sys2Proof.Machine
end

