-- ==== Sys2Proof/Machine/Sched.lean ====
section
/-! DEFINITION. Scheduling of a partition: readiness, wait masks, the header checks, the formation of issue groups
(03_encoding R51-R58, 04_group R80-R82), instruction fetch, and the passing of a cycle. -/

namespace Sys2Proof.Machine

/-! ### Readiness -/

/-- The bit of the wait mask that counts an instruction's accesses (03_encoding R54). -/
def accessBit (i : Instr) : Option Nat :=
  match i with
  | .ld _ _ | .ldl _ _ | .tld _ _ | .sload _ _ => some 0
  | .st _ _ | .stl _ _ | .tst _ _ | .red _ _ => some 1
  | .atom _ _ | .atomc _ _ | .atomf _ _ => some 2
  | .cpy _ _ | .cpyo _ _ | .cpys _ _ | .cpyg _ _ => some 4
  | .rbox _ _ | .rtri _ _ | .probe _ _ => some 6
  | _ => none
/-- No request of an instruction that a bit counts, issued before mark `mark`, waits for the culvert that has accepted it. -/
def State.noneSent (s : State) (g : Group) (mark bit : Nat) : Bool :=
  !g.allIgs.any fun ig => ig.block == some .culvert && ig.sent && decide (ig.op < mark)
    && (s.team? g.team).any fun t => ((s.peekCode t ig.pc).bind decodeRaw).bind accessBit == some bit
/-- A condition of the wait mask (R54) for operations issued before mark `mark`. -/
def State.waitBit (s : State) (gk : Nat) (g : Group) (mark bit : Nat) : Bool :=
  let none_ := fun (c : OpClass) => !g.ops.any fun o => o.cls == c && decide (o.id < mark)
  match bit with
  | 0 => none_ .ld && s.noneSent g mark 0 && !g.ops.any fun o => (match o.wait with | .sld _ => true | _ => false) && decide (o.id < mark)
  | 1 => s.noneSent g mark 1
  | 2 => none_ .at && s.noneSent g mark 2
  | 3 => none_ .mx
  | 4 => s.noneSent g mark 4
  | 5 => none_ .sm
  | 6 => none_ .rt && s.noneSent g mark 6
  | 7 => !(s.cluster (clusterOf (gkCore gk))).events.isEmpty
  | 8 => !s.monitors.any fun p => p.2.gk == some gk && p.2.outcome.isNone && decide (p.2.opSeq < mark)
  | _ => true

def State.waitsMet (s : State) (gk : Nat) (g : Group) (mark mask : Nat) : Bool :=
  (List.range 9).all fun b => !bitOf mask b || s.waitBit gk g mark b

/-- A thread that stands at a PC and is not held back otherwise (R80). -/
def Thread.candidate (t : Thread) (now : Nat) : Bool :=
  !t.exited && !t.inIssue && t.halt.isNone && !t.conv && t.block != some .lost && (t.hold.isNone || t.hold.any fun h => decide (h ≤ now))

/-- The group may run: its team is on the core and no trap, save or stop holds it (R100). -/
def State.runnable (s : State) (gk : Nat) (g : Group) : Bool :=
  g.hostTrap.isNone && g.entering.isEmpty && g.pending.all (fun f => !(g.atDepth f && g.mayTake f.issue)) && !(s.die (gkDie gk)).tripped
    && match s.team? g.team with
      | none => false
      | some t => (t.stage == .admitted || t.stage == .running) && !t.saveHalt

/-- Threads that wait for an operation to complete before they issue anything, and those of a trap that is pending behind a halt of one
of them (02_numbers R50, 16_watch R333). -/
def Group.synced (g : Group) : Mask :=
  (g.pending.filter g.atDepth).foldl (fun m f => m ||| f.issue) ((g.ops.filter (·.sync)).foldl (fun m o => m ||| o.mask) 0)

/-- The distinct PCs of a list of threads. -/
def Group.pcs (g : Group) (m : Mask) : List (Word × Nat) :=
  (laneList.filterMap fun l => if m.getLsbD l then some ((g.thread l).hdr, (g.thread l).pos) else none).eraseDups

/-- Threads at one header that the header word lets issue: its wait mask is met (R54) and, where `conv` is asked, CONV (R55). A header
that fails a check holds none back: it traps. -/
def State.passHeader (s : State) (gk : Nat) (g : Group) (here : Mask) (va w : Word) (conv : Bool) : Mask :=
  if (hdrBad ((g.thread (lowLane here)).viaBranch) va w).isSome then here
  else
    let ok := maskOf fun l => here.getLsbD l && s.waitsMet gk g (g.thread l).opMark (hdrWait w)
    if conv && hdrConv w && ok != g.live then 0 else ok

/-- The threads at one PC that are ready (R80) or, where `conv` is asked, that may issue: at a header whose word has been overwritten
since the placement, by either value of it (R58). -/
def State.readyAt (s : State) (gk : Nat) (g : Group) (t : Team) (m : Mask) (conv : Bool) (pc : Word × Nat) : Mask :=
  let here := maskOf fun l => m.getLsbD l && (g.thread l).hdr == pc.1 && (g.thread l).pos == pc.2
  if pc.2 != 0 then here
  else match s.codeWords t pc.1 with
    | [] => here
    | ws => ws.foldl (fun m w => m ||| s.passHeader gk g here pc.1 w conv) 0

/-- The ready threads of a group by PC (R80), a thread that waits for CONV among them; with `conv` only those that may issue (R55). -/
def State.pcsOf (s : State) (gk : Nat) (g : Group) (conv : Bool) : List ((Word × Nat) × Mask) :=
  if !s.runnable gk g then []
  else match s.team? g.team with
    | none => []
    | some t =>
      let cand := (maskOf fun l => (g.thread l).candidate (s.cyclesOf (gkCore gk))) &&& ~~~g.synced
      ((g.pcs cand).map fun pc => (pc, s.readyAt gk g t cand conv pc)).filter fun p => p.2 != 0
def State.readyPcs (s : State) (gk : Nat) (g : Group) : List ((Word × Nat) × Mask) := s.pcsOf gk g true

/-- The group has a thread that may issue; has a ready thread. -/
def State.groupReady (s : State) (gk : Nat) (g : Group) : Bool := !(s.readyPcs gk g).isEmpty
def State.groupWaits (s : State) (gk : Nat) (g : Group) : Bool := !(s.pcsOf gk g false).isEmpty

/-- Order of PCs: address, then position. -/
def pcKey (pc : Word × Nat) : Nat := pc.1.toNat * 16 + pc.2

/-- The chosen PC and its threads (R82). -/
def State.chosen (s : State) (gk : Nat) (g : Group) : Option ((Word × Nat) × Mask) :=
  let ps := sortOn (fun p : (Word × Nat) × Mask => pcKey p.1) (s.readyPcs gk g)
  let most := fun (p : (Word × Nat) × Mask) => ((maskLanes p.2).map fun l => (g.thread l).waits).foldl max 0
  match maxOn most ps with
  | none => none
  | some p => if 1024 ≤ most p then some p else ps.head?

/-! ### Fetch -/

inductive Fetch where
  | word (w : Word)
  | fault (cause : Cause) (lvl : Nat)
  | wait
  | poison
  deriving DecidableEq, Repr

/-- Fetch an instruction word or header: translation with kind execute, and the word as placed or as it stands now, where
the two differ (R58: a free value). -/
def State.fetchCode (s : State) (ck : Nat) (t : Team) (va : Word) : Fetch × State :=
  match s.translate ck (s.teamCtx t) va.toNat 2 with
  | (.fault c l, s) => (.fault c l, s)
  | (.wait, s) => (.wait, s)
  | (.ok p, s) =>
    if (s.homePoison p.pa 8 <|> s.copyPoison (ErrPlace.icache? ck) p.pa 8).isSome then (.poison, s)
    else
      let now := s.word64 p.pa
      match SMap.get? t.code va.toNat with
      | none => (.word now, s)
      | some old => if old == now then (.word now, s) else (.word (if s.flip.1 then old else now), s.flip.2)

/-! ### The start of a clause -/

/-- A trap at a header or at a mid-clause PC, before any instruction issues there (R53, R320). -/
def State.trapAtPc (s : State) (gk : Nat) (m : Mask) (pc : Word × Nat) (cause : Cause) (info kind lvl : Nat) : State :=
  s.takeTrap gk { cause := cause, info := BitVec.ofNat 64 info, hdr := pc.1, pos := pc.2, issue := m, kind := kind,
                  lvl := lvl, lane := lowLane m }

/-- The clause starts, or goes on at its position: the threads leave the header for an issue group, with what the first instruction has
done for them already (R56). -/
def State.startClause (s : State) (gk : Nat) (m : Mask) (pc : Word × Nat) (h : Word) : State :=
  let pk := gkPart gk
  let fresh := IssueGroup.form (gkSlot gk) m pc.1 pc.2 (hdrClass h) (hdrCount h) (hdrConv h)
  let ig := (s.group? gk).elim fresh fun g => g.takeAnew fresh
  let s := s.modGroup gk fun g =>
    { (g.modThreads m fun t => { t with inIssue := true, waits := 0, block := none, hold := none }) with
      yielded := false, passed := 0
      susp := (g.susp.map fun o => if o.block == some .anew then o.part (~~~m) else o).filter fun o => o.mask != 0 }
  let s : State := match s.group? gk with
    | none => s
    | some g => s.modTeam g.team fun t => if t.stage == .admitted then { t with stage := .running } else t
  { (s.setIg pk ig) with focus := some pk }

/-- Every later word of the clause lies in a present, executable page (R53, 08_page R187): false where it does not, none where the
translation has to wait for the culvert. -/
def State.tailOk (s : State) (ck x : Nat) (hdr : Word) (count : Nat) : Option Bool × State :=
  let last := hdr.toNat + 8 * count
  if last / 4096 == hdr.toNat / 4096 then (some true, s)
  else if 0x10000000000000 ≤ last then (some false, s)
  else match s.translate ck x last 2 with
    | (.ok _, s) => (some true, s)
    | (.wait, s) => (none, s)
    | (.fault _ _, s) => (some false, s)

/-- How the arrival of threads at a PC ends: a trap there, a wait for the culvert or for room in the report store, or a clause
whose header is the given word. -/
inductive Reach where
  | trap (cause : Cause) (info kind lvl : Nat)
  | culvert
  | report
  | go (h : Word)
  deriving DecidableEq, Repr

/-- The checks of R53 at a PC. -/
def State.reachCheck (s : State) (gk : Nat) (t : Team) (branch : Bool) (pc : Word × Nat) : Reach × State :=
  let ck := gkCore gk
  if fld pc.1 0 3 != 0 then (.trap 0x13 0 0 0, s)
  else if fld pc.1 52 12 != 0 then (.trap 0x43 pc.1.toNat 0 0, s)
  else match s.fetchCode ck t pc.1 with
    | (.fault c l, s) => (if s.reportsFull (gkDie gk) then .report else .trap c pc.1.toNat 2 l, s)
    | (.wait, s) => (.culvert, s)
    | (.poison, s) => (.trap 0xE2 0 0 0, s)
    | (.word h, s) =>
      -- at a position within a clause every failed check of its header is 0x13 (15_context R320)
      let mid := pc.2 != 0
      if mid && !(pc.2 < hdrCount h) then (.trap 0x13 0 0 0, s)
      else match hdrBad (branch || mid) pc.1 h with
        | some c => (.trap (if mid then 0x13 else c) 0 0 0, s)
        | none => match s.tailOk ck (s.teamCtx t) pc.1 (hdrCount h) with
          | (some true, s) => (.go h, s)
          | (some false, s) => (.trap (if mid then 0x13 else 0x17) 0 0 0, s)
          | (none, s) => (.culvert, s)

/-- The partition has had its turn in this cycle of its cluster. -/
def State.spend (s : State) (pk : Nat) : State :=
  { s with lastIssue := SMap.set s.lastIssue pk (s.cluster (clusterOf (pk / 4))).cycles }

/-- The thread waits at its header for the culvert. -/
def Thread.fetching (t : Thread) : Bool := match t.block with | some (.fetch _) => true | _ => false

/-- The selected threads reach their PC: the header checks of R53, then the wait mask and CONV of the word that was fetched, then the
issue group (R56). Of threads that arrived by a branch and by falling through, the lowest lane's arrival chooses the column of causes
for all (log entry 82). -/
def State.reachPc (s : State) (gk : Nat) (g : Group) (t : Team) (m : Mask) (pc : Word × Nat) : State :=
  match s.reachCheck gk t (g.thread (lowLane m)).viaBranch pc with
  | (.trap c info kind lvl, s) => s.trapAtPc gk m pc c info kind lvl
  | (.culvert, s) =>
    let (sent, s) := s.flip
    (s.modGroup gk fun g => g.modThreads m fun t =>
      if t.fetching then t else { t with block := some (.fetch sent), since := s.now }).spend (gkPart gk)
  | (.report, s) => s.spend (gkPart gk)
  | (.go h, s) =>
    let m := if pc.2 != 0 then m else s.passHeader gk g m pc.1 h true
    if m == 0 then s.spend (gkPart gk) else s.startClause gk m pc h

/-- Other groups of the partition with a thread that may issue. -/
def State.readyOthers (s : State) (gk : Nat) : List (Nat × Group) :=
  (s.groupsIn (gkPart gk)).filter fun p => p.1 != gk && s.groupReady p.1 p.2

/-- A group that yielded is not selected while another group of its partition has a thread that may issue (05_group_integer R110). -/
def State.givesWay (s : State) (gk : Nat) (g : Group) : Bool := g.yielded && !(s.readyOthers gk).isEmpty
/-- The partition of a group selects it: groups of the partition that yielded have given way. -/
def State.selectGroup (s : State) (gk : Nat) : State :=
  ((s.groupsIn (gkPart gk)).foldl (fun s p => s.modGroup p.1 fun h => { h with yielded := false }) s).modGroup gk fun g => { g with passed := 0 }

/-- The group may be selected (R81, 05_group_integer R110): a group that yielded gives way at the next clause boundary, and every other
ready group can still be selected before 12 other clauses have started, the one that has waited longest first. -/
def State.mayGo (s : State) (gk : Nat) (g : Group) : Bool :=
  let others := s.readyOthers gk
  !s.givesWay gk g
    && (sortOn (fun p : Nat × Group => 12 - p.2.passed) others).zipIdx.all fun p => decide (p.1.2.passed + 1 + p.2 ≤ 11)

/-- A clause starts on the partition of a group: groups that yielded have given way, and every other group with a thread that may issue
has been passed over once more. -/
def State.countPassed (s : State) (gk : Nat) : State :=
  let ready := (s.readyOthers gk).map (·.1)
  (s.groupsIn (gkPart gk)).foldl (fun s p => s.modGroup p.1 fun h =>
    { h with yielded := false, passed := if ready.contains p.1 then h.passed + 1 else 0 }) s

/-- A `GROW` of a group to `new` names fits in its partition (12_kernel R273). -/
def State.growRoom (s : State) (pk : Nat) (g : Group) (new : Nat) : Bool := decide (s.budgets pk - g.budget + new ≤ 2048)

/-- A blocked `GROW` may go on: there is room, or R89 has denied it. -/
def State.mayGrow (s : State) (gk : Nat) (g : Group) (t : Team) (ig : IssueGroup) : Bool :=
  ig.was != 0 || match (s.peekCode t ig.pc).bind decodeRaw with
    | some (.grow _ f) => s.growRoom (gkPart gk) g (f.fld 20 8).toNat
    | _ => true

/-- An issue group blocked at a barrier may go on: lanes that a held phase kept from arriving may arrive, and none waits for the
phase in force (11_barrier R246, R248, R249). -/
def State.barReady (s : State) (t : Team) (ig : IssueGroup) : Bool :=
  match ig.bar with
  | none => true
  | some (k, _, rest) =>
    let b := t.bar k
    let stuck := fun (m : Mask) => (maskLanes (m &&& ig.mask)).any fun l => b.ph == (Lanes.at ig.tok l).setWidth 24
    if rest != 0 then !b.held
    else match (s.peekCode t ig.pc).bind decodeRaw with
      | some (.barSync _ _) => !stuck ig.arr
      | some (.barWait _ _) | some (.barWpar _ _) => !stuck ig.was
      | _ => true

/-- A monitor of the issue group has not ended. -/
def State.monWaits (s : State) (ig : IssueGroup) : Bool :=
  ig.mons.any fun p => (s.monitor? p.2).any fun m => m.outcome.isNone

/-- What an issue group waits for may have come about. -/
def State.mayResume (s : State) (gk : Nat) (g : Group) (t : Team) (ig : IssueGroup) : Bool :=
  s.runnable gk g && ig.mask &&& g.synced == 0 && !(maskLanes ig.mask).any (fun l => (g.thread l).halt.isSome)
    && match ig.block with
      | some .step => ig.stepRes.isSome || match ig.stepOf with
        | none => true
        | some (k, _) => !(s.ig? (gkPart k)).any fun o => o.stepFor == some gk
      | some .operand | some .pool =>
        (match s.peekCode t ig.pc with
        | none => true
        | some w => match decodeRaw w with
          | none => true
          | some i =>
            let ops := operandsOf i
            let quiet := match i with | .sysrd _ _ | .syswr _ _ => g.ops.isEmpty | _ => true
            -- a copy reads of its group's registers those of its NDIM (10_copy R231): it makes its checks again
            if copyOp i.op then (ops.take 2).all fun o => !g.emptyOp o
            else if !quiet then false
            else if ig.block == some .pool then !s.poolShort (gkPart gk) g ops && !s.poolWaits gk true
            else ops.all fun o => !g.emptyOp o)
      | some .grow => s.mayGrow gk g t ig
      | some .barrier => s.barReady t ig
      | some .monitor => !s.monWaits ig
      | some .report => !s.reportsFull (gkDie gk)
      | some .culvert | some (.fetch _) => s.culvertOpen
      | some .lost => false
      | some .clean => !s.cleanWaits (gkCore gk)
      | some .watch => !laneList.any fun l => (g.thread l).halt.isSome && g.pcOf l == (ig.hdr, ig.pos)
      | some .anew => false
      | _ => true

/-- A `GROW` of a lower slot of the partition waits and would be served first (R88). -/
def State.servedBefore (s : State) (gk : Nat) : Bool :=
  (s.groupsIn (gkPart gk)).any fun p => decide (p.1 < gk) && match s.team? p.2.team with
    | none => false
    | some t => p.2.susp.any fun ig => ig.block == some .grow && s.mayResume p.1 p.2 t ig

/-- A suspended issue group goes on at its instruction (R56): its group is selected. -/
def State.resumeIg (s : State) (gk : Nat) (k : Nat) : State :=
  match s.group? gk with
  | none => s
  | some g =>
    match g.susp[k]?, s.team? g.team with
    | some ig, some t =>
      if !s.mayResume gk g t ig || s.givesWay gk g then s
      else
        let s := ((s.setGroup gk { g with susp := g.susp.eraseIdx k }).selectGroup gk).modTeam g.team fun t =>
          if t.stage == .admitted then { t with stage := .running } else t
        { (s.setIg (gkPart gk) ig) with focus := some (gkPart gk) }
    | _, _ => s

/-- `CLAUSE ISSUE` (R81, R82): the scheduler selects a group. `sel` 0 forms an issue group; `sel` k resumes the group's
suspended issue group k - 1. -/
def State.clauseIssue (s : State) (d c slot sel : Nat) : State :=
  let gk := groupKey d c slot
  if 2 ≤ d || 96 ≤ c || 48 ≤ slot || (s.ig? (gkPart gk)).isSome then s
  else if sel != 0 then s.resumeIg gk (sel - 1)
  else match s.group? gk with
    | none => s
    | some g =>
      match s.chosen gk g, s.team? g.team with
      | some (pc, m), some t =>
        if !s.mayGo gk g then s
        else
          (s.countPassed gk).reachPc gk g t m pc
      | _, _ => s

def execClauseIssue (d c slot sel : Nat) (s : State) : Out := .next (s.clauseIssue d c slot sel)

/-! ### A cycle passes -/

/-- A cluster's clock phase after a cycle (14_column R304). -/
def ClockPhase.tick : ClockPhase → ClockPhase
  | .stretch (n + 1) t => .stretch n t
  | .hold (n + 1) b => .hold n !b
  | p => p

/-- Every cycle of a stretch has twice the normal period. -/
def ClockPhase.slow : ClockPhase → Bool
  | .stretch _ _ => true
  | _ => false

/-- Time of a cycle, in ticks x MHz. -/
def Cluster.need (c : Cluster) : Nat := if c.phase.slow then 20000 else 10000

/-- A cluster after a cycle, with `PERFC` 7 and 8. -/
def Cluster.tick (c : Cluster) : Cluster :=
  let count := fun (k : Nat) => SMap.set c.perf k (SMap.getD c.perf k 0 + 1)
  { c with
    cycles := c.cycles + 1, phase := c.phase.tick
    perf := match c.phase with | .stretch _ _ => count 7 | .hold _ _ => count 8 | .normal => c.perf }

/-- A stretch ends once the alarm has cleared, not before 4 cycles, and at 32 (14_column R304). -/
def Cluster.stretchOver (c : Cluster) : Bool :=
  match c.phase with
  | .stretch left _ => left == 0 || (decide (left ≤ 28) && !c.alarm)
  | _ => false

/-- The cycles of a hold have passed. -/
def ClockPhase.held : ClockPhase → Bool
  | .hold 0 _ => true
  | _ => false

/-- The cycles of a cluster that end in the time that has passed, at most `fuel` of them, and none beyond the end of a stretch or hold. -/
def Cluster.run (fuel : Nat) (c : Cluster) : Cluster :=
  match fuel with
  | 0 => c
  | fuel + 1 => if decide (c.need ≤ c.part) && !c.stretchOver && !c.phase.held then Cluster.run fuel ({ c with part := c.part - c.need }).tick else c

/-- What an issue group is blocked in (R100); on the destination of a `QPOP`, in a sluice queue (12_kernel R271). -/
def State.blockOf (s : State) (g : Group) (ig : IssueGroup) : Option Block :=
  let names := (g.ops.filter fun o => match o.wait with | .sluice _ => true | _ => false).map (·.dests)
  let reads := ((s.team? g.team).bind fun t => (s.peekCode t ig.pc).bind decodeRaw).elim [] operandsOf
  if ig.block == some .operand && reads.any (fun o => g.emptyOp o && names.flatten.contains o.reg.toNat) then some .sluice else ig.block

/-- The kind of the first block of a group that is blocked (R100): of the issue groups that block, the one that began first. -/
def State.blockKind (s : State) (gk : Nat) (g : Group) : Option Block :=
  let igs := g.heldIgs.filter fun ig => ig.block.isSome && ig.block != some .anew
  let stands := laneList.any fun l => let t := g.thread l; !t.exited && !t.inIssue && t.halt.isNone
  if g.allExited || s.groupWaits gk g || (s.ig? (gkPart gk)).any (fun ig => ig.slot == gkSlot gk) then none
  else if g.first.isSome then g.first
  else if g.hostTrap.isSome then some .fault
  else match minOn (fun ig : IssueGroup => ig.since) igs with
    | some ig => s.blockOf g ig
    | none => if stands then some .header else none

/-- Wait counts, `PERFC` 3, regions, monitor waits and the kind of the block of a group after `n` cycles of its cluster and `dt` ticks
(R82, R100, 11_barrier R263, 16_watch R335). -/
def State.tickGroup (s : State) (n dt gk : Nat) (g : Group) : Group :=
  let ready := (s.pcsOf gk g false).foldl (fun m p => m ||| p.2) (0 : Mask)
  let halted := s.teamHalted g.team
  let selected := g.ran || (s.ig? (gkPart gk)).any fun ig => ig.slot == gkSlot gk
  let g := { g with
    ran := false, region := g.region.map (· + n), first := s.blockKind gk g
    susp := if halted then g.susp else g.susp.map fun ig => if ig.block == some .monitor then { ig with waited := ig.waited + dt } else ig }
  if ready == 0 then g
  else { (g.modThreads ready fun t => { t with waits := t.waits + n }) with
    readyCycles := if selected then g.readyCycles else g.readyCycles + BitVec.ofNat 64 n }

/-- A partition meets R89's condition: a group waits for entries, and every thread of its groups that is not halted waits for them. -/
def State.deadlocked (s : State) (pk : Nat) : Bool :=
  let gs := (s.groupsIn pk).filter fun p => !p.2.allExited
  let want := fun (b : Option Block) => b == some .pool || b == some .grow
  (s.ig? pk).isNone && gs.any (fun p => p.2.susp.any fun ig => want ig.block)
    && gs.all fun p => p.2.hostTrap.isNone && p.2.entering.isEmpty && laneList.all fun l =>
      (p.2.thread l).exited || (p.2.thread l).halt.isSome || want ((p.2.igOf l).bind (·.block))

/-- Deadlock cycles of the partitions on which a group waits for entries. `n` gives the cycles of a cluster. -/
def State.tickDeadlock (s : State) (n : Nat → Nat) : State :=
  let pks := ((s.groups.filter fun p => p.2.susp.any fun ig => ig.block == some .pool || ig.block == some .grow).map
    fun p => gkPart p.1).eraseDups
  let s := { s with cores := s.cores.map fun c => (c.1, { c.2 with deadlock := c.2.deadlock.filter fun e => pks.contains e.1 }) }
  pks.foldl (fun s pk => s.modCore (pk / 4) fun c => { c with
    deadlock := if s.deadlocked pk then SMap.set c.deadlock pk (SMap.getD c.deadlock pk 0 + n (clusterOf (pk / 4)))
      else SMap.erase c.deadlock pk }) s

/-- Resident time of a team after `dt` ticks (15_context R323, 16_watch R335). -/
def State.tickTeam (s : State) (dt t : Nat) (x : Team) : Team :=
  if x.resident && !s.teamHalted t then { x with ticks := x.ticks + dt } else x

/-- The right die's counter after `dt` reference ticks, and the slew that goes on: 999 or 1,001 ticks per 1,000 until the dies
agree (19_trail R386). -/
def State.slewed (s : State) (dt : Nat) : Nat × Option (Bool × Nat) :=
  let l := (s.die 0).ticks + dt
  let r := (s.die 1).ticks + dt
  match s.slew with
  | none => (r, none)
  | some (fast, n) =>
    let k := (n + dt) / 1000
    let r := if fast then max r (min l (r + k)) else min r (max l (r - k))
    (r, if r == l then none else some (fast, (n + dt) % 1000))

/-- The clusters after `dt` ticks, at the time `now` of their die: each counts the cycles of its own clock (00_scope R3), but for those of
a halted die (20_bringup R401). -/
def State.tickClusters (s : State) (dt : Nat) (now : Nat → Nat) : State :=
  (List.range 16).foldl (fun s k => s.modCluster k fun c =>
    if (s.die (k / 8)).tripped then c
    else
      let mhz := max 1 (s.die (k / 8)).clockMhz
      let n := Cluster.run 64 { c with part := c.part + dt * mhz }
      if n.cycles == c.cycles then n else { n with edge := now (k / 8) - ceilDiv n.part mhz }) s

/-- The clusters with a group that has not exited; where there is none, that of the partition in focus. -/
def State.busyClusters (s : State) : List Nat :=
  match (s.groups.filter fun p => !(s.die (gkDie p.1)).tripped && !p.2.allExited).map fun p => clusterOf (gkCore p.1) with
  | [] => [clusterOf (s.focus.getD 0 / 4)]
  | l => l.eraseDups
/-- The ticks to the end of the first of their current cycles. -/
def State.cycleTicks (s : State) : Nat :=
  let left := fun (k : Nat) =>
    let c := s.cluster k
    ceilDiv (c.need - c.part) (max 1 (s.die (k / 8)).clockMhz)
  max 1 ((s.busyClusters.map left).min?.getD 1)

/-- A partition may issue in the current cycle of its cluster: once, before the higher partitions of its core, so that the words of one
cycle take effect by ascending group slot (04_group R78, 11_barrier R246, R261), and in a hold in every second cycle, from the first on
(14_column R304, 24_program_droop R409, R410). -/
def State.mayIssue (s : State) (pk : Nat) : Bool :=
  let c := s.cluster (clusterOf (pk / 4))
  let issued := fun (k : Nat) => SMap.get? s.lastIssue k == some c.cycles
  (List.range 4).all (fun p => p < pk % 4 || !issued (pk / 4 * 4 + p)) && match c.phase with
    | .hold _ issues => issues
    | _ => true

/-- Time passes to the end of a cycle (01_device R3, 19_trail R386; log entry 1). -/
def State.tick (s : State) : State :=
  let dt := s.cycleTicks
  let (r, slew) := s.slewed dt
  let u := s.tickClusters dt fun d => if d == 0 then (s.die 0).ticks + dt else r
  let n := fun (k : Nat) => (u.cluster k).cycles - (s.cluster k).cycles
  let u := { u with
    slew := slew
    groups := s.groups.map fun (p : Nat × Group) => (p.1, s.tickGroup (n (clusterOf (gkCore p.1))) dt p.1 p.2)
    teams := s.teams.map fun (p : Nat × Team) => (p.1, s.tickTeam dt p.1 p.2) }
  (u.modDie 0 fun x => { x with ticks := x.ticks + dt }).modDie 1 (fun x => { x with ticks := r }) |>.tickDeadlock n

end Sys2Proof.Machine
end

