-- ==== Sys2Proof/Machine/Control.lean ====
section
/-! DEFINITION. The control instructions (05_group_integer R106-R112), `TRAP` and `TRET` (15_context R319, R320) and `BKPT`
(16_watch R338). -/

namespace Sys2Proof.Machine

/-- `NOP` (R112). -/
def execNop (g : Guard) (f : FmtX) (s : State) : Out := runAlu (.nop g f) (fun _ _ => {}) s

/-- The threads of an issue group stand at the next header. -/
def atNext : Nat → Thread → Thread := fun _ t => t

/-- DISP of a relative branch in bytes. -/
def dispBytes (f : FmtB) : Word := (f.disp.signExtend 64) <<< 3

/-- The effect of a branch (R108): the threads in `act` go to their targets, the others to the next header. -/
def branch (e : Env) (s : State) (unif : Bool) (tgt : Nat → Word) (regs : List RegWrite) : Res :=
  let split := e.act != 0 && e.act != (e.ig.mask &&& ~~~e.ig.done)
  let differ := e.lanes.any fun l => tgt l != tgt e.low
  if unif && (split || differ) then .stop s {} 0 (.trap 0x14 0)
  else
    .move s { regs := regs }
      (fun l t => if e.act.getLsbD l then { t with hdr := tgt l, pos := 0, viaBranch := true } else t) [] id

/-- The link write of `CALL` (R107). -/
def linkWrite (e : Env) : List RegWrite := write64 190 e.act fun _ => e.ig.pc + 8

def execBra (g : Guard) (f : FmtB) (s : State) : Out :=
  runWord (.bra g f) noCheck (fun e s => branch e s f.u (fun _ => e.ig.pc + dispBytes f) []) s
def execBrx (g : Guard) (f : FmtB) (s : State) : Out :=
  runWord (.brx g f) noCheck (fun e s => branch e s f.u (e.src 0) []) s
def execCall (g : Guard) (f : FmtB) (s : State) : Out :=
  runWord (.call g f) noCheck (fun e s => branch e s false (fun _ => e.ig.pc + dispBytes f) (linkWrite e)) s
def execCallIndirect (g : Guard) (f : FmtB) (s : State) : Out :=
  runWord (.callIndirect g f) noCheck (fun e s => branch e s false (e.src 0) (linkWrite e)) s
def execRet (g : Guard) (f : FmtB) (s : State) : Out :=
  runWord (.ret g f) noCheck (fun e s => branch e s false (e.src 0) []) s

/-- `EXIT` (R109). -/
def execExit (g : Guard) (f : FmtX) (s : State) : Out :=
  runWord (.exit g f) noCheck (fun e s =>
    .move s {} (fun l t => if e.act.getLsbD l then { t with exited := true } else t) [] id) s

/-- `YIELD` (R110). -/
def execYield (g : Guard) (f : FmtX) (s : State) : Out :=
  runWord (.yield g f) noCheck (fun e s =>
    let n := (f.fld 0 16).toNat
    let s := if e.act == 0 then s else s.modGroup e.gk fun g => { g with yielded := true }
    .move s {} (fun l t => if e.act.getLsbD l then { t with hold := some (s.cyclesOf e.ck + n) } else t) [] id) s

/-- `CONV` (R111): the arrivals are released by `State.settle`. -/
def execConv (g : Guard) (f : FmtX) (s : State) : Out :=
  runWord (.conv g f) noCheck (fun e s =>
    .move s {} (fun l t => if e.act.getLsbD l then { t with conv := true, block := some .conv } else t) [] id) s

/-- `TRAP` (15_context R319). -/
def execTrap (g : Guard) (f : FmtX) (s : State) : Out :=
  runWord (.trap g f) noCheck (fun e s =>
    let info := if regKind f.a == .s then e.g.readS (f.a.toNat - 192) else e.src 0 e.low
    .move s {} atNext (if e.act == 0 then [] else [(0xF0 + (f.fld 0 3).setWidth 8, info)]) id) s

/-- `BKPT` (16_watch R338). -/
def execBkpt (g : Guard) (f : FmtX) (s : State) : Out :=
  runWord (.bkpt g f) noCheck (fun e s =>
    let act := (f.fld 16 3).toNat
    let code : Word := (f.fld 0 16).setWidth 64
    if e.act == 0 then .move s {} atNext [] id
    else if act == 4 then .move s {} atNext [(0xC2, code)] id
    else
      .move s {} atNext [] fun s =>
        s.haltScope e.gk (if act == 1 then e.act else e.ig.mask) act { cause := 0xC2, pred := 0, skid := 0 }) s

/-- Issue groups of the group that wait at the same instruction; a halted thread has not arrived (16_watch R336). -/
def Env.waiting (e : Env) (g : Group) (b : Block) : List IssueGroup :=
  g.susp.filter fun ig => ig.hdr == e.ig.hdr && ig.pos == e.ig.pos && ig.block == some b
    && !(maskLanes ig.mask).any fun l => (g.thread l).halt.isSome

/-- `TRET` (15_context R320): it issues once every thread that has not exited stands at it; the handler set is returned, and
the threads resume as the frame says. -/
def tret (e : Env) (s : State) (gd : Guard) (skip : Bool) : Res :=
  match e.g.frames with
  | [] => if e.act != 0 then .stop s {} 0 (.trap 0x05 0) else .move s {} atNext [] id
  | fr :: rest =>
    let all := (e.waiting e.g .conv).foldl (fun m ig => m ||| ig.mask) e.ig.mask
    let act := all &&& e.g.guardMask gd
    if all != e.g.live then .stop s {} 0 (.block .conv)
    else
      let g := { e.g with susp := e.g.susp.filter fun ig => !(e.waiting e.g .conv).contains ig }
      let s := (s.setGroup e.gk g).setIg e.pk { e.ig with mask := all }
      if act != 0 && act != all then .stop s {} 0 (.trap 0x14 0)
      else if act == 0 then .move s {} atNext [] id
      else
        let back := g.restore fr skip true (s.afterPos e.t fr.hdr fr.pos)
        .move (s.setGroup e.gk { g with frames := rest, susp := back.susp }) {} (fun l _ => back.thread l) [] id

def execTret (g : Guard) (f : FmtX) (s : State) : Out :=
  runWord (.tret g f) noCheck (fun e s => tret e s g (f.bit 0)) s

end Sys2Proof.Machine
end

