-- ==== Sys2Proof/Machine/Integer.lean ====
section
/-! DEFINITION. The integer, shift, bit-field, compare, move and predicate instructions (05_group_integer R113-R124). -/

namespace Sys2Proof.Machine

/-- Results and flags of the active lanes, written to a destination. -/
def laneEff (e : Env) (wide : Bool) (d : BitVec 8) (fn : Nat → Word × Fx) : Eff :=
  let r : Lanes (Word × Fx) := lanes fun l => if e.act.getLsbD l then fn l else (0, 0)
  { regs := writeW wide d e.act (fun l => (Lanes.at r l).1), fx := lanes fun l => (Lanes.at r l).2 }
/-- Results without flags. -/
def laneVal (e : Env) (wide : Bool) (d : BitVec 8) (fn : Nat → Word) : Eff :=
  { regs := writeW wide d e.act fn }

/-! ### Elements (R105) -/

def elemBits (ty : BitVec 3) : Nat := match ty.toNat with | 0 => 32 | 1 => 32 | 2 => 64 | 3 => 64 | 4 => 16 | 5 => 16 | _ => 8
def elemSigned (ty : BitVec 3) : Bool := !ty.getLsbD 0
def elemCount (ty : BitVec 3) : Nat := match ty.toNat with | 4 => 2 | 5 => 2 | 6 => 4 | 7 => 4 | _ => 1
/-- Element `k` of a value as an exact integer. -/
def elemOf (ty : BitVec 3) (x : Word) (k : Nat) : Int :=
  let w := elemBits ty
  let v := bitsOf x.toNat (w * k) w
  if elemSigned ty then signedOf v w else Int.ofNat v
/-- An exact result narrowed to a width: wrapped, or saturated with the saturate flag (R105). -/
def narrow (w : Nat) (sgn sat : Bool) (x : Int) : Nat × Fx :=
  if sat then
    let (y, c) := satInt w sgn x
    ((y % (1 <<< w : Nat)).toNat, fxIf c fxSat)
  else ((x % (1 <<< w : Nat)).toNat, 0)

/-- An instruction on elements (R114). -/
def elemwise (ty : BitVec 3) (sat : Bool) (fn : Int → Int → Int → Int) (a b c : Word) : Word × Fx :=
  let w := elemBits ty
  (List.range (elemCount ty)).foldl (fun (acc : Word × Fx) k =>
    let (v, fx) := narrow w (elemSigned ty) sat (fn (elemOf ty a k) (elemOf ty b k) (elemOf ty c k))
    (acc.1 ||| (BitVec.ofNat 64 v <<< (w * k)), acc.2 ||| fx)) (0, 0)

/-- An element-wise instruction of the layout of R113 with sources A and B. -/
def int2 (f : FmtR) (fn : Int → Int → Int) (e : Env) : Eff :=
  laneEff e (wideTy f.ty) f.d fun l => elemwise f.ty f.sat (fun a b _ => fn a b) (e.src 0 l) (e.src 1 l) 0

def execIadd (g : Guard) (f : FmtR) (s : State) : Out := runAlu (.iadd g f) (fun e _ => int2 f (· + ·) e) s
def execIsub (g : Guard) (f : FmtR) (s : State) : Out := runAlu (.isub g f) (fun e _ => int2 f (· - ·) e) s
def execImul (g : Guard) (f : FmtR) (s : State) : Out := runAlu (.imul g f) (fun e _ => int2 f (· * ·) e) s
def execImulh (g : Guard) (f : FmtR) (s : State) : Out :=
  runAlu (.imulh g f) (fun e _ => int2 f (fun a b => Int.fdiv (a * b) (1 <<< elemBits f.ty : Nat)) e) s
def execImin (g : Guard) (f : FmtR) (s : State) : Out := runAlu (.imin g f) (fun e _ => int2 f min e) s
def execImax (g : Guard) (f : FmtR) (s : State) : Out := runAlu (.imax g f) (fun e _ => int2 f max e) s
def execIabs (g : Guard) (f : FmtR) (s : State) : Out :=
  runAlu (.iabs g f) (fun e _ =>
    laneEff e (wideTy f.ty) f.d fun l => elemwise f.ty f.sat (fun a _ _ => Int.ofNat a.natAbs) (e.src 0 l) 0 0) s

/-- `IMAD` (R114): with WIDE, 32-bit factors and a 64-bit addend and result. -/
def imad (f : FmtR) (a b c : Word) : Word × Fx :=
  if f.sub.getLsbD 0 then
    let c' : Int := if f.ty == 0 then signedOf c.toNat 64 else Int.ofNat c.toNat
    (BitVec.ofInt 64 (elemOf f.ty a 0 * elemOf f.ty b 0 + c'), 0)
  else elemwise f.ty f.sat (fun a b c => a * b + c) a b c
def execImad (g : Guard) (f : FmtR) (s : State) : Out :=
  runAlu (.imad g f) (fun e _ =>
    laneEff e (wideTy f.ty || f.sub.getLsbD 0) f.d fun l => imad f (e.src 0 l) (e.src 1 l) (e.src 2 l)) s

/-- `ISAD` (R114). -/
def isad (f : FmtR) (a b c : Word) : Word × Fx :=
  let sum := ((List.range (elemCount f.ty)).map fun k => (elemOf f.ty a k - elemOf f.ty b k).natAbs).sum
  let (v, fx) := narrow 32 false f.sat (Int.ofNat ((lo32 c).toNat + sum))
  (BitVec.ofNat 64 v, fx)
def execIsad (g : Guard) (f : FmtR) (s : State) : Out :=
  runAlu (.isad g f) (fun e _ => laneEff e false f.d fun l => isad f (e.src 0 l) (e.src 1 l) (e.src 2 l)) s

/-- `IADDI` and `IMULI` (R122): MOD bit 0 selects 64-bit operation, bit 1 signed saturation. -/
def intImm (f : FmtI) (fn : Int → Int → Int) (e : Env) : Eff :=
  let wide := f.md.getLsbD 0
  let ty : BitVec 3 := if wide then 2 else 0
  laneEff e wide f.d fun l =>
    elemwise ty (f.md.getLsbD 1) (fun a b _ => fn a b) (e.src 0 l) (f.imm.signExtend 64) 0
def execIaddi (g : Guard) (f : FmtI) (s : State) : Out := runAlu (.iaddi g f) (fun e _ => intImm f (· + ·) e) s
def execImuli (g : Guard) (f : FmtI) (s : State) : Out := runAlu (.imuli g f) (fun e _ => intImm f (· * ·) e) s

/-- `IADDC` (R115). -/
def execIaddc (g : Guard) (f : FmtR) (s : State) : Out :=
  runAlu (.iaddc g f) (fun e _ =>
    let ci := e.g.predMask f.p97
    let sum := fun l => (e.src32 0 l).toNat + (e.src32 1 l).toNat + b2n (Bool.xor (ci.getLsbD l) (f.mods.getLsbD 3))
    { laneVal e false f.d (fun l => BitVec.ofNat 64 (sum l % (1 <<< 32))) with
      preds := [{ p := f.p64, mask := e.act, vals := maskOf fun l => decide (1 <<< 32 ≤ sum l) }] }) s

/-! ### Shifts (R116) -/

inductive ShiftOp where
  | shl | shr | sar
  deriving DecidableEq, Repr

def shiftVal (op : ShiftOp) (w : Nat) (wrap : Bool) (a : Nat) (count : Nat) : Nat :=
  let n := if wrap then count % 256 % w else count % 256
  match op with
  | .shl => if w ≤ n then 0 else (a <<< n) % (1 <<< w)
  | .shr => a >>> n
  | .sar => ((signedOf a w >>> n) % (1 <<< w : Nat)).toNat

def shift (f : FmtR) (op : ShiftOp) (e : Env) : Eff :=
  let wide := wideTy f.ty
  laneVal e wide f.d fun l =>
    BitVec.ofNat 64 (shiftVal op (if wide then 64 else 32) (f.sub.getLsbD 0)
      (if wide then (e.src 0 l).toNat else (e.src32 0 l).toNat) (e.src32 1 l).toNat)
def execShl (g : Guard) (f : FmtR) (s : State) : Out := runAlu (.shl g f) (fun e _ => shift f .shl e) s
def execShr (g : Guard) (f : FmtR) (s : State) : Out := runAlu (.shr g f) (fun e _ => shift f .shr e) s
def execSar (g : Guard) (f : FmtR) (s : State) : Out := runAlu (.sar g f) (fun e _ => shift f .sar e) s

/-- `SHF` (R116): a funnel shift of B:A. -/
def funnel (right wrap : Bool) (a b c : W32) : W32 :=
  let n := c.toNat % 256
  let n := min (if wrap then n % 32 else n) 32
  let w := pair64 a b
  if right then lo32 (w >>> n) else hi32 (w <<< n)
def execShf (g : Guard) (f : FmtR) (s : State) : Out :=
  runAlu (.shf g f) (fun e _ => laneVal e false f.d fun l =>
    (funnel (f.sub.getLsbD 0) (f.sub.getLsbD 1) (e.src32 0 l) (e.src32 1 l) (e.src32 2 l)).setWidth 64) s

/-! ### Logic and bit fields (R117-R120) -/

/-- The three-input function of a table: A, B and C select index bits 0, 1 and 2. -/
def bitTable (t : BitVec 8) (a b c : W32) : W32 :=
  (List.range 8).foldl (fun (acc : W32) k =>
    if t.getLsbD k then
      acc ||| ((if bitOf k 0 then a else ~~~a) &&& (if bitOf k 1 then b else ~~~b) &&& (if bitOf k 2 then c else ~~~c))
    else acc) 0
def execBitf (g : Guard) (f : FmtR) (s : State) : Out :=
  runAlu (.bitf g f) (fun e _ => laneVal e false f.d fun l =>
    (bitTable (f.mods.extractLsb' 5 8) (e.src32 0 l) (e.src32 1 l) (e.src32 2 l)).setWidth 64) s
def execBitfi (g : Guard) (f : FmtI) (s : State) : Out :=
  runAlu (.bitfi g f) (fun e _ => laneVal e false f.d fun l =>
    let a := e.src32 0 l
    let r := if f.md == 0 then a &&& f.imm else if f.md == 1 then a ||| f.imm else if f.md == 2 then a ^^^ f.imm
      else a &&& ~~~f.imm
    r.setWidth 64) s

def tyWidth (f : FmtR) : Nat := if wideTy f.ty then 64 else 32
def popCount (w x : Nat) : Nat := ((List.range w).map fun i => b2n (bitOf x i)).sum
def leadingZeros (w x : Nat) : Nat := if x == 0 then w else w - 1 - Nat.log2 x
def bitReverse (w x : Nat) : Nat := ((List.range w).map fun i => b2n (bitOf x i) <<< (w - 1 - i)).sum
def execPopc (g : Guard) (f : FmtR) (s : State) : Out :=
  runAlu (.popc g f) (fun e _ => laneVal e false f.d fun l => BitVec.ofNat 64 (popCount (tyWidth f) (e.src 0 l).toNat)) s
def execClz (g : Guard) (f : FmtR) (s : State) : Out :=
  runAlu (.clz g f) (fun e _ => laneVal e false f.d fun l => BitVec.ofNat 64 (leadingZeros (tyWidth f) (e.src 0 l).toNat)) s
def execBrev (g : Guard) (f : FmtR) (s : State) : Out :=
  runAlu (.brev g f) (fun e _ =>
    laneVal e (wideTy f.ty) f.d fun l => BitVec.ofNat 64 (bitReverse (tyWidth f) (e.src 0 l).toNat)) s

/-- `BFE` (R119). -/
def bfe (w : Nat) (sgn : Bool) (a ctl : Nat) : Nat :=
  let pos := bitsOf ctl 0 8
  let len := min (bitsOf ctl 8 8) w
  if len == 0 then 0
  else
    let wide : Int := if sgn then signedOf a w else Int.ofNat a
    let x := ((wide >>> pos) % (1 <<< len : Nat)).toNat
    if sgn then (signedOf x len % (1 <<< w : Nat)).toNat else x
def execBfe (g : Guard) (f : FmtR) (s : State) : Out :=
  runAlu (.bfe g f) (fun e _ => laneVal e (wideTy f.ty) f.d fun l =>
    BitVec.ofNat 64 (bfe (tyWidth f) (elemSigned f.ty) (e.src 0 l).toNat (e.src32 1 l).toNat)) s

/-- `BFI` (R119). -/
def bfi (w a b ctl : Nat) : Nat :=
  let pos := bitsOf ctl 0 8
  let len := bitsOf ctl 8 8
  ((List.range w).map fun i =>
    b2n (if pos ≤ i && decide (i < pos + len) then bitOf b (i - pos) else bitOf a i) <<< i).sum
def execBfi (g : Guard) (f : FmtR) (s : State) : Out :=
  runAlu (.bfi g f) (fun e _ => laneVal e (wideTy f.ty) f.d fun l =>
    BitVec.ofNat 64 (bfi (tyWidth f) (e.src 0 l).toNat (e.src 1 l).toNat (e.src32 2 l).toNat)) s

/-- `BSWZ` (R120). -/
def bswz (sx : Bool) (a b c : W32) : W32 :=
  let src := (pair64 a b).toNat
  (List.range 4).foldl (fun (acc : W32) i =>
    let sel := bitsOf c.toNat (4 * i) 4
    let byte := bitsOf src (8 * (sel % 8)) 8
    let v := if sel < 8 then byte else if sx && 128 ≤ byte then 255 else 0
    acc ||| (BitVec.ofNat 32 v <<< (8 * i))) 0
def execBswz (g : Guard) (f : FmtR) (s : State) : Out :=
  runAlu (.bswz g f) (fun e _ => laneVal e false f.d fun l =>
    (bswz (f.sub.getLsbD 0) (e.src32 0 l) (e.src32 1 l) (e.src32 2 l)).setWidth 64) s

/-! ### Compare, select, move (R121, R122) -/

/-- Comparison codes of R121 on exact values. -/
def cmpInt (code : Nat) (a b : Int) : Bool :=
  match code with
  | 0 => a == b
  | 1 => a != b
  | 2 => decide (a < b)
  | 3 => decide (a ≤ b)
  | 4 => decide (b < a)
  | _ => decide (b ≤ a)

/-- A predicate result combined with Q (R121). -/
def cmpEff (e : Env) (f : FmtR) (fn : Nat → Bool) : Eff :=
  let q := e.g.predMask f.p64
  let or_ := f.mods.getLsbD 3
  { preds := [{ p := f.p97, mask := e.act, vals := maskOf fun l => if or_ then fn l || q.getLsbD l else fn l && q.getLsbD l }] }

def execIcmp (g : Guard) (f : FmtR) (s : State) : Out :=
  runAlu (.icmp g f) (fun e _ => cmpEff e f fun l =>
    cmpInt f.cmp.toNat (elemOf f.ty (e.src 0 l) 0) (elemOf f.ty (e.src 1 l) 0)) s
def execIcmpi (g : Guard) (f : FmtI) (s : State) : Out :=
  runAlu (.icmpi g f) (fun e _ =>
    let sgn := !f.md.getLsbD 0
    let ty : BitVec 3 := f.md.setWidth 3
    let imm := (f.imm.extractLsb' 0 24).toNat
    let b : Int := if sgn then signedOf imm 24 else Int.ofNat imm
    { preds := [{ p := f.imm.extractLsb' 27 3, mask := e.act,
                  vals := maskOf fun l => cmpInt (f.imm.extractLsb' 24 3).toNat (elemOf ty (e.src 0 l) 0) b }] }) s

def execSel (g : Guard) (f : FmtR) (s : State) : Out :=
  runAlu (.sel g f) (fun e _ =>
    let p := e.g.predMask f.p64
    laneVal e (wideTy f.ty) f.d fun l => if Bool.xor (p.getLsbD l) (f.mods.getLsbD 3) then e.src 0 l else e.src 1 l) s
def execMov (g : Guard) (f : FmtR) (s : State) : Out :=
  runAlu (.mov g f) (fun e _ => laneVal e (wideTy f.ty) f.d fun l => e.src 0 l) s
def execMovi (g : Guard) (f : FmtI) (s : State) : Out :=
  runAlu (.movi g f) (fun e _ =>
    laneVal e (f.md != 0) f.d fun _ => if f.md == 2 then f.imm.setWidth 64 else f.imm.signExtend 64) s
def execLea (g : Guard) (f : FmtR) (s : State) : Out :=
  runAlu (.lea g f) (fun e _ =>
    let sh := f.sub.toNat
    let ext := fun (b : W32) => if f.ty == 0 then b.signExtend 64 else b.setWidth 64
    laneVal e (!f.mods.getLsbD 8) f.d fun l => e.src 0 l + (ext (e.src32 1 l) <<< sh)) s

/-! ### Predicate logic (R123, R124) -/

def execPlop (g : Guard) (f : FmtR) (s : State) : Out :=
  runAlu (.plop g f) (fun e _ =>
    let pa := e.g.predMask f.p97
    let pb := e.g.predMask f.p64
    { preds := [{ p := f.ty, mask := e.act,
                  vals := maskOf fun l => f.sub.getLsbD (2 * b2n (pa.getLsbD l) + b2n (pb.getLsbD l)) }] }) s
def execPmovGet (g : Guard) (f : FmtR) (s : State) : Out :=
  runAlu (.pmovGet g f) (fun e _ => laneVal e false f.d fun l => (e.g.thread l).preds.setWidth 64 ||| 0x80) s
def execPmovSet (g : Guard) (f : FmtR) (s : State) : Out :=
  runAlu (.pmovSet g f) (fun e _ =>
    let ks := (List.range 7).filter fun k => f.mods.getLsbD (4 + k)
    { preds := ks.map fun k => { p := BitVec.ofNat 3 k, mask := e.act, vals := maskOf fun l => (e.src32 0 l).getLsbD k } }) s

end Sys2Proof.Machine
end

