-- ==== Sys2Proof/Machine/Float.lean ====
section
/-! DEFINITION. The fp32 and packed arithmetic instructions (06_group_float R126-R131). -/

namespace Sys2Proof.Machine

/-! ### Values and sign operations (R126) -/

/-- The low bits of a register that hold a code of a format. -/
def codeOf (f : Fp) (x : Word) : Nat := x.toNat % (1 <<< (f.signBit + 1))
/-- AA and then a negation, as sign-bit operations on a code. -/
def signOps (f : Fp) (aa na : Bool) (c : Nat) : Nat :=
  let mag := c % (1 <<< f.signBit)
  let neg := bitOf c f.signBit && !aa
  signCode f (Bool.xor neg na) mag
/-- The value of a code of a format that raises nothing when it is read. -/
def valOf (f : Fp) (c : Nat) : Ex := (decodeFp f c).1

/-- The formats that TYPE selects for floating-point operands: fp32, fp16, bf16. -/
def fpTy (ty : BitVec 3) : Fp := if ty == 1 then .f16 else if ty == 2 then .bf16 else .f32

/-- A function of the codes of A, B and C after AA, NA and NB, applied to each element of a register: one element of fp32, a
pair of fp16 or bf16. -/
def fpElems (fmt : Fp) (pair : Bool) (f : FmtR) (fn : Nat → Nat → Nat → Nat × Fx) (a b c : W32) : Word × Fx :=
  let el := fun (x : W32) (k : Nat) => codeOf fmt (BitVec.ofNat 64 (if pair then bitsOf x.toNat (16 * k) 16 else x.toNat))
  (List.range (if pair then 2 else 1)).foldl (fun (acc : Word × Fx) k =>
    let r := fn (signOps fmt f.aa f.na (el a k)) (signOps fmt false f.nb (el b k)) (el c k)
    (acc.1 ||| (BitVec.ofNat 64 r.1 <<< (16 * k)), acc.2 ||| r.2)) (0, 0)

/-- An fp32 or packed instruction with result D. -/
def fpAlu (fmt : Fp) (pair : Bool) (f : FmtR) (fn : Nat → Nat → Nat → Nat × Fx) (e : Env) : Eff :=
  laneEff e false f.d fun l => fpElems fmt pair f fn (e.src32 0 l) (e.src32 1 l) (e.src32 2 l)

/-- a + b, a x b and a x b + c, rounded once (R127, R130, 02_numbers R45). -/
def faddCode (fmt : Fp) (f : FmtR) (a b _c : Nat) : Nat × Fx := fpAdd fmt (rmode f.rnd) f.sat (valOf fmt a) (valOf fmt b)
def fmulCode (fmt : Fp) (f : FmtR) (a b _c : Nat) : Nat × Fx := fpMul fmt (rmode f.rnd) f.sat (valOf fmt a) (valOf fmt b)
/-- SUB[0] negates c. -/
def ffmaCode (fmt : Fp) (f : FmtR) (a b c : Nat) : Nat × Fx :=
  fpFma fmt (rmode f.rnd) f.sat (valOf fmt a) (valOf fmt b) (valOf fmt (signOps fmt false (f.sub.getLsbD 0) c))
def fminmaxCode (fmt : Fp) (max num : Bool) (a b _c : Nat) : Nat × Fx :=
  fpMinMax fmt max num a b (valOf fmt a) (valOf fmt b)

def execFadd (g : Guard) (f : FmtR) (s : State) : Out := runAlu (.fadd g f) (fun e _ => fpAlu .f32 false f (faddCode .f32 f) e) s
def execFmul (g : Guard) (f : FmtR) (s : State) : Out := runAlu (.fmul g f) (fun e _ => fpAlu .f32 false f (fmulCode .f32 f) e) s
def execFfma (g : Guard) (f : FmtR) (s : State) : Out := runAlu (.ffma g f) (fun e _ => fpAlu .f32 false f (ffmaCode .f32 f) e) s
def execFmin (g : Guard) (f : FmtR) (s : State) : Out :=
  runAlu (.fmin g f) (fun e _ => fpAlu .f32 false f (fminmaxCode .f32 false (f.sub.getLsbD 0)) e) s
def execFmax (g : Guard) (f : FmtR) (s : State) : Out :=
  runAlu (.fmax g f) (fun e _ => fpAlu .f32 false f (fminmaxCode .f32 true (f.sub.getLsbD 0)) e) s

/-- `FRND` (R127): an integral value in fp32; only a signalling NaN raises an exception. -/
def frnd (mode : RMode) (x : Ex) (code : Nat) : Nat × Fx :=
  match x with
  | .fin neg m e =>
    if m == 0 || 0 ≤ e then (code, 0)
    else
      let (n, d) := dyadicQ m e
      ((roundEx .f32 .rn false (.fin neg (roundIntQ mode neg n d).natAbs 0)).1, 0)
  | .inf _ => (code, 0)
  | .nan neg frac => convertNan .f32 neg frac
def execFrnd (g : Guard) (f : FmtR) (s : State) : Out :=
  runAlu (.frnd g f) (fun e _ => fpAlu .f32 false f (fun a _ _ => frnd (rmode f.rnd) (valOf .f32 a) a) e) s

/-- `FADDI` and `FMULI` (R127): MOD is the rounding mode. -/
def fpImm (f : FmtI) (op : Fp → RMode → Bool → Ex → Ex → Nat × Fx) (e : Env) : Eff :=
  laneEff e false f.d fun l =>
    let r := op .f32 (rmode f.md) false (valOf .f32 (e.src32 0 l).toNat) (valOf .f32 f.imm.toNat)
    (BitVec.ofNat 64 r.1, r.2)
def execFaddi (g : Guard) (f : FmtI) (s : State) : Out := runAlu (.faddi g f) (fun e _ => fpImm f fpAdd e) s
def execFmuli (g : Guard) (f : FmtI) (s : State) : Out := runAlu (.fmuli g f) (fun e _ => fpImm f fpMul e) s

/-- `FCLAMP` (R129): a NaN operand gives the first NaN of A, B, C, quieted. -/
def fclampCode (a b c : Nat) : Nat × Fx :=
  let x := valOf .f32 a
  let y := valOf .f32 b
  let z := valOf .f32 c
  match nanOf .f32 [x, y, z] with
  | some r => r
  | none =>
    let t := (fpMinMax .f32 true false a b x y).1
    fpMinMax .f32 false false t c (valOf .f32 t) z
def execFclamp (g : Guard) (f : FmtR) (s : State) : Out := runAlu (.fclamp g f) (fun e _ => fpAlu .f32 false f fclampCode e) s

/-- `FCMP` (R128). -/
def execFcmp (g : Guard) (f : FmtR) (s : State) : Out :=
  runAlu (.fcmp g f) (fun e _ =>
    let fmt := fpTy f.ty
    let r := fun l => fpCompare f.cmp.toNat (valOf fmt (codeOf fmt (e.src 0 l))) (valOf fmt (codeOf fmt (e.src 1 l)))
    { cmpEff e f (fun l => (r l).1) with fx := lanes fun l => if e.act.getLsbD l then (r l).2 else 0 }) s

/-! ### Packed (R130, R131) -/

def execPadd2 (g : Guard) (f : FmtR) (s : State) : Out :=
  runAlu (.padd2 g f) (fun e _ => fpAlu (fpTy f.ty) true f (faddCode (fpTy f.ty) f) e) s
def execPmul2 (g : Guard) (f : FmtR) (s : State) : Out :=
  runAlu (.pmul2 g f) (fun e _ => fpAlu (fpTy f.ty) true f (fmulCode (fpTy f.ty) f) e) s
def execPfma2 (g : Guard) (f : FmtR) (s : State) : Out := runAlu (.pfma2 g f) (fun e _ => fpAlu .f16 true f (ffmaCode .f16 f) e) s
def execBfma2 (g : Guard) (f : FmtR) (s : State) : Out := runAlu (.bfma2 g f) (fun e _ => fpAlu .bf16 true f (ffmaCode .bf16 f) e) s
def execPmnx2 (g : Guard) (f : FmtR) (s : State) : Out :=
  runAlu (.pmnx2 g f) (fun e _ => fpAlu (fpTy f.ty) true f (fminmaxCode (fpTy f.ty) (f.sub.getLsbD 0) (f.sub.getLsbD 1)) e) s

def execPcmp2 (g : Guard) (f : FmtR) (s : State) : Out :=
  runAlu (.pcmp2 g f) (fun e _ =>
    let fmt := fpTy f.ty
    let el := fun (x : W32) (k : Nat) => valOf fmt (bitsOf x.toNat (16 * k) 16)
    let r := fun l k => fpCompare f.cmp.toNat (el (e.src32 0 l) k) (el (e.src32 1 l) k)
    { preds := [{ p := f.p97, mask := e.act, vals := maskOf fun l => (r l 0).1 },
                { p := f.p64, mask := e.act, vals := maskOf fun l => (r l 1).1 }],
      fx := lanes fun l => if e.act.getLsbD l then (r l 0).2 ||| (r l 1).2 else 0 }) s

end Sys2Proof.Machine
end

