-- ==== Sys2Proof/Machine/Lane.lean ====
section
/-! DEFINITION. The cross-lane instructions (06_group_float R139-R144): members are the threads of the issue group, active
lanes the members whose guard holds. -/

namespace Sys2Proof.Machine

/-- `SHFL` (R140): the source lane and whether it is valid. -/
def shflSource (mode n l b : Nat) : Nat × Bool :=
  let base := l - l % n
  match mode with
  | 0 => (base + b % n, true)
  | 1 => (l - b, decide (b < n) && decide (base + b ≤ l))
  | 2 => (l + b, decide (b < n) && decide (l + b < base + n))
  | _ => (base + Nat.xor (l - base) (b % n), true)
def execShfl (g : Guard) (f : FmtR) (s : State) : Out :=
  runAlu (.shfl g f) (fun e _ =>
    let n := 32 >>> f.ty.toNat
    let src := fun l => shflSource (f.mods.extractLsb' 0 2).toNat n l (e.src32 1 l).toNat
    let ok := fun l => (src l).2 && e.ig.mask.getLsbD (src l).1
    { laneVal e false f.d (fun l => e.src 0 (if ok l then (src l).1 else l)) with
      preds := [{ p := f.p97, mask := e.act, vals := maskOf ok }] }) s

/-- `QBCAST` (R141). -/
def execQbcast (g : Guard) (f : FmtR) (s : State) : Out :=
  runAlu (.qbcast g f) (fun e _ =>
    let src := fun l => 8 * (l / 8) + f.sub.toNat
    laneVal e false f.d fun l => e.src 0 (if e.ig.mask.getLsbD (src l) then src l else l)) s

/-- `POLL` (R142). -/
def pollAll (form : Nat) (act set : Mask) : Bool :=
  if form == 0 then act &&& ~~~set == 0 else if form == 1 then act &&& set != 0 else act &&& ~~~set == 0 || act &&& set == 0
def execPoll (g : Guard) (f : FmtR) (s : State) : Out :=
  runAlu (.poll g f) (fun e _ =>
    let ps := e.g.predMask f.p64
    let set := if f.mods.getLsbD 2 then ~~~ps else ps
    let form := (f.mods.extractLsb' 0 2).toNat
    if form == 3 then laneVal e false f.d fun _ => (e.act &&& set).setWidth 64
    else { preds := [{ p := f.p97, mask := e.act, vals := if pollAll form e.act set then 0xFFFFFFFF else 0 }] }) s

/-- `LEAD` (R142). -/
def execLead (g : Guard) (f : FmtR) (s : State) : Out :=
  runAlu (.lead g f) (fun e _ =>
    { laneVal e false f.d (fun _ => BitVec.ofNat 64 e.low) with
      preds := [{ p := f.p97, mask := e.act, vals := laneBit e.low }] }) s

/-- `IFOLD` (R143). -/
def ifold (op : Nat) (sgn sat : Bool) (xs : List W32) : Word × Fx :=
  let v := fun (x : W32) => if sgn then signedOf x.toNat 32 else Int.ofNat x.toNat
  let out := fun (x : W32) => (x.setWidth 64, (0 : Fx))
  match xs with
  | [] => (0, 0)
  | x :: r =>
    match op with
    | 0 => let (n, fx) := narrow 32 sgn sat (xs.foldl (fun a y => a + v y) 0); (BitVec.ofNat 64 n, fx)
    | 1 => out (r.foldl (fun a y => if v y < v a then y else a) x)
    | 2 => out (r.foldl (fun a y => if v a < v y then y else a) x)
    | 3 => out (r.foldl (· &&& ·) x)
    | 4 => out (r.foldl (· ||| ·) x)
    | _ => out (r.foldl (· ^^^ ·) x)
def execIfold (g : Guard) (f : FmtR) (s : State) : Out :=
  runAlu (.ifold g f) (fun e _ =>
    let r := ifold f.sub.toNat (elemSigned f.ty) f.sat (e.lanes.map (e.src32 0))
    laneEff e false f.d fun _ => r) s

/-- One level of the tree of 02_numbers R45. -/
def foldLevel (op : Nat → Nat → Nat × Fx) : List (Option Nat) → List (Option Nat) × Fx
  | a :: b :: r =>
    let (rest, fx) := foldLevel op r
    match a, b with
    | some x, some y => (some (op x y).1 :: rest, fx ||| (op x y).2)
    | some x, none => (some x :: rest, fx)
    | none, y => (y :: rest, fx)
  | l => (l, 0)
/-- The tree over 32 lanes: 5 levels. -/
def foldTree (op : Nat → Nat → Nat × Fx) : Nat → List (Option Nat) → Fx → Nat × Fx
  | 0, l, fx => (((l.head?).bind id).getD 0, fx)
  | n + 1, l, fx => let (l', fx') := foldLevel op l; foldTree op n l' (fx ||| fx')
def ffoldOp (f : FmtR) (a b : Nat) : Nat × Fx :=
  let x := valOf .f32 a
  let y := valOf .f32 b
  if f.sub == 0 then fpAdd .f32 (rmode f.rnd) f.sat x y else fpMinMax .f32 (f.sub == 2) false a b x y
def execFfold (g : Guard) (f : FmtR) (s : State) : Out :=
  runAlu (.ffold g f) (fun e _ =>
    let leaf := fun l => if e.act.getLsbD l then some (signOps .f32 f.aa f.na (e.src32 0 l).toNat) else none
    let r := foldTree (ffoldOp f) 5 (laneList.map leaf) 0
    -- the NaN of a minimum or maximum is quieted, also one that met no other value (R143), which then raises nothing (log entry 113)
    let v := if f.sub != 0 && (valOf .f32 r.1).isNan then Nat.lor r.1 0x400000 else r.1
    laneEff e false f.d fun _ => (BitVec.ofNat 64 v, r.2)) s

/-- `PREFIX` (R143). -/
def execPrefixOp (g : Guard) (f : FmtR) (s : State) : Out :=
  runAlu (.prefixOp g f) (fun e _ =>
    let excl := f.sub.getLsbD 0
    laneVal e false f.d fun l =>
      let ls := e.lanes.filter fun k => if excl then decide (k < l) else decide (k ≤ l)
      ((ls.map (e.src32 0)).foldl (· + ·) (0 : W32)).setWidth 64) s

/-- `PEERS` (R144). -/
def execPeers (g : Guard) (f : FmtR) (s : State) : Out :=
  runAlu (.peers g f) (fun e _ =>
    let same := fun l => maskOf fun k => e.act.getLsbD k && e.src 0 k == e.src 0 l
    if f.mods.getLsbD 0 then
      let eq := same e.low == e.act
      { laneVal e false f.d (fun _ => if eq then e.act.setWidth 64 else 0) with
        preds := [{ p := f.p97, mask := e.act, vals := if eq then 0xFFFFFFFF else 0 }] }
    else laneVal e false f.d fun l => (same l).setWidth 64) s

end Sys2Proof.Machine
end

