-- ==== Sys2Proof/Machine/Scalar.lean ====
section
/-! DEFINITION. The scalar pipe (06_group_float R145-R150), but for `SLOAD`, which Machine/LoadStore.lean holds. -/

namespace Sys2Proof.Machine

/-- The guard rule of R145: all members or none, otherwise `0x14`. -/
def scalarRes (e : Env) (s : State) (run : Res) : Res :=
  if e.act == 0 then .done s {}
  else if e.act != e.ig.mask then .stop s {} 0 (.trap 0x14 0)
  else run
/-- A scalar result. -/
def scalarWrite (d : BitVec 8) (e : Env) (s : State) (v : Word) : Res := scalarRes e s (.done s { sreg := some (d, v) })

/-- `SMOV`. Of a special register that differs between lanes the one execution reads the lowest member's (log entry 84). -/
def execSmov (g : Guard) (f : FmtR) (s : State) : Out :=
  runWord (.smov g f) noCheck (fun e s => scalarWrite f.d e s (e.src 0 e.low)) s
def execSmovImm (g : Guard) (f : FmtR) (s : State) : Out :=
  runWord (.smovImm g f) noCheck (fun e s => scalarWrite f.d e s (f.imm16.signExtend 64)) s
def execSmovIns (g : Guard) (f : FmtR) (s : State) : Out :=
  runWord (.smovIns g f) noCheck (fun e s => scalarWrite f.d e s ((e.src 0 e.low <<< 16) ||| f.imm16.setWidth 64)) s

/-- `SALU` (R146). -/
def salu (op : Nat) (a b : Word) : Word :=
  match op with
  | 0 => a + b
  | 1 => a - b
  | 2 => a * b
  | 3 => a &&& b
  | 4 => a ||| b
  | 5 => a ^^^ b
  | 6 => a <<< (b.toNat % 64)
  | 7 => a >>> (b.toNat % 64)
  | 8 => a.sshiftRight (b.toNat % 64)
  | 9 => if a.toInt ≤ b.toInt then a else b
  | 10 => if a.toInt ≤ b.toInt then b else a
  | 11 => if a.toNat ≤ b.toNat then a else b
  | _ => if a.toNat ≤ b.toNat then b else a
def execSalu (g : Guard) (f : FmtR) (s : State) : Out :=
  runWord (.salu g f) noCheck (fun e s => scalarWrite f.d e s (salu f.sub.toNat (e.src 0 e.low) (e.src 1 e.low))) s
def execSlea (g : Guard) (f : FmtR) (s : State) : Out :=
  runWord (.slea g f) noCheck (fun e s => scalarWrite f.d e s (e.src 0 e.low + (e.src 1 e.low <<< f.sub.toNat))) s

/-- `SCMP` (R147). -/
def execScmp (g : Guard) (f : FmtR) (s : State) : Out :=
  runWord (.scmp g f) noCheck (fun e s =>
    let r := cmpInt f.cmp.toNat (elemOf f.ty (e.src 0 e.low) 0) (elemOf f.ty (e.src 1 e.low) 0)
    scalarRes e s (.done s (cmpEff e f fun _ => r))) s

/-- `V2S` (R148). -/
def execV2sFirst (g : Guard) (f : FmtR) (s : State) : Out :=
  runWord (.v2sFirst g f) noCheck (fun e s => scalarWrite f.d e s (e.src 0 e.low)) s
def execV2sUni (g : Guard) (f : FmtR) (s : State) : Out :=
  runWord (.v2sUni g f) noCheck (fun e s =>
    scalarRes e s (if e.lanes.all fun l => e.src 0 l == e.src 0 e.low then .done s { sreg := some (f.d, e.src 0 e.low) }
      else .stop s {} 0 (.trap 0x14 0))) s
def execV2sLane (g : Guard) (f : FmtR) (s : State) : Out :=
  runWord (.v2sLane g f) noCheck (fun e s => scalarWrite f.d e s (e.src 0 ((e.src 1 e.low).toNat % 32))) s

/-- `SBRA` (R150). -/
def execSbra (g : Guard) (f : FmtB) (s : State) : Out :=
  runWord (.sbra g f) noCheck (fun e s =>
    let go := branch e s false (if f.kind == 0 then fun _ => e.ig.pc + dispBytes f else e.src 0) []
    if e.act == 0 then go else scalarRes e s go) s

end Sys2Proof.Machine
end

