-- ==== Sys2Proof/Machine/LoadStore.lean ====
section
/-! DEFINITION. Loads, stores, line accesses, fences and cache instructions (09_memory R199-R226, 14_column R297, 06_group_float
R149): per-lane accesses perform every lane that passes its checks and mark it done. -/

namespace Sys2Proof.Machine

/-! ### Lanes that perform one by one (R221, 08_page R196) -/

/-- How a lane's access ends. -/
inductive LaneEnd where
  | ok (bytes : List Byte)
  | trap (cause : Cause) (info : Word)
  | fault (cause : Cause) (kind lvl va : Nat)
  | block (b : Block)
  deriving DecidableEq, Repr

/-- What the lanes of an instruction have done. -/
structure Perf where
  s : State
  done : Mask
  vals : Lanes (List Byte)
  fx : Lanes Fx
  bad : Option (Nat × Stop)
  wait : Option Block
  deriving DecidableEq, Repr

def Perf.start (s : State) : Perf :=
  { s := s, done := 0, vals := Vector.replicate 32 [], fx := noFx, bad := none, wait := none }

/-- Add the end of lane `l`: the lowest failing lane decides the trap. -/
def Perf.add (p : Perf) (l : Nat) (r : LaneEnd) (s : State) : Perf :=
  let p := { p with s := s }
  match r with
  | .ok bs => { p with done := p.done ||| laneBit l, vals := Lanes.upd p.vals l fun _ => bs }
  | .trap c i => { p with bad := p.bad <|> some (l, .trap c i) }
  | .fault c k lvl va => { p with bad := p.bad <|> some (l, .fault c k lvl va l) }
  | .block b => { p with wait := p.wait <|> some b }

/-- The lanes of `m`, ascending. -/
def perLane (s : State) (m : Mask) (fn : State → Nat → LaneEnd × State) : Perf :=
  (maskLanes m).foldl (fun p l => let r := fn p.s l; p.add l r.1 r.2) (Perf.start s)

/-- The lanes of `m` in ascending order; the first that does not complete stops the rest. -/
def seqLanes (s : State) (m : Mask) (fn : State → Nat → LaneEnd × State) : Perf :=
  (maskLanes m).foldl (fun p l => if p.bad.isSome || p.wait.isSome then p else let r := fn p.s l; p.add l r.1 r.2) (Perf.start s)

/-- Lanes on which an enabled predicate with an action matches. -/
def actionLanes (hits : Hits) : Mask := (hits.filter fun h => h.1.act != 0).foldl (fun m h => m ||| h.2) 0

/-- The end of a per-lane instruction: watch actions, then a block, then the lowest failing lane's trap. -/
def Perf.res (p : Perf) (f : Eff) (hits : Hits) : Res :=
  if actionLanes hits != 0 then .stop p.s f p.done (.halt hits)
  else match p.wait, p.bad with
    | some b, _ => .stop p.s f p.done (.block b)
    | none, some (_, why) => .stop p.s f p.done why
    | none, none => .done p.s f

/-! ### Data -/

/-- Bytes of a datum (03_encoding R64). -/
def widthBytes (w : BitVec 3) : Nat := match w.toNat with | 0 => 1 | 1 => 2 | 2 => 4 | 3 => 8 | 4 => 16 | 5 => 1 | _ => 2
/-- The bytes of a loaded datum extended to whole registers. -/
def extendBytes (w : BitVec 3) (bs : List Byte) : List Byte :=
  let n := leNat bs
  if w == 5 then leBytes 4 ((BitVec.ofNat 8 n).signExtend 32).toNat
  else if w == 6 then leBytes 4 ((BitVec.ofNat 16 n).signExtend 32).toNat
  else if bs.length < 4 then leBytes 4 n else bs
/-- The register writes of lanes' bytes to `n` registers from `r`. -/
def bytesRegs (r : BitVec 8) (n : Nat) (m : Mask) (vals : Lanes (List Byte)) : List RegWrite :=
  if regKind r == .zero then []
  else (List.range n).map fun k =>
    write32 (r + BitVec.ofNat 8 k) m fun l => BitVec.ofNat 32 (leNat (((Lanes.at vals l).drop (4 * k)).take 4))
def loadRegs (w : BitVec 3) (r : BitVec 8) (m : Mask) (vals : Lanes (List Byte)) : List RegWrite :=
  bytesRegs r (widthRegs w) m (vals.map (extendBytes w))
/-- The bytes that operand `o` holds for a store. -/
def storeBytes (e : Env) (o : Nat) (w : BitVec 3) (l : Nat) : List Byte :=
  if w == 4 then ((List.range 4).map fun k => leBytes 4 (e.reg o k l).toNat).flatten
  else leBytes (widthBytes w) (e.src o l).toNat

def memAcq (f : FmtM) : Bool := f.order.getLsbD 0
def memRel (f : FmtM) : Bool := f.order.getLsbD 1

/-! ### Generic accesses -/

/-- The address of a lane (R221). -/
def genAddr (e : Env) (off : Word) (l : Nat) : Nat := (e.src 0 l + off).toNat
def beyond52 (a : Nat) : Bool := decide (1 <<< 52 ≤ a)

/-- Translate an access of core `ck` for context `x`, with the culvert rule of 18_link R382. -/
def State.pagesAt (s : State) (ck x a n kind : Nat) : Except LaneEnd (List Seg) × State :=
  if beyond52 a then (.error (.trap 0x43 (BitVec.ofNat 64 a)), s)
  else match s.translateRange ck x a n kind with
    | (.fault c lvl va, s) => (.error (.fault c kind lvl va), s)
    | (.wait, s) => (.error (.block .culvert), s)
    | (.ok segs, s) => if s.blockedSegs (ck / 96) segs then (.error (.block .culvert), s) else (.ok segs, s)
def State.lanePages (s : State) (e : Env) (a n kind : Nat) : Except LaneEnd (List Seg) × State := s.pagesAt e.ck e.x a n kind

def State.loadLane (s : State) (e : Env) (a n : Nat) (acq : Bool) (scope : Nat) : LaneEnd × State :=
  match s.lanePages e a n 0 with
  | (.error r, s) => (r, s)
  | (.ok segs, s) => match s.memRead e.ck segs acq scope with
    | (_, some c, s) => (.trap c (BitVec.ofNat 64 a), s)
    | (bs, none, s) => (.ok bs, s)
def State.storeLane (s : State) (e : Env) (a : Nat) (bs : List Byte) (rel : Bool) (scope : Nat) : LaneEnd × State :=
  match s.lanePages e a bs.length 1 with
  | (.error r, s) => (r, s)
  | (.ok segs, s) => (.ok [], s.memWrite e.ck segs bs rel scope)

/-- A misaligned ordered access traps before any lane has an effect (R203). -/
def orderedMisaligned (e : Env) (ordered : Bool) (n : Nat) (addr : Nat → Nat) : Option Nat :=
  if ordered then (e.lanes.map addr).find? fun a => a % n != 0 else none

/-- An instruction with an ordering whose write-backs have to wait for the culvert waits as a whole (R213, 18_link R382; log entry 108). -/
def State.mustClean (s : State) (e : Env) (ordered : Bool) (scope : Nat) : Bool := ordered && e.act != 0 && s.orderWaits e.ck scope

/-- `LD` (R222). -/
def ldRes (f : FmtM) (e : Env) (s : State) : Res :=
  let n := widthBytes f.width
  let addr := genAddr e (f.off.signExtend 64)
  match orderedMisaligned e (memAcq f) n addr with
  | some a => .stop s {} 0 (.trap 0x40 (BitVec.ofNat 64 a))
  | none =>
    if s.mustClean e (memAcq f) f.scope.toNat then .stop s {} 0 (.block .clean) else
    let hits := s.addrHits e 0 (maskOf fun l => e.act.getLsbD l && !beyond52 (addr l)) fun l => (addr l, n)
    let p := perLane s (e.act &&& ~~~actionLanes hits) fun s l => s.loadLane e (addr l) n (memAcq f) f.scope.toNat
    let p := { p with s := if memAcq f && p.done != 0 then p.s.acquire e.ck f.scope.toNat else p.s }
    let p := if actionLanes hits == 0 then { p with s := p.s.recordHits e hits } else p
    p.res { regs := loadRegs f.width f.data p.done p.vals, long := some .ld } hits
def execLd (g : Guard) (f : FmtM) (s : State) : Out := runWord (.ld g f) noCheck (ldRes f) s

/-- `ST` (R222). -/
def stRes (f : FmtM) (e : Env) (s : State) : Res :=
  let n := widthBytes f.width
  let addr := genAddr e (f.off.signExtend 64)
  match orderedMisaligned e (memRel f) n addr with
  | some a => .stop s {} 0 (.trap 0x40 (BitVec.ofNat 64 a))
  | none =>
    if s.mustClean e (memRel f) f.scope.toNat then .stop s {} 0 (.block .clean) else
    let hits := s.addrHits e 1 (maskOf fun l => e.act.getLsbD l && !beyond52 (addr l)) fun l => (addr l, n)
    let m := e.act &&& ~~~actionLanes hits
    let s := if actionLanes hits == 0 then s.recordHits e hits else s
    let s := if memRel f && m != 0 then s.release e.ck f.scope.toNat else s
    (perLane s m fun s l => s.storeLane e (addr l) (storeBytes e 1 f.width l) (memRel f) f.scope.toNat).res {} hits
def execSt (g : Guard) (f : FmtM) (s : State) : Out := runWord (.st g f) noCheck (stRes f) s

/-- `SLOAD` (06_group_float R149): one lane's load, the lowest member. -/
def sloadRes (f : FmtM) (e : Env) (s : State) : Res :=
  let n := widthBytes f.width
  let l := e.low
  let a := genAddr e (f.off.signExtend 64) l
  if a % n != 0 then .stop s {} 0 (.trap 0x40 (BitVec.ofNat 64 a))
  else if s.mustClean e (memAcq f) f.scope.toNat then .stop s {} 0 (.block .clean)
  else
    let hits := s.addrHits e 0 (if beyond52 a then 0 else laneBit l) fun _ => (a, n)
    if actionLanes hits != 0 then .stop s {} 0 (.halt hits)
    else
      let s := s.recordHits e hits
      match s.loadLane e a n (memAcq f) f.scope.toNat with
      | (.ok bs, s) =>
        .done (if memAcq f then s.acquire e.ck f.scope.toNat else s) { sreg := some (f.data, BitVec.ofNat 64 (leNat bs)) }
      | (.trap c i, s) => .stop s {} 0 (.trap c i)
      | (.fault c k lvl va, s) => .stop s {} 0 (.fault c k lvl va l)
      | (.block b, s) => .stop s {} 0 (.block b)
def execSload (g : Guard) (f : FmtM) (s : State) : Out :=
  runWord (.sload g f) noCheck (fun e s => scalarRes e s (sloadRes f e s)) s

/-! ### Scratchpad, constant and berm accesses -/

/-- The offset of a lane (R221). -/
def localAddr (e : Env) (off : W32) (l : Nat) : Nat := (e.src32 0 l + off).toNat

def Team.scratchBytes (t : Team) (a n : Nat) : List Byte := (List.range n).map fun k => SMap.getD t.scratch (a + k) 0
def putBytes (m : SMap Byte) (a : Nat) (bs : List Byte) : SMap Byte :=
  bs.zipIdx.foldl (fun m p => SMap.put m 0 (a + p.2) p.1) m
/-- The scratchpad line of an offset is empty (10_copy R240). -/
def Team.lineEmpty (t : Team) (a : Nat) : Bool := t.empty.contains (a / 128)

/-- Checks of the scratchpad (R221). -/
def scratchCheck (t : Team) (a n : Nat) : Option Cause :=
  if t.kernel.scratch < a + n then some 0x50 else if a % n != 0 then some 0x51 else none

/-- The marked units of a team's scratchpad or berm that a range touches (15_context R329). -/
def ErrPlace.inScratch (tid a n : Nat) : ErrPlace → Bool
  | .scratch t u => t == tid && decide (u < a + n) && decide (a < u + 8)
  | _ => false
def ErrPlace.inBerm (tid w a n : Nat) : ErrPlace → Bool
  | .berm t k u => t == tid && k == w && decide (u < a + n) && decide (a < u + 8)
  | _ => false
/-- `0xE1`, or `0xE5` for a mark made elsewhere. -/
def State.localPoison (s : State) (f : ErrPlace → Bool) : Option Cause :=
  if s.marks.any f then some 0xE1 else if s.moved.any f then some 0xE5 else none

/-- A write that covers marked units wholly removes their marks. -/
def ErrPlace.coveredScratch (tid a n : Nat) : ErrPlace → Bool
  | .scratch t u => t == tid && decide (a ≤ u) && decide (u + 8 ≤ a + n)
  | _ => false
def ErrPlace.coveredBerm (tid w a n : Nat) : ErrPlace → Bool
  | .berm t k u => t == tid && k == w && decide (a ≤ u) && decide (u + 8 ≤ a + n)
  | _ => false
def State.dropMarks (s : State) (f : ErrPlace → Bool) : State :=
  if s.marks.isEmpty && s.moved.isEmpty then s
  else { s with marks := s.marks.filter fun e => !f e, moved := s.moved.filter fun e => !f e }

def State.writeScratch (s : State) (tid a : Nat) (bs : List Byte) : State :=
  (s.modTeam tid fun t => { t with scratch := putBytes t.scratch a bs }).dropMarks (ErrPlace.coveredScratch tid a bs.length)

/-- A load of the scratchpad (R222): an empty line blocks, or traps with TL. -/
def State.scratchLane (s : State) (e : Env) (tl : Bool) (a n : Nat) : LaneEnd × State :=
  match s.team? e.tid with
  | none => (.ok [], s)
  | some t =>
    match scratchCheck t a n with
    | some c => (.trap c (BitVec.ofNat 64 a), s)
    | none =>
      if t.lineEmpty a then (if tl then .trap 0x20 0 else .block .line, s)
      else match s.localPoison (ErrPlace.inScratch e.tid a n) with
        | some c => (.trap c (BitVec.ofNat 64 a), s)
        | none => (.ok (t.scratchBytes a n), s)

/-- `LDS` (R222): OFFSET[21] is TL. -/
def ldsRes (f : FmtM) (e : Env) (s : State) : Res :=
  let n := widthBytes f.width
  let off := (f.off.extractLsb' 0 21).signExtend 32
  let p := perLane s e.act fun s l => s.scratchLane e (f.off.getLsbD 21) (localAddr e off l) n
  p.res { regs := loadRegs f.width f.data p.done p.vals, long := some .ld } []
def execLds (g : Guard) (f : FmtM) (s : State) : Out := runWord (.lds g f) noCheck (ldsRes f) s

/-- `STS` (R222). -/
def stsRes (f : FmtM) (e : Env) (s : State) : Res :=
  let n := widthBytes f.width
  (perLane s e.act fun s l =>
    let a := localAddr e (f.off.signExtend 32) l
    match scratchCheck e.t a n with
    | some c => (.trap c (BitVec.ofNat 64 a), s)
    | none => (.ok [], s.writeScratch e.tid a (storeBytes e 1 f.width l))).res {} []
def execSts (g : Guard) (f : FmtM) (s : State) : Out := runWord (.sts g f) noCheck (stsRes f) s

/-- A byte of the constant bank as placed; where memory has changed since, a free value (12_kernel R265). -/
def State.bankByte (s : State) (e : Env) (o : Nat) : Byte × State :=
  let was := SMap.getD e.t.const o 0
  if e.t.kernel.constSize ≤ o then (0, s)
  else match s.readVirt e.d e.x (e.t.kernel.image.toNat + e.t.kernel.constOff + o) 1 0 with
    | some [b] => if b == was then (was, s) else (Config.freeByte s.choice, { s with choice := s.choice + 1 })
    | _ => (was, s)

/-- The poison of bytes of the constant bank at their home (15_context R329). -/
def State.bankPoison (s : State) (e : Env) (o n : Nat) : Option Cause :=
  if s.marks.isEmpty && s.moved.isEmpty then none
  else (List.range n).findSome? fun k =>
    let va := e.t.kernel.image.toNat + e.t.kernel.constOff + o + k
    if e.t.kernel.constSize ≤ o + k then none
    else match (s.walkVa e.d e.x va).1 with
      | .leaf w lvl slot => s.homePoison (TlbEntry.phys { ctx := e.x, unit := va / 4096, leaf := w, slot := slot, lvl := lvl } va).pa 1
      | _ => none

/-- `LDC` (R222): beyond the bank's bytes, up to 65,536, zero. -/
def ldcRes (f : FmtM) (e : Env) (s : State) : Res :=
  let n := widthBytes f.width
  let p := perLane s e.act fun s l =>
    let a := localAddr e (f.off.signExtend 32) l
    if 65536 < a + n then (.trap 0x47 (BitVec.ofNat 64 a), s)
    else
      let (bs, s) := (List.range n).foldl (fun (acc : List Byte × State) k =>
        let (b, s) := acc.2.bankByte e (a + k); (acc.1 ++ [b], s)) ([], s)
      match s.bankPoison e a n with
      | some c => (.trap c (BitVec.ofNat 64 a), s)
      | none => (.ok bs, s)
  p.res { regs := loadRegs f.width f.data p.done p.vals, long := some .ld } []
def execLdc (g : Guard) (f : FmtM) (s : State) : Out := runWord (.ldc g f) noCheck (ldcRes f) s

/-- The checks of a berm access (14_column R297). -/
def bermCheck (t : Team) (a n : Nat) : Except Cause Window :=
  if 1 <<< 20 < a + n then .error 0x52
  else match t.windows[bitsOf a 18 2]? with
    | none => .error 0x53
    | some w => if w.reclaimed then .error 0x54 else if a % n != 0 then .error 0x40 else .ok w

/-- `LDB` (14_column R297). -/
def ldbRes (f : FmtM) (e : Env) (s : State) : Res :=
  let n := widthBytes f.width
  let p := perLane s e.act fun s l =>
    let a := localAddr e (f.off.signExtend 32) l
    match bermCheck e.t a n with
    | .error c => (.trap c (BitVec.ofNat 64 a), s)
    | .ok w =>
      match s.localPoison (ErrPlace.inBerm e.tid (bitsOf a 18 2) (bitsOf a 0 18) n) with
      | some c => (.trap c (BitVec.ofNat 64 a), s)
      | none => (.ok ((List.range n).map fun k => SMap.getD w.data (bitsOf a 0 18 + k) 0), s)
  p.res { regs := loadRegs f.width f.data p.done p.vals, long := some .ld } []
def execLdb (g : Guard) (f : FmtM) (s : State) : Out := runWord (.ldb g f) noCheck (ldbRes f) s

def State.writeBerm (s : State) (tid w a : Nat) (bs : List Byte) : State :=
  (s.modTeam tid fun t => { t with
      windows := t.windows.zipIdx.map fun p => if p.2 == w then { p.1 with data := putBytes p.1.data a bs } else p.1 }).dropMarks
    (ErrPlace.coveredBerm tid w a bs.length)

/-- `STB` (14_column R297). -/
def stbRes (f : FmtM) (e : Env) (s : State) : Res :=
  let n := widthBytes f.width
  (perLane s e.act fun s l =>
    let a := localAddr e (f.off.signExtend 32) l
    match bermCheck e.t a n with
    | .error c => (.trap c (BitVec.ofNat 64 a), s)
    | .ok _ => (.ok [], s.writeBerm e.tid (bitsOf a 18 2) (bitsOf a 0 18) (storeBytes e 1 f.width l))).res {} []
def execStb (g : Guard) (f : FmtM) (s : State) : Out := runWord (.stb g f) noCheck (stbRes f) s

/-! ### `LDL` and `STL` (R205, R223) -/

/-- A collective's checks on the line of the lowest active lane: alignment, one address, range (in this order, log entry 116), watch,
translation, host. -/
def lineCheck (f : FmtM) (e : Env) (s : State) (kind : Nat) : Except Stop (Phys × Nat) × State :=
  let addr := genAddr e (f.off.signExtend 64)
  let la := addr e.low
  let info := BitVec.ofNat 64 la
  if la % 128 != 0 then (.error (.trap 0x40 info), s)
  else if e.lanes.any fun l => addr l != la then (.error (.trap 0x41 info), s)
  else if beyond52 la then (.error (.trap 0x43 info), s)
  else if s.mustClean e (if kind == 0 then memAcq f else memRel f) f.scope.toNat then (.error (.block .clean), s)
  else
    let hits := s.addrHits e kind e.act fun l => (la + 4 * l, 4)
    if actionLanes hits != 0 then (.error (.halt hits), s)
    else
      let s := s.recordHits e hits
      match s.translate e.ck e.x (la + 4 * e.low) kind with
      | (.fault c lvl, s) => (.error (.fault c kind lvl (la + 4 * e.low) e.low), s)
      | (.wait, s) => (.error (.block .culvert), s)
      | (.ok p, s) =>
        let pa := p.pa - 4 * e.low
        if isHost pa then (.error (.trap 0x44 info), s)
        else if crosses e.d pa && !s.culvertOpen then (.error (.block .culvert), s)
        else (.ok ({ p with pa := pa }, la), s)

/-- `LDL`: one event at the home slice over the bytes of the active lanes. -/
def ldlRes (f : FmtM) (e : Env) (s : State) : Res :=
  if e.act == 0 then .done s { long := some .ld }
  else match lineCheck f e s 0 with
    | (.error why, s) => .stop s {} 0 why
    | (.ok (p, la), s) =>
      let s := s.dropLine e.ck p.pa
      match e.lanes.findSome? fun l => s.homePoison (p.pa + 4 * l) 4 with
      | some c => .stop s {} 0 (.trap c (BitVec.ofNat 64 la))
      | none =>
        let vals : Lanes (List Byte) := lanes fun l => s.bytes (p.pa + 4 * l) 4
        .done (if memAcq f then s.acquire e.ck f.scope.toNat else s) { regs := bytesRegs f.data 1 e.act vals, long := some .ld }
def execLdl (g : Guard) (f : FmtM) (s : State) : Out := runWord (.ldl g f) noCheck (ldlRes f) s

/-- The runs of consecutive lanes in a mask: first lane and length. -/
def laneRuns (m : Mask) : List (Nat × Nat) :=
  (maskLanes m).foldr (fun l r => match r with
    | (k, n) :: t => if l + 1 == k then (l, n + 1) :: t else (l, 1) :: r
    | [] => [(l, 1)]) []
/-- One event over the runs of bytes of a line (R205): every byte is written before a monitor compares its word. -/
def State.writeRuns (s : State) (rs : List (Nat × List Byte)) : State :=
  let s := rs.foldl (fun (s : State) r => State.unmark { s with mem := Memory.writes s.mem r.1 r.2 } r.1 r.2.length) s
  rs.foldl (fun (s : State) r => s.wakeMonitors r.1 r.2.length) s

/-- `STL`: one event covering the bytes of the active lanes. -/
def stlRes (f : FmtM) (e : Env) (s : State) : Res :=
  if e.act == 0 then .done s {}
  else match lineCheck f e s 1 with
    | (.error why, s) => .stop s {} 0 why
    | (.ok (p, _), s) =>
      let s := if memRel f then s.release e.ck f.scope.toNat else s
      let s := s.dropLine e.ck p.pa
      .done (s.writeRuns ((laneRuns e.act).map fun r => (p.pa + 4 * r.1,
        ((List.range r.2).map fun k => leBytes 4 (e.src32 1 (r.1 + k)).toNat).flatten))) {}
def execStl (g : Guard) (f : FmtM) (s : State) : Out := runWord (.stl g f) noCheck (stlRes f) s

/-! ### `PREF`, `FENCE`, `CINV`, `CCLN` (R224-R226) -/

/-- `PREF` has no architectural effect. -/
def execPref (g : Guard) (f : FmtM) (s : State) : Out := runWord (.pref g f) noCheck (fun _ s => .done s {}) s

/-- The actions of a fence (R213): the release part, then the acquire part. -/
def State.fence (s : State) (ck order scope : Nat) : State :=
  let s := if order == 1 then s else s.release ck scope
  if order == 2 then s else s.acquire ck scope
/-- An instruction that acts on the caches of its core once, where a guard holds; it completes when the bytes that it writes back can
enter their write orders (R226, 18_link R382). -/
def State.cleanRes (s : State) (e : Env) (scope : Nat) (act : State → State) : Res :=
  if s.mustClean e true scope then .stop s {} 0 (.block .clean) else .done (if e.act == 0 then s else act s) {}
def execFence (g : Guard) (f : FmtX) (s : State) : Out :=
  runWord (.fence g f) noCheck (fun e s => s.cleanRes e (f.fld 23 3).toNat fun s => s.fence e.ck (f.fld 26 2).toNat (f.fld 23 3).toNat) s
def execCinv (g : Guard) (f : FmtX) (s : State) : Out :=
  runWord (.cinv g f) noCheck (fun e s => s.cleanRes e 4 fun s => s.cinv e.ck) s
def execCcln (g : Guard) (f : FmtX) (s : State) : Out :=
  runWord (.ccln g f) noCheck (fun e s => s.cleanRes e 4 fun s => s.ccln e.ck) s

end Sys2Proof.Machine
end

