-- ==== Sys2Proof/Machine/Atomic.lean ====
section
/-! DEFINITION. The atomics (09_memory R215, R227, R228): the lanes of one instruction are applied in ascending order at the
serialisation point. -/

namespace Sys2Proof.Machine

/-- The new value of an integer operation (R227); none for a `.cas` that fails. `b2` is the second operand of `.cas`. -/
def atomicInt (op w old b b2 : Nat) : Option Nat :=
  let s := fun (x : Nat) => signedOf x w
  match op with
  | 0 => some ((old + b) % (1 <<< w))
  | 1 => some (if s b < s old then b else old)
  | 2 => some (if s old < s b then b else old)
  | 3 => some (min old b)
  | 4 => some (max old b)
  | 5 => some (Nat.land old b)
  | 6 => some (Nat.lor old b)
  | 7 => some (Nat.xor old b)
  | 8 => some b
  | 9 => some (if b ≤ old then 0 else old + 1)
  | 10 => some (if old == 0 || b < old then b else old - 1)
  | _ => if old == b then some b2 else none

/-- The floating-point operations. -/
def atomicFp (op old b : Nat) : Nat × Fx :=
  match op with
  | 11 => fpAdd .f32 .rn false (valOf .f32 old) (valOf .f32 b)
  | 12 => fpMinMax .f32 false true old b (valOf .f32 old) (valOf .f32 b)
  | 13 => fpMinMax .f32 true true old b (valOf .f32 old) (valOf .f32 b)
  | _ =>
    let el := fun k => fpAdd .f16 .rn false (valOf .f16 (bitsOf old (16 * k) 16)) (valOf .f16 (bitsOf b (16 * k) 16))
    ((el 0).1 + ((el 1).1 <<< 16), (el 0).2 ||| (el 1).2)

/-- The new value and the exceptions of an operation of R227. -/
def atomicOp (op w old b b2 : Nat) : Option Nat × Fx :=
  if 11 ≤ op && op ≤ 14 then let r := atomicFp op old b; (some r.1, r.2) else (atomicInt op w old b b2, 0)

/-- An operation sent to the host as an AtomicOp (R228). -/
def hostAtomicOp (op : Nat) : Bool := op == 0 || op == 8 || op == 15

/-- b, and b2 for `.cas`, of a lane. -/
def atomicArgs (f : FmtM) (e : Env) (l : Nat) : Nat × Nat :=
  if f.aop != 15 then ((e.src 1 l).toNat, 0)
  else if f.width == 2 then ((lo32 (e.src 1 l)).toNat, (hi32 (e.src 1 l)).toNat)
  else ((pair64 (lo32 (e.reg 1 0 l)) (lo32 (e.reg 1 1 l))).toNat, (pair64 (lo32 (e.reg 1 2 l)) (lo32 (e.reg 1 3 l))).toNat)

def atomicOff (f : FmtM) : BitVec 18 := f.off.extractLsb' 0 18
def atomicBytes (f : FmtM) : Nat := if f.width == 2 then 4 else 8

/-- The checks of a generic lane: its physical address. -/
def atomicPages (f : FmtM) (e : Env) (s : State) (a : Nat) : LaneEnd × State :=
  match s.lanePages e a (atomicBytes f) 3 with
  | (.error r, s) => (r, s)
  | (.ok segs, s) =>
    match segs.head? with
    | none => (.ok [], s)
    | some g =>
      if isHost g.p.pa && !hostAtomicOp f.aop.toNat then (.fault 0x34 3 g.p.lvl a, s)
      else
        let s := s.dropLine e.ck g.p.pa
        match s.homePoison g.p.pa (atomicBytes f) with
        | some c => (.trap c (BitVec.ofNat 64 a), s)
        | none => (.ok (leBytes 8 g.p.pa), s)

/-- A lane performs on a location that `read` and `write` reach: old value and exceptions. -/
def atomicPerform (f : FmtM) (e : Env) (l : Nat) (old : Nat) : Option (List Byte) × Fx :=
  let (b, b2) := atomicArgs f e l
  let r := atomicOp f.aop.toNat (8 * (atomicBytes f)) old b b2
  (r.1.map (leBytes (atomicBytes f)), r.2)

/-- Generic atomics: every lane is checked, then the lanes that pass perform in ascending order. -/
def atomRes (f : FmtM) (cls : Option OpClass) (e : Env) (s : State) : Res :=
  let n := (atomicBytes f)
  let addr := genAddr e ((atomicOff f).signExtend 64)
  match orderedMisaligned e true n addr with
  | some a => .stop s {} 0 (.trap 0x40 (BitVec.ofNat 64 a))
  | none =>
    if s.mustClean e (memRel f || memAcq f) f.scope.toNat then .stop s {} 0 (.block .clean) else
    let hits := s.addrHits e 3 (maskOf fun l => e.act.getLsbD l && !beyond52 (addr l)) fun l => (addr l, n)
    let q := perLane s (e.act &&& ~~~actionLanes hits) fun s l => atomicPages f e s (addr l)
    let s := if actionLanes hits == 0 then q.s.recordHits e hits else q.s
    let s := if memRel f && q.done != 0 then s.release e.ck f.scope.toNat else s
    let p := (maskLanes q.done).foldl (fun (p : Perf) l =>
      let pa := leNat (Lanes.at q.vals l)
      let s := p.s.dropLine e.ck pa
      let old := s.bytes pa n
      let (new, fx) := atomicPerform f e l (leNat old)
      let s := match new with
        | some bs => s.writeHome pa bs
        | none => s
      { p.add l (.ok old) s with fx := Lanes.upd p.fx l fun _ => fx }) { q with s := s, done := 0 }
    let p := { p with s := if memAcq f && p.done != 0 then p.s.acquire e.ck f.scope.toNat else p.s }
    p.res { regs := if cls.isSome then bytesRegs f.data (n / 4) p.done p.vals else [], fx := p.fx, long := cls } hits

def execAtom (g : Guard) (f : FmtM) (s : State) : Out := runWord (.atom g f) noCheck (atomRes f (some .at)) s
def execAtomc (g : Guard) (f : FmtM) (s : State) : Out := runWord (.atomc g f) noCheck (atomRes f (some .at)) s
def execAtomf (g : Guard) (f : FmtM) (s : State) : Out := runWord (.atomf g f) noCheck (atomRes f (some .at)) s
def execRed (g : Guard) (f : FmtM) (s : State) : Out := runWord (.red g f) noCheck (atomRes f none) s

/-- `ATOMS` (R228): a scratchpad atomic; an empty line blocks. -/
def atomsRes (f : FmtM) (e : Env) (s : State) : Res :=
  let n := (atomicBytes f)
  let addr := localAddr e ((atomicOff f).signExtend 32)
  let q := perLane s e.act fun s l => s.scratchLane e false (addr l) n
  -- a block leaves every lane to the next attempt
  if q.wait.isSome then .stop q.s {} 0 (.block .line)
  else
    let p := (maskLanes q.done).foldl (fun (p : Perf) l =>
      let old := ((p.s.team? e.tid).map fun t => t.scratchBytes (addr l) n).getD []
      let (new, fx) := atomicPerform f e l (leNat old)
      let s := match new with
        | some bs => p.s.writeScratch e.tid (addr l) bs
        | none => p.s
      { p.add l (.ok old) s with fx := Lanes.upd p.fx l fun _ => fx }) { q with done := 0 }
    p.res { regs := bytesRegs f.data (n / 4) p.done p.vals, fx := p.fx, long := some .at } []
def execAtoms (g : Guard) (f : FmtM) (s : State) : Out := runWord (.atoms g f) noCheck (atomsRes f) s

end Sys2Proof.Machine
end

