-- ==== Sys2Proof/Machine/Barrier.lean ====
section
/-! DEFINITION. Barrier objects, condition monitors, team registers and non-preemptible regions (11_barrier R244-R263). -/

namespace Sys2Proof.Machine

/-! ### Barrier objects (R244, R246, R335) -/

def Team.setBar (t : Team) (k : Nat) (b : Barrier) : Team := { t with bars := SMap.put t.bars Barrier.fresh k b }

/-- The phase completes: the next one begins, and the team's phase count rises (16_watch R337). -/
def Team.completePhase (t : Team) (k : Nat) : Team :=
  let b := t.bar k
  { (t.setBar k { b with ph := b.ph + 1, a := 0, e := b.en }) with phases := t.phases + 1 }

/-- `Arrive` (R246): the token, or none while the phase is held. -/
def Team.arrive (t : Team) (halted : Bool) (k : Nat) (drop : Bool) : Option (BitVec 24 × Team) :=
  let b := t.bar k
  if b.held then none
  else
    let b' := { b with a := b.a + 1, en := if drop then b.en - 1 else b.en }
    let t := t.setBar k b'
    some (b.ph, if b'.a == b'.e && !halted then t.completePhase k else t)

/-- Lanes arrive in ascending order until one finds the phase held: the lanes that arrived, with their tokens. -/
def Team.arriveLanes (t : Team) (halted : Bool) (k : Nat) (drop : Bool) (ls : List Nat) (arr : Mask) (tok : Lanes W32) :
    Mask × Lanes W32 × Team :=
  match ls with
  | [] => (arr, tok, t)
  | l :: r => match t.arrive halted k drop with
    | none => (arr, tok, t)
    | some (p, t) => arriveLanes t halted k drop r (arr ||| laneBit l) (Lanes.upd tok l fun _ => p.setWidth 32)

/-- Change the issue groups of a group that are held, in the order innermost first, with a value carried along. -/
def Group.foldIgs {α : Type} (g : Group) (f : α → IssueGroup → IssueGroup × α) (a : α) : Group × α :=
  let list := fun (a : α) (igs : List IssueGroup) =>
    igs.foldl (fun (acc : List IssueGroup × α) ig => let r := f acc.2 ig; (acc.1 ++ [r.1], r.2)) ([], a)
  let frames := fun (a : α) (fs : List Frame) =>
    fs.foldl (fun (acc : List Frame × α) fr => let r := list acc.2 fr.susp; (acc.1 ++ [{ fr with susp := r.1 }], r.2)) ([], a)
  let (susp, a) := list a g.susp
  let (entering, a) := frames a g.entering
  let (host, a) : Option (Frame × Nat) × α := match g.hostTrap with
    | none => (none, a)
    | some (fr, q) => let r := list a fr.susp; (some ({ fr with susp := r.1 }, q), r.2)
  let (fs, a) := frames a g.frames
  ({ g with susp := susp, entering := entering, hostTrap := host, frames := fs }, a)

/-- The arrival of one lane of a blocked issue group that a held phase kept waiting. -/
def Team.arriveWaiting (halted : Bool) (l : Nat) (t : Team) (ig : IssueGroup) : IssueGroup × Team :=
  match ig.bar with
  | none => (ig, t)
  | some (k, drop, m) =>
    if !m.getLsbD l || (drop && (t.bar k).en < popMask m + 1) then (ig, t)
    else
      let (arr, tok, t) := t.arriveLanes halted k drop [l] ig.arr ig.tok
      ({ ig with arr := arr, tok := tok, bar := some (k, drop, m &&& ~~~arr) }, t)

/-- The waiting lanes of a group arrive, in ascending lane. -/
def State.arriveGroup (s : State) (tid : Nat) (gk : Nat) : State :=
  match s.group? gk, s.team? tid with
  | some g, some t =>
    let halted := s.teamHalted tid
    let (g, t) := laneList.foldl (fun (acc : Group × Team) l => acc.1.foldIgs (Team.arriveWaiting halted l) acc.2) (g, t)
    (s.setGroup gk g).setTeam tid t
  | _, _ => s

/-- The held phases of a team complete once no thread of it is halted, and the lanes that waited arrive, in ascending group slot
and lane (R246, 16_watch R335). -/
def State.releasePhases (s : State) (tid : Nat) (t : Team) : State :=
  if t.stage == .saved || s.teamHalted tid || !t.bars.any (fun b => b.2.held) then s
  else
    let t := t.bars.foldl (fun t b => if b.2.held then t.completePhase b.1 else t) t
    (s.groupsOf tid).foldl (fun s p => s.arriveGroup tid p.1) (s.setTeam tid t)
def State.releaseAll (s : State) : State := s.teams.foldl (fun s p => s.releasePhases p.1 p.2) s

/-! ### The barrier instructions (R245-R251) -/

def barIdx (f : FmtX) : Nat := (f.fld 24 4).toNat
/-- `0x83` and `0x80` (R245). -/
def barCheck (f : FmtX) (needInit : Bool) : PreCheck := fun e _ =>
  if e.act == 0 then none
  else if e.t.kernel.barriers ≤ barIdx f then some 0x83
  else if needInit && !(e.t.bar (barIdx f)).init then some 0x80 else none

def State.curIg (s : State) (e : Env) : IssueGroup := (s.ig? e.pk).getD e.ig

/-- A thread of the team waits on a barrier object, running or in a trap: one whose phase has completed waits no more. -/
def State.barWaited (s : State) (tid k : Nat) : Bool :=
  (s.groupsOf tid).any fun p =>
    p.2.allIgs.any fun ig => ig.block == some .barrier && ig.bar.any (fun b => b.1 == k)
      && (s.team? tid).any fun t => !s.barReady t ig

/-- `BAR.INIT` (R247). -/
def barInitRes (f : FmtX) (e : Env) (s : State) : Res :=
  if e.act == 0 then .done s {}
  else
    let k := barIdx f
    let n := (e.src32 0 e.low).toNat
    let b := e.t.bar k
    if n == 0 || 512 < n || b.a != 0 || s.barWaited e.tid k then .stop s {} 0 (.trap 0x82 0)
    else .done (s.modTeam e.tid fun t => t.setBar k { b with init := true, e := n, en := n }) {}
def execBarInit (g : Guard) (f : FmtX) (s : State) : Out := runWord (.barInit g f) (barCheck f false) (barInitRes f) s

/-- The lanes that have not arrived do so. It answers the issue group with its arrivals, or why the instruction stops. -/
def barArrive (k : Nat) (drop : Bool) (e : Env) (s : State) : Except Stop IssueGroup × State :=
  let ig := s.curIg e
  let rest := e.act &&& ~~~ig.arr
  match s.team? e.tid with
  | none => (.ok ig, s)
  | some t =>
    if rest != 0 && drop && !(t.bar k).held && (t.bar k).en < popMask rest + 1 then (.error (.trap 0x82 0), s)
    else
      let (arr, tok, t) := t.arriveLanes (s.teamHalted e.tid) k drop (maskLanes rest) ig.arr ig.tok
      let ig := { ig with arr := arr, tok := tok, bar := some (k, drop, rest &&& ~~~arr) }
      let s := (s.setTeam e.tid t).setIg e.pk ig
      if rest &&& ~~~arr == 0 then (.ok ig, s) else (.error (.block .barrier), s)

def tokenWrite (f : FmtX) (ig : IssueGroup) (m : Mask) : List RegWrite := [write32 f.d m fun l => Lanes.at ig.tok l]

/-- `BAR.ARV` and `BAR.DROP` (R248). A trap at a held arrival keeps the tokens of the lanes that arrived. -/
def barArvRes (f : FmtX) (drop : Bool) (e : Env) (s : State) : Res :=
  if e.act == 0 then .done s {}
  else match barArrive (barIdx f) drop e s with
    | (.error (.trap c i), s) => .stop s { regs := tokenWrite f (s.curIg e) (s.curIg e).arr } (s.curIg e).arr (.trap c i)
    | (.error why, s) => .stop s {} 0 why
    | (.ok ig, s) => .done s { regs := tokenWrite f ig e.act }
def execBarArv (g : Guard) (f : FmtX) (s : State) : Out := runWord (.barArv g f) (barCheck f true) (barArvRes f false) s
def execBarDrop (g : Guard) (f : FmtX) (s : State) : Out := runWord (.barDrop g f) (barCheck f true) (barArvRes f true) s

/-- `BAR.SYNC` (R248). -/
def barSyncRes (f : FmtX) (e : Env) (s : State) : Res :=
  if e.act == 0 then .done s {}
  else match barArrive (barIdx f) false e s with
    | (.error why, s) => .stop s {} 0 why
    | (.ok ig, s) =>
      match s.team? e.tid with
      | none => .done s {}
      | some t =>
        if e.lanes.any fun l => (t.bar (barIdx f)).ph == (Lanes.at ig.tok l).setWidth 24 then .stop s {} 0 (.block .barrier)
        else .done s {}
def execBarSync (g : Guard) (f : FmtX) (s : State) : Out := runWord (.barSync g f) (barCheck f true) (barSyncRes f) s

/-- The first look at a lane's token: its status, 0 where the lane has to wait (R249, R250). -/
def waitStatus (par : Bool) (ph : BitVec 24) (tok : W32) : Option Nat :=
  if par then some (if ph.getLsbD 0 != tok.getLsbD 0 then 1 else 0)
  else
    let d := (ph - tok.setWidth 24).toNat
    if 1 <<< 23 ≤ d then none else some (min d 2)

/-- `BAR.WAIT` and `BAR.WPAR` (R249, R250). The issue group keeps, for a lane that waits, the phase at which it began to, and
for the others their status. -/
def barWaitRes (f : FmtX) (par : Bool) (e : Env) (s : State) : Res :=
  if e.act == 0 then .done s {}
  else
    let k := barIdx f
    let ig := s.curIg e
    let ph := e.t.bar k |>.ph
    let first := fun (l : Nat) => waitStatus par ph (e.src32 0 l)
    let new := e.act &&& ~~~ig.arr
    if (maskLanes new).any fun l => (first l).isNone then .stop s {} 0 (.trap 0x81 0)
    else
      let waits := maskOf fun l => if new.getLsbD l then first l == some 0 else ig.was.getLsbD l
      let tok : Lanes W32 := lanes fun l =>
        if !new.getLsbD l then Lanes.at ig.tok l
        else if first l == some 0 then ph.setWidth 32 else BitVec.ofNat 32 ((first l).getD 0)
      let stuck := maskOf fun l => e.act.getLsbD l && waits.getLsbD l && Lanes.at tok l == ph.setWidth 32
      let try_ := f.bit 18
      let ig := { ig with arr := ig.arr ||| new, was := waits, tok := tok, bar := some (k, false, 0) }
      let s := s.setIg e.pk ig
      if stuck != 0 && !try_ then .stop s {} 0 (.block .barrier)
      else
        .done s { regs := [write32 f.d e.act fun l => if waits.getLsbD l then (if try_ then 3 else 0) else Lanes.at tok l],
                  preds := [{ p := f.fld 21 3, mask := e.act, vals := if try_ then ~~~waits else 0xFFFFFFFF }] }
def execBarWait (g : Guard) (f : FmtX) (s : State) : Out := runWord (.barWait g f) (barCheck f true) (barWaitRes f false) s
def execBarWpar (g : Guard) (f : FmtX) (s : State) : Out := runWord (.barWpar g f) (barCheck f true) (barWaitRes f true) s

/-- `BAR.Q` (R251). -/
def barQRes (f : FmtX) (e : Env) (s : State) : Res :=
  let b := e.t.bar (barIdx f)
  let hi := b.a % 1024 + ((b.e % 1024) <<< 10) + ((b.en % 1024) <<< 20) + (b2n b.init <<< 31)
  .done s { regs := write64 f.d e.act fun _ => BitVec.ofNat 64 (b.ph.toNat + (hi <<< 32)) }
def execBarQ (g : Guard) (f : FmtX) (s : State) : Out := runWord (.barQ g f) (barCheck f false) (barQRes f) s

/-! ### Condition monitors (R255-R259) -/

def monBytes (f : FmtX) : Nat := if f.bit 20 then 8 else 4

/-- Entries of a home slice's monitor table in use. -/
def State.monTable (s : State) (slice : Nat) : List (Nat × Monitor) :=
  s.monitors.filter fun m => m.2.entered && m.2.outcome.isNone && !m.2.hit && homeSlice m.2.pa == slice

/-- A monitor ends; one that returns no outcome leaves the table. -/
def State.endMonitor (s : State) (k : Nat) (m : Monitor) (st : Nat) : State :=
  if m.async then { s with monitors := SMap.erase s.monitors k } else s.setMonitor k { m with outcome := some st }

/-- An entry for a new monitor in its slice's table, evicting one for a node of priority 0-3 (R257). -/
def State.monEnter (s : State) (m : Monitor) : Bool × State :=
  let tab := s.monTable (homeSlice m.pa)
  if tab.length < 1024 then (true, s)
  else if 3 < m.prio then (false, s)
  else match minOn (fun e : Nat × Monitor => e.2.start) (tab.filter fun e => 4 ≤ e.2.prio) with
    | none => (false, s)
    | some e => (true, s.endMonitor e.1 e.2 2)

/-- Register a monitor (R256): the word is read at its home, past the copies of the core (09_memory R209); where the condition does not hold the monitor waits. -/
def State.register (s : State) (ck : Nat) (m : Monitor) : Nat × State :=
  let s := s.dropLine ck m.pa
  let (k, s) := s.fresh
  if s.monHolds m then (k, s.endMonitor k m 0)
  else if m.polling then (k, s.setMonitor k m)
  else
    let (room, s) := s.monEnter m
    (k, s.setMonitor k { m with entered := room })

/-- The address checks of a lane (R256). -/
def monLane (f : FmtX) (e : Env) (s : State) (l : Nat) : LaneEnd × State :=
  let a := (e.src 0 l).toNat
  let info := BitVec.ofNat 64 a
  if beyond52 a then (.trap 0x43 info, s)
  else if a % monBytes f != 0 then (.trap 0x40 info, s)
  else match s.lanePages e a (monBytes f) 0 with
    | (.error r, s) => (r, s)
    | (.ok segs, s) =>
      match segs.head? with
      | none => (.ok [], s)
      | some g =>
        if isHost g.p.pa && f.fld 22 3 != 6 then (.trap 0x84 0, s)
        else
          let s := s.dropLine e.ck g.p.pa
          match s.homePoison g.p.pa (monBytes f) with
          | some c => (.trap c 0, s)
          | none => (.ok (leBytes 8 g.p.pa), s)

def monOf (f : FmtX) (e : Env) (s : State) (pa l : Nat) : Monitor :=
  let texp := (f.fld 16 4).toNat
  { gk := some e.gk, team := e.tid, gidx := e.g.gidx, lanes := laneBit l, va := e.src 0 l, pa := pa, ctx := e.x,
    cmp := (f.fld 25 3).toNat, val := if f.bit 20 then e.src 1 l else (e.src32 1 l).setWidth 64, wide := f.bit 20,
    scope := (f.fld 22 3).toNat, async := f.bit 15, opSeq := e.g.opSeq, prio := s.teamPrio e.t, start := s.now,
    expire := if texp == 0 then none else some (s.now + (1 <<< (texp + 13))), entered := false, polling := isHost pa,
    last := s.cyclesOf e.ck, hit := false, outcome := none }

/-- The monitors of an instruction's lanes; lanes with one address and value share an entry. -/
def registerLanes (f : FmtX) (e : Env) (pas : Lanes (List Byte)) (s : State) : List (Nat × Nat) × State :=
  let key := fun (l : Nat) => (leNat (Lanes.at pas l), if f.bit 20 then e.src 1 l else (e.src32 1 l).setWidth 64)
  e.lanes.foldl (fun (acc : List (Nat × Nat) × State) l =>
    match acc.1.find? fun p => key p.1 == key l with
    | some p => (acc.1 ++ [(l, p.2)], match acc.2.monitor? p.2 with
        | some m => acc.2.setMonitor p.2 { m with lanes := m.lanes ||| laneBit l }
        | none => acc.2)
    | none => let (k, s) := acc.2.register e.ck (monOf f e acc.2 (key l).1 l); (acc.1 ++ [(l, k)], s)) ([], s)

/-- The outcome of a lane's monitor. -/
def State.monOutcome (s : State) (k : Nat) : Option Nat := (s.monitor? k).elim (some 2) (·.outcome)

/-- The lanes of an issue group have read the outcome of a monitor; it goes when every lane that shares it has. -/
def State.monRead (s : State) (k : Nat) (m : Mask) : State :=
  match s.monitor? k with
  | none => s
  | some x =>
    if x.lanes &&& ~~~m == 0 then { s with monitors := SMap.erase s.monitors k } else s.setMonitor k { x with lanes := x.lanes &&& ~~~m }

/-- The monitors of the issue group have ended: status, and the acquire of a wake (R219). A core keeps no copy older than what its
monitors have read (09_memory R209). -/
def waitcEnd (f : FmtX) (e : Env) (s : State) (mons : List (Nat × Nat)) : Res :=
  let st := fun (l : Nat) => ((mons.find? fun p => p.1 == l).bind fun p => s.monOutcome p.2).getD 0
  let met := mons.any fun p => s.monOutcome p.2 == some 0
  if s.mustClean e (f.bit 21 && met) (f.fld 22 3).toNat then .stop s {} 0 (.block .clean) else
  let pas := ((mons.filterMap fun p => s.monitor? p.2).map (·.pa)).eraseDups
  let s := pas.foldl (fun s pa => s.dropLine e.ck pa) (mons.foldl (fun (s : State) p => s.monRead p.2 (laneBit p.1)) s)
  .done (if f.bit 21 && met then s.acquire e.ck (f.fld 22 3).toNat else s)
    { regs := [write32 f.d e.act fun l => BitVec.ofNat 32 (st l)] }

/-- The lanes of `m` make their checks and register (R256); the others of the issue group have monitors already. -/
def waitcEnter (f : FmtX) (e : Env) (m : Mask) (s : State) : Except Stop (List (Nat × Nat)) × State :=
  let e' := { e with act := m }
  let addr := fun (l : Nat) => (e.src 0 l).toNat
  let hits := s.addrHits e 0 (maskOf fun l => m.getLsbD l && !beyond52 (addr l) && addr l % monBytes f == 0) fun l => (addr l, monBytes f)
  if actionLanes hits != 0 then (.error (.halt hits), s)
  else
    let p := seqLanes (s.recordHits e hits) m (monLane f e')
    match p.wait, p.bad with
    | some b, _ => (.error (.block b), p.s)
    | none, some (_, why) => (.error why, p.s)
    | none, none =>
      let (mons, s) := registerLanes f e' p.vals p.s
      (.ok mons, s.modGroup e.gk fun g => { g with opSeq := g.opSeq + 1 })

/-- `WAITC` (R256). Lanes that have joined the issue group since others of it registered register now (03_encoding R56). -/
def waitcRes (f : FmtX) (e : Env) (s : State) : Res :=
  if e.act == 0 then .done s {} else
  let ig := s.curIg e
  let late := maskOf fun l => e.act.getLsbD l && !ig.mons.any fun p => p.1 == l
  match (if late == 0 then (.ok [], s) else waitcEnter f e late s) with
  | (.error why, s) => .stop s {} 0 why
  | (.ok mons, s) =>
    if f.bit 15 then .done s {}
    else
      let mons := ig.mons ++ mons
      let s := s.setIg e.pk { ig with mons := mons }
      if mons.any fun p => (s.monOutcome p.2).isNone then .stop s {} 0 (.block .monitor) else waitcEnd f e s mons
def execWaitc (g : Guard) (f : FmtX) (s : State) : Out := runWord (.waitc g f) noCheck (waitcRes f) s

/-- The timeout elapsed before the current cycle. -/
def State.monExpired (s : State) (m : Monitor) : Bool := m.expire.any fun t => decide (t < s.now)
/-- Cycles of the waiter's core: the one it left, while its team is saved. -/
def State.monCycles (s : State) (m : Monitor) : Nat :=
  s.cyclesOf (match m.gk with | some gk => gkCore gk | none => ((s.team? m.team).map fun t => coreKey t.die t.core).getD 0)

/-- `MONITOR WAKE` (R256, R257): the wake of a matching write that the culvert held back is delivered. -/
def State.canWake (s : State) (m : Monitor) : Bool := m.hit && m.outcome.isNone && !s.monCut m
def State.monitorWake (s : State) (k : Nat) : State :=
  match s.monitor? k with
  | some m => if s.canWake m then s.endMonitor k m 0 else s
  | none => s
def execMonitorWake (mon : Nat) (s : State) : Out := .next (s.monitorWake mon)

/-- `MONITOR RECHECK` (R257): every 4,096 cycles of the waiter's core, for a monitor that no table holds. -/
def State.canRecheck (s : State) (m : Monitor) : Bool :=
  !m.entered && m.outcome.isNone && decide (m.last + 4096 ≤ s.monCycles m) && !s.monCut m && !s.monExpired m
def State.monitorRecheck (s : State) (k : Nat) : State :=
  match s.monitor? k with
  | some m =>
    if !s.canRecheck m then s
    else if s.monHolds m then s.endMonitor k m 0 else s.setMonitor k { m with last := s.monCycles m }
  | none => s
def execMonitorRecheck (mon : Nat) (s : State) : Out := .next (s.monitorRecheck mon)

/-- `MONITOR TIMEOUT` (R257): the timeout has elapsed first; a match of the cycle in which it elapses is before it (R259, 00_scope R8). -/
def State.canTimeout (s : State) (m : Monitor) : Bool := m.outcome.isNone && s.monExpired m && (!m.hit || s.monCut m)
def State.monitorTimeout (s : State) (k : Nat) : State :=
  match s.monitor? k with
  | some m => if s.canTimeout m then s.endMonitor k m 1 else s
  | none => s
def execMonitorTimeout (mon : Nat) (s : State) : Out := .next (s.monitorTimeout mon)

/-- Monitors that have not ended and for which `f` holds end as evicted. -/
def State.dropMonitors (s : State) (f : Monitor → Bool) : State :=
  s.monitors.foldl (fun s p => if p.2.outcome.isNone && f p.2 then s.endMonitor p.1 p.2 2 else s) s
/-- An eviction by an invalidation (R257): not of a monitor that a write has matched (R259). -/
def State.evictMonitors (s : State) (f : Monitor → Bool) : State := s.dropMonitors fun m => !m.hit && f m

/-! ### Team registers (R260, R261) -/

def tregIdx (f : FmtX) (e : Env) (l : Nat) : Nat := (BitVec.ofNat 32 (f.fld 22 6).toNat + e.src32 0 l).toNat
/-- A register number that is too high stops the instruction before any lane has an effect. -/
def tregCheck (f : FmtX) (e : Env) : Bool := e.lanes.any fun l => e.t.kernel.teamregs ≤ tregIdx f e l
def threadId (e : Env) (l : Nat) : Nat := gkSlot e.gk * 32 + l

def Team.reg (t : Team) (i : Nat) : W32 := SMap.getD t.wregs i 0
/-- Old values that a read at cycle `now` may still see. -/
def freshOld (now : Nat) (old : List OldReg) : List OldReg := old.filter fun o => decide (now < o.time + 4)
/-- A write, with the value it replaced (R261: another thread may see that value for 4 cycles). -/
def State.writeTreg (s : State) (e : Env) (l i : Nat) (v : W32) : State :=
  let now := s.cyclesOf e.ck
  s.modTeam e.tid fun t => { t with
      wregs := SMap.put t.wregs 0 i v
      wold := SMap.set t.wold i ({ val := t.reg i, time := now, writer := threadId e l } :: freshOld now (SMap.getD t.wold i [])) }
/-- A read by a lane: the value in force, or one that a write of the last 4 cycles has replaced, back to the reader's own last write
(R261: a free value). -/
def State.readTreg (s : State) (e : Env) (l i : Nat) : W32 × State :=
  match s.team? e.tid with
  | none => (0, s)
  | some t =>
    let old := (freshOld (s.cyclesOf e.ck) (SMap.getD t.wold i [])).takeWhile fun o => o.writer != threadId e l
    match (t.reg i :: old.map (·.val)).eraseDups with
    | [v] => (v, s)
    | vs => let (k, s) := s.pick vs.length; (vs.getD k (t.reg i), s)

def trdRes (f : FmtX) (e : Env) (s : State) : Res :=
  if tregCheck f e then .stop s {} 0 (.trap 0x24 0)
  else
    let p := seqLanes s e.act fun s l => let (v, s) := s.readTreg e l (tregIdx f e l); (.ok (leBytes 4 v.toNat), s)
    p.res { regs := bytesRegs f.d 1 p.done p.vals } []
def execTrd (g : Guard) (f : FmtX) (s : State) : Out := runWord (.trd g f) noCheck (trdRes f) s

def twrRes (f : FmtX) (e : Env) (s : State) : Res :=
  if tregCheck f e then .stop s {} 0 (.trap 0x24 0)
  else .done (e.lanes.foldl (fun s l => s.writeTreg e l (tregIdx f e l) (e.src32 1 l)) s) {}
def execTwr (g : Guard) (f : FmtX) (s : State) : Out := runWord (.twr g f) noCheck (twrRes f) s

/-- `TATM`: as R227 at width 32; a `.cas` that fails writes nothing. -/
def tatmRes (f : FmtX) (e : Env) (s : State) : Res :=
  if tregCheck f e then .stop s {} 0 (.trap 0x24 0)
  else
    let p := seqLanes s e.act fun s l =>
      let i := tregIdx f e l
      let old := ((s.team? e.tid).map fun t => t.reg i).getD 0
      match atomicInt (f.fld 18 4).toNat 32 old.toNat (e.src32 1 l).toNat (hi32 (e.src 1 l)).toNat with
      | some v => (.ok (leBytes 4 old.toNat), s.writeTreg e l i (BitVec.ofNat 32 v))
      | none => (.ok (leBytes 4 old.toNat), s)
    p.res { regs := bytesRegs f.d 1 p.done p.vals } []
def execTatm (g : Guard) (f : FmtX) (s : State) : Out := runWord (.tatm g f) noCheck (tatmRes f) s

/-! ### Non-preemptible regions (R262, R263) -/

def nprbRes (e : Env) (s : State) : Res :=
  if e.act == 0 then .done s {}
  else if !e.t.kernel.npr then .stop s {} 0 (.trap 0x87 0)
  else if e.g.region.isSome then .stop s {} 0 (.trap 0x86 0)
  else .done (s.modGroup e.gk fun g => { g with region := some 0 }) {}
def execNprb (g : Guard) (f : FmtX) (s : State) : Out := runWord (.nprb g f) noCheck nprbRes s
def execNpre (g : Guard) (f : FmtX) (s : State) : Out :=
  runWord (.npre g f) noCheck (fun e s =>
    .done (if e.act == 0 then s else s.modGroup e.gk fun g => { g with region := none }) {}) s

/-- `NPR OVERRUN` (R263): 8,192 cycles after `NPRB` the region closes and the group traps. -/
def State.nprOverrun (s : State) (d c slot : Nat) : State :=
  let gk := groupKey d c slot
  match s.group? gk with
  | none => s
  | some g =>
    if g.region.any fun n => decide (8192 ≤ n) then (s.setGroup gk { g with region := none }).asyncTrap gk 0x85 else s
def execNprOverrun (d c slot : Nat) (s : State) : Out := .next (s.nprOverrun d c slot)

end Sys2Proof.Machine
end

