-- ==== Sys2Proof/Machine/Tile.lean ====
section
/-! DEFINITION. The matrix unit: canonical records, quarter operations, `MMA`, `MMAS`, the z tile instructions, `TLD` and `TST`
(07_tile R155-R178, 04_group R83, R93, R98). -/

namespace Sys2Proof.Machine

/-! ### Types and records (R155, R156, R160) -/

def typeK (ty : BitVec 3) : Nat := match ty.toNat with | 2 => 64 | 3 => 16 | 4 => 16 | _ => 32
/-- Payload bytes of one row of a tile. -/
def rowBytes (ty : BitVec 3) : Nat := match ty.toNat with | 2 => 4 | 3 => 16 | 4 => 16 | _ => 8
def recordBytes (ty : BitVec 3) : Nat := match ty.toNat with | 2 => 40 | 3 => 128 | 4 => 128 | _ => 72
def pairAllowed (a b : BitVec 3) : Bool :=
  let k8 := fun (t : BitVec 3) => t == 0 || t == 1
  (k8 a && k8 b) || (a == 2 && (b == 2 || k8 b)) || (a == b && (a == 3 || a == 4))

/-- Decode the 8 elements of a row, with what each decoding raises (R162, R163). -/
def decodeRow (ty : BitVec 3) (bs : List Byte) : List (Ex × Fx) :=
  if ty == 2 then (bs.map fun b => let r := decodeQ4 b.toNat; [(r.1.1, r.2), (r.1.2, r.2)]).flatten
  else if ty == 3 || ty == 4 then
    let fmt : Fp := if ty == 3 then .f16 else .bf16
    (List.range 8).map fun k =>
      let x := valOf fmt (leNat ((bs.drop (2 * k)).take 2))
      (x, fxIf x.signalling fxInv)
  else bs.map fun b => decodeFp (if ty == 0 then .k8e4 else .k8e5) b.toNat

def nanEx : Ex := .nan false 0x400000
/-- A row of a scaled tile (02_numbers R31): row `r` under scale word `w`. -/
def scaleRow (row : List (Ex × Fx)) (e : Nat → Int) (w : Word) : List (Ex × Fx) :=
  if scaleE w == 255 then row.map fun _ => (nanEx, 0) else row.zipIdx.map fun p => (p.1.1.shift (e p.2), p.1.2)

/-! ### Quarter operations (R158, 04_group R83) -/

/-- What a quarter operation does: the state, register writes, flags, traps after completion, or why it stops. -/
structure QRes where
  s : State
  regs : List RegWrite := []
  fx : Lanes Fx := noFx
  traps : List (Cause × Word) := []
  why : Option Stop := none
  deriving DecidableEq, Repr

/-- A quarter about to issue: its number, the lanes present, those whose guard holds, and whether a thread of it has
exited. -/
structure Quarter where
  q : Nat
  here : Mask
  act : Mask
  exited : Bool
  deriving DecidableEq, Repr

abbrev QuarterOp := Env → Quarter → State → QRes

def quarterMask (q : Nat) : Mask := 0xFF#32 <<< (8 * q)
def qTrap (s : State) (c : Cause) (info : Nat) : QRes := { s := s, why := some (.trap c (BitVec.ofNat 64 info)) }
def qBlock (s : State) (b : Block) : QRes := { s := s, why := some (.block b) }

/-- Arrivals that wait at this instruction join the issue group, but for that of a step, which is one quarter alone (16_watch R343). -/
def Env.join (e : Env) (gd : Guard) (s : State) : Env × State :=
  let ws := if e.ig.stepFor.isSome then [] else e.waiting e.g .quarter
  if ws.isEmpty then (e, s)
  else
    let ig := ws.foldl (fun (a : IssueGroup) w =>
      { a with mask := a.mask ||| w.mask, done := a.done ||| w.done, raised := Sys2Proof.Machine.lanes fun l => Lanes.at a.raised l ||| Lanes.at w.raised l,
               traps := a.traps ++ w.traps }) e.ig
    let g := { e.g with susp := e.g.susp.filter fun w => !ws.contains w }
    let gm := g.guardMask gd
    ({ e with ig := ig, g := g, act := ig.mask &&& gm &&& ~~~ig.done, guarded := ig.mask &&& gm },
      (s.setGroup e.gk g).setIg e.pk ig)

/-- Rank of the traps that follow a matrix instruction (R166). -/
def mxRank (c : Cause) : Nat := if c == 0x74 then 0 else if c == 0x75 then 1 else c.toNat
/-- The trap taken, with the lowest lane that raised its cause. -/
def mxChoose (ts : List (Cause × Word)) : List (Cause × Word) :=
  match minOn (fun t : Cause × Word => mxRank t.1) ts with
  | none => []
  | some t => match minOn (fun u : Cause × Word => u.2.toNat) (ts.filter fun u => u.1 == t.1) with
    | none => []
    | some u => [u]

/-- What the quarters have done so far: `wait` is the first block of one. -/
structure MxAcc where
  r : QRes
  done : Mask
  wait : Option Block
  deriving DecidableEq, Repr

/-- The block of a stop that is one. -/
def Stop.wait : Stop → Option Block
  | .block b => some b
  | _ => none

/-- One quarter of the issue group: it waits for its 8 threads. A quarter that blocks does not hold the next. -/
def mxQuarter (e : Env) (op : QuarterOp) (a : MxAcc) (q : Nat) : MxAcc :=
  let here := e.ig.mask &&& quarterMask q
  if a.r.why.isSome || here == 0 || here &&& ~~~e.ig.done == 0 then a
  else
    let ex := e.g.live &&& quarterMask q != quarterMask q
    if !ex && here != quarterMask q then { a with wait := a.wait <|> some .quarter }
    else
      let r := op e { q := q, here := here, act := e.act &&& quarterMask q, exited := ex } a.r.s
      let ts := r.traps ++ (a.r.s.formatTrap e.x r.fx).toList
      let wait := r.why.bind Stop.wait
      { r := { s := r.s, regs := a.r.regs ++ r.regs, fx := lanes fun l => Lanes.at a.r.fx l ||| Lanes.at r.fx l,
               traps := a.r.traps ++ ts, why := if wait.isSome then none else r.why },
        done := if r.why.isSome then a.done else a.done ||| quarterMask q, wait := a.wait <|> wait }

/-- The quarters of the issue group that are not done, ascending; the traps that follow wait until every quarter has
completed (R166). The quarters are issued each by itself: the model never fuses them (R159, log entry 87). -/
def mxRes (op : QuarterOp) (long : Option OpClass) (e : Env) (s : State) : Res :=
  let a := [0, 1, 2, 3].foldl (mxQuarter e op) { r := { s := s }, done := 0, wait := none }
  let ig := (a.r.s.ig? e.pk).getD e.ig
  let ts := ig.traps ++ a.r.traps
  let eff : Eff := { regs := a.r.regs, fx := a.r.fx, long := long }
  let keep := a.r.s.setIg e.pk { ig with traps := ts }
  match a.r.why, a.wait with
  | some why, _ => .stop keep eff a.done why
  | none, some b => .stop keep eff a.done (.block b)
  | none, none => .doneWith a.r.s eff (mxChoose ts)

/-- The meaning of an MTX instruction over its quarter operation. -/
def runMtx (i : Instr) (pre : PreCheck) (op : QuarterOp) (long : Option OpClass) (s : State) : Out :=
  match s.env? i with
  | none => .fault .noIssueGroup
  | some e0 => let (e, s) := e0.join i.guard s; .next (s.issueWord i e pre (mxRes op long))

/-! ### Operands of a quarter -/

/-- The lanes in which a quarter reads B: the lowest whose guard holds; and those that hold a 64-bit scale word (R157, R158). -/
def Quarter.low (t : Quarter) : Mask := laneBit (lowLane t.act)
def Quarter.pair (t : Quarter) : Mask := 0x3#32 <<< (8 * t.q)

/-- `0x21` for an unmapped name, a block on an empty one (R164), or poison in a lane in which the operand is read (00_scope R7). -/
def qNames (s : State) (e : Env) (reads : List (Operand × Mask)) (k : QRes) : QRes :=
  if reads.any fun r => e.g.unmappedOp r.1 then qTrap s 0x21 0
  else if reads.any fun r => e.g.emptyOp r.1 then qBlock s .operand
  else if reads.any fun r => s.poisonedReg e.gk r.2 [{ r.1 with src := true }] then qTrap s 0xE0 0
  else k

/-- The z index is within the kernel's tiles (04_group R98). -/
def qTile (s : State) (e : Env) (z : BitVec 3) (k : QRes) : QRes :=
  if e.t.kernel.anvil ≤ z.toNat then qTrap s 0x57 0 else k
def qLive (s : State) (t : Quarter) (k : QRes) : QRes := if t.exited then qTrap s 0x70 (lowLane t.here) else k
/-- A whole-tile operation needs every guard of the quarter or none (R158). -/
def qWhole (s : State) (t : Quarter) (k : QRes) : QRes := if t.act != t.here then qTrap s 0x14 (lowLane t.act) else k

/-- The scratchpad address of the operation: B in the lowest active lane plus 8 x BOFF. -/
def qAddr (e : Env) (f : FmtT) (o : Nat) (t : Quarter) : Nat :=
  (e.src32 o (lowLane t.act) + BitVec.ofNat 32 (8 * f.boff.toNat)).toNat

/-- Checks of a scratchpad operand and its bytes (R164): `0x73`, `0x50`, empty lines. -/
def qScratch (s : State) (e : Env) (t : Quarter) (a n : Nat) (lines tb : Bool) (k : List Byte → QRes) : QRes :=
  match s.team? e.tid with
  | none => { s := s }
  | some tm =>
    if a % 8 != 0 then qTrap s 0x73 (lowLane t.act)
    else if tm.kernel.scratch < a + n then qTrap s 0x50 a
    else if lines && (List.range (n / 128 + 2)).any fun i =>
        decide ((a / 128 + i) * 128 < a + n) && tm.empty.contains (a / 128 + i) then
      (if tb then qTrap s 0x76 (lowLane t.act) else qBlock s .line)
    else match (if lines then s.localPoison (ErrPlace.inScratch e.tid a n) else none) with
      | some c => qTrap s c 0
      | none => k (tm.scratchBytes a n)

/-- Destinations of `ZRD` and `TLD`: an empty one blocks, then the budget and the pool (04_group R87, R88, R91). These checks come before
those of the quarters (log entry 88). -/
def qDests (e : Env) (s : State) (k : Res) : Res :=
  if e.act != 0 && e.ops.any fun o => o.dst && e.g.emptyOp o then .stop s {} 0 (.block .operand)
  else if e.g.overBudget e.ops then .stop s {} 0 (.trap 0x22 0)
  else if s.poolShort e.pk e.g e.ops || (!(e.g.newNames e.ops).isEmpty && s.poolWaits e.gk (e.ig.block == some .pool)) then
    .stop s {} 0 (.block .pool)
  else k
/-- Where no guard of the issue group holds, an allocation beyond the budget is not made and does not trap (R158). -/
def Env.unguarded (e : Env) : Env := if e.guarded == 0 && e.g.overBudget e.ops then { e with ops := [] } else e

/-! ### z tiles -/

def zKey (q z i j : Nat) : Nat := (q * 8 + z) * 64 + 8 * i + j
def Group.zAt (g : Group) (q z i j : Nat) : BitVec 56 := SMap.getD g.z (zKey q z i j) 0
def State.setZ (s : State) (gk q z : Nat) (vals : List (Nat × Nat × BitVec 56)) : State :=
  (s.modGroup gk fun g => { g with z := vals.foldl (fun m p => SMap.put m 0 (zKey q z p.1 p.2.1) p.2.2) g.z }).dropMarks fun m => match m with
    | .anvil d c slot q' z' el => groupKey d c slot == gk && q' == q && z' == z && vals.any fun p => 8 * p.1 + p.2.1 == el
    | _ => false
/-- A poisoned element of the tile in a row whose lane is in `rows` (15_context R329). -/
def State.zPoison (s : State) (e : Env) (q z : Nat) (rows : Mask) : Bool :=
  s.marks.any fun m => match m with
    | .anvil d c slot q' z' el => groupKey d c slot == e.gk && q' == q && z' == z && rows.getLsbD (8 * q + el / 8)
    | _ => false

/-! ### `MMA` and `MMAS` (R161-R168) -/

/-- The checks before any quarter issues (R164); they are no checks of R67, so that they need a guard that holds (R158; log entry 109). -/
def mmaPre (f : FmtT) (scaled : Bool) : PreCheck := fun e _ =>
  if e.guarded == 0 then none
  else if !pairAllowed f.atype f.btype then some 0x72
  else if scaled && (f.atype == 3 || f.atype == 4) then some 0x02
  else if scaled && f.s == 255 then some 0x01 else none

/-- `Prod` (R162). -/
def prod (a b : Ex) : Ex × Fx :=
  if a.isNan || b.isNan then (nanEx, 0)
  else match a.mul b with
    | some x => (x, 0)
    | none => (nanEx, fxInv)

/-- The A bytes of a lane: its 8 registers (R156). -/
def rowOfRegs (vals : List (Lanes W32)) (l : Nat) : List Byte := (vals.map fun v => leBytes 4 (Lanes.at v l).toNat).flatten

/-- The lane-distributed scale word of A tile `k` of a quarter (R157). -/
def aScale (e : Env) (q k : Nat) : Word :=
  let o := if k < 4 then 2 else 3
  let l := 8 * q + 2 * (k % 4)
  pair64 (e.src32 o l) (e.src32 o (l + 1))

/-- One output element (R162): its code, what the products and the sum raise, and the accumulator traps it meets (R165). -/
def mmaElem (old : BitVec 56) (row col : List Ex) (ovt nant : Bool) : BitVec 56 × Fx × List Cause :=
  let o := valOf .a56 old.toNat
  let ps := (row.zip col).map fun p => prod p.1 p.2
  let terms := o :: ps.map (·.1)
  let (code, fx) := exactSum terms
  let fx := ps.foldl (fun f p => f ||| p.2) fx
  let new := valOf .a56 code
  let inf := fun (x : Ex) => x == .inf false || x == .inf true
  (BitVec.ofNat 56 code, fx,
    (if ovt && inf new && !terms.any inf then [0x74] else []) ++ (if nant && new.isNan && !o.isNan then [0x75] else []))

/-- Counters of the matrix unit (R178). The operand bytes of the active rows are compared with those of the partition's previous quarter
operation, what is missing taken as zero (log entry 90). -/
def State.countMx (s : State) (pk : Nat) (a b : List Byte) (latched : Bool) (zeros : Nat) : State :=
  s.modCore (pk / 4) fun c =>
    let (pa, pb) := SMap.getD c.mxPrev pk ([], [])
    let diff := fun (x y : List Byte) => popCount (8 * max x.length y.length) (Nat.xor (leNat x) (leNat y))
    let n := diff pb b + (if latched then 0 else diff pa a)
    { c with
        mxToggle := SMap.set c.mxToggle pk (SMap.getD c.mxToggle pk 0 + BitVec.ofNat 64 n),
        mxZero := SMap.set c.mxZero pk (SMap.getD c.mxZero pk 0 + BitVec.ofNat 64 zeros),
        mxPrev := SMap.set c.mxPrev pk (if latched then pa else a, b) }

/-- The matrix quarter on the B bytes `data` and the A registers `av` (R162). -/
def mmaCompute (f : FmtT) (scaled : Bool) (e : Env) (t : Quarter) (s : State) (av : List (Lanes W32)) (latched : Bool)
    (data : List Byte) : QRes :=
  let nt := typeK f.atype / 8
  let rs := recordBytes f.btype
  let recs := (List.range nt).map fun k => (data.drop (k * rs)).take rs
  let bw := recs.map fun r => wordOfBytes (r.drop (rs - 8))
  let aw := (List.range nt).map (aScale e t.q)
  if scaled && (aw ++ bw).any scaleBad then qTrap s 0x71 (lowLane t.act)
  else
    let brows : List (List (Ex × Fx)) := ((recs.zip bw).map fun p => (List.range 8).map fun r =>
      let row := decodeRow f.btype ((p.1.drop (rowBytes f.btype * r)).take (rowBytes f.btype))
      if scaled then scaleRow row (fun j => scaleExp p.2 r j) p.2 else row).flatten
    let bfx := brows.foldl (fun a r => r.foldl (fun a p => a ||| p.2) a) (0 : Fx)
    let cols : List (List Ex) := (List.range 8).map fun j => brows.map fun r => (r.getD j (.zero, 0)).1
    let scmp := fxIf (scaled && (aw ++ bw).any fun w => scaleE w == 255) fxScmp
    let tr := s.raw (0x180 + e.x)
    let rowOf := fun (l : Nat) => ((List.range nt).map fun k =>
      let row := decodeRow f.atype (((rowOfRegs av l).drop (rowBytes f.atype * k)).take (rowBytes f.atype))
      let w := aw.getD k 0
      if scaled then scaleRow row (fun j => scaleExp w (l % 8) j) w else row).flatten
    let ls := maskLanes t.act
    let out : List (Nat × List (BitVec 56 × Fx × List Cause) × Fx) := ls.map fun l =>
      let row := rowOf l
      (l, cols.zipIdx.map fun c => mmaElem (e.g.zAt t.q f.z.toNat (l % 8) c.2) (row.map (·.1)) c.1 (tr.getLsbD 0) (tr.getLsbD 1),
        row.foldl (fun a p => a ||| p.2) (0 : Fx))
    let fxOf := fun (l : Nat) => match out.find? fun p => p.1 == l with
      | some p => p.2.1.foldl (fun a r => a ||| r.2.1) (p.2.2 ||| bfx ||| scmp)
      | none => 0
    let zerosIn := fun (ty : BitVec 3) (bs : List Byte) => ((decodeRow ty bs).filter fun p => p.1.isZero).length
    let zerosB := ((recs.map fun r => r.take (8 * rowBytes f.btype)).map (zerosIn f.btype)).sum
    let zerosA := (ls.map fun l => ((List.range nt).map fun k =>
      zerosIn f.atype (((rowOfRegs av l).drop (rowBytes f.atype * k)).take (rowBytes f.atype))).sum).sum
    -- the scale words of B are operand bytes of `MMAS` only
    let bbytes := if scaled then data else (recs.map fun r => r.take (8 * rowBytes f.btype)).flatten
    let s := s.setZ e.gk t.q f.z.toNat ((out.map fun p => p.2.1.zipIdx.map fun r => (p.1 % 8, r.2, r.1.1)).flatten)
    let s := s.countMx e.pk ((ls.map (rowOfRegs av)).flatten) bbytes latched (zerosA + zerosB)
    let s := s.modGroup e.gk fun g => { g with
        latch := if f.ru then SMap.set g.latch t.q { a := f.a, vals := av } else SMap.erase g.latch t.q }
    { s := s, fx := lanes fxOf,
      traps := (out.map fun p => ((p.2.1.map fun r => r.2.2).flatten).map fun c => (c, BitVec.ofNat 64 p.1)).flatten }

/-- One quarter of `MMA` or `MMAS` (R164). -/
def mmaQuarter (f : FmtT) (scaled : Bool) : QuarterOp := fun e t s =>
  if t.act == 0 then { s := s } else
  qLive s t <|
  qTile s e f.z <|
  let latch := (SMap.get? e.g.latch t.q).filter fun x => f.ru && x.a == f.a
  let reads := e.ops.zip [t.act, t.low, quarterMask t.q, quarterMask t.q]
  qNames s e (if latch.isSome then reads.drop 1 else reads) <|
  let av := match latch with
    | some x => x.vals
    | none => (List.range 8).map fun k => lanes fun l => lo32 (e.reg 0 k l)
  if s.zPoison e t.q f.z.toNat t.act then qTrap s 0xE0 0 else
  qScratch s e t (qAddr e f 1 t) (typeK f.atype / 8 * recordBytes f.btype) true f.tb
    (mmaCompute f scaled e t s av latch.isSome)

def execMma (g : Guard) (f : FmtT) (s : State) : Out := runMtx (.mma g f) (mmaPre f false) (mmaQuarter f false) none s
def execMmas (g : Guard) (f : FmtT) (s : State) : Out := runMtx (.mmas g f) (mmaPre f true) (mmaQuarter f true) none s

/-! ### `ZCLR`, `ZST`, `ZLD` (R169, R173) -/

def allElems : List (Nat × Nat) := ((List.range 8).map fun i => (List.range 8).map fun j => (i, j)).flatten

def zclrQuarter (f : FmtT) : QuarterOp := fun e t s =>
  if t.act == 0 then { s := s } else
  qLive s t <|
  qTile s e f.z <| qWhole s t { s := s.setZ e.gk t.q f.z.toNat (allElems.map fun p => (p.1, p.2, 0)) }
def execZclr (g : Guard) (f : FmtT) (s : State) : Out := runMtx (.zclr g f) noCheck (zclrQuarter f) none s

def zstQuarter (f : FmtT) : QuarterOp := fun e t s =>
  if t.act == 0 then { s := s } else
  qLive s t <|
  qTile s e f.z <| qWhole s t <| qNames s e (e.ops.zip [t.low]) <|
  if s.zPoison e t.q f.z.toNat t.act then qTrap s 0xE0 0 else
  let a := qAddr e f 0 t
  qScratch s e t a 512 false false fun _ =>
    { s := s.writeScratch e.tid a ((allElems.map fun p => leBytes 8 (e.g.zAt t.q f.z.toNat p.1 p.2).toNat).flatten) }
def execZst (g : Guard) (f : FmtT) (s : State) : Out := runMtx (.zst g f) noCheck (zstQuarter f) none s

def zldQuarter (f : FmtT) : QuarterOp := fun e t s =>
  if t.act == 0 then { s := s } else
  qLive s t <|
  qTile s e f.z <| qWhole s t <| qNames s e (e.ops.zip [t.low]) <|
  qScratch s e t (qAddr e f 0 t) 512 true f.tb fun bs =>
    { s := s.setZ e.gk t.q f.z.toNat (allElems.map fun p =>
        (p.1, p.2, BitVec.ofNat 56 (leNat ((bs.drop (64 * p.1 + 8 * p.2)).take 8)))) }
def execZld (g : Guard) (f : FmtT) (s : State) : Out := runMtx (.zld g f) noCheck (zldQuarter f) none s

/-! ### `ZRD` (R170-R172) -/

/-- `ChooseScale` (R172). -/
def chooseScale (e5 : Bool) (m : Nat → Nat → Ex) : Word :=
  let le := fun (a b : Ex) => !b.lt false a
  let lim := fun (k : Int) => Ex.fin false (if e5 then 57344 else 448) k
  let all := allElems.map fun p => (m p.1 p.2).abs
  if all.any Ex.isNan then 0xFF
  else if all.all Ex.isZero then 0x7F
  else
    let ex : Nat := ((List.range 255).find? fun (k : Nat) => all.all fun x => le x (lim ((k : Int) - 127))).getD 254
    let base : Int := (ex : Int) - 127
    let pick := fun (ok : Nat → Bool) => ([3, 2, 1].find? ok).getD 0
    let re := fun i => pick fun r => (List.range 8).all fun j => le (m i j).abs (lim (base - r))
    let ce := fun j => pick fun c => (List.range 8).all fun i => le (m i j).abs (lim (base - re i - c))
    BitVec.ofNat 64 (ex + ((List.range 8).map fun i => re i <<< (8 + 2 * i)).sum + ((List.range 8).map fun j => ce j <<< (24 + 2 * j)).sum)

def zrdFmt (f : FmtT) : BitVec 3 := f.boff.extractLsb' 0 3
def zrdK8 (f : FmtT) : Bool := zrdFmt f == 2 || zrdFmt f == 3
/-- `0x77` (R170). -/
def zrdPre (f : FmtT) : PreCheck := fun e _ =>
  let sc := f.boff.getLsbD 5
  let sat := f.boff.getLsbD 6
  if e.guarded != 0 && (3 < (zrdFmt f).toNat || (!zrdK8 f && (sc || f.s != 255)) || (zrdK8 f && (sat || f.s == 255))) then some 0x77 else none

/-- One element (R171). -/
def zrdElem (f : FmtT) (w : Word) (x : Ex) (i j : Nat) : Nat × Fx :=
  let mode := rmode (f.boff.extractLsb' 3 2)
  let d := zrdFmt f
  if d == 0 then roundFlush .f32 mode (f.boff.getLsbD 6) x
  else if d == 1 then roundFlush .f16 mode (f.boff.getLsbD 6) x
  else if scaleE w == 255 || x.isNan then (0x7F, 0)
  else roundEx (if d == 2 then .k8e4 else .k8e5) mode false (x.shift (-(scaleExp w i j)))

def zrdQuarter (f : FmtT) : QuarterOp := fun e t s =>
  if t.act == 0 then { s := s } else
  qLive s t <|
  qTile s e f.z <| qNames s e ((e.ops.filter (·.src)).map fun o => (o, t.pair)) <|
  let sc := f.boff.getLsbD 5
  if s.zPoison e t.q f.z.toNat (if sc then quarterMask t.q else t.act) then qTrap s 0xE0 0 else
  let val := fun i j => valOf .a56 (e.g.zAt t.q f.z.toNat i j).toNat
  let w : Word := if sc then chooseScale (zrdFmt f == 3) val
    else if zrdK8 f then pair64 (e.src32 0 (8 * t.q)) (e.src32 0 (8 * t.q + 1)) else 0
  if !sc && zrdK8 f && scaleBad w then qTrap s 0x71 (lowLane t.act)
  else
    let width := if zrdFmt f == 0 then 32 else if zrdFmt f == 1 then 16 else 8
    let rows : Lanes (Nat × Fx) := lanes fun l =>
      if t.act.getLsbD l then
        (List.range 8).foldl (fun (acc : Nat × Fx) j =>
          let r := zrdElem f w (val (l % 8) j) (l % 8) j
          (acc.1 + (r.1 <<< (width * j)), acc.2 ||| r.2)) (0, 0)
      else (0, 0)
    let n := width / 4
    { s := s,
      regs := ((List.range n).map fun k =>
          write32 (f.a + BitVec.ofNat 8 k) t.act fun l => BitVec.ofNat 32 ((Lanes.at rows l).1 >>> (32 * k)))
        ++ (if sc then [write32 f.s t.act fun l => if l % 2 == 0 then lo32 w else hi32 w] else []),
      fx := lanes fun l => (Lanes.at rows l).2 }
def execZrd (g : Guard) (f : FmtT) (s : State) : Out :=
  match s.env? (.zrd g f) with
  | none => .fault .noIssueGroup
  | some e0 =>
    let (e, s) := e0.join g s
    .next (s.issueWord (.zrd g f) e.unguarded (zrdPre f) fun e s => qDests e s (mxRes (zrdQuarter f) (some .mx) e s))

/-! ### `TLD` (R174, R175) -/

/-- The transpose of a record (02_numbers R32). -/
def transposeRecord (ty : BitVec 3) (r : List Byte) : List Byte :=
  if ty == 2 then
    let nib := fun (k : Nat) => bitsOf (r.getD (k / 2) 0).toNat (4 * (k % 2)) 4
    let at_ := fun (m : Nat) => nib (8 * (m % 8) + m / 8)
    ((List.range 32).map fun m => BitVec.ofNat 8 (at_ (2 * m) + 16 * at_ (2 * m + 1))) ++ bytesOfWord (scaleT (wordOfBytes (r.drop 32)))
  else if ty == 3 || ty == 4 then
    (allElems.map fun p => (r.drop ((8 * p.2 + p.1) * 2)).take 2).flatten
  else
    (allElems.map fun p => r.getD (8 * p.2 + p.1) 0) ++ bytesOfWord (scaleT (wordOfBytes (r.drop 64)))

/-- The registers that a quarter receives from its records, record by record (R174): the payload, then the scale lanes. -/
def tldFill (f : FmtT) (t : Quarter) (s : State) (data : List Byte) : QRes :=
  let nt := typeK f.atype / 8
  let rs := recordBytes f.atype
  let rb := rowBytes f.atype
  let recs := (List.range nt).map fun k =>
    let r := (data.drop (k * rs)).take rs
    if f.ka then transposeRecord f.atype r else r
  let n := rb / 4
  let payload := fun (p : List Byte × Nat) => if regKind f.a == .zero then []
    else bytesRegs (f.a + BitVec.ofNat 8 (n * p.2)) n t.act (lanes fun l => (p.1.drop (rb * (l % 8))).take rb)
  let scale := fun (p : List Byte × Nat) =>
    if f.s == 255 || f.atype == 3 || f.atype == 4 then []
    else [write32 (f.s + BitVec.ofNat 8 (p.2 / 4)) (maskOf fun l => t.act.getLsbD l && l % 8 / 2 == p.2 % 4) fun l =>
      BitVec.ofNat 32 (leNat ((p.1.drop (rs - 8 + 4 * (l % 2))).take 4))]
  { s := s, regs := (recs.zipIdx.map fun p => payload p ++ scale p).flatten }

/-- Berm bytes across windows. -/
def bermBytes (t : Team) (a n : Nat) : List Byte :=
  (List.range n).map fun k => match t.windows[(a + k) / 262144]? with
    | some w => SMap.getD w.data ((a + k) % 262144) 0
    | none => 0

/-- One quarter of `TLD` (R175). Over a run of records the berm's checks are made on its first byte, then on its last (log entry 89). -/
def tldQuarter (f : FmtT) : QuarterOp := fun e t s =>
  if t.act == 0 then { s := s } else
  qLive s t <|
  qNames s e ((e.ops.take 1).zip [t.low]) <|
  let n := typeK f.atype / 8 * recordBytes f.atype
  if f.btype == 0 then qScratch s e t (qAddr e f 0 t) n true f.tb (tldFill f t s)
  else if f.btype == 1 then
    let a := qAddr e f 0 t
    match bermCheck e.t a 1, bermCheck e.t (a + n - 1) 1 with
    | .error c, _ => qTrap s c a
    | _, .error c => qTrap s c a
    | _, _ =>
      if a % 8 != 0 then qTrap s 0x73 (lowLane t.act)
      else match s.localPoison (fun m => ErrPlace.inBerm e.tid (a / 262144) (a % 262144) n m) with
        | some c => qTrap s c 0
        | none => tldFill f t s (bermBytes e.t a n)
  else
    let l := lowLane t.act
    let a := (e.src 0 l + BitVec.ofNat 64 (8 * f.boff.toNat)).toNat
    if a % 8 != 0 then qTrap s 0x40 a
    else
      let hits := s.addrHits e 0 (if beyond52 a then 0 else laneBit l) fun _ => (a, n)
      if actionLanes hits != 0 then { s := s, why := some (.halt hits) }
      else match (s.recordHits e hits).lanePages e a n 0 with
        | (.error (.fault c k lvl va), s) => { s := s, why := some (.fault c k lvl va l) }
        | (.error (.trap c i), s) => { s := s, why := some (.trap c i) }
        | (.error (.block b), s) => qBlock s b
        | (.error (.ok _), s) => { s := s }
        | (.ok segs, s) => match s.memRead e.ck segs false 0 with
          | (_, some c, s) => qTrap s c a
          | (bs, none, s) => tldFill f t s bs
def execTld (g : Guard) (f : FmtT) (s : State) : Out :=
  match s.env? (.tld g f) with
  | none => .fault .noIssueGroup
  | some e0 =>
    let (e, s) := e0.join g s
    .next (s.issueWord (.tld g f) e.unguarded noCheck fun e s => qDests e s (mxRes (tldQuarter f) (some .ld) e s))

/-! ### `TST` (R176, R177) -/

def tstQuarter (f : FmtT) : QuarterOp := fun e t s =>
  if t.act == 0 then { s := s } else
  qNames s e (e.ops.zip [t.act, t.low, t.pair]) <|
  let l := lowLane t.act
  let a := (e.src 1 l + BitVec.ofNat 64 (8 * f.boff.toNat)).toNat
  let n := recordBytes f.atype
  let w : Word := if f.s == 255 then 0x7F else pair64 (e.src32 2 (8 * t.q)) (e.src32 2 (8 * t.q + 1))
  if a % 8 != 0 then qTrap s 0x40 a
  else if a / 128 != (a + n - 1) / 128 then qTrap s 0x42 a
  else if scaleBad w then qTrap s 0x71 l
  else
    let hits := s.addrHits e 1 (if beyond52 a then 0 else laneBit l) fun _ => (a, n)
    if actionLanes hits != 0 then { s := s, why := some (.halt hits) }
    else match (s.recordHits e hits).lanePages e a n 1 with
      | (.error (.fault c k lvl va), s) => { s := s, why := some (.fault c k lvl va l) }
      | (.error (.trap c i), s) => { s := s, why := some (.trap c i) }
      | (.error (.block b), s) => qBlock s b
      | (.error (.ok _), s) => { s := s }
      | (.ok segs, s) =>
        match segs.head? with
        | none => { s := s }
        | some g =>
          if isHost g.p.pa then qTrap s 0x44 a
          else qWhole s t <| qLive s t <|
            let reg := fun (i k : Nat) =>
              -- a k8 row is read as one 64-bit value
              if f.atype == 2 then leBytes 4 (e.src32 0 (8 * t.q + i)).toNat
              else leBytes 4 ((e.src 0 (8 * t.q + i)) >>> (32 * k)).toNat
            let row := fun (i : Nat) => if f.atype == 2 then reg i 0 else reg i 0 ++ reg i 1
            let bytes := ((List.range 8).map row).flatten ++ bytesOfWord w
            { s := (s.dropLine e.ck g.p.pa).writeHome g.p.pa bytes }
def execTst (g : Guard) (f : FmtT) (s : State) : Out := runMtx (.tst g f) noCheck (tstQuarter f) none s

end Sys2Proof.Machine
end

