-- ==== Sys2Proof/Machine/Copy.lean ====
section
/-! DEFINITION. The copy engine: layout and metadata records, the four copy forms, their checks and acceptance, the movement of
their data, completion, the event queue instructions, and `FESET` and `FEQRY` (10_copy R229-R243). -/

namespace Sys2Proof.Machine

/-! ### Layout and metadata records (R229, R230, R233) -/

/-- Bits of a stored element of SFMT. -/
def storedBits (sfmt : Nat) : Nat := match sfmt with | 2 => 4 | 3 => 16 | 4 => 16 | 5 => 32 | _ => 8
/-- Element size in bytes, as BASE and the strides are aligned; a q4o tensor counts whole bytes. -/
def elemSize (sfmt : Nat) : Nat := max 1 (storedBits sfmt / 8)
def Layout.ety (l : Layout) : BitVec 3 := BitVec.ofNat 3 l.etype

/-- Copy forms: 0 `CPY`, 1 `CPYO`, 2 `CPYS`, 3 `CPYG`. The layouts of each form (R231). -/
def formAllows (form : Nat) (sparse : Bool) (spack : Nat) : Bool :=
  match form with
  | 0 => !sparse
  | 1 => !sparse && spack != 2
  | 2 => sparse && spack != 2
  | _ => !sparse && spack != 1

/-- The pairs of SFMT and ETYPE with their SPACK values (R233). -/
def pairAllows (form sfmt etype spack : Nat) : Bool :=
  if sfmt == etype then spack == 0 || (spack == 1 && etype < 3)
  else if sfmt != 5 then false
  else if form == 1 then spack == 0
  else spack == 0 && (etype == 3 || etype == 4) || (etype < 2 && spack != 1)

/-- The layout record in its eight words, with META; none where a field is outside its limits (`0xA0`). -/
def parseLayout (form : Nat) (w : List Word) : Option (Layout × Word) :=
  let q := fun (k : Nat) => w.getD k 0
  let c := q 2
  let ndim := fld c 16 3
  let sfmt := fld c 19 3
  let etype := fld c 22 3
  let sparse := bitOf c.toNat 25
  let spack := fld c 26 2
  let ext := [fld (q 1) 0 16, fld (q 1) 16 16, fld (q 1) 32 16, fld (q 1) 48 16, fld c 0 16]
  let strides := [(q 3).toNat, (q 4).toNat, (q 5).toNat, (q 6).toNat]
  let sz := elemSize sfmt
  let box := fun (v : Nat) => 1 ≤ v && v ≤ 64
  let dims := (List.range 5).all fun d =>
    if d < ndim then ext.getD d 0 != 0 else ext.getD d 0 == 0 && (d == 0 || strides.getD (d - 1) 0 == 0)
  let ok := decide ((q 0).toNat < 1 <<< 52) && (q 0).toNat % sz == 0 && decide (1 ≤ ndim) && decide (ndim ≤ 5) && dims
    && decide (sfmt ≤ 5) && decide (etype ≤ 4) && spack != 3 && box (fld c 32 8) && box (fld c 40 8) && fld c 48 16 == 0
    && strides.all (fun v => decide (v < 1 <<< 48) && v % sz == 0)
    && formAllows form sparse spack && pairAllows form sfmt etype spack
    && (!sparse || sfmt == 0 || sfmt == 1 || sfmt == 3 || sfmt == 4)
    && ((q 7) == 0 || spack != 0 || sparse)
  if ok then
    some ({ base := q 0, ext := ext, ndim := ndim, sfmt := sfmt, etype := etype, sparse := sparse, spack := spack,
            tr := bitOf c.toNat 28, rnd := fld c 29 2, dord := bitOf c.toNat 31, box0 := fld c 32 8, box1 := fld c 40 8,
            strides := strides, scales := 0, srow := 0, splane := 0, maskOff := 0, slot := 0 }, q 7)
  else none

/-- The metadata record in its eight words (R230): `0xA0` for a reserved bit or a value outside its limits, `0xA2` for MASK. -/
def parseMeta (l : Layout) (w : List Word) : Except Cause Layout :=
  let q := fun (k : Nat) => w.getD k 0
  let slot := fld (q 3) 32 16
  if fld (q 0) 0 3 != 0 || fld (q 1) 0 3 != 0 || fld (q 1) 48 16 != 0 || fld (q 2) 0 3 != 0 || fld (q 2) 48 16 != 0
      || fld (q 3) 48 16 != 0 || [4, 5, 6, 7].any (fun k => q k != 0) || (l.sparse && (slot == 0 || 128 < slot)) then .error 0xA0
  else if fld (q 3) 0 7 != 0 then .error 0xA2
  else .ok { l with
    scales := q 0, srow := fld (q 1) 0 48, splane := fld (q 2) 0 48, maskOff := fld (q 3) 0 32, slot := slot }

/-! ### Where the elements lie (R229, R230, R234) -/

/-- Extent and coordinate of a dimension; one beyond NDIM has a single index. -/
def Layout.extent (l : Layout) (d : Nat) : Nat := if d < l.ndim then l.ext.getD d 0 else 1
/-- The sum over the dimensions from 2. -/
def Layout.plane (l : Layout) (coords : List Nat) : Nat :=
  ([2, 3, 4].map fun d => coords.getD d 0 * l.strides.getD (d - 1) 0).sum
/-- Byte address of the element (e0, e1). -/
def Layout.addr (l : Layout) (coords : List Nat) (e0 e1 : Nat) : Nat :=
  (l.base.toNat + e0 * storedBits l.sfmt / 8 + e1 * l.strides.getD 0 0 + l.plane coords) % (1 <<< 64)
/-- Address of the slot of a sparse tile. -/
def Layout.slotAddr (l : Layout) (coords : List Nat) (t1 t0 : Nat) : Nat :=
  (l.base.toNat + t1 * l.strides.getD 0 0 + t0 * l.slot + l.plane coords) % (1 <<< 64)
/-- Address of the scale word of a stored tile. -/
def Layout.scaleAddr (l : Layout) (coords : List Nat) (t1 t0 : Nat) : Nat :=
  let p := coords.getD 2 0 + l.extent 2 * (coords.getD 3 0 + l.extent 3 * coords.getD 4 0)
  (l.scales.toNat + t1 * l.srow + 8 * t0 + p * l.splane) % (1 <<< 64)
def Layout.tiles (l : Layout) : Nat := l.box0 * l.box1
def Layout.recBytes (l : Layout) : Nat := recordBytes l.ety
/-- Box tile (i, j) of record n (R234). -/
def Layout.tileOf (l : Layout) (n : Nat) : Nat × Nat := if l.dord then (n % l.box1, n / l.box1) else (n / l.box0, n % l.box0)

/-- The parts of a copy that say where its elements lie. -/
structure CopyMap where
  form : Nat
  lay : Layout
  coords : List Nat
  index : List Nat
  masks : List Byte
  deriving DecidableEq, Repr

def Copy.map (c : Copy) : CopyMap := { form := c.form, lay := c.lay, coords := c.coords, index := c.index, masks := c.masks }

/-- Index of dimension 1 of row r of box row i; none beyond the extents. -/
def CopyMap.row (m : CopyMap) (i r : Nat) : Option Nat :=
  let e1 := if m.form == 3 then m.index.getD (8 * i + r) 0 else m.coords.getD 1 0 + 8 * i + r
  if e1 < m.lay.extent 1 then some e1 else none
/-- First element and number of elements within the extents of a row of box column j. -/
def CopyMap.cols (m : CopyMap) (j : Nat) : Nat × Nat :=
  let e0 := m.coords.getD 0 0 + 8 * j
  (e0, min 8 (m.lay.extent 0 - e0))
/-- Tile (t1, t0) of the stored tensor of a box tile, and whether it lies within the extents. -/
def CopyMap.tile (m : CopyMap) (i j : Nat) : Nat × Nat := (m.coords.getD 1 0 / 8 + i, m.coords.getD 0 0 / 8 + j)
def CopyMap.inside (m : CopyMap) (i j : Nat) : Bool :=
  let (t1, t0) := m.tile i j
  decide (8 * t0 < m.lay.extent 0) && (m.form == 3 || decide (8 * t1 < m.lay.extent 1))
/-- The mask of record n. -/
def CopyMap.mask (m : CopyMap) (n : Nat) : Nat := leNat ((m.masks.drop (8 * n)).take 8)
/-- Bytes of the values of a sparse slot that are read: the k-th value where k x size < SLOT. -/
def CopyMap.slotBytes (m : CopyMap) (n : Nat) : Nat :=
  let sz := elemSize m.lay.sfmt
  sz * min (popCount 64 (m.mask n)) (ceilDiv m.lay.slot sz)

/-- An access of the copy's data or scale words: address and bytes. -/
def CopyMap.accesses (m : CopyMap) : List (Nat × Nat) :=
  let l := m.lay
  let tiles := (List.range l.tiles).map fun n => (n, l.tileOf n)
  let data :=
    if l.sparse then
      tiles.filterMap fun (n, i, j) =>
        if m.inside i j && m.slotBytes n != 0 then some (l.slotAddr m.coords (m.tile i j).1 (m.tile i j).2, m.slotBytes n) else none
    else
      ((List.range (8 * l.box1)).filterMap fun k =>
        (m.row (k / 8) (k % 8)).bind fun e1 =>
          let c0 := m.coords.getD 0 0
          let n := min (8 * l.box0) (l.extent 0 - c0)
          if n == 0 then none else some (l.addr m.coords c0 e1, ceilDiv (n * storedBits l.sfmt) 8))
  let scales := if l.spack == 1 then
      tiles.filterMap fun (_, i, j) => if m.inside i j then some (l.scaleAddr m.coords (m.tile i j).1 (m.tile i j).2, 8) else none
    else []
  data ++ scales

/-! ### Checks (R232) -/

/-- What a copy instruction, or the LAE, asks for. -/
structure CopyReq where
  form : Nat
  layAddr : Nat
  off : Nat
  coords : List Nat
  idxOff : Nat
  cw : Option Nat
  tag : Byte
  ev : Bool
  gk : Nat
  lane : Nat
  deriving DecidableEq, Repr

/-- Copies accepted and not complete. -/
def State.copiesOn (s : State) (ck : Nat) : Nat := (s.copies.filter fun p => p.2.core == ck).length
def linesOf (off n : Nat) : List Nat := if n == 0 then [] else (List.range ((off + n - 1) / 128 - off / 128 + 1)).map (· + off / 128)
/-- Destination lines that belong to a copy of the team (R236), and source lines of its `CPYO`s. -/
def State.ownedLines (s : State) (tid : Nat) : List Nat :=
  ((s.copies.filter fun p => p.2.team == tid && p.2.form != 1).map fun p => linesOf p.2.off p.2.bytes).flatten
def State.sourceLines (s : State) (tid : Nat) : List Nat :=
  ((s.copies.filter fun p => p.2.team == tid && p.2.form == 1).map fun p => linesOf p.2.off p.2.bytes).flatten

/-- How the checks of one copy end. -/
inductive CopyEnd where
  | ok (c : Copy) (kinds : List (Nat × Nat × Nat))     -- with its accesses: address, bytes, kind
  | stop (why : Stop)
  deriving DecidableEq, Repr

def laneStop (l : Nat) : LaneEnd → Stop
  | .ok _ => .trap 0 0
  | .trap c i => .trap c i
  | .fault c k lvl va => .fault c (k + 4) lvl va l
  | .block b => .block b

/-- Read a 64-byte record as 8 plain loads of 8 bytes (R229). -/
def State.recordWords (s : State) (ck x a l : Nat) : Except Stop (List Word) × State :=
  match s.pagesAt ck x a 64 0 with
  | (.error r, s) => (.error (laneStop l r), s)
  | (.ok segs, s) =>
    match s.memRead ck segs false 0 with
    | (_, some c, s) => (.error (.trap c 0), s)
    | (bs, none, s) => (.ok ((List.range 8).map fun k => wordOfBytes ((bs.drop (8 * k)).take 8)), s)

/-- The scratchpad ranges that must be full before check 5, and are read there. -/
def CopyMap.reads (m : CopyMap) (rq : CopyReq) : List (Nat × Nat) :=
  (if m.lay.sparse then [(m.lay.maskOff, 8 * m.lay.tiles)] else [])
    ++ (if m.form == 3 then [(rq.idxOff, 32 * m.lay.box1)] else [])
    ++ (if m.form == 1 then [(rq.off, m.lay.tiles * m.lay.recBytes)] else [])

/-- Check 4. -/
def CopyMap.badCoords (m : CopyMap) : Bool :=
  let l := m.lay
  let c := fun d => m.coords.getD d 0
  decide (l.extent 0 ≤ c 0) || (m.form != 3 && decide (l.extent 1 ≤ c 1))
    || [2, 3, 4].any (fun d => decide (d < l.ndim) && decide (l.extent d ≤ c d))
    || ((l.sparse || l.spack != 0) && (c 0 % 8 != 0 || c 1 % 8 != 0)) || (l.sfmt == 2 && c 0 % 2 != 0)

/-- Check 5. -/
def CopyMap.badRange (m : CopyMap) (t : Team) (rq : CopyReq) : Option (Cause × Nat) :=
  let sc := t.kernel.scratch
  if sc < rq.off + m.lay.tiles * m.lay.recBytes then some (0x50, rq.off)
  else if rq.off % 8 != 0 then some (0x51, rq.off)
  else if m.lay.sparse && sc < m.lay.maskOff + 8 * m.lay.tiles then some (0x50, m.lay.maskOff)
  else if m.form == 3 && sc < rq.idxOff + 32 * m.lay.box1 then some (0x50, rq.idxOff)
  else if m.form == 3 && rq.idxOff % 4 != 0 then some (0x51, rq.idxOff)
  else none

/-- Translations by 4 KiB unit of virtual address. -/
abbrev PageMap := List (Nat × TlbEntry)
def segPages (a : Nat) (segs : List Seg) : PageMap :=
  (segs.foldl (fun (acc : Nat × PageMap) g => (acc.1 + g.len, acc.2 ++ [(acc.1 / 4096, g.p.src)])) (a, [])).2

/-- Check 8 for one access of any length. -/
def State.copyPages (s : State) (ck x l : Nat) (kind : Nat) : Nat → Nat → Nat → Except Stop PageMap × State
  | 0, _, _ => (.ok [], s)
  | _ + 1, _, 0 => (.ok [], s)
  | fuel + 1, a, n =>
    if beyond52 a then (.error (.trap 0x43 (BitVec.ofNat 64 a)), s)
    else
      let len := min n (4096 - a % 4096)
      match s.translateRange ck x a len kind with
      | (.fault c lvl va, s) => (.error (.fault c (kind + 4) lvl va l), s)
      | (.wait, s) => (.error (.block .culvert), s)
      | (.ok segs, s) =>
        match copyPages s ck x l kind fuel (a + len) (n - len) with
        | (.error e, s) => (.error e, s)
        | (.ok ps, s) => (.ok (segPages a segs ++ ps), s)

def State.copyAllPages (s : State) (ck x l : Nat) : List (Nat × Nat × Nat) → Except Stop PageMap × State
  | [] => (.ok [], s)
  | (a, n, kind) :: r =>
    match s.copyPages ck x l kind (n / 4096 + 2) a n with
    | (.error e, s) => (.error e, s)
    | (.ok ps, s) =>
      match copyAllPages s ck x l r with
      | (.error e, s) => (.error e, s)
      | (.ok qs, s) => (.ok (ps ++ qs), s)

/-- Checks 4 to 7 and the reads of the scratchpad, of a copy whose records have been read. `taken` are the destination lines of
the copies of this instruction checked before. -/
def copyBody (s : State) (ck tid : Nat) (t : Team) (rq : CopyReq) (lay : Layout) (taken : List Nat) : CopyEnd :=
  let m : CopyMap := { form := rq.form, lay := lay, coords := rq.coords, index := [], masks := [] }
  let bytes := lay.tiles * lay.recBytes
  if m.badCoords then .stop (.trap 0xA1 0)
  else if (m.reads rq).any fun r => (linesOf r.1 r.2).any t.empty.contains then .stop (.block .line)
  else match m.badRange t rq with
    | some (c, a) => .stop (.trap c (BitVec.ofNat 64 a))
    | none =>
      let poison := (m.reads rq).findSome? fun r =>
        if rq.form == 1 then none else s.localPoison (ErrPlace.inScratch tid r.1 r.2)
      let index := if rq.form == 3 then (List.range (8 * lay.box1)).map fun k => leNat (t.scratchBytes (rq.idxOff + 4 * k) 4) else []
      if poison.isSome then .stop (.trap (poison.getD 0) 0)
      else if index.any fun v => decide (lay.extent 1 ≤ v) then .stop (.trap 0xA7 0)
      else
        let lines := linesOf rq.off bytes
        let owned := s.ownedLines tid ++ s.sourceLines tid ++ taken
        if rq.form != 1 && lines.any owned.contains then .stop (.trap 0xA5 0)
        else
          let bad := (List.range (bytes / 8)).filter fun k =>
            rq.form == 1 && (s.localPoison (ErrPlace.inScratch tid (rq.off + 8 * k) 8)).isSome
          let c : Copy :=
            { core := ck, team := tid, gk := rq.gk, lane := rq.lane, form := rq.form, off := rq.off, bytes := bytes, lay := lay,
              coords := rq.coords, index := index, masks := if lay.sparse then t.scratchBytes lay.maskOff (8 * lay.tiles) else [],
              source := if rq.form == 1 then t.scratchBytes rq.off bytes else [], srcBad := bad.map (8 * ·), pages := [], formed := [],
              tag := rq.tag, ev := rq.ev, cw := none, ctx := s.teamCtx t, nodeId := (s.teamNodeId t).setWidth 32,
              left := if rq.form == 1 then List.range lay.tiles else lines, fx := 0, status := 0, stage := .accepted,
              tile := 0 }
          let kind := if rq.form == 1 then 1 else 0
          .ok c (c.map.accesses.map fun a => (a.1, a.2, kind))

/-- The layout and metadata records of a copy: checks 2 and 3, and what `regs` says once NDIM is known. `watch` counts the
address predicates that match the read of a record, and says whether one stops it (16_watch R332, R334). -/
def copyLayout (s : State) (ck x : Nat) (rq : CopyReq) (regs : Nat → Option Stop) (watch : State → Nat → Option Stop × State) :
    Except Stop Layout × State :=
  let record := fun (s : State) (a : Nat) => match watch s a with
    | (some why, s) => ((.error why, s) : Except Stop (List Word) × State)
    | (none, s) => s.recordWords ck x a rq.lane
  if rq.layAddr % 64 != 0 then (.error (.trap 0xA0 0), s)
  else match record s rq.layAddr with
    | (.error e, s) => (.error e, s)
    | (.ok w, s) =>
      match regs (fld (w.getD 2 0) 16 3) with
      | some why => (.error why, s)
      | none =>
        match parseLayout rq.form w with
        | none => (.error (.trap 0xA0 0), s)
        | some (lay, mt) =>
          if lay.spack == 0 && !lay.sparse then (.ok lay, s)
          else if mt.toNat % 64 != 0 then (.error (.trap 0xA2 0), s)
          else match record s mt.toNat with
            | (.error e, s) => (.error e, s)
            | (.ok w, s) => match parseMeta lay w with
              | .error c => (.error (.trap c 0), s)
              | .ok lay => (.ok lay, s)

/-- Check 8, and the physical address of the completion word. -/
def copyTranslate (s : State) (x : Nat) (c : Copy) (rq : CopyReq) (acc : List (Nat × Nat × Nat)) : CopyEnd × State :=
  match s.copyAllPages c.core x rq.lane acc with
  | (.error e, s) => (.stop e, s)
  | (.ok ps, s) =>
    let c := { c with pages := ps.eraseDups }
    match rq.cw with
    | none => (.ok c [], s)
    | some a =>
      if a % 4 != 0 then (.stop (.trap 0x40 (BitVec.ofNat 64 a)), s)
      else match s.copyPages c.core x rq.lane 3 2 a 4 with
        | (.error e, s) => (.stop e, s)
        | (.ok ps, s) => (.ok { c with cw := ps.head?.map fun p => (p.2.phys a).pa, pages := (c.pages ++ ps).eraseDups } [], s)

/-- A copy is accepted: its destination lines are set empty (R236). -/
def State.acceptCopy (s : State) (c : Copy) : State :=
  let (k, s) := s.fresh
  let s := s.setCopy k c
  if c.form == 1 then s
  else s.modTeam c.team fun t => { t with empty := sortOn id ((t.empty ++ linesOf c.off c.bytes).eraseDups) }

/-! ### The instructions (R231, R232) -/

/-- The registers of the B group that a copy of `ndim` dimensions reads. -/
def copyRegs (f : FmtX) (form ndim : Nat) : List Nat :=
  List.range (min ndim 5) ++ (if form == 3 then [5] else []) ++ (if f.bit 18 then [6, 7] else [])
def copyOps (f : FmtX) (ks : List Nat) : List Operand := ks.map fun k => srcG 1 (f.b + BitVec.ofNat 8 k) (f.bit 13) (f.bit 12)

/-- What a lane asks for, before NDIM is known. -/
def copyReq (f : FmtX) (form : Nat) (e : Env) (l : Nat) : CopyReq :=
  let r := fun (k : Nat) => (Lanes.at (e.g.readV ((f.b + BitVec.ofNat 8 k).toNat)) l)
  { form := form, layAddr := (e.src 1 l).toNat, off := (e.src32 0 l).toNat, coords := (List.range 5).map fun d => (r d).toNat,
    idxOff := (r 5).toNat, cw := if f.bit 18 then some (pair64 (r 6) (r 7)).toNat else none, tag := f.fld 20 8, ev := f.bit 19,
    gk := e.gk, lane := l }

/-- The copies checked so far: those to accept, the registers read, why the instruction stops. -/
structure CopyAcc where
  s : State
  copies : List Copy
  names : List Nat
  why : Option Stop
  deriving DecidableEq, Repr

/-- The checks of one lane's copy, in the order of R232. -/
def copyLane (f : FmtX) (form : Nat) (e : Env) (a : CopyAcc) (l : Nat) : CopyAcc :=
  if a.why.isSome then a
  else
    let rq := copyReq f form e l
    let regs := fun (ndim : Nat) => match e.g.srcCheck (copyOps f (copyRegs f form ndim)) with
      | some (.ok c) => some (Stop.trap c 0)
      | some (.error b) => some (.block b)
      | none => if a.s.poisonedReg e.gk (laneBit l) (copyOps f (copyRegs f form ndim)) then some (.trap 0xE0 0) else none
    let watch := fun (s : State) (va : Nat) =>
      let hits := s.addrHits e 0 (if beyond52 va then 0 else laneBit l) fun _ => (va, 64)
      if actionLanes hits != 0 then (some (Stop.halt hits), s) else (none, s.recordHits e hits)
    -- what is read whatever NDIM is, then the record, then the coordinates that it has
    match (match regs 1 with | some why => (Except.error why, a.s) | none => copyLayout a.s e.ck e.x rq regs watch) with
    | (.error why, s) => { a with s := s, why := some why }
    | (.ok lay, s) =>
      let rq := { rq with coords := rq.coords.zipIdx.map fun p => if p.2 < lay.ndim then p.1 else 0 }
      match copyBody s e.ck e.tid e.t rq lay ((a.copies.map fun c => linesOf c.off c.bytes).flatten) with
      | .stop why => { a with s := s, why := some why }
      | .ok c acc =>
        match copyTranslate s e.x c rq acc with
        | (.stop why, s) => { a with s := s, why := some why }
        | (.ok c _, s) =>
          { a with s := s, copies := a.copies ++ [c], names := (a.names ++ copyRegs f form lay.ndim).eraseDups }

def copyRes (f : FmtX) (form : Nat) (e : Env) (s : State) : Res :=
  if e.act == 0 then .done s {}
  else if 32 < s.copiesOn e.ck + popMask e.act then .stop s {} 0 (.block .copies)
  else match s.operandCheck e with
    | some why => .stop s {} 0 why
    | none =>
      let a := e.lanes.foldl (copyLane f form e) { s := s, copies := [], names := [], why := none }
      match a.why with
      | some why => .stop a.s {} 0 why
      | none =>
        let freed := freedNames (copyOps f a.names)
        let s := (a.s.modGroup e.gk fun g => g.unmap freed).unmarkRegs e.gk freed []
        .done (a.copies.foldl State.acceptCopy s) {}

def execCpy (g : Guard) (f : FmtX) (s : State) : Out := runWord (.cpy g f) noCheck (copyRes f 0) s
def execCpyo (g : Guard) (f : FmtX) (s : State) : Out := runWord (.cpyo g f) noCheck (copyRes f 1) s
def execCpys (g : Guard) (f : FmtX) (s : State) : Out := runWord (.cpys g f) noCheck (copyRes f 2) s
def execCpyg (g : Guard) (f : FmtX) (s : State) : Out := runWord (.cpyg g f) noCheck (copyRes f 3) s

/-! ### Movement (R233-R237) -/

/-- What the movement of some bytes gives: status bits as R238 places them. -/
structure Moved where
  s : State
  status : BitVec 8
  fx : Fx
  deriving DecidableEq, Repr

/-- Bytes with a mask: the bits of those that are poisoned are 1 in it, and go where their bytes go (R237). -/
abbrev Masked := List Byte × List Byte

/-- The culvert carries nothing of a copy's data unless it is up (R237). -/
def Copy.cut (c : Copy) (s : State) (pa : Nat) : Bool := crosses (c.core / 96) pa && s.culvert.state != .up

/-- Read `n` bytes of a copy's data at `va`. -/
def Copy.readBytes (c : Copy) (m : Moved) (va n : Nat) : Masked × Moved :=
  let first := min n (4096 - va % 4096)
  let part := fun (m : Moved) (va n : Nat) =>
    match (if n == 0 then none else c.pages.find? fun p => p.1 == va / 4096) with
    | none => ((([], []) : Masked), m)
    | some (_, t) =>
      let p := t.phys va
      if c.cut m.s p.pa then ((List.replicate n 0, List.replicate n 0), { m with status := m.status ||| 4 })
      else
        let (b, bad, s) := m.s.readCached c.core p n
        let units := if bad.isSome then s.badUnits c.core p.pa n else []
        ((b, (List.range n).map fun k => if units.contains ((p.pa + k) / 8 * 8) then 0xFF else 0),
          { m with s := s, status := if bad.isSome then m.status ||| 1 else m.status })
  let (a, m) := part m va first
  let (b, m) := part m (va + first) (n - first)
  ((a.1 ++ b.1, a.2 ++ b.2), m)

/-- Bytes that the engine stores: to the other die at once, past the copies of the core, so that none waits in the column cache for the
culvert. -/
def Copy.storeAt (c : Copy) (s : State) (p : Phys) (bs : List Byte) : State :=
  if crosses (c.core / 96) p.pa then
    ((lineParts p.pa bs.length).foldl (fun (s : State) q => s.dropLine c.core q.1) s).writeEvents p.pa bs
  else s.writeCached c.core p bs

/-- Write bytes of a copy's destination at `va`; the units of those that are poisoned are poisoned. -/
def Copy.writeBytes (c : Copy) (m : Moved) (va : Nat) (bs mask : List Byte) : Moved :=
  let first := min bs.length (4096 - va % 4096)
  let part := fun (m : Moved) (va : Nat) (bs mask : List Byte) =>
    match (if bs.isEmpty then none else c.pages.find? fun p => p.1 == va / 4096) with
    | none => m
    | some (_, t) =>
      let p := t.phys va
      if c.cut m.s p.pa then { m with status := m.status ||| 4 }
      else
        let s := c.storeAt m.s p bs
        let bad := (mask.zipIdx.filterMap fun b => if b.1 == 0 then none else some ((p.pa + b.2) / 8 * 8)).eraseDups
        if bad.isEmpty then { m with s := s } else { m with s := s.poisonStored c.core bad, status := m.status ||| 1 }
  part (part m va (bs.take first) (mask.take first)) (va + first) (bs.drop first) (mask.drop first)

/-- Codes of `bits` bits of stored bytes, and their bytes. -/
def codesOf (bits n : Nat) (bs : List Byte) : List Nat := (List.range n).map fun k => bitsOf (leNat bs) (bits * k) bits
def bytesOfCodes (bits : Nat) (cs : List Nat) : List Byte :=
  leBytes (ceilDiv (bits * cs.length) 8) (cs.zipIdx.foldl (fun v p => v + ((p.1 % (1 <<< bits)) <<< (bits * p.2))) 0)

/-- A row, or all 64 codes, of zeros. -/
def zeroCodes : List Nat := List.replicate 8 0
/-- The 8 x 8 codes of record `n` as stored, and the mask of the poisoned ones. -/
def Copy.readTile (c : Copy) (m : Moved) (n : Nat) : (List (List Nat) × List (List Nat)) × Moved :=
  let mp := c.map
  let l := c.lay
  let bits := storedBits l.sfmt
  let (i, j) := l.tileOf n
  let none_ := List.replicate 8 zeroCodes
  if l.sparse then
    if !mp.inside i j then ((none_, none_), m)
    else
      let mask := mp.mask n
      let (bs, m) := c.readBytes m (l.slotAddr c.coords (mp.tile i j).1 (mp.tile i j).2) (mp.slotBytes n)
      let elem := fun (bs : List Byte) (k : Nat) =>
        if bitOf mask k then
          let rank := popCount 64 (mask % (1 <<< k))
          if rank * elemSize l.sfmt < l.slot then bitsOf (leNat bs) (bits * rank) bits else 0
        else 0
      let codes := fun (bs : List Byte) => (List.range 8).map fun r => (List.range 8).map fun q => elem bs (8 * r + q)
      let tooFew := decide (ceilDiv l.slot (elemSize l.sfmt) < popCount 64 mask)
      ((codes bs.1, codes bs.2), if tooFew then { m with status := m.status ||| 2 } else m)
  else
    let (e0, cnt) := mp.cols j
    (List.range 8).foldl (fun (acc : (List (List Nat) × List (List Nat)) × Moved) r =>
      let none_ := ((acc.1.1 ++ [zeroCodes], acc.1.2 ++ [zeroCodes]), acc.2)
      match mp.row i r with
      | none => none_
      | some e1 =>
        if cnt == 0 then none_
        else
          let (bs, m) := c.readBytes acc.2 (l.addr c.coords e0 e1) (ceilDiv (cnt * bits) 8)
          let row := fun (bs : List Byte) => codesOf bits cnt bs ++ List.replicate (8 - cnt) 0
          ((acc.1.1 ++ [row bs.1], acc.1.2 ++ [row bs.2]), m)) (([], []), m)

/-- The scale word of record `n` under SPACK none or scale array, and its mask. -/
def Copy.readScale (c : Copy) (m : Moved) (n : Nat) : (Word × Word) × Moved :=
  let (i, j) := c.lay.tileOf n
  if c.lay.spack == 1 && c.map.inside i j then
    let t := c.map.tile i j
    let (bs, m) := c.readBytes m (c.lay.scaleAddr c.coords t.1 t.2) 8
    ((wordOfBytes bs.1, wordOfBytes bs.2), m)
  else ((0x7F, 0), m)

def etypeFp (etype : Nat) : Fp := match etype with | 0 => .k8e4 | 1 => .k8e5 | 3 => .f16 | _ => .bf16

/-- All bits of a code, where it is poisoned. -/
def maskCode (bits : Nat) (bad : Bool) : Nat := if bad then (1 <<< bits) - 1 else 0

/-- The record `n` of an in-copy (R233, R234). A code is poisoned by the stored element that it comes from, and under a chosen scale by any
element of its tile. -/
def Copy.inRecord (c : Copy) (m : Moved) (n : Nat) : Masked × Moved :=
  let l := c.lay
  let ((codes, cmask), m) := c.readTile m n
  let ((w, wmask), m) := c.readScale m n
  let ebits := if l.sfmt == 5 then 8 * rowBytes l.ety / 8 else storedBits l.sfmt
  let val := fun (r q : Nat) => valOf .f32 ((codes.getD r []).getD q 0)
  let w := if l.spack == 2 then chooseScale (l.etype == 1) val else w
  let tile := l.spack == 2 && cmask.any fun r => r.any (· != 0)
  let wmask : Word := if tile then 0xFFFFFFFFFFFFFFFF else wmask
  let conv : List (List (Nat × Fx)) := codes.zipIdx.map fun row => row.1.zipIdx.map fun x =>
    if l.sfmt != 5 then (x.1, 0)
    else if l.spack == 2 then
      -- of a tile that holds a NaN every code is 0x7F, and a signalling NaN raises invalid (02_numbers R40)
      if scaleE w == 255 then (0x7F, if (val row.2 x.2).isNan then (roundEx (etypeFp l.etype) .rn false (val row.2 x.2)).2 else 0)
      else roundEx (etypeFp l.etype) (rmode (BitVec.ofNat 2 l.rnd)) false ((val row.2 x.2).shift (-(scaleExp w row.2 x.2)))
    else roundEx (etypeFp l.etype) (rmode (BitVec.ofNat 2 l.rnd)) false (val row.2 x.2)
  let fx := conv.foldl (fun a r => r.foldl (fun a p => a ||| p.2) a) (0 : Fx)
  let record := fun (rows : List (List Nat)) (w : Word) =>
    let r := (rows.map (bytesOfCodes ebits)).flatten ++ (if l.etype < 3 then bytesOfWord w else [])
    if l.tr then transposeRecord l.ety r else r
  ((record (conv.map fun r => r.map (·.1)) w, record (cmask.map fun r => r.map fun x => maskCode ebits (tile || x != 0)) wmask),
    { m with fx := m.fx ||| fx })

/-- Record `n` of an in-copy, formed once (R234): its bytes, with their mask. -/
def Copy.formRecord (c : Copy) (m : Moved) (n : Nat) : Masked × Moved × Copy :=
  match SMap.get? c.formed n with
  | some r => (r, m, c)
  | none =>
    let (bs, m) := c.inRecord m n
    (bs, m, { c with formed := SMap.set c.formed n bs })

/-- One line of an in-copy is written (R236): the bytes of the records that lie in it. -/
def Copy.fillLine (c : Copy) (s : State) (line : Nat) : Moved × Copy :=
  let rs := c.lay.recBytes
  let hit := (List.range c.lay.tiles).filter fun n =>
    decide (c.off + n * rs < line * 128 + 128) && decide (line * 128 < c.off + n * rs + rs)
  hit.foldl (fun (acc : Moved × Copy) n =>
    let (bs, m, c) := acc.2.formRecord acc.1 n
    let a := c.off + n * rs
    let lo := max a (line * 128)
    let hi := min (a + rs) (line * 128 + 128)
    let part := fun (l : List Byte) => (l.drop (lo - a)).take (hi - lo)
    let s := m.s.writeScratch c.team lo (part bs.1)
    let bad := ((part bs.2).zipIdx.filterMap fun b => if b.1 == 0 then none else some ((lo + b.2) / 8 * 8)).eraseDups
    let s := if bad.isEmpty then s else { s with moved := bad.map (ErrPlace.scratch c.team) ++ s.moved }
    ({ m with s := s }, c)) ({ s := s, status := c.status, fx := c.fx }, c)

/-- Values of a record row: decoded, scaled where the record has a scale word (02_numbers R31). -/
def rowValues (ty : BitVec 3) (w : Word) (r : Nat) (bs : List Byte) : List (Ex × Fx) :=
  let row := decodeRow ty bs
  if ty == 3 || ty == 4 then row else scaleRow row (fun j => scaleExp w r j) w

/-- The mask of a `CPYO`'s source bytes: those of the units that were poisoned when it was issued. -/
def Copy.sourceMask (c : Copy) (o n : Nat) : List Byte := (List.range n).map fun k => if c.srcBad.contains ((o + k) / 8 * 8) then 0xFF else 0

/-- Record `n` of a `CPYO` is stored. -/
def Copy.outRecord (c : Copy) (s : State) (n : Nat) : Moved :=
  let l := c.lay
  let rs := l.recBytes
  let rb := rowBytes l.ety
  let turn := fun (r : List Byte) => if l.tr then transposeRecord l.ety r else r
  let r := turn ((c.source.drop (n * rs)).take rs)
  let rmask := turn (c.sourceMask (n * rs) rs)
  let w := wordOfBytes (r.drop (rs - 8))
  let wmask := rmask.drop (rs - 8)
  let (i, j) := l.tileOf n
  let (e0, cnt) := c.map.cols j
  let bits := storedBits l.sfmt
  let m := (List.range 8).foldl (fun (m : Moved) k =>
    match c.map.row i k with
    | none => m
    | some e1 =>
      if cnt == 0 then m
      else
        let row := (r.drop (rb * k)).take rb
        let rowMask := codesOf rb 8 ((rmask.drop (rb * k)).take rb)
        let a := l.addr c.coords e0 e1
        let cs : List (Nat × Fx) :=
          if l.sfmt == 5 then ((rowValues l.ety w k row).take cnt).map fun x =>
            let y := roundFlush .f32 (rmode (BitVec.ofNat 2 l.rnd)) false x.1
            (y.1, y.2 ||| x.2)
          else ((codesOf bits 8 row).take cnt).map fun x => (x, 0)
        let scaled := l.sfmt == 5 && l.ety != 3 && l.ety != 4 && wmask.any (· != 0)
        let mask := (rowMask.take cnt).map fun x => maskCode bits (scaled || x != 0)
        let codes := cs.map (·.1)
        -- the last nibble of a byte that the tensor shares with an element beyond its extent stays
        let (codes, mask, m) := if bits == 4 && cnt % 2 == 1 then
            let (b, m) := c.readBytes m (a + cnt / 2) 1
            (codes ++ [bitsOf (leNat b.1) 4 4], mask ++ [bitsOf (leNat b.2) 4 4], m)
          else (codes, mask, m)
        c.writeBytes { m with fx := cs.foldl (fun f p => f ||| p.2) m.fx } a (bytesOfCodes bits codes) (bytesOfCodes bits mask))
    ({ s := s, status := c.status, fx := c.fx } : Moved)
  if l.spack == 1 && c.map.inside i j then
    let t := c.map.tile i j
    c.writeBytes m (l.scaleAddr c.coords t.1 t.2) (bytesOfWord w) wmask
  else m

/-- `COPY LINE FILL` (R236, R237): the last byte of destination line `line` is written and the line set full; of a `CPYO`, record
`line` is stored. -/
def State.copyLineFill (s : State) (k line : Nat) : State :=
  match s.copy? k with
  | none => s
  | some c =>
    if !(c.stage == .accepted || c.stage == .moving) || !c.left.contains line || 3 < c.form then s
    else
      let (m, c) := if c.form == 1 then (c.outRecord s line, c) else c.fillLine s line
      let s := if c.form == 1 then m.s else m.s.modTeam c.team fun t => { t with empty := t.empty.filter (· != line) }
      s.setCopy k { c with left := c.left.filter (· != line), stage := .moving, fx := m.fx, status := m.status }

/-- A copy is complete: its exceptions go to `FX_CTX` (R235), its lines are its own no longer. -/
def State.copyComplete (s : State) (k : Nat) (c : Copy) : State :=
  { (s.orFxCtx c.ctx c.fx) with copies := SMap.erase s.copies k }

/-- `COPY LANDED` (R237, R238): the copy's writes have performed at device scope; the completion word is added first. -/
def State.copyLanded (s : State) (k : Nat) : State :=
  match s.copy? k with
  | none => s
  | some c =>
    if c.stage != .moving || !c.left.isEmpty then s
    else if c.cw.any fun a => (crosses (c.core / 96) a && !s.culvertOpen) || s.cleanWaits c.core then s
    else
      -- the engine's writes perform at device scope; the add is a release at device scope of all that is dirty (09_memory R213, R216)
      let s := if c.form == 1 then s.cleanColumn c.core fun a => c.pages.any fun p => leafFrame p.2.leaf ≤ a / 4096
          && a / 4096 < leafFrame p.2.leaf + 1 <<< leafK p.2.leaf else s
      let s := match c.cw with
        | none => s
        | some a =>
          let s := (s.release c.core 5).dropLine c.core a
          s.writeHome a (leBytes 4 (leNat (s.bytes a 4) + 1))
      if c.ev then s.setCopy k { c with stage := .posting } else s.copyComplete k c
def execCopyLanded (copy : Nat) (s : State) : Out := .next (s.copyLanded copy)

/-- The completion record (R238). -/
def Copy.record (c : Copy) : EvRec :=
  (BitVec.ofNat 64 ((if c.status == 0 then 1 else 2) + (c.tag.toNat <<< 8) + ((c.ctx % 64) <<< 16) + ((c.core / 96) <<< 22)
      + ((c.core % 96) <<< 23) + ((c.form % 4) <<< 30) + (c.fx.toNat <<< 32) + (c.status.toNat <<< 40)),
    BitVec.ofNat 64 (c.nodeId.toNat + ((c.off / 128 % 65536) <<< 32) + ((linesOf c.off c.bytes).length <<< 48)))

def State.queueFull (s : State) (cl : Nat) : Bool := decide (256 ≤ (s.cluster cl).events.length)
def State.pushEvent (s : State) (cl : Nat) (r : EvRec) : State := s.modCluster cl fun c => { c with events := c.events ++ [r] }

/-- A record of the device's own waits while the queue is full (R239). -/
def State.postEngine (s : State) (cl : Nat) (r : EvRec) : State :=
  if s.queueFull cl then s.modCluster cl fun c => { c with evWait := c.evWait ++ [r] } else s.pushEvent cl r

/-- `COPY POST` (R239): the record enters the event queue when there is room. -/
def State.copyPost (s : State) (k : Nat) : State :=
  match s.copy? k with
  | none => s
  | some c =>
    if c.stage != .posting || s.queueFull (clusterOf c.core) then s
    else (s.pushEvent (clusterOf c.core) c.record).copyComplete k c
def execCopyPost (copy : Nat) (s : State) : Out := .next (s.copyPost copy)

/-! ### The event queue instructions (R241, R242) -/

/-- Marks of the records of a cluster's queue after its oldest has gone (15_context R329). -/
def State.shiftScc (s : State) (cl : Nat) : State :=
  if s.marks.isEmpty then s
  else { s with
      marks := s.marks.filterMap fun e => match e with
        | .scc d c i => if d * 8 + c == cl then (if i == 0 then none else some (.scc d c (i - 1))) else some e
        | e => some e }
def State.headPoisoned (s : State) (cl : Nat) : Bool := s.marks.any fun e => match e with
  | .scc d c i => d * 8 + c == cl && i == 0
  | _ => false

/-- One lane of `EVPOP`: the record's 16 bytes, or none. -/
def popLane (s : State) (cl : Nat) : LaneEnd × State :=
  match (s.cluster cl).events with
  | [] => (.ok [], s)
  | r :: rest =>
    if s.headPoisoned cl then (.trap 0xE2 0, s)
    else (.ok (bytesOfWord r.1 ++ bytesOfWord r.2), (s.modCluster cl fun c => { c with events := rest ++ c.evWait.take 1, evWait := c.evWait.drop 1 }).shiftScc cl)

/-- `EVPOP` (R241). A record popped is an acquire at device scope. -/
def evpopRes (f : FmtX) (e : Env) (s : State) : Res :=
  if !(s.cluster (clusterOf e.ck)).events.isEmpty && s.mustClean e true 5 then .stop s {} 0 (.block .clean) else
  let p := seqLanes s e.act fun s _ => popLane s (clusterOf e.ck)
  let got := maskOf fun l => p.done.getLsbD l && !(Lanes.at p.vals l).isEmpty
  let p := { p with s := if got == 0 then p.s else p.s.acquire e.ck 5 }
  p.res { regs := bytesRegs f.d 4 p.done p.vals, preds := [{ p := f.fld 25 3, mask := p.done, vals := got }] } []
def execEvpop (g : Guard) (f : FmtX) (s : State) : Out := runWord (.evpop g f) noCheck (evpopRes f) s

/-- The record that a lane pushes: its CTX, DIE and CORE put in (R242). -/
def pushRecord (e : Env) (l : Nat) : EvRec :=
  let w := fun (k : Nat) => pair64 (lo32 (e.reg 0 k l)) (lo32 (e.reg 0 (k + 1) l))
  (setBits (setBits (setBits (w 0) 16 6 e.x) 22 1 e.d) 23 7 (e.ck % 96), w 2)

/-- `EVPUSH` (R242): each push is a release at device scope. -/
def evpushRes (f : FmtX) (e : Env) (s : State) : Res :=
  if e.lanes.any fun l => fld (pushRecord e l).1 0 8 < 0x10 then .stop s {} 0 (.trap 0x01 0)
  else
    if s.mustClean e true 5 then .stop s {} 0 (.block .clean) else
    let s := if e.act == 0 then s else s.release e.ck 5
    let cl := clusterOf e.ck
    (seqLanes s e.act fun s l =>
      if s.queueFull cl then (if f.bit 27 then .block .events else .trap 0xA6 0, s)
      else (.ok [], s.pushEvent cl (pushRecord e l))).res {} []
def execEvpush (g : Guard) (f : FmtX) (s : State) : Out := runWord (.evpush g f) noCheck (evpushRes f) s

/-! ### Lines handed by hand (R243) -/

/-- The lines that a lane names: first line and count, after the checks of R243. -/
def lineArgs (e : Env) (f : FmtX) (dflt l : Nat) : Except LaneEnd (Nat × Nat) :=
  let a := (e.src32 0 l).toNat
  let n := if f.b == 255 then dflt else (e.src32 1 l).toNat
  if a % 128 != 0 then .error (.trap 0x51 (BitVec.ofNat 64 a))
  else if n != 0 && e.t.kernel.scratch < a + 128 * n then .error (.trap 0x55 (BitVec.ofNat 64 a))
  else .ok (a / 128, n)

def State.setLines (s : State) (tid first n : Nat) (full : Bool) : State :=
  let named := fun (k : Nat) => decide (first ≤ k) && decide (k < first + n)
  s.modTeam tid fun t => { t with
      empty := if full then t.empty.filter fun k => !named k
        else sortOn id ((t.empty.filter fun k => !named k) ++ (List.range n).map (· + first)) }

/-- `FESET`. -/
def fesetRes (f : FmtX) (full : Bool) (e : Env) (s : State) : Res :=
  (seqLanes s e.act fun s l =>
    match lineArgs e f 1 l with
    | .error r => (r, s)
    | .ok (first, n) =>
      if (s.ownedLines e.tid).any fun k => decide (first ≤ k) && decide (k < first + n) then (.trap 0xA5 0, s)
      else (.ok [], s.setLines e.tid first n full)).res {} []
def execFesetFull (g : Guard) (f : FmtX) (s : State) : Out := runWord (.fesetFull g f) noCheck (fesetRes f true) s
def execFesetEmpty (g : Guard) (f : FmtX) (s : State) : Out := runWord (.fesetEmpty g f) noCheck (fesetRes f false) s

/-- `FEQRY`. Its checks are made in the order 0x51, 0x01, 0x55 (log entry 117). -/
def feqryRes (f : FmtX) (e : Env) (s : State) : Res :=
  let p := seqLanes s e.act fun s l =>
    let n := if f.b == 255 then 32 else (e.src32 1 l).toNat
    let a := (e.src32 0 l).toNat
    if a % 128 == 0 && decide (32 < n) then (.trap 0x01 0, s)
    else match lineArgs e f 32 l with
      | .error r => (r, s)
      | .ok (first, n) =>
        (.ok (leBytes 4 (((List.range n).map fun i => if e.t.empty.contains (first + i) then 0 else 1 <<< i).sum)), s)
  p.res { regs := bytesRegs f.d 1 p.done p.vals } []
def execFeqry (g : Guard) (f : FmtX) (s : State) : Out := runWord (.feqry g f) noCheck (feqryRes f) s

end Sys2Proof.Machine
end

