-- ==== Sys2Proof/Machine/Place.lean ====
section
/-! DEFINITION. Teams, groups and nodes as they are placed and admitted (04_group R78, R101, 13_queue R277). -/

namespace Sys2Proof.Machine

/-- A kernel with no role, before its header is read (12_kernel R264). -/
def Kernel.blank (image : Word) : Kernel :=
  { image := image, size := 0, codeSize := 0, constOff := 0, constSize := 0, entry := 0, handler := none, loopnest := none,
    team := 1, npr := false, heat := 0, barriers := 0, teamregs := 0, anvil := 0, berm := 0, scratch := 0, roles := [] }

/-- A team of a node at the coordinates of its index (13_queue R277). -/
def Team.place (node index x y z d c base : Nat) (k : Kernel) : Team :=
  { node := node, x := x, y := y, z := z, index := index, die := d, core := c, base := base, stage := .placed, kernel := k,
    code := [], const := [], scratchBase := 0, scratch := [], empty := [], bars := [], barStop := none, wregs := [],
    wold := [], windows := [], lae := none, stamps := [], ticks := 0, admitTime := 0, admitSeq := 0, phases := 0,
    saveReq := none, saveHalt := false, saveFault := false, migrateTo := none, slotUsed := none, swapMons := [],
    pendFlt := [], kept := [], stopped := false, ending := none, limited := false, limitSeq := none }

/-- A group at admission (04_group R77, R85, R94; 11_barrier R260): every thread at the entry header. -/
def Group.fresh (team gidx role budget : Nat) (hdr : Word) : Group :=
  { team := team, gidx := gidx, role := role, threads := Vector.replicate 32 (Thread.init hdr), v := [], s := [], fx := 0,
    budget := budget, z := [], latch := [], frames := [], entering := [], hostTrap := none, pending := [], susp := [],
    ops := [], opSeq := 0, queues := [], region := none, halts := [], parked := false, first := none, yielded := false, passed := 0, ran := false,
    issued := 0, readyCycles := 0 }

/-- A node before its descriptor's operands are read (13_queue R276). -/
def Node.blank (ctx : Nat) (k : Kernel) : Node :=
  { kind := .plain, ctx := ctx, image := k.image, kernel := k, id := 0, prio := 0, level := 0, dieSel := 0, die := 0,
    evr := false, gridx := 1, gridy := 1, gridz := 1, succ := 0, nsucc := 0, recPa := 0, done := 0, tlimit := 0, depth := 0, ops := [],
    stage := .running, since := 0, order := 0, untaken := [], live := 1 }

end Sys2Proof.Machine
end

