-- ==== Sys2Proof/Machine/Kernel.lean ====
section
/-! DEFINITION. Kernel images and loop-nest records (12_kernel R264, R265, R267), the Loop and Address Engine (R268-R270),
`QPOP`, `QREL`, `GROW`, `SHRINK` (R271-R273) and the allocation deadlock (04_group R89). -/

namespace Sys2Proof.Machine

/-! ### Fields of a record -/

/-- `n` little-endian bytes of a record at byte `at_`. -/
def leAt (bs : List Byte) (at_ n : Nat) : Nat := leNat ((bs.drop at_).take n)
/-- The same as a signed value. -/
def leInt (bs : List Byte) (at_ n : Nat) : Int := signedOf (leAt bs at_ n) (8 * n)

/-! ### The loop-nest record (R267) -/

/-- Stream record at byte `o`; none where it is malformed. -/
def parseStream (team : Nat) (bs : List Byte) (o : Nat) : Option Stream :=
  let ctl := leAt bs (o + 8) 2
  let kind := bitsOf ctl 0 2
  let copy := kind == 1
  let nbuf := leAt bs (o + 10) 2
  let ok := (kind == 1 || kind == 2) && bitsOf ctl 14 2 == 0 && decide (bitsOf ctl 5 4 < team)
    && (if copy then bitsOf ctl 9 5 == 0 && decide (1 ≤ nbuf) && decide (nbuf ≤ 16) && leAt bs (o + 16) 4 % 128 == 0
        else nbuf == 0 && leAt bs (o + 40) 12 == 0)
    && leAt bs (o + 60) 4 == 0
  if !ok then none
  else some
    { copy := copy, addr := BitVec.ofNat 64 (leAt bs o 8), queue := bitsOf ctl 2 3, gidx := bitsOf ctl 5 4, sh := bitsOf ctl 9 5,
      nbuf := nbuf, dbase := leAt bs (o + 12) 4, dstride := leAt bs (o + 16) 4, c0 := leInt bs (o + 20) 4,
      c1 := leInt bs (o + 24) 4, k0 := (List.range 6).map fun k => leInt bs (o + 28 + 2 * k) 2,
      k1 := (List.range 6).map fun k => leInt bs (o + 40 + 2 * k) 2, tx0 := leInt bs (o + 52) 2, ty0 := leInt bs (o + 54) 2,
      tx1 := leInt bs (o + 56) 2, ty1 := leInt bs (o + 58) 2 }

/-- Two streams name one queue of one group. -/
def sameTarget : List Stream → Bool
  | [] => false
  | a :: r => r.any (fun b => a.queue == b.queue && a.gidx == b.gidx) || sameTarget r

/-- A loop-nest record in the constant bank's bytes at offset `o`: its trip counts and streams. -/
def parseNest (team : Nat) (bank : List Byte) (o : Nat) : Option (List Nat × List Stream) :=
  let bs := bank.drop o
  let trips := (List.range 6).map fun l => leAt bs (4 * l) 4
  let nloop := leAt bs 24 1
  let ns := leAt bs 25 1
  let ok := decide (o + 64 ≤ bank.length) && decide (1 ≤ nloop) && decide (nloop ≤ 6) && decide (1 ≤ ns) && decide (ns ≤ 4)
    && decide (o + 64 + 64 * ns ≤ bank.length) && leAt bs 26 38 == 0
    && trips.zipIdx.all fun p => if p.2 < nloop then decide (1 ≤ p.1) && decide (p.1 ≤ 1 <<< 24) else p.1 == 0
  if !ok then none
  else
    match (List.range ns).mapM fun k => parseStream team bs (64 + 64 * k) with
    | none => none
    | some ss => if sameTarget ss then none else some (trips.take nloop, ss)

/-! ### The image header (R264, R265) -/

/-- The kernel of a header; none where a field lies outside its limits. -/
def parseHeader (image : Word) (h : List Byte) : Option Kernel :=
  let w := fun (k : Nat) => leAt h (8 * k) 8
  let size := bitsOf (w 1) 0 32
  let code := bitsOf (w 1) 32 32
  let coff := bitsOf (w 2) 0 32
  let csize := bitsOf (w 2) 32 32
  let entry := bitsOf (w 3) 0 32
  let hnd := bitsOf (w 3) 32 32
  let nest := bitsOf (w 4) 0 32
  let x := w 5
  let team := bitsOf x 0 5
  let nrole := bitsOf x 8 3
  let heat := bitsOf x 12 2
  let berm := bitsOf x 40 3
  let scratch := bitsOf (w 6) 0 32
  let roles := (List.range 4).map fun r => (bitsOf (w (8 + r)) 0 5, bitsOf (w (8 + r)) 8 8)
  let inCode := fun (o : Nat) => o % 8 == 0 && decide (256 ≤ o) && decide (o < 256 + code)
  let ok := w 0 == 0x4B4E3947 + (1 <<< 32)
    && size % 8 == 0 && decide (256 ≤ size) && code % 8 == 0 && decide (16 ≤ code)
    && coff % 64 == 0 && decide (256 + code ≤ coff) && decide (csize ≤ 65536) && decide (coff + csize ≤ size)
    && inCode entry && (hnd == 0xFFFFFFFF || inCode hnd) && bitsOf (w 4) 32 32 == 0
    && Nat.land x 0xFFFFF8F080E0C0E0 == 0 && bitsOf (w 6) 32 32 == 0 && w 7 == 0 && leAt h 96 160 == 0
    && decide (1 ≤ team) && decide (team ≤ 16) && decide (1 ≤ nrole) && decide (nrole ≤ 4) && decide (bitsOf x 16 5 ≤ 16)
    && decide (bitsOf x 24 7 ≤ 64) && decide (bitsOf x 32 4 ≤ 8) && decide (berm ≤ 4) && (berm == 0 || heat == 3)
    && scratch % 128 == 0 && decide (scratch ≤ 524288)
    && (List.range 4).all (fun r => Nat.land (w (8 + r)) 0xFFFFFFFFFFFE00E0 == 0)
    && roles.zipIdx.all (fun p => if p.2 < nrole then decide (1 ≤ p.1.1) && decide (p.1.1 ≤ 16) && decide (1 ≤ p.1.2) && decide (p.1.2 ≤ 192)
        else p.1 == (0, 0))
    && ((roles.take nrole).map (·.1)).sum == team
    && (nest == 0xFFFFFFFF || (nest % 64 == 0 && decide (nest + 64 ≤ csize)))
  if !ok then none
  else some
    { image := image, size := size, codeSize := code, constOff := coff, constSize := csize, entry := entry,
      handler := if hnd == 0xFFFFFFFF then none else some hnd, loopnest := if nest == 0xFFFFFFFF then none else some nest,
      team := team, npr := bitOf x 11, heat := heat, barriers := bitsOf x 16 5, teamregs := bitsOf x 24 7,
      anvil := bitsOf x 32 4, berm := berm, scratch := scratch, roles := roles.take nrole }

/-- The pages of a virtual range are present and allow the kind. -/
def State.pagesAllow (s : State) (d x va n kind : Nat) : Bool :=
  decide (va + n ≤ 0x10000000000000) && (List.range ((va % 4096 + n + 4095) / 4096)).all fun k =>
    match (s.walkVa d x ((va / 4096 + k) * 4096)).1 with
    | .leaf e _ _ => (s.leafFault e kind).isNone
    | _ => false

/-- The constant bank of a kernel as memory holds it now. -/
def State.bankOf (s : State) (d x : Nat) (k : Kernel) : List Byte :=
  (s.readVirt d x (k.image.toNat + k.constOff) k.constSize 0).getD []

/-- The kernel of a valid image of context `x` (R265). -/
def State.readKernel (s : State) (d x : Nat) (image : Word) : Option Kernel :=
  if image.toNat % 256 != 0 then none
  else match s.readVirt d x image.toNat 256 0 with
    | none => none
    | some h => match parseHeader image h with
      | none => none
      | some k =>
        if !s.pagesAllow d x image.toNat k.size 0 || !s.pagesAllow d x (image.toNat + 256) k.codeSize 2 then none
        else match k.loopnest with
          | none => some k
          | some o => if (parseNest k.team (s.bankOf d x k) o).isSome then some k else none

/-- The device has read the image at an address of a context, its bank and its code among it: ACC of their pages (08_page R186). -/
def State.touchImage (s : State) (d x : Nat) (image : Word) : State :=
  match s.readVirt d x image.toNat 256 0 with
  | none => s
  | some h =>
    let s := s.touchPages d x image.toNat 256 0
    match parseHeader image h with
    | none => s
    | some k => s.touchPages d x image.toNat k.size 0

/-! ### The LAE (R268-R270) -/

/-- Loop indices of iteration `n`, innermost last. -/
def loopIndices : List Nat → Nat → List Nat
  | [], _ => []
  | t :: r, n => (n / r.foldl (· * ·) 1 % t) :: loopIndices r n

def dotInt (ks : List Int) (is : List Nat) : Int := ((ks.zip is).map fun p => p.1 * Int.ofNat p.2).sum

/-- A0 and A1 of an iteration. -/
def Stream.coords (st : Stream) (is : List Nat) (tx ty : Nat) : Nat × Nat :=
  let wrap := fun (v : Int) => (v % 4294967296).toNat
  (wrap (st.c0 + dotInt st.k0 is + st.tx0 * Int.ofNat tx + st.ty0 * Int.ofNat ty),
    wrap (st.c1 + dotInt st.k1 is + st.tx1 * Int.ofNat tx + st.ty1 * Int.ofNat ty))

def Lae.total (l : Lae) : Nat := l.trips.foldl (· * ·) 1
def Lae.cur (l : Lae) : Option Stream := l.streams[l.stream]?
def Lae.ended (l : Lae) : Bool := l.stopped || decide (l.total ≤ l.iter)

/-- The group of a team with an index. -/
def State.groupAt (s : State) (tid gidx : Nat) : Option (Nat × Group) := (s.groupsOf tid).find? fun p => p.2.gidx == gidx

def Group.queue (g : Group) (q : Nat) : Sluice := SMap.getD g.queues q Sluice.init
def Group.setQueue (g : Group) (q : Nat) (v : Sluice) : Group := { g with queues := SMap.set g.queues q v }

/-- The LAE moves past the stream it has served; the queue is finished with the stream's final entry. -/
def State.laePush (s : State) (tid gk : Nat) (l : Lae) (st : Stream) (entry : W32 × W32 × W32) : State :=
  let last := l.iter + 1 == l.total
  let flags := BitVec.ofNat 32 (l.iter % 16777216 * 256 + b2n last)
  let s := s.modGroup gk fun g =>
    let q := g.queue st.queue
    g.setQueue st.queue { q with
      permits := q.permits - 1, items := q.items ++ [(entry.1, entry.2.1, entry.2.2, flags)], finished := q.finished || last }
  let l := if l.stream + 1 < l.streams.length then { l with stream := l.stream + 1 } else { l with stream := 0, iter := l.iter + 1 }
  s.modTeam tid fun t => { t with lae := some l }

/-- A copy fails (R270): the failure follows the entries of its queue; every other open queue is finished with ERR. -/
def State.laeFail (s : State) (tid : Nat) (st : Stream) (cause : Cause) : State :=
  let fix := fun (gidx : Nat) (g : Group) => { g with
      queues := g.queues.map fun (p : Nat × Sluice) =>
        if gidx == st.gidx && p.1 == st.queue then (p.1, { p.2 with finished := true, failure := some cause })
        else (p.1, { p.2 with finished := true, err := true }) }
  let s := { s with groups := s.groups.map fun (p : Nat × Group) => if p.2.team == tid then (p.1, fix p.2.gidx p.2) else p }
  s.modTeam tid fun t => { t with lae := t.lae.map fun l => { l with stopped := true, fault := none } }

/-- The record of a translation fault of a copy of the LAE (R270). -/
def State.laeReport (s : State) (gk : Nat) (st : Nat) (cause : Cause) (kind lvl va : Nat) : State :=
  s.report (gkDie gk) ({ s.recOf gk with va := va, cause := cause, kind := kind, lvl := lvl, lane := st, rkind := 3 } : Rec).report

/-- The LAE holds a permit for its next stream, and nothing stops it: it goes on until its team is saved or retires (R268). -/
def State.laeGoes (s : State) (t : Team) (l : Lae) (st : Stream) (g : Group) : Bool :=
  (t.stage == .admitted || t.stage == .running || t.stage == .draining) && !t.saveHalt && !(s.die t.die).tripped && !l.ended
    && l.fault.isNone && (g.queue st.queue).permits != 0
/-- A team's LAE may serve a stream now. -/
def State.mayServe (s : State) (tid : Nat) (t : Team) : Bool :=
  t.lae.any fun l => l.cur.any fun st => (s.groupAt tid st.gidx).any fun p =>
    s.laeGoes t l st p.2 && (!st.copy || decide (s.copiesOn (gkCore p.1) < 32))

/-- The LAE serves its next stream, if it may. -/
def State.laeServe (s : State) (tid : Nat) : State :=
  match s.team? tid with
  | none => s
  | some t =>
    match t.lae with
    | none => s
    | some l =>
      match l.cur, (l.cur.bind fun st => s.groupAt tid st.gidx) with
      | some st, some (gk, g) =>
        if !s.laeGoes t l st g then s
        else
          let a := st.coords (loopIndices l.trips l.iter) t.x t.y
          if !st.copy then
            let v : Word := st.addr + (BitVec.ofNat 64 a.1 <<< st.sh)
            s.laePush tid gk l st (v.setWidth 32, (v >>> 32).setWidth 32, 0)
          else if 32 ≤ s.copiesOn (gkCore gk) then s
          else
            let off := st.dbase + l.iter % st.nbuf * st.dstride
            let rq : CopyReq := { form := 0, layAddr := st.addr.toNat, off := off, coords := [a.1, a.2, 0, 0, 0], idxOff := 0, cw := none,
                                  tag := 0, ev := false, gk := gk, lane := 0 }
            let no := fun (_ : Nat) => (none : Option Stop)
            let unwatched := fun (s : State) (_ : Nat) => ((none : Option Stop), s)
            let fail := fun (s : State) (why : Stop) => match why with
              | .trap c _ => s.laeFail tid st c
              | .fault c k lvl va _ =>
                if s.reportsFull (gkDie gk) then s
                else (s.modTeam tid fun t => { t with lae := some { l with fault := some (c, s.seq.toNat) } }).laeReport gk l.stream c (k % 4) lvl va
              | .block _ => s
              | .halt _ => s
            match copyLayout s (gkCore gk) (s.teamCtx t) rq no unwatched with
            | (.error why, s) => fail s why
            | (.ok lay, s) =>
              let rq := { rq with coords := rq.coords.zipIdx.map fun p => if p.2 < lay.ndim then p.1 else 0 }
              match copyBody s (gkCore gk) tid t rq lay [] with
              | .stop why => fail s why
              | .ok c acc =>
                match copyTranslate s (s.teamCtx t) c rq acc with
                | (.stop why, s) => fail s why
                | (.ok c _, s) =>
                  (s.acceptCopy c).laePush tid gk l st (BitVec.ofNat 32 off, BitVec.ofNat 32 a.1, BitVec.ofNat 32 a.2)
      | _, _ => s

/-- `LAE SERVE STREAM` (R268). -/
def execLaeServeStream (team : Nat) (s : State) : Out := .next (s.laeServe team)

/-- The cause that ACTION `01` of `FLT_RESUME` gives for a copy's translation fault (10_copy R240). -/
def copyCause (c : Cause) : Cause := if c == 0x31 || c == 0x32 || c == 0x34 || c == 0x36 then 0xA4 else 0xA3

/-! ### `QPOP` and `QREL` (R271, R272) -/

/-- Entries reserved and not released: a `QPOP` that a finished queue has no entry left for reserves none (R272). -/
def Sluice.held (q : Sluice) : Nat :=
  if q.finished then q.reserved - (q.taken - (q.items.length + b2n q.failure.isSome)) else q.reserved

/-- `QPOP`: a reservation, and a long-latency producer that the queue's next entry completes. -/
def qpopRes (f : FmtX) (e : Env) (s : State) : Res :=
  if e.act == 0 then .done s { long := some .other }
  else
    let q := if f.a == 255 then (f.fld 25 3).toNat else (e.src32 0 e.low).toNat
    if 8 ≤ q then .stop s {} 0 (.trap 0x95 0)
    else if !SMap.has e.g.queues q then .stop s {} 0 (.trap 0x94 0)
    else
      let sl := e.g.queue q
      if 16 ≤ sl.held then .stop s {} 0 (.block .sluice)
      else
        .done (s.modGroup e.gk fun g => g.setQueue q { g.queue q with reserved := sl.reserved + 1, taken := sl.taken + 1 })
          { long := some .other, wait := .sluice q }
def execQpop (g : Guard) (f : FmtX) (s : State) : Out := runWord (.qpop g f) noCheck (qpopRes f) s

/-- `QREL`. -/
def qrelRes (f : FmtX) (e : Env) (s : State) : Res :=
  if e.act == 0 then .done s {}
  else
    let q := (f.fld 25 3).toNat
    let n := (f.fld 20 5).toNat
    let sl := e.g.queue q
    if !SMap.has e.g.queues q then .stop s {} 0 (.trap 0x94 0)
    else if sl.held < n then .stop s {} 0 (.trap 0x96 0)
    else
      .done (s.modGroup e.gk fun g => g.setQueue q { g.queue q with
        reserved := sl.reserved - n, permits := if sl.finished then sl.permits else sl.permits + n }) {}
def execQrel (g : Guard) (f : FmtX) (s : State) : Out := runWord (.qrel g f) noCheck (qrelRes f) s

/-! ### `GROW` and `SHRINK` (R273) -/

/-- Lanes of an instruction that R89 has denied its entries. -/
def Env.denied (e : Env) (s : State) : Bool := (s.curIg e).was != 0

def growRes (f : FmtX) (e : Env) (s : State) : Res :=
  let new := (f.fld 20 8).toNat
  let say := fun (v : Mask) => ({ preds := [{ p := f.fld 17 3, mask := e.act, vals := v }] } : Eff)
  if e.act == 0 then .done s {}
  else if 192 < new then .stop s {} 0 (.trap 0x23 0)
  else if new ≤ e.g.budget then .done s (say 0xFFFFFFFF)
  else if e.denied s then .done s (say 0)
  else if s.servedBefore e.gk || !s.growRoom e.pk e.g new then .stop s {} 0 (.block .grow)
  else .done (s.modGroup e.gk fun g => { g with budget := new }) (say 0xFFFFFFFF)
def execGrow (g : Guard) (f : FmtX) (s : State) : Out := runWord (.grow g f) noCheck (growRes f) s

def shrinkRes (f : FmtX) (e : Env) (s : State) : Res :=
  let new := (f.fld 20 8).toNat
  if e.act == 0 then .done s {}
  else if new < e.g.mapped then .stop s {} 0 (.trap 0x22 0)
  else .done (s.modGroup e.gk fun g => { g with budget := min new g.budget }) {}
def execShrink (g : Guard) (f : FmtX) (s : State) : Out := runWord (.shrink g f) noCheck (shrinkRes f) s

/-! ### Allocation deadlock (04_group R89) -/

/-- A request that a team be saved (15_context R324); the first one stands. -/
def State.requestSave (s : State) (tid : Nat) (reason : BitVec 8) : State :=
  s.modTeam tid fun t => if t.resident && t.saveReq.isNone && t.ending.isNone then { t with saveReq := some reason } else t

/-- A save whose reason stands in place of any requested before (R311): SUSPEND takes every resident team, one that migrates too. -/
def State.suspendSave (s : State) (tid : Nat) : State :=
  (s.requestSave tid 0xD0).modTeam tid fun t => { t with
    saveReq := t.saveReq.map fun _ => 0xD0, migrateTo := none, stage := match t.stage with | .saving _ => .saving 0xD0 | st => st }

/-- Priority level at which a team's node stands. -/
def State.teamLevel (s : State) (t : Team) : Nat := (s.node? t.node).elim 23 (·.level)

/-- The teams with a group on a partition. -/
def State.teamsIn (s : State) (pk : Nat) : List (Nat × Team) :=
  s.teams.filter fun t => t.2.resident && (s.groupsIn pk).any fun g => g.2.team == t.1

/-- Each pending `GROW` of a partition completes without a grant. -/
def State.denyGrows (s : State) (pk : Nat) : State :=
  (s.groupsIn pk).foldl (fun s p => s.modGroup p.1 fun g => { g with
      susp := g.susp.map fun ig => if ig.block == some .grow then { ig with was := ig.mask } else ig }) s

/-- `ALLOCATION DEADLOCK`: the team of lowest priority, the most recently admitted among equals, is saved; where there is no
other team, the pending `GROW`s are denied. -/
def State.allocationDeadlock (s : State) (d c part : Nat) : State :=
  let pk := partKey d c part
  if SMap.getD (s.core (pk / 4)).deadlock pk 0 < 64 || 4 ≤ part then s
  else
    let s := s.modCore (pk / 4) fun x => { x with deadlock := SMap.erase x.deadlock pk }
    match s.teamsIn pk with
    | [_] => s.denyGrows pk
    | ts => match maxOn (fun p : Nat × Team => s.teamLevel p.2 * (1 <<< 64) + p.2.admitSeq) ts with
      | none => s
      | some p => s.requestSave p.1 0xD0
def execAllocationDeadlock (d c part : Nat) (s : State) : Out := .next (s.allocationDeadlock d c part)

end Sys2Proof.Machine
end

