-- ==== Sys2Proof/Machine/Measure.lean ====
section
/-! DEFINITION. SHA-256 and the measurement registers (19_trail R392, R393). -/

namespace Sys2Proof.Machine

/-! ### SHA-256 (FIPS 180-4) -/

/-- The round constants: the first 32 bits of the fractions of the cube roots of the first 64 primes. -/
def shaK0 : List W32 :=
  [0x428A2F98, 0x71374491, 0xB5C0FBCF, 0xE9B5DBA5, 0x3956C25B, 0x59F111F1, 0x923F82A4, 0xAB1C5ED5,
   0xD807AA98, 0x12835B01, 0x243185BE, 0x550C7DC3, 0x72BE5D74, 0x80DEB1FE, 0x9BDC06A7, 0xC19BF174]
def shaK1 : List W32 :=
  [0xE49B69C1, 0xEFBE4786, 0x0FC19DC6, 0x240CA1CC, 0x2DE92C6F, 0x4A7484AA, 0x5CB0A9DC, 0x76F988DA,
   0x983E5152, 0xA831C66D, 0xB00327C8, 0xBF597FC7, 0xC6E00BF3, 0xD5A79147, 0x06CA6351, 0x14292967]
def shaK2 : List W32 :=
  [0x27B70A85, 0x2E1B2138, 0x4D2C6DFC, 0x53380D13, 0x650A7354, 0x766A0ABB, 0x81C2C92E, 0x92722C85,
   0xA2BFE8A1, 0xA81A664B, 0xC24B8B70, 0xC76C51A3, 0xD192E819, 0xD6990624, 0xF40E3585, 0x106AA070]
def shaK3 : List W32 :=
  [0x19A4C116, 0x1E376C08, 0x2748774C, 0x34B0BCB5, 0x391C0CB3, 0x4ED8AA4A, 0x5B9CCA4F, 0x682E6FF3,
   0x748F82EE, 0x78A5636F, 0x84C87814, 0x8CC70208, 0x90BEFFFA, 0xA4506CEB, 0xBEF9A3F7, 0xC67178F2]
def shaK : List W32 := shaK0 ++ shaK1 ++ shaK2 ++ shaK3

/-- The eight working words. -/
structure ShaState where
  a : W32
  b : W32
  c : W32
  d : W32
  e : W32
  f : W32
  g : W32
  h : W32
  deriving DecidableEq, Repr

def shaInit : ShaState :=
  { a := 0x6A09E667, b := 0xBB67AE85, c := 0x3C6EF372, d := 0xA54FF53A,
    e := 0x510E527F, f := 0x9B05688C, g := 0x1F83D9AB, h := 0x5BE0CD19 }

def rotr (x : W32) (n : Nat) : W32 := x.rotateRight n
def shaS0 (x : W32) : W32 := rotr x 7 ^^^ rotr x 18 ^^^ (x >>> 3)
def shaS1 (x : W32) : W32 := rotr x 17 ^^^ rotr x 19 ^^^ (x >>> 10)

/-- One round with message word `w` and constant `k`. -/
def shaRound (s : ShaState) (w k : W32) : ShaState :=
  let t1 := s.h + (rotr s.e 6 ^^^ rotr s.e 11 ^^^ rotr s.e 25) + ((s.e &&& s.f) ^^^ (~~~s.e &&& s.g)) + k + w
  let t2 := (rotr s.a 2 ^^^ rotr s.a 13 ^^^ rotr s.a 22) + ((s.a &&& s.b) ^^^ (s.a &&& s.c) ^^^ (s.b &&& s.c))
  { a := t1 + t2, b := s.a, c := s.b, d := s.c, e := s.d + t1, f := s.e, g := s.f, h := s.g }

/-- The 64 rounds over a sliding window of 16 message words. -/
def shaRounds (s : ShaState) (win : List W32) : List W32 → ShaState
  | [] => s
  | k :: ks =>
    let w := fun (i : Nat) => win.getD i 0
    shaRounds (shaRound s (w 0) k) (win.drop 1 ++ [shaS1 (w 14) + w 9 + shaS0 (w 1) + w 0]) ks

def beWord (bs : List Byte) : W32 := bs.foldl (fun (v : W32) b => (v <<< 8) ||| b.setWidth 32) 0
def beBytes (n v : Nat) : List Byte := (leBytes n v).reverse

def shaBlock (s : ShaState) (block : List Byte) : ShaState :=
  let r := shaRounds s ((List.range 16).map fun k => beWord ((block.drop (4 * k)).take 4)) shaK
  { a := s.a + r.a, b := s.b + r.b, c := s.c + r.c, d := s.d + r.d,
    e := s.e + r.e, f := s.f + r.f, g := s.g + r.g, h := s.h + r.h }

def shaPad (m : List Byte) : List Byte :=
  m ++ [0x80] ++ List.replicate ((119 - m.length % 64) % 64) 0 ++ beBytes 8 (8 * m.length)

def shaBlocks (s : ShaState) : Nat → List Byte → ShaState
  | 0, _ => s
  | n + 1, m => shaBlocks (shaBlock s (m.take 64)) n (m.drop 64)

/-- The 32-byte digest. -/
def sha256 (m : List Byte) : List Byte :=
  let p := shaPad m
  let s := shaBlocks shaInit (p.length / 64) p
  ([s.a, s.b, s.c, s.d, s.e, s.f, s.g, s.h].map fun w => beBytes 4 w.toNat).flatten

/-! ### Measurement registers (R393) -/

/-- The 32 bytes of `MEAS[i]`. -/
def State.measBytes (s : State) (i : Nat) : List Byte :=
  ((List.range 4).map fun w => bytesOfWord (SMap.getD s.meas (4 * i + w) 0)).flatten

/-- An extension with a 32-byte digest, with its `0x0B` trail record on the left die. -/
def State.extendMeas (s : State) (i : Nat) (m : List Byte) : State :=
  let d := sha256 (s.measBytes i ++ m)
  let s := { s with meas := (List.range 4).foldl (fun r w => SMap.put r 0 (4 * i + w) (wordOfBytes ((d.drop (8 * w)).take 8))) s.meas }
  s.trail 0 0x0B 0 i (m.take 8)

/-- The digest of 32 bytes that a number gives, most significant byte first. -/
def digestBytes (d : BitVec 256) : List Byte := beBytes 32 d.toNat

/-- The configuration block of a mode change (R392): the values in force, without writes that wait for a boundary (log entry 107). -/
def State.configBlock (s : State) : List Byte :=
  let s : State := { s with regWaits := [] }
  ([0x785, 0x796, 0x797, 0x70C, 0x70D, 0x700, 0x701, 0x702, 0x703, 0x704, 0x705, 0x282].map fun n => bytesOfWord (s.readReg n)).flatten

end Sys2Proof.Machine
end

