-- ==== Sys2Proof/Machine/Queue.lean ====
section
/-! DEFINITION. Node records (13_queue R276, R277), the ready pools (R279, R280), `ENQ`, `LAUNCH` and `DEPDEC` (R274, R288, R289)
and the steps of a node's retirement (R282). -/

namespace Sys2Proof.Machine

/-! ### Node records (R276) -/

/-- The operand list of a record (R276). -/
def State.operandList (s : State) (d x a n : Nat) : List (Word × Nat × Int) :=
  let bs := (s.readVirt d x a (16 * n) 0).getD []
  (List.range (bs.length / 16)).map fun k =>
    (BitVec.ofNat 64 (leAt bs (16 * k) 8), leAt bs (16 * k + 8) 4, Int.ofNat (leAt bs (16 * k + 12) 4))

/-- A node of a record's words; none where the record is invalid. -/
def parseNode (x pa : Nat) (w : List Word) : Option Node :=
  let f := fun (k lo n : Nat) => fld (w.getD k 0) lo n
  let gx := f 2 0 16
  let gy := f 2 16 16
  let gz := f 2 32 16
  let nops := f 1 48 4
  let nsucc := f 1 52 5
  let ok := f 0 0 8 == 0 && f 1 57 7 == 0 && decide (f 1 40 5 ≤ 23) && f 1 45 2 != 3 && decide (nops ≤ 8) && decide (nsucc ≤ 16)
    && f 2 48 16 == 0 && gx != 0 && gy != 0 && gz != 0 && decide (gx * gy * gz ≤ 1 <<< 24)
    && f 3 0 3 == 0 && (f 3 0 64 == 0) == (nsucc == 0) && f 4 0 4 == 0 && (f 4 0 64 == 0) == (nops == 0)
    && f 5 16 1 == 0 && f 5 20 44 == 0 && f 6 0 2 == 0 && f 7 32 32 == 0
  if !ok then none
  else some { Node.blank x (Kernel.blank (w.getD 0 0)) with
    id := (w.getD 1 0).setWidth 40, prio := f 1 40 5, level := f 1 40 5, dieSel := f 1 45 2, evr := f 1 47 1 == 1,
    gridx := gx, gridy := gy, gridz := gz, succ := w.getD 3 0, nsucc := nsucc, recPa := pa, done := w.getD 6 0, tlimit := f 7 0 32,
    live := gx * gy * gz }

/-- COUNT of a record. -/
def State.depsWord (s : State) (pa : Nat) : Nat := leNat (s.bytes (pa + 40) 4)
def State.setDeps (s : State) (pa v : Nat) : State := s.writeHome (pa + 40) (leBytes 4 v)

/-! ### The ready pools (R279) -/

def State.poolSize (s : State) (d : Nat) : Nat := (s.nodes.filter fun p => p.2.stage == .ready && p.2.die == d).length
def State.poolFull (s : State) (d : Nat) : Bool := decide (4096 ≤ s.poolSize d)
/-- The die whose pool a node enters. -/
def Node.home (n : Node) (d : Nat) : Nat := if n.dieSel < 2 then n.dieSel else d

/-- A node stands at the tail of a level from time `t` on. -/
def State.placeInPool (s : State) (k : Nat) (n : Node) (level t : Nat) : State :=
  let (o, s) := s.fresh
  s.setNode k { n with stage := .ready, level := level, since := t, order := o }
/-- The first held node of a die, in the order in which they became ready. -/
def State.firstHeld (s : State) (d : Nat) : Option (Nat × Node) :=
  minOn (fun p : Nat × Node => p.2.order) (s.nodes.filter fun p => p.2.stage == .held && p.2.die == d)
/-- The pool has no entry for a node that comes now: it is full, or the entries that free are those of the nodes that are held. -/
def State.poolShut (s : State) (d : Nat) : Bool := s.poolFull d || (s.firstHeld d).isSome
/-- A node becomes ready: it enters its die's pool, or is held while that has no entry for it. -/
def State.nodeReady (s : State) (k : Nat) (n : Node) (d : Nat) : State :=
  let n := { n with die := n.home d }
  if s.poolShut n.die then
    let (o, s) := s.fresh
    s.setNode k { n with stage := .held, order := o }
  else s.placeInPool k n n.prio (s.die n.die).ticks
/-- `HELD NODE ENTER POOL` (R279). -/
def State.heldEnter (s : State) (d : Nat) : State :=
  match s.firstHeld d with
  | some p => if s.poolFull d then s else s.placeInPool p.1 p.2 p.2.prio (s.die d).ticks
  | none => s
def execHeldNodeEnterPool (d : Nat) (s : State) : Out := .next (s.heldEnter d)

/-- AGE_Q in ticks (R280). -/
def State.ageQuantum (s : State) : Nat := usTicks (max 1 (s.rf 0x234 0 16))
/-- The node of a die that ages next, once its quantum has passed: quanta end in the order in which they began. -/
def State.nextAging (s : State) (d : Nat) : Option (Nat × Node) :=
  (minOn (fun p : Nat × Node => p.2.since * 4294967296 + p.2.order)
    (s.nodes.filter fun p => p.2.stage == .ready && p.2.die == d && decide (5 ≤ p.2.level))).filter fun p =>
      decide (p.2.since + s.ageQuantum ≤ (s.die d).ticks)
/-- `NODE AGING` (R280). -/
def State.nodeAge (s : State) (d k : Nat) : State :=
  match s.nextAging d with
  | some p => if p.1 == k then s.placeInPool k p.2 (p.2.level - 1) (p.2.since + s.ageQuantum) else s
  | none => s
def execNodeAging (d node : Nat) (s : State) : Out := .next (s.nodeAge d node)

/-! ### Arming and decrements (R288, R289) -/

/-- `Arm`: one atomic at the home slice of the DEPS word. -/
def State.arm (s : State) (n : Node) (d depth : Nat) : State :=
  let old := s.depsWord n.recPa
  let count := old % 65536
  let (k, s) := s.fresh
  let s := s.setDeps n.recPa (count + (b2n (count != 0) <<< 16) + (depth <<< 17))
  let n := { n with depth := depth }
  if count == 0 then s.nodeReady k n d else s.setNode k { n with stage := .pending, die := n.home d }

/-- The decrement of the DEPS word at `pa` of context `x`, made from die `d`: the old COUNT. -/
def State.decrement (s : State) (d x pa n : Nat) : Nat × State :=
  let old := s.depsWord pa
  let count := old % 65536
  let left := count - n
  let fires := count != 0 && left == 0 && bitOf old 16
  let s := s.setDeps pa (old - count + left - (if fires then 65536 else 0))
  let stage := (s.ctx x).stage
  if !fires || stage == .draining || stage == .destroyed || stage == .free then (count, s)
  else match s.nodes.find? fun p => p.2.stage == .pending && p.2.recPa == pa && p.2.ctx == x with
    | some p => (count, s.nodeReady p.1 p.2 d)
    | none => (count, s)

/-- The measurement of an image that `ENQ` or `LAUNCH` names (19_trail R393). -/
def State.measureImage (s : State) (d x : Nat) (k : Kernel) : State :=
  let key := (x, k.image)
  if s.measured.contains key then s
  else
    let s := s.extendMeas 3 (sha256 ((s.readVirt d x k.image.toNat k.size 0).getD []))
    if s.measured.length < 1024 then { s with measured := s.measured ++ [key] } else s

/-! ### `ENQ` (R288) -/

/-- A node of the record at `pa`, with its kernel, or the status that refuses it. `ceil` bounds its level. -/
def State.nodeOf (s : State) (d x pa : Nat) : Except Nat Node × State :=
  match parseNode x pa ((List.range 8).map fun k => s.word64 (pa + 8 * k)) with
  | none => (.error 0x90, s)
  | some n =>
    match s.readKernel d x n.image with
    | none => (.error 0x97, s.touchImage d x n.image)
    | some k =>
      let at_ := (s.word64 (pa + 32)).toNat
      let nops := fld (s.word64 (pa + 8)) 48 4
      (.ok { n with kernel := k, ops := s.operandList d x at_ nops },
        ((s.measureImage d x k).touchImage d x n.image).touchPages d x at_ (16 * nops) 0)

/-- The status of one enqueue of the record at `r` for context `x` from core `ck`, or that it waits for the culvert, or the poison that
it meets in the record. -/
def State.enqueue (s : State) (ck x r : Nat) : Except (Option Cause) Nat × State :=
  let stage := (s.ctx x).stage
  if 63 < x || !(stage == .admitted || stage == .running) then (.ok 0x90, s)
  else if r % 64 != 0 then (.ok 0x40, s)
  else if 1 <<< 52 ≤ r then (.ok 0x43, s)
  else match s.translate ck x r 0 with
    | (.wait, s) => (.error none, s)
    | (.fault c _, s) => (.ok c.toNat, s)
    | (.ok p, s) =>
      if crosses (ck / 96) p.pa && !s.culvertOpen then (.error none, s)
      else if (s.homePoison p.pa 64).isSome then (.error (s.homePoison p.pa 64), s)
      else match s.nodeOf (ck / 96) x p.pa with
        | (.error st, s) => (.ok st, s)
        | (.ok n, s) =>
          if n.prio < s.rf (0x4C0 + x) 0 5 then (.ok 0x91, s)
          else if s.depsWord p.pa % 65536 == 0 && s.poolShut (n.home (ck / 96)) then (.ok 0x93, s)
          else (.ok 0, s.arm n (ck / 96) 0)

/-- A release of device scope that has to wait for the culvert blocks its lane (18_link R382). -/
def enqLane (e : Env) (s : State) (l : Nat) : LaneEnd × State :=
  let x := if (e.ops.getD 1 { reg := 255 }).reg == 255 then e.x else (e.src32 1 l).toNat
  if s.cleanWaits e.ck then (.block .clean, s)
  else match (s.release e.ck 5).enqueue e.ck x (e.src 0 l).toNat with
  | (.error none, s) => (.block .culvert, s)
  | (.error (some c), s) => (.trap c 0, s)
  | (.ok st, s) => (.ok (leBytes 4 st), s)

/-- Address predicates on the records that the lanes of an instruction read, after its checks of the address (16_watch R332). -/
def State.recordHitsOf (s : State) (e : Env) (kind at_ n : Nat) : Hits :=
  s.addrHits e kind (maskOf fun l => e.act.getLsbD l && !beyond52 (e.src 0 l).toNat && (e.src 0 l).toNat % 64 == 0) fun l =>
    ((e.src 0 l).toNat + at_, n)

def enqRes (f : FmtX) (e : Env) (s : State) : Res :=
  let hits := s.recordHitsOf e 0 0 64
  let s := if actionLanes hits == 0 then s.recordHits e hits else s
  let p := seqLanes s (e.act &&& ~~~actionLanes hits) (enqLane e)
  p.res { regs := bytesRegs f.d 1 p.done p.vals,
          preds := [{ p := f.fld 21 3, mask := p.done, vals := maskOf fun l => leNat (Lanes.at p.vals l) == 0 }] } hits
def execEnq (g : Guard) (f : FmtX) (s : State) : Out := runWord (.enq g f) noCheck (enqRes f) s

/-! ### `LAUNCH` (R274, R275) -/

/-- The node that a lane's record names, after the checks of R274. -/
def launchCheck (e : Env) (s : State) (a : Nat) (parent : Option Node) : Except LaneEnd Node × State :=
  if a % 64 != 0 then (.error (.trap 0x40 (BitVec.ofNat 64 a)), s)
  else match s.lanePages e a 64 0 with
    | (.error r, s) => (.error r, s)
    | (.ok segs, s) =>
      match segs.head? with
      | none => (.error (.trap 0x90 0), s)
      | some g =>
        match s.homePoison g.p.pa 64 with
        | some c => (.error (.trap c 0), s)
        | none =>
          match s.nodeOf e.d e.x g.p.pa with
          | (.error c, s) => (.error (.trap (BitVec.ofNat 8 c) 0), s)
          | (.ok n, s) =>
            if n.prio < s.rf (0x4C0 + e.x) 0 5 then (.error (.trap 0x91 0), s)
            else if (parent.elim 0 (·.depth)) ≥ 7 then (.error (.trap 0x92 0), s)
            else if s.poolShut (n.home e.d) then (.error (.trap 0x93 0), s)
            else (.ok n, s)

def launchLane (e : Env) (s : State) (l : Nat) : LaneEnd × State :=
  let parent := s.node? e.t.node
  if s.cleanWaits e.ck then (.block .clean, s)
  else match launchCheck e (s.release e.ck 5) (e.src 0 l).toNat parent with
  | (.error r, s) => (r, s)
  | (.ok n, s) => (.ok (leBytes 4 n.id.toNat), s.arm n e.d ((parent.elim 0 (·.depth)) + 1))

def launchRes (f : FmtX) (e : Env) (s : State) : Res :=
  let hits := s.recordHitsOf e 0 0 64
  let s := if actionLanes hits == 0 then s.recordHits e hits else s
  let p := seqLanes s (e.act &&& ~~~actionLanes hits) (launchLane e)
  p.res { regs := bytesRegs f.d 1 p.done p.vals } hits
def execLaunch (g : Guard) (f : FmtX) (s : State) : Out := runWord (.launch g f) noCheck (launchRes f) s

/-! ### `DEPDEC` (R289) -/

def depdecLane (e : Env) (s : State) (l : Nat) : LaneEnd × State :=
  let a := (e.src 0 l).toNat
  let n := if (e.ops.getD 1 { reg := 255 }).reg == 255 then 1 else (e.src32 1 l).toNat
  if beyond52 a then (.trap 0x43 (BitVec.ofNat 64 a), s)
  else if a % 64 != 0 then (.trap 0x40 (BitVec.ofNat 64 a), s)
  else match s.lanePages e a 44 3 with
    | (.error r, s) => (r, s)
    | (.ok segs, s) =>
      match segs.head? with
      | none => (.ok [], s)
      | some g =>
        if s.cleanWaits e.ck then (.block .clean, s) else
        let s := (s.release e.ck 5).dropLine e.ck (g.p.pa + 40)
        match s.homePoison (g.p.pa + 40) 4 with
        | some c => (.trap c (BitVec.ofNat 64 a), s)
        | none =>
          let (old, s) := s.decrement e.d e.x g.p.pa n
          (.ok (leBytes 4 old), s)

def depdecRes (f : FmtX) (e : Env) (s : State) : Res :=
  let hits := s.recordHitsOf e 3 40 4
  let s := if actionLanes hits == 0 then s.recordHits e hits else s
  let p := perLane s (e.act &&& ~~~actionLanes hits) (depdecLane e)
  p.res { regs := bytesRegs f.d 1 p.done p.vals } hits
def execDepdec (g : Guard) (f : FmtX) (s : State) : Out := runWord (.depdec g f) noCheck (depdecRes f) s

/-! ### The retirement of a node (R282) -/

/-- A translation that the device makes for itself on die `d`, with kind `kind`. An address beyond 2^52, for which no thread can trap, has
the cause of an absent entry (R179, R282; log entry 114). -/
def State.deviceTranslate (s : State) (d x va kind : Nat) : Tr × State :=
  if 1 <<< 52 ≤ va then (.fault 0x30 3, s)
  else match s.walkVa d x va with
    | (.fault c l, s) => (.fault c l, s)
    | (.wait, s) => (.wait, s)
    | (.leaf e lvl slot, s) =>
      match s.leafFault e kind with
      | some c => (.fault c lvl, s)
      | none =>
        let (e', s) := s.setAccessed slot e kind
        let p := TlbEntry.phys { ctx := x, unit := va / 4096, leaf := e', slot := slot, lvl := lvl } va
        if crosses d p.pa && !s.culvertOpen then (.wait, s) else (.ok p, s)

/-- One step of a retirement at a translated address; a fault is reported with RKIND 4, and the step is skipped. None: it has to
wait for the culvert. -/
def State.retireAt (s : State) (n : Node) (entry va kind : Nat) (f : State → Nat → State) : Option State :=
  match s.deviceTranslate n.die n.ctx va kind with
  | (.wait, _) => none
  | (.fault c lvl, s) =>
    some (s.report n.die ({ va := va, cause := c, kind := kind, lvl := lvl, lane := entry, ctx := n.ctx, die := n.die,
                            node := n.id.setWidth 32, rkind := 4 } : Rec).report)
  | (.ok p, s) => some (f s p.pa)

/-- The successors of a node, in list order: the entry is read, and the record it names is decremented, at its address as it stands (log
entry 120), on the retiring node's die (R279; log entry 121). -/
def State.retireSuccs (s : State) (n : Node) : List Nat → Option State
  | [] => some s
  | k :: r =>
    let at_ := n.succ.toNat + 8 * k
    match s.retireAt n k at_ 0 fun s _ => s with
    | none => none
    | some s =>
      match (s.deviceTranslate n.die n.ctx at_ 0).1 with
      | .ok p =>
        match s.retireAt n k ((s.word64 p.pa).toNat + 40) 3 fun s pa => (s.decrement n.die n.ctx (pa - 40) 1).2 with
        | none => none
        | some s => retireSuccs s n r
      | _ => retireSuccs s n r

/-- The event record of a retired node. -/
def Node.record (n : Node) : EvRec :=
  (BitVec.ofNat 64 (3 + (n.prio <<< 8) + ((n.ctx % 64) <<< 16)), BitVec.ofNat 64 (n.id.toNat % 4294967296))

/-- Steps 2 to 4 of R282; none while a step has to wait for the culvert. LANE of a report for the completion word is 0 (log entry 119). -/
def State.retireNode (s : State) (k : Nat) (n : Node) : Option State :=
  let word := if n.done == 0 then some s
    else s.retireAt n 0 n.done.toNat 3 fun s pa => s.writeHome pa (leBytes 4 (leNat (s.bytes pa 4) + 1))
  match word with
  | none => none
  | some s =>
    let s := if n.evr then s.postEngine (8 * n.die) n.record else s
    match s.retireSuccs n (List.range n.nsucc) with
    | none => none
    | some s => some { s with nodes := SMap.erase s.nodes k }

end Sys2Proof.Machine
end

