-- ==== Sys2Proof/Machine/Distribute.lean ====
section
/-! DEFINITION. Which core may admit a team (12_kernel R266, 14_column R290-R294), the distributors (13_queue R283-R287) and the
admission of a team (04_group R78, R101). -/

namespace Sys2Proof.Machine

/-! ### Neighbours and heat (14_column R290-R292) -/

/-- The edge neighbours of a core, with the edges that face them, by edge. -/
def neighbours (ck : Nat) : List (Nat × Nat) :=
  let i := ck % 12
  (if 4 ≤ i then [(0, ck - 4)] else []) ++ (if i % 4 < 3 then [(1, ck + 1)] else [])
    ++ (if i < 8 then [(2, ck + 4)] else []) ++ (if 0 < i % 4 then [(3, ck - 1)] else [])
def coreParity (ck : Nat) : Nat := (ck % 12 / 4 + ck % 4) % 2

/-- The conditions of R292 for a team of class `heat`. A neighbour that migrates is neither dark nor lit (R291): it bars H2 and H3, and
for H0 and H1 it counts at the class of its teams (log entry 97). -/
def State.heatAllows (s : State) (ck heat : Nat) : Bool :=
  let h := max heat ((s.columnClass ck).getD 0)
  s.lent ck == 0 && (h < 2 || coreParity ck == 0)
    && (neighbours ck).all fun p => match s.columnClass p.2 with
      | none => true
      | some c => decide (c + h < 3) && (h < 2 || s.columnState p.2 != 6)

/-- The berm windows a core would take for a team (R294), none where there are too few. -/
def State.bermGrant (s : State) (ck n : Nat) : Option (List Window) :=
  let free := fun (p : Nat × Nat) => (s.columnClass p.2).isNone
    && (s.teamsOn ck).all fun t => t.2.windows.all fun w => w.reclaimed || w.lender != p.2
  let ws := ((neighbours ck).filter free).map fun p => ({ lender := p.2, edge := p.1, reclaimed := false, data := [] } : Window)
  if ws.length < n then none else some (ws.take n)

/-! ### Room on a core (R266, 04_group R88, R98) -/

/-- Role and budget of each group of a team, by `%gidx` (04_group R78). -/
def Kernel.groups (k : Kernel) : List (Nat × Nat) :=
  (k.roles.zipIdx.map fun p => List.replicate p.1.1 (p.2, p.1.2)).flatten

/-- The partitions can take the team's groups, with the budgets `bs`, from base partition `b`. -/
def State.partsFit (s : State) (ck b anvil : Nat) (bs : List Nat) : Bool :=
  (List.range 4).all fun p =>
    let mine := (bs.zipIdx.filter fun q => (b + q.2) % 4 == p).map (·.1)
    let here := s.groupsIn (ck * 4 + p)
    let tiles := (here.map fun g => ((s.team? g.2.team).map (·.kernel.anvil)).getD 0).sum
    decide (here.length + mine.length ≤ 12) && decide (s.budgets (ck * 4 + p) + mine.sum ≤ 2048)
      && decide (4 * (tiles + mine.length * anvil) ≤ 256)
/-- The base partitions from which the team fits. -/
def State.bases (s : State) (ck anvil : Nat) (bs : List Nat) : List Nat := (List.range 4).filter fun b => s.partsFit ck b anvil bs

/-- The lowest free run of `n` scratchpad bytes. -/
def State.scratchAt (s : State) (ck n : Nat) : Option Nat :=
  let used := (s.teamsOn ck).map fun t => (t.2.scratchBase, t.2.scratchBase + t.2.kernel.scratch)
  ((0 :: used.map (·.2)).filter fun a => decide (a + n ≤ 524288) && used.all fun u => decide (a + n ≤ u.1) || decide (u.2 ≤ a) || u.1 == u.2).foldl
    (fun m a => some (match m with | none => a | some b => min a b)) none

/-- What a core gives a team: the base partitions to choose from, the scratchpad offset and the windows. -/
def State.plan (s : State) (ck : Nat) (k : Kernel) (bs : List Nat) : Option (List Nat × Nat × List Window) :=
  let bases := s.bases ck k.anvil bs
  if bases.isEmpty || 16 ≤ (s.teamsOn ck).length || !s.heatAllows ck k.heat || (s.die (ck / 96)).tripped then none
  else match s.scratchAt ck k.scratch, s.bermGrant ck k.berm with
    | some a, some ws => some (bases, a, ws)
    | _, _ => none

/-- A core can admit a new team of the kernel. -/
def State.canAdmit (s : State) (ck : Nat) (k : Kernel) : Bool := (s.plan ck k (k.groups.map (·.2))).isSome
/-- A team placed and not yet admitted stands on the core. -/
def State.placedOn (s : State) (ck : Nat) : Bool := s.teams.any fun t => t.2.stage == .placed && coreKey t.2.die t.2.core == ck
/-- Cores of a cluster that can take a team now. -/
def State.openCores (s : State) (cl : Nat) (k : Kernel) : List Nat :=
  ((List.range 12).map fun i => coreKey (cl / 8) (cl % 8 * 12 + i)).filter fun ck => !s.placedOn ck && s.canAdmit ck k

def State.ctxRuns (s : State) (x : Nat) : Bool := (s.ctx x).stage == .admitted || (s.ctx x).stage == .running

/-! ### The admission of a team -/

/-- One group of a team takes the lowest free slot of its partition (04_group R78). -/
def State.placeGroup (s : State) (ck part : Nat) (g : Group) : State :=
  match (List.range 12).find? fun i => (s.group? (ck * 48 + part * 12 + i)).isNone with
  | some i => s.setGroup (ck * 48 + part * 12 + i) g
  | none => s

/-- The sluice queues of a group at admission (12_kernel R269). -/
def queuesOf (l : Option Lae) (gidx : Nat) : SMap Sluice :=
  match l with
  | none => []
  | some l => (l.streams.filter fun st => st.gidx == gidx).foldl
      (fun m st => SMap.set m st.queue { Sluice.init with permits := if st.copy then st.nbuf else 16 }) []

/-- The bytes of a team's constant bank. -/
def Team.bank (t : Team) : List Byte := (List.range t.kernel.constSize).map fun k => SMap.getD t.const k 0
/-- The walk of the team's loop-nest record at its start. -/
def Team.newLae (t : Team) : Option Lae :=
  t.kernel.loopnest.bind fun o =>
    (parseNest t.kernel.team (t.bank) o).map fun p =>
      { trips := p.1, streams := p.2, iter := 0, stream := 0, stopped := false, fault := none }

/-- A team of the context is admitted: the context runs (15_context R311). -/
def State.ctxStart (s : State) (x : Nat) : State :=
  let c := s.ctx x
  if c.stage == .admitted then s.setCtx x { c with stage := .running } else s
/-- RES falls to 0: the context is admitted again. -/
def State.ctxSettle (s : State) (x : Nat) : State :=
  let c := s.ctx x
  if c.stage == .running && s.resTeams x == 0 then s.setCtx x { c with stage := .admitted } else s

/-- `TEAM ADMIT` (R266): groups at the entry header, scratchpad, barriers and team registers zero. -/
def State.teamAdmit (s : State) (tid : Nat) : State :=
  match s.team? tid with
  | none => s
  | some t =>
    let ck := coreKey t.die t.core
    if t.stage != .placed || !s.ctxRuns (s.teamCtx t) || s.cleanWaits ck then s
    else match s.plan ck t.kernel (t.kernel.groups.map (·.2)) with
      | none => s
      | some (bases, a, ws) =>
        let (i, s) := s.pick bases.length
        let b := bases.getD i 0
        let (q, s) := s.fresh
        let l := t.newLae
        let hdr := t.kernel.image + BitVec.ofNat 64 t.kernel.entry
        let s := s.setTeam tid { t with
          stage := .admitted, base := b, scratchBase := a, windows := ws, lae := l, admitTime := s.now, admitSeq := q }
        let s := t.kernel.groups.zipIdx.foldl (fun s p =>
          s.placeGroup ck ((b + p.2) % 4) { (Group.fresh tid p.2 p.1.1 p.1.2 hdr) with queues := queuesOf l p.2 }) s
        (s.ctxStart (s.teamCtx t)).acquire ck 6
def execTeamAdmit (team : Nat) (s : State) : Out := .next (s.teamAdmit team)

/-! ### Distribution (R283) -/

/-- Distributing nodes with untaken teams on a die, whose context may run. -/
def State.spreading (s : State) (d : Nat) : List (Nat × Node) :=
  s.nodes.filter fun p => p.2.stage == .distributing && s.ctxRuns p.2.ctx && p.2.untaken.any fun u => u.1 == d
/-- Urgency: level, then the order in which nodes were taken. -/
def urgency (p : Nat × Node) : Nat := p.2.level * (1 <<< 64) + p.2.order

/-- The head of a die's pool: the oldest node of the lowest-numbered level, over contexts that may run. -/
def State.poolHead (s : State) (d : Nat) : Option (Nat × Node) :=
  minOn urgency (s.nodes.filter fun p => p.2.stage == .ready && p.2.die == d && s.ctxRuns p.2.ctx)

/-- Levels of the chunks that a cluster holds. -/
def State.chunkLevels (s : State) (cl : Nat) : List Nat :=
  ((s.cluster cl).chunks.filterMap fun c => s.node? c.1).filterMap fun n => if s.ctxRuns n.ctx then some n.level else none
/-- A wave's node is placed on the cluster that serves its region (01_device R12). -/
def Node.serves (n : Node) (cl : Nat) : Bool :=
  match n.kind with
  | .wave _ _ region => region == cl % 8
  | _ => true
/-- The cluster has an admitting core and no chunk at the level or more urgent. -/
def State.wants (s : State) (cl : Nat) (n : Node) : Bool :=
  n.serves cl &&
  (s.chunkLevels cl).all (fun l => decide (n.level < l)) && !(s.openCores cl n.kernel).isEmpty

/-- `DIE DISTRIBUTOR TAKE`. -/
def State.dieTake (s : State) (d : Nat) : State :=
  match s.poolHead d with
  | none => s
  | some (k, n) =>
    if (s.nextAging d).isSome || !(n.level ≤ 3 || (List.range 8).any fun c => s.wants (8 * d + c) n) then s
    else
      let (o, s) := s.fresh
      s.setNode k { n with stage := .distributing, order := o, untaken := [(d, 0, n.gridx * n.gridy * n.gridz)] }
def execDieDistributorTake (d : Nat) (s : State) : Out := .next (s.dieTake d)

/-- Saved teams that may be restored (R287, 15_context R328): those of a running context, a swapped-out one once any of its
monitors has ended (11_barrier R258, R259). -/
def State.restorable (s : State) : List (Nat × Team) :=
  s.teams.filter fun p => p.2.stage == .saved && s.ctxRuns (s.teamCtx p.2)
    && (p.2.swapMons.isEmpty || p.2.swapMons.any fun m => (s.monOutcome m.2.2).isSome)

/-- The partitions have the free handler sets that a saved team's frames need, from base partition `b` (R328). -/
def State.setsFit (s : State) (ck b : Nat) (t : Team) : Bool :=
  (List.range 4).all fun p =>
    let need := ((t.kept.filter fun g => (b + g.gidx) % 4 == p).map fun g => g.frames.length).sum
    need == 0 || decide ((s.setsUsed (ck * 4 + p)).length + need ≤ 4)

/-- What a core gives a saved team: the base partitions, the scratchpad offset and the windows. -/
def State.restorePlan (s : State) (ck : Nat) (t : Team) : Option (List Nat × Nat × List Window) :=
  if t.migrateTo.any fun c => c != ck then none
  else match s.plan ck t.kernel (t.kept.map (·.budget)) with
    | none => none
    | some (bases, a, ws) =>
      let bases := bases.filter fun b => s.setsFit ck b t
      if bases.isEmpty then none else some (bases, a, ws)

/-- The most urgent level of a pre-empted team that waits for its restore: untaken teams at that level or a higher-numbered one wait for
it (R287). One that migrates waits for its own core only. -/
def State.restoreLevel (s : State) : Nat :=
  ((s.restorable.filter fun p => p.2.migrateTo.isNone).map fun p => s.teamLevel p.2).foldl min 24

/-- Bytes of a team's declared operands that a core's column cache holds (R285). A berm window has offsets of its own and no generic
address (14_column R295), so that it holds no byte of an operand that is declared by one (log entry 101). -/
def State.heldBytes (s : State) (ck x t : Nat) (ops : List (Word × Nat × Int)) : Nat :=
  let col := (s.core ck).col
  if col.isEmpty then 0
  else (ops.map fun o =>
    let a := (Int.ofNat o.1.toNat + Int.ofNat t * o.2.2).toNat
    ((List.range (o.2.1 / 4096 + 2)).map fun i =>
      let page := a / 4096 + i
      match (s.walkVa (ck / 96) x (page * 4096)).1 with
      | .leaf e _ _ =>
        let pa := leafFrame e * 4096 + page * 4096 % (4096 <<< leafK e)
        (col.filter fun c => c.1 / 4096 == pa / 4096 && decide (a ≤ page * 4096 + c.1 % 4096)
          && decide (page * 4096 + c.1 % 4096 < a + o.2.1)).length
      | _ => 0).sum).sum

/-- The instruction words of a kernel's code, and its constant bank, as they stand at placement (03_encoding R58). -/
def State.codeOf (s : State) (d x : Nat) (k : Kernel) : SMap Word :=
  let base := k.image.toNat + 256
  let bs := (s.readVirt d x base k.codeSize 2).getD []
  (List.range (bs.length / 8)).map fun i => (base + 8 * i, wordOfBytes ((bs.drop (8 * i)).take 8))
def State.constOf (s : State) (d x : Nat) (k : Kernel) : SMap Byte :=
  (s.bankOf d x k).zipIdx.filterMap fun p => if p.1 == 0 then none else some (p.2, p.1)

/-- A node whose last team has been placed runs (R278). -/
def State.placedAll (s : State) (k : Nat) : State :=
  s.modNode k fun n =>
    if n.stage == .distributing && n.untaken.isEmpty && !s.clusters.any (fun c => c.2.chunks.any fun h => h.1 == k) then
      { n with stage := .running } else n

/-- The lowest team of a chunk is placed on a core of the cluster, with the kernel that its image gives now; a node is never placed with
an invalid image (12_kernel R265). -/
def State.placeFrom (s : State) (cl k lo hi : Nat) (n : Node) : State :=
  match s.readKernel (cl / 8) n.ctx n.image with
  | none => s
  | some kern =>
  match maxOn (fun ck => s.heldBytes ck n.ctx lo n.ops) (s.openCores cl kern) with
  | none => s
  | some ck =>
    let d := ck / 96
    let t := Team.place k lo (lo % n.gridx) (lo / n.gridx % n.gridy) (lo / n.gridx / n.gridy) d (ck % 96) 0 kern
    let (tid, s) := s.fresh
    let s := s.setTeam tid { t with code := s.codeOf d n.ctx kern, const := s.constOf d n.ctx kern }
    let s := s.touchImage d n.ctx n.image
    let rest := if lo + 1 < hi then [(k, lo + 1, hi)] else []
    (s.modCluster cl fun c => { c with chunks := (c.chunks.filter fun h => h != (k, lo, hi)) ++ rest }).placedAll k

/-- A chunk of the most urgent distributing node that the cluster wants: the lowest ceil(u / 8) untaken teams. -/
def State.takeChunk (s : State) (d cl : Nat) : State :=
  match minOn urgency ((s.spreading d).filter fun p => s.wants cl p.2 && decide (p.2.level < s.restoreLevel)) with
  | none => s
  | some (k, n) =>
    match n.untaken.find? fun u => u.1 == d with
    | none => s
    | some (_, lo, hi) =>
      let m := ceilDiv (hi - lo) 8
      let rest := if lo + m < hi then [(d, lo + m, hi)] else []
      (s.setNode k { n with untaken := (n.untaken.filter fun u => u.1 != d) ++ rest }).modCluster cl fun c =>
        { c with chunks := c.chunks ++ [(k, lo, lo + m)] }

/-- The chunk of a cluster from which a team can be placed: the most urgent node's. One whose image has become invalid waits (log
entry 102). -/
def State.nextChunk (s : State) (cl : Nat) : Option ((Nat × Nat × Nat) × Node) :=
  let able := (s.cluster cl).chunks.filterMap fun c => (s.node? c.1).bind fun n =>
    if s.ctxRuns n.ctx && n.level < s.restoreLevel && (s.readKernel (cl / 8) n.ctx n.image).any fun k => !(s.openCores cl k).isEmpty then
      some (c, n) else none
  minOn (fun p : (Nat × Nat × Nat) × Node => urgency (p.1.1, p.2)) able

/-- `CHUNK PLACE`: the cluster distributor takes a chunk if it wants one, and places its next team. -/
def State.chunkPlace (s : State) (d cl : Nat) : State :=
  if 2 ≤ d || 8 ≤ cl then s
  else
    let s := s.takeChunk d (8 * d + cl)
    match s.nextChunk (8 * d + cl) with
    | some ((k, lo, hi), n) => s.placeFrom (8 * d + cl) k lo hi n
    | none => s
def execChunkPlace (d cl : Nat) (s : State) : Out := .next (s.chunkPlace d cl)

/-! ### Steals (R284) -/

/-- The chunk of a sibling from which a cluster steals: the largest with at least 2 teams, of the lower-numbered cluster. -/
def State.stealFrom (s : State) (d cl : Nat) : Option (Nat × (Nat × Nat × Nat)) :=
  let free := fun (n : Node) => s.ctxRuns n.ctx && !(s.openCores (8 * d + cl) n.kernel).isEmpty
    && (s.spreading d).all fun p => decide (n.level < p.2.level)
  let cands := ((List.range 8).filter (· != cl)).map fun c =>
    (s.cluster (8 * d + c)).chunks.filterMap fun h =>
      if h.2.1 + 2 ≤ h.2.2 && (s.node? h.1).any free then some (8 * d + c, h) else none
  maxOn (fun p : Nat × (Nat × Nat × Nat) => p.2.2.2 - p.2.2.1) cands.flatten

/-- `CLUSTER STEAL`: the upper floor(m / 2) teams. -/
def State.clusterSteal (s : State) (d cl : Nat) : State :=
  if 2 ≤ d || 8 ≤ cl || !(s.cluster (8 * d + cl)).chunks.isEmpty then s
  else match s.stealFrom d cl with
    | none => s
    | some (from_, (k, lo, hi)) =>
      let cut := hi - (hi - lo) / 2
      (s.modCluster from_ fun c => { c with chunks := c.chunks.map fun h => if h == (k, lo, hi) then (k, lo, cut) else h }).modCluster
        (8 * d + cl) fun c => { c with chunks := [(k, cut, hi)] }
def execClusterSteal (d cl : Nat) (s : State) : Out := .next (s.clusterSteal d cl)

/-- `CROSS DIE STEAL`: the upper half, rounded down, of the untaken range of the most urgent node with DIE 10 that is distributing on the
other die (log entry 122). -/
def State.crossSteal (s : State) (d : Nat) : State :=
  let can := fun (p : Nat × Node) => p.2.dieSel == 2 && (p.2.untaken.all fun u => u.1 != d) && p.2.untaken.any fun u => u.2.1 + 2 ≤ u.2.2
  if s.culvert.state != .up || s.poolSize d != 0 || 2 ≤ d then s
  else match minOn urgency ((s.spreading (1 - d)).filter can) with
    | none => s
    | some (k, n) =>
      match n.untaken.head? with
      | none => s
      | some (o, lo, hi) =>
        let cut := hi - (hi - lo) / 2
        s.setNode k { n with untaken := [(o, lo, cut), (d, cut, hi)] }
def execCrossDieSteal (d : Nat) (s : State) : Out := .next (s.crossSteal d)

/-! ### Pre-emption (R287) and reclaims (14_column R296) -/

/-- The state without a resident team. -/
def State.without (s : State) (tid : Nat) : State :=
  { s with teams := SMap.erase s.teams tid, groups := s.groups.filter fun (p : Nat × Group) => p.2.team != tid }

def dieCores (d : Nat) : List Nat := (List.range 96).map (coreKey d)

/-- A team that waits for a core: one of a node that is distributing, one placed on a core that cannot take it, or a saved one. -/
inductive Waiter where
  | untaken (n : Node)
  | placed (t : Team)
  | saved (t : Team)
  deriving DecidableEq, Repr
/-- A core can admit the waiting team: a placed team's own core only. -/
def State.admits (s : State) (w : Waiter) (ck : Nat) : Bool :=
  match w with
  | .untaken n => s.canAdmit ck n.kernel
  | .placed t => ck == coreKey t.die t.core && s.canAdmit ck t.kernel
  | .saved t => (s.restorePlan ck t).isSome
def State.waiterLevel (s : State) : Waiter → Nat
  | .untaken n => n.level
  | .placed t | .saved t => s.teamLevel t

/-- The teams at level 0-3 that wait on a die and that no core of it can admit, the most urgent first. -/
def State.starved (s : State) (d : Nat) : List Waiter :=
  let waits := fun (p : Nat × Node) => p.2.stage == .distributing && s.ctxRuns p.2.ctx
    && ((p.2.untaken.any fun u => u.1 == d) || (List.range 8).any fun c => (s.cluster (8 * d + c)).chunks.any fun h => h.1 == p.1)
  let nodes := (sortOn urgency (s.nodes.filter waits)).map fun p => Waiter.untaken p.2
  let here := fun (p : Nat × Team) => p.2.die == d && s.ctxRuns (s.teamCtx p.2)
  let placed := (s.teams.filter fun p => p.2.stage == .placed && here p).map fun p => Waiter.placed p.2
  let saved := (s.restorable.filter here).map fun p => Waiter.saved p.2
  sortOn s.waiterLevel ((saved ++ placed ++ nodes).filter fun w => decide (s.waiterLevel w ≤ 3) && !(dieCores d).any (s.admits w))

/-- The victim for a waiting team: of the highest-numbered level, then the most recently admitted, then of the lowest core. -/
def State.victim (s : State) (d : Nat) (w : Waiter) : Option (Nat × Team) :=
  let able := fun (p : Nat × Team) => p.2.resident && p.2.die == d && p.2.saveReq.isNone && decide (s.waiterLevel w < s.teamLevel p.2)
    && (s.without p.1).admits w (coreKey d p.2.core)
  maxOn (fun p : Nat × Team => (s.teamLevel p.2 * (1 <<< 64) + p.2.admitTime) * 128 + (95 - p.2.core)) (s.teams.filter able)

/-- A save of a team of the die is under way. -/
def State.saving (s : State) (d : Nat) : Bool := s.teams.any fun p => p.2.die == d && p.2.resident && !p.2.saveFault && (p.2.saveReq.isSome
  || match p.2.stage with | .saving _ => true | _ => false)

/-- `DISTRIBUTOR PREEMPT`: the victim's save is requested. -/
def State.preempt (s : State) (d : Nat) : State :=
  if s.saving d then s
  else match (s.starved d).findSome? (s.victim d) with
    | some p => s.requestSave p.1 0xD0
    | none => s
def execDistributorPreempt (d : Nat) (s : State) : Out := .next (s.preempt d)

/-- A report of R303, and its trail record for the events that have one. -/
def State.thermalEvent (s : State) (ck ev : Nat) : State :=
  let d := ck / 96
  let thm := fld (s.thmStat ck) 0 32
  let s := s.report d fun seq =>
    { w0 := BitVec.ofNat 64 (thm + (ev <<< 32)), w1 := 0, w2 := BitVec.ofNat 64 ((d <<< 6) + ((ck % 96) <<< 7)),
      w3 := BitVec.ofNat 64 (((seq % 65536) <<< 32) + (5 <<< 56)) }
  if ev == 2 || ev == 4 || ev == 5 || ev == 7 then s.trail d 0x0A 0 ck (leBytes 4 thm ++ [BitVec.ofNat 8 ev]) else s

/-- A lender's windows are reclaimed: their contents are discarded, and the report is written. -/
def State.reclaim (s : State) (ck : Nat) : State :=
  if s.lent ck == 0 then s
  else
    let gone := fun (w : Window) => if w.lender == ck then { w with reclaimed := true, data := [] } else w
    ({ s with
        teams := s.teams.map fun (p : Nat × Team) =>
          (p.1, if p.2.resident then { p.2 with windows := p.2.windows.map gone } else p.2) }).thermalEvent ck 11

/-- The lender that the die distributor reclaims for a starved team (R296): borrowers of the highest-numbered level, then the
lowest `%core`. -/
def State.reclaimFor (s : State) (d : Nat) (w : Waiter) : Option Nat :=
  let borrower := fun (ck : Nat) => ((s.teams.filter fun p => p.2.resident && p.2.windows.any fun w => w.lender == ck && !w.reclaimed).map
    fun p => s.teamLevel p.2).foldl max 0
  let able := fun (ck : Nat) => s.lent ck != 0 && (s.columnClass ck).isNone && (s.reclaim ck).admits w ck
  if (s.victim d w).isSome then none else maxOn borrower ((dieCores d).filter able)
def State.reclaimTarget (s : State) (d : Nat) : Option Nat :=
  if s.saving d then none else (s.starved d).findSome? (s.reclaimFor d)

end Sys2Proof.Machine
end

