-- ==== Sys2Proof/Machine/Spark.lean ====
section
/-! DEFINITION. The spark generator and its instructions (06_group_float R151-R154). -/

namespace Sys2Proof.Machine

/-- One round of the generator: counters and keys. -/
structure SparkState where
  c0 : W32
  c1 : W32
  c2 : W32
  c3 : W32
  k0 : W32
  k1 : W32
  deriving DecidableEq, Repr

def mulHiLo (m x : W32) : W32 × W32 :=
  let p : Word := m.setWidth 64 * x.setWidth 64
  (hi32 p, lo32 p)

def SparkState.round (t : SparkState) : SparkState :=
  let (hi0, lo0) := mulHiLo 0xD2511F53 t.c0
  let (hi1, lo1) := mulHiLo 0xCD9E8D57 t.c2
  { c0 := hi1 ^^^ t.c1 ^^^ t.k0, c1 := lo1, c2 := hi0 ^^^ t.c3 ^^^ t.k1, c3 := lo0,
    k0 := t.k0 + 0x9E3779B9, k1 := t.k1 + 0xBB67AE85 }
def sparkRounds : Nat → SparkState → SparkState
  | 0, t => t
  | n + 1, t => sparkRounds n t.round

/-- `Spark` (R151): words 0 to 3. -/
def spark (k0 k1 c0 c1 c2 c3 : W32) : List W32 :=
  let t := sparkRounds 10 { c0 := c0, c1 := c1, c2 := c2, c3 := c3, k0 := k0, k1 := k1 }
  [t.c0, t.c1, t.c2, t.c3]

/-- The draw of a key stream of a seed (R151). -/
def sparkSeed (seed : Word) (stream : Nat) (c0 c1 c2 c3 : W32) : List W32 :=
  spark (lo32 seed ^^^ (BitVec.ofNat 32 stream * 0x9E3779B9)) (hi32 seed) c0 c1 c2 c3

/-- The draw of a lane of the issuing group (R151). -/
def State.draw (s : State) (e : Env) (stream : Nat) (tag : Nat) (l : Nat) (seq : W32) : List W32 :=
  let n := s.node? e.t.node
  let gx := (n.map (·.gridx)).getD 0
  let gy := (n.map (·.gridy)).getD 0
  sparkSeed (s.raw (0x500 + e.x)) stream ((s.teamNodeId e.t).setWidth 32) (BitVec.ofNat 32 (e.t.x + gx * (e.t.y + gy * e.t.z)))
    (BitVec.ofNat 32 (tag * 65536 + 32 * e.g.gidx + l)) seq

/-- Stochastic rounding of a lane (R154, 02_numbers R36): the 16 drawn bits. -/
def State.rsMode (s : State) (e : Env) (l : Nat) (seq : W32) : RMode :=
  let tag := bitsOf (e.ig.pc - e.t.kernel.image).toNat 3 16
  .rs (((s.draw e 15 tag l seq).getD 0 0).toNat % 65536)

/-- `SPARK` (R152). -/
def execSpark (g : Guard) (f : FmtX) (s : State) : Out :=
  runAlu (.spark g f) (fun e s =>
    let n := 1 <<< (f.fld 6 2).toNat
    let w := fun l => s.draw e (f.fld 8 4).toNat (f.fld 12 16).toNat l (e.src32 0 l)
    let r : Lanes (List W32) := lanes fun l => if e.act.getLsbD l then w l else []
    { regs := if f.d == 255 then [] else (List.range n).map fun k =>
        write32 (f.d + BitVec.ofNat 8 k) e.act fun l => (Lanes.at r l).getD ((f.fld 4 2).toNat + k) 0,
      long := some .other }) s

/-- `RMASK` (R153). -/
def execRmask (g : Guard) (f : FmtX) (s : State) : Out :=
  runAlu (.rmask g f) (fun e s =>
    let hit := maskOf fun l => e.act.getLsbD l &&
      decide (((s.draw e (f.fld 8 4).toNat (f.fld 12 16).toNat l (e.src32 0 l)).getD 0 0).toNat % 65536
        < min (e.src32 1 l).toNat 65536)
    { regs := [write32 f.d e.act fun _ => hit], preds := [{ p := f.fld 5 3, mask := e.act, vals := hit }] }) s

end Sys2Proof.Machine
end

