-- ==== Sys2Proof/Machine/Sample.lean ====
section
/-! DEFINITION. The deep sample buffer (17_sample R351-R357), bands and band periods (R345, R346, R358, 18_link R383, R384), the
sampler (R347-R350) and the mode and epoch changes that a boundary brings (01_device R17). -/

namespace Sys2Proof.Machine

/-! ### Sample records (R351, R352) -/

def recWord (r : SampleRec) (k : Nat) : Nat := (r.getD k 0).toNat
def recX (r : SampleRec) : Nat := bitsOf (recWord r 0) 0 16
def recY (r : SampleRec) : Nat := bitsOf (recWord r 0) 16 16
def recTime (r : SampleRec) : Nat := recWord r 1 + (bitsOf (recWord r 2) 0 8 <<< 32)
def recPolicy (r : SampleRec) : Nat := bitsOf (recWord r 6) 16 16
def recTile (r : SampleRec) : Nat := recY r / 256 * 240 + recX r / 256
def recBytes (r : SampleRec) : List Byte := (r.map fun w => leBytes 4 w.toNat).flatten
/-- A number that is smaller for the better record. -/
def recKey (r : SampleRec) : Nat :=
  let sid := (recWord r 7 <<< 32) + (recY r <<< 16) + recX r
  ((((((65535 - recPolicy r) <<< 40) + (1099511627775 - recTime r)) <<< 64) + sid) <<< 256) + leNat (recBytes r)

/-! ### Settings of a die (R353, R361) -/

def State.cap (s : State) (d : Nat) : Nat := s.rf (0x700 + d) 21 2
/-- N and the records a column's pool holds. -/
def capSlots (c : Nat) : Nat := match c with | 0 => 16 | 1 => 32 | 2 => 64 | _ => 96
def capPool (c : Nat) : Nat := match c with | 0 => 54736 | 1 => 45136 | 2 => 25936 | _ => 6736
def State.smpCtx (s : State) (d : Nat) : Nat := s.rf (0x700 + d) 29 6
/-- E as die `d` has it: the value of the last restart (R345). -/
def State.sceneE (s : State) (d : Nat) : Nat :=
  match s.epochWait with
  | some p => if p.first == some d then s.rf 0x712 0 40 else fld p.val 0 40
  | none => s.rf 0x712 0 40
/-- The nominal start of a period, and the cut-off of its band. -/
def State.nominal (s : State) (d q : Nat) : Nat := s.sceneE d + q * s.rf (0x70C + d) 0 20
def State.cutOff (s : State) (d q : Nat) : Int := Int.ofNat (s.nominal d q) - Int.ofNat (s.rf (0x70C + d) 20 20)

/-! ### Bands and gates (R354) -/

def Band.init (p : Nat) : Band :=
  { p := p, node := none, due := false, retired := false, reads := [], late := [], overs := [], lateMaps := 0, lostX := 0,
    incomplete := false, waitPassed := false }
def Die.band (x : Die) (p : Nat) : Band := (x.bands.find? fun b => b.p == p).getD (Band.init p)
def State.modBand (s : State) (d p : Nat) (f : Band → Band) : State :=
  s.modDie d fun x => { x with bands := insertOn (·.p) (f (x.band p)) (x.bands.filter fun b => b.p != p) }

/-- The current period has ended its reads. -/
def Die.readsEnded (x : Die) : Bool := x.phase != 0 || (x.band x.period).retired
/-- The first period from now on whose band is `b` and that has not ended its reads. -/
def Die.nextOf (x : Die) (b : Nat) : Nat :=
  let q := x.period + (b + 240 - x.period % 240) % 240
  if q == x.period && x.readsEnded then q + 240 else q
/-- The bands that read a tile row. -/
def rowBands (r : Nat) : List Nat := [r - 1, r, r + 1].eraseDups.filter fun b => decide (b < 240)
/-- The earliest period that reads row `r` and has not ended its reads. -/
def Die.reader (x : Die) (r : Nat) : Nat := ((rowBands r).map x.nextOf).foldl min (x.period + 480)
/-- The earliest period that reads row `r` and whose trail record, which carries the row's counts, is still to come (R357): the period
in progress has one only if it has a band node, or is late for want of a context (R346). -/
def Die.charged (x : Die) (r : Nat) : Nat :=
  let next := fun (b : Nat) => let q := x.nextOf b; if q == x.period && !(x.band q).due then q + 240 else q
  ((rowBands r).map next).foldl min (x.period + 480)
/-- The period whose trail record comes next. -/
def Die.chargedNow (x : Die) : Nat := if x.readsEnded || !(x.band x.period).due then x.period + 1 else x.period
def addCount (m : SMap Nat) (k n : Nat) : SMap Nat := SMap.set m k (SMap.getD m k 0 + n)
def sumCounts (m : SMap Nat) : Nat := (m.map (·.2)).sum
/-- The gate of a tile row; none is +∞. -/
def State.gate (s : State) (d r : Nat) : Option Int :=
  if s.cut d then some (s.cutOff d ((s.die d).reader r)) else none
def belowGate (g : Option Int) (t : Nat) : Bool := match g with | none => true | some g => decide (Int.ofNat t < g)

/-! ### Buckets (R353, R355, R357) -/

def Bucket.init (n : Nat) : Bucket :=
  { live := [], limit := n, age := 0, deferred := [], owner := none, held := [], newLimit := none, newAge := none }
def State.bucketDefault (s : State) (d : Nat) : Bucket := SMap.getD (s.die d).buckets 57600 (Bucket.init (capSlots (s.cap d)))
def State.bucket (s : State) (d t : Nat) : Bucket := SMap.getD (s.die d).buckets t (s.bucketDefault d)
/-- Poison marks follow their records when the live sets of a die change from `old` (15_context R329). -/
def State.moveDsb (s : State) (old : State) (d : Nat) : State :=
  if s.marks.isEmpty then s
  else { s with
    marks := s.marks.filterMap fun e => match e with
      | .dsb dd t r =>
        if dd != d then some e
        else match (old.bucket d t).live[r]? with
          | none => none
          | some rec0 => ((s.bucket d t).live.findIdx? (· == rec0)).map fun k => .dsb dd t k
      | e => some e }
/-- The record of a rank holds poisoned data. -/
def State.dsbPoison (s : State) (d t r : Nat) : Bool := s.marks.any fun e => match e with
  | .dsb dd tt rr => dd == d && tt == t && rr == r
  | _ => false
def State.setBucket (s : State) (d t : Nat) (b : Bucket) : State :=
  (s.modDie d fun x => { x with buckets := SMap.set x.buckets t b }).moveDsb s d

/-- Deferred records of the column of tile `t`. -/
def State.poolUsed (s : State) (d t : Nat) : Nat :=
  (((s.die d).buckets.filter fun p => p.1 % 96 == t % 96 && p.1 != 57600).map fun p => p.2.deferred.length).sum

/-- A record that joins the live set has missed a read that its scene time assigned it to (R357), also one of a period before the
numbering was restarted. -/
def State.isLate (s : State) (d t : Nat) (r : SampleRec) : Bool :=
  let x := s.die d
  let time := Int.ofNat (recTime r)
  let row := t / 240
  (rowBands row).any (fun b => let q := x.nextOf b; decide (240 ≤ q) && decide (time < s.cutOff d (q - 240)))
    || (rowBands row).any (fun b => (SMap.get? x.oldCuts b).any fun c => decide (time < c))
    || ((rowBands row).contains (x.period % 240) && (x.band x.period).reads.contains t && decide (time < s.cutOff d x.period))

/-- The record joins the live set; the worst beyond the limit is evicted. -/
def State.insertLive (s : State) (d t : Nat) (r : SampleRec) : State :=
  let row := t / 240
  let s := if s.isLate d t r then s.modBand d ((s.die d).charged row) fun b => { b with late := addCount b.late row 1 } else s
  let b := s.bucket d t
  s.setBucket d t { b with live := (insertOn recKey r b.live).take b.limit }

/-- The insertion of a record in an unlocked bucket (R355). -/
def State.putRecord (s : State) (d t : Nat) (r : SampleRec) : State :=
  let b := s.bucket d t
  let g := s.gate d (t / 240)
  let s := s.modDie d fun x => { x with applied := x.applied + 1 }
  if b.live.contains r || b.deferred.contains r then s
  else if belowGate g (recTime r) then s.insertLive d t r
  else if s.poolUsed d t < capPool (s.cap d) then s.setBucket d t { b with deferred := b.deferred ++ [r] }
  else s.modBand d ((s.die d).charged (t / 240)) fun b => { b with overs := addCount b.overs (t / 240) 1 }

/-- A record arrives at its bucket: a locked one holds it. -/
def State.arrive (s : State) (d : Nat) (i : Insertion) : State :=
  let t := recTile i.smp
  let b := s.bucket d t
  if b.owner.isSome then s.setBucket d t { b with held := b.held ++ [i] } else s.putRecord d t i.smp

/-- The bucket is unlocked, and its held insertions are applied. -/
def State.unlock (s : State) (d t : Nat) : State :=
  let b := s.bucket d t
  b.held.foldl (fun s i => s.putRecord d t i.smp) (s.setBucket d t { b with owner := none, held := [] })
/-- The owner retires or is saved. -/
def State.unlockAll (s : State) (d tid : Nat) : State :=
  ((s.die d).buckets.filter fun p => p.2.owner == some tid).foldl (fun s p => s.unlock d p.1) s

/-- A gate has risen: deferred records below it are inserted (R355). -/
def State.gateRise (s : State) (d : Nat) : State :=
  ((s.die d).buckets.filter fun p => !p.2.deferred.isEmpty).foldl (fun s p =>
    let g := s.gate d (p.1 / 240)
    let b := s.bucket d p.1
    let go := b.deferred.filter fun r => belowGate g (recTime r)
    let s := s.setBucket d p.1 { b with deferred := b.deferred.filter fun r => !belowGate g (recTime r) }
    go.foldl (fun s r =>
      let b := s.bucket d p.1
      if b.owner.isSome then s.setBucket d p.1 { b with held := b.held ++ [{ smp := r, reply := none }] } else s.insertLive d p.1 r) s) s

/-- `SAMPLE INSERTION` (R355): one of the records under way arrives. -/
def State.sampleInsertion (s : State) (d : Nat) : State :=
  let l := (s.die d).insertions
  if l.isEmpty then s
  else
    let (k, s) := s.pick l.length
    match l[k]? with
    | none => s
    | some i => (s.modDie d fun x => { x with insertions := l.eraseIdx k }).arrive d i
def execSampleInsertion (d : Nat) (s : State) : Out := .next (s.sampleInsertion d)

/-- `XEYE RECEIVE` (R367): a borrowed record arrives over the culvert. -/
def State.xeyeReceive (s : State) (d : Nat) : State :=
  match (s.die d).xeyes with
  | [] => s
  | i :: r =>
    if !s.culvertOpen then s
    else (s.modDie d fun x => { x with xeyes := r, lowPending := x.lowPending.map fun p => (p.1, p.2 - 1) }).arrive d i
def execXeyeReceive (d : Nat) (s : State) : Out := .next (s.xeyeReceive d)

/-! ### Low-water marks (R350) -/

def Wave.time (w : Wave) : Nat := (w.draws.map (·.time)).foldl min (1 <<< 64)
def State.lowMark (s : State) (d : Nat) : Nat :=
  let x := s.die d
  let ts := x.waves.map Wave.time ++ x.waveLive.map (·.time)
  match ts with
  | [] => s.nominal d (x.period + 1)
  | a :: r => r.foldl min a

/-- The mark may be sent: it has risen, and 256 cycles, counted on the die's cluster 0 (log entry 100), have passed since the last. -/
def State.canSendMark (s : State) (d : Nat) : Bool :=
  s.culvertOpen && decide ((s.die d).lowSent < s.lowMark d) && decide ((s.die d).lowTime ≤ (s.cluster (8 * d)).cycles)
/-- `LOW WATER MARK SEND`. -/
def State.sendMark (s : State) (d : Nat) : State :=
  if !s.canSendMark d || 2 ≤ d then s
  else
    let m := s.lowMark d
    let s := s.modDie d fun x => { x with lowSent := m, lowTime := (s.cluster (8 * d)).cycles + 256 }
    s.modDie (1 - d) fun x => { x with lowPending := x.lowPending ++ [(m, x.xeyes.length)] }
def execLowWaterMarkSend (d : Nat) (s : State) : Out := .next (s.sendMark d)

/-- `LOW WATER MARK ARRIVAL`: after every record sent before it. -/
def State.markArrives (s : State) (d : Nat) : State :=
  match (s.die d).lowPending with
  | (m, 0) :: r => if s.culvertOpen then s.modDie d fun x => { x with lowPeer := m, lowPending := r } else s
  | _ => s
def execLowWaterMarkArrival (d : Nat) (s : State) : Out := .next (s.markArrives d)

/-! ### Time of a band period (R345, 18_link R383) -/

/-- The length of a band period at a rate, in 1/27 ticks. -/
def periodLen (rate : Nat) : Nat := match rate with | 0 => 15625000 | 1 => 12500000 | 2 => 9375000 | _ => 7812500
/-- `DISP_CFG[1].SKEW` in 1/27 ticks, for the right die. -/
def State.skew (s : State) (d : Nat) : Int := if d == 1 then 27 * signedOf (s.rf 0x749 32 16) 16 else 0
/-- End of the current period, in 1/27 ticks: the deadline of its band node. -/
def State.periodEnd (s : State) (d : Nat) : Int :=
  Int.ofNat ((s.die d).periodStart + periodLen (s.die d).rate) + s.skew d
def State.now27 (s : State) (d : Nat) : Int := 27 * Int.ofNat (s.die d).ticks
def State.periodOver (s : State) (d : Nat) : Bool := decide (s.periodEnd d ≤ s.now27 d)
/-- The tick at which the period ends. -/
def State.endTick (s : State) (d : Nat) : Nat := (s.periodEnd d / 27).toNat

/-! ### Deadlines (R358) -/

/-- The counts of a band in a trail record (19_trail R389). -/
def Band.payload (b : Band) (late : Bool) : List Byte :=
  leBytes 8 b.p ++ leBytes 2 (min 65535 (sumCounts b.late)) ++ leBytes 2 (min 65535 (sumCounts b.overs))
    ++ [BitVec.ofNat 8 (min 255 b.lateMaps), BitVec.ofNat 8 (min 255 b.lostX), BitVec.ofNat 8 (b2n b.incomplete + 2 * b2n late)]

/-- The periods to whose cut-off the gates of all the rows that their bands read have come: of the current one, the next, and that of the
next band 0 (R354). -/
def State.atCut (s : State) (d : Nat) : List Nat :=
  let x := s.die d
  if !s.cut d then []
  else ([x.period, x.period + 1, x.nextOf 0].eraseDups).filter fun q =>
    ([q % 240 - 1, q % 240, q % 240 + 1].eraseDups.filter fun r => decide (r < 240)).all fun r => x.reader r == q
/-- The trail records of the bands whose gates have reached their cut-off since they stood at those of `old` (19_trail R389, log entry
112). -/
def State.cutTrail (s : State) (d t : Nat) (old : List Nat) : State :=
  ((s.atCut d).filter fun q => !old.contains q).foldl (fun s q =>
    s.trailAt d t 0x02 0 (q % 240) (leBytes 8 q ++ leBytes 5 ((s.cutOff d q) % 1099511627776).toNat)) s

def State.shownIdx (s : State) (d b : Nat) : Nat := SMap.getD (s.die d).shown b 0

/-- `BAND DEADLINE`: at T the band is shown, or it is late. -/
def State.bandDeadline (s : State) (d : Nat) : State :=
  let x := s.die d
  if x.phase != 0 || !s.periodOver d || 2 ≤ d then s
  else
    let q := x.period
    let b := q % 240
    let band := x.band q
    let ctx := s.smpCtx d
    let old := s.atCut d
    let s :=
      if !band.due then s
      else if band.retired then
        (s.modDie d fun x => { x with shown := SMap.put x.shown 0 b (1 - s.shownIdx d b) }).trailAt d (s.endTick d) 0x06 0 b (leBytes 8 q)
      else
        let s := s.trailAt d (s.endTick d) 0x08 ctx b (band.payload true)
        let s := s.postEngine (8 * d) (BitVec.ofNat 64 (4 + (b <<< 8) + (ctx <<< 16) + (d <<< 22)), BitVec.ofNat 64 (q % 4294967296))
        let s := s.setRaw (0x74A + d) (setBits (s.raw (0x74A + d)) 32 32 (s.rf (0x74A + d) 32 32 + 1))
        s.modDie d fun x => { x with lateBands := x.lateBands + 1 }
    let s := s.modDie d fun x => { x with phase := 1 }
    (s.cutTrail d (s.endTick d) old).gateRise d
def execBandDeadline (d : Nat) (s : State) : Out := .next (s.bandDeadline d)

/-- `WAIT LIMIT EXPIRY` (R356): the band's waiting reads proceed. -/
def State.canExpire (s : State) (d : Nat) : Bool :=
  let x := s.die d
  s.cut d && x.phase == 0 && !(x.band x.period).waitPassed && (x.band x.period).node.isSome
    && decide (s.periodEnd d - 27 * Int.ofNat (s.rf (0x70C + d) 40 20) ≤ s.now27 d)
def State.waitLimit (s : State) (d : Nat) : State :=
  if s.canExpire d then s.modBand d (s.die d).period fun b => { b with waitPassed := true } else s
def execWaitLimitExpiry (d : Nat) (s : State) : Out := .next (s.waitLimit d)

/-- The bytes of the shown copy of a band that memory lists, by offset (18_link R384). -/
def copyBytes : Nat := 245760
def State.bandCopy (s : State) (d b idx : Nat) : Nat := s.rf (0x74C + d) 21 31 * 2097152 + (2 * b + idx) * copyBytes
def State.shownCells (s : State) (d b : Nat) : List Host.Cell :=
  let src := s.bandCopy d b (s.shownIdx d b)
  (s.mem.filter fun c => decide (src ≤ c.1) && decide (c.1 < src + copyBytes)).map fun c => (c.1 - src, c.2)

/-- `START OF SCAN` (18_link R383-R385): the scan of the band whose period ends begins. An output that is ACTIVE sends the band's shown
copy, from the first band 0 on that finds it so, as it stands then (log entry 124); one in another state reads nothing. -/
def State.startOfScan (s : State) (d : Nat) : State :=
  let x := s.die d
  if x.phase != 1 || 2 ≤ d then s
  else
    let b := x.period % 240
    let on := x.dispOn == 2 && (x.scanning || b == 0)
    s.modDie d fun x => { x with phase := 2, scanning := on, scan := if on then some (b, s.shownCells d b) else none }
def execStartOfScan (d : Nat) (s : State) : Out := .next (s.startOfScan d)

/-! ### Maps (R347, R366) -/

/-- A value that writes of one cell give, whatever their order. -/
def combineWrites (old : Nat) (ws : List MapWrite) : Nat :=
  let of := fun (o : MapOp) => (ws.filter fun w => w.op == o).map (·.val)
  let v := if (of .set).isEmpty then old else (of .set).foldl max 0
  min 65535 ((of .max).foldl max v + (of .add).sum)

/-- The host's writes of the weights that wait on a die, field by field: what the last of them leaves in a field is a set (log entry
107). -/
def State.hostWeights (s : State) (d : Nat) : List MapWrite :=
  let touched := (s.regWaits.filter fun w => w.2.1 == 0x704 + d && w.1 < 2).foldl (fun m w => m ||| w.2.2.2) 0
  ((List.range 4).filter fun k => fld touched (16 * k) 16 != 0).map fun k =>
    { map := 3, cell := k, op := .set, val := fld (s.kept (0x704 + d)) (16 * k) 16 }

/-- Map and weights writes due at the boundary apply. -/
def State.applyMaps (s : State) (d : Nat) : State :=
  let ws := (s.die d).mapWrites ++ s.hostWeights d
  let s := { s with regWaits := s.regWaits.filter fun w => w.2.1 != 0x704 + d || 2 ≤ w.1 }
  let keys := (ws.map fun w => (w.map, w.cell)).eraseDups
  let s := keys.foldl (fun s k =>
    let mine := ws.filter fun w => w.map == k.1 && w.cell == k.2
    let x := s.die d
    let up := fun (m : SMap (BitVec 16)) =>
      SMap.put m 0 k.2 (BitVec.ofNat 16 (combineWrites (SMap.getD m k.2 0).toNat mine))
    if k.1 == 0 then s.setDie d { x with gaze := up x.gaze }
    else if k.1 == 1 then s.setDie d { x with motion := up x.motion }
    else if k.1 == 2 then s.setDie d { x with kinds := SMap.put x.kinds false k.2 (combineWrites 0 mine % 2 == 1) }
    else if k.1 == 3 then
      s.setRaw (0x704 + d) (setBits (s.raw (0x704 + d)) (16 * k.2) 16 (combineWrites (s.rf (0x704 + d) (16 * k.2) 16) mine))
    else s.setDie d { x with error := up x.error }) s
  s.modDie d fun x => { x with mapWrites := [] }

/-- The age of a cell (R347). -/
def Die.age (x : Die) (c : Nat) : Nat :=
  match SMap.get? x.chosenAt c with
  | some k => min 255 (x.boundaries - k - 1)
  | none => min 255 x.boundaries

/-- The priority of a cell (R348). -/
def State.cellPrio (s : State) (d c : Nat) : Nat :=
  let x := s.die d
  let w := fun k => s.rf (0x704 + d) (16 * k) 16
  w 0 * (SMap.getD x.gaze c 0).toNat + w 1 * (SMap.getD x.motion c 0).toNat + w 2 * (SMap.getD x.error c 0).toNat + w 3 * x.age c

/-! ### Draws and waves (R348, R349) -/

/-- Draws of each row: shares by floor, the rest to the largest remainders, lower rows first. -/
def allot (b : Nat) (rw : List Nat) : List Nat :=
  let s := rw.sum
  let base := rw.map fun r => b * r / s
  let left := b - base.sum
  let order := sortOn (fun p : Nat × Nat => s - p.1) ((rw.map fun r => b * r % s).zipIdx)
  let extra := (order.take left).map (·.2)
  base.zipIdx.map fun p => p.1 + (if extra.contains p.2 then 1 else 0)

/-- The smallest column whose running sum passes `w0`. -/
def chooseCol (total w0 : Nat) : List Nat → Nat → Nat → Nat
  | [], _, k => k
  | p :: r, acc, k => if w0 * total < (acc + 1 + p) * 4294967296 then k else chooseCol total w0 r (acc + 1 + p) (k + 1)

/-- The draws of one row: tile column and words. -/
def State.rowDraw (s : State) (d p r j : Nat) (prios : List Nat) : Nat × Nat :=
  let seed := s.raw (0x702 + d)
  let ws := spark (lo32 seed ^^^ (BitVec.ofNat 32 r * 0x9E3779B9)) (hi32 seed) (BitVec.ofNat 32 p) (BitVec.ofNat 32 (p >>> 32))
    (BitVec.ofNat 32 r) (BitVec.ofNat 32 j)
  let total := (prios.map (· + 1)).sum
  (min 239 (chooseCol total (ws.getD 0 0).toNat prios 0 0), (ws.getD 1 0).toNat)

/-- All draws of period `p`. -/
def State.drawsOf (s : State) (d p : Nat) : List Draw :=
  let x := s.die d
  let b := s.rf (0x700 + d) 0 20
  let rows := (List.range 240).map fun r => (List.range 240).map fun k => s.cellPrio d (240 * r + k)
  let counts := allot b (rows.map fun ps => 1 + ps.foldl max 0)
  let picks := ((rows.zip counts).zipIdx.map fun q =>
    (List.range q.1.2).map fun j => (q.2, q.1.1, s.rowDraw d p q.2 j q.1.1)).flatten
  picks.zipIdx.map fun q =>
    let r := q.1.1
    let col := q.1.2.2.1
    let w1 := q.1.2.2.2
    { x := 256 * col + w1 % 256, y := 256 * r + bitsOf w1 8 8,
      time := s.nominal d p + q.2 * s.rf (0x70C + d) 0 20 / b, kind := SMap.getD x.kinds (240 * r + col) false,
      policy := bitsOf (q.1.2.1.getD col 0) 18 16, index := x.draws0 + q.2, region := col / 30 }

/-- Positions gathered into waves: open ones, closed ones in the order in which they close, and the next wave number. -/
def gather : List Draw → List Wave → List Wave → Nat → List Wave × Nat
  | [], op, cl, n => (cl ++ sortOn (·.num) op, n)
  | d :: r, op, cl, n =>
    match op.find? fun w => w.region == d.region && w.kind == d.kind with
    | none => gather r ({ num := n, kind := d.kind, region := d.region, draws := [d] } :: op) cl (n + 1)
    | some w =>
      let w' := { w with draws := w.draws ++ [d] }
      let rest := op.filter fun v => v.num != w.num
      if w'.draws.length == 32 then gather r rest (cl ++ [w']) n else gather r (w' :: rest) cl n

/-- The sampler makes its draws in this period. -/
def State.samplerOn (s : State) (d : Nat) : Bool :=
  bitOf (s.raw (0x700 + d)).toNat 20 && s.rf (0x700 + d) 0 20 != 0 && decide (4 ≤ s.rf (0x70A + d) 0 5) && decide (s.rf (0x70A + d) 0 5 ≤ 16)

def State.makeDraws (s : State) (d p : Nat) : State :=
  if !s.samplerOn d then s
  else
    let ds := s.drawsOf d p
    let x := s.die d
    let (ws, n) := gather ds [] [] x.waveNum
    s.setDie d { x with
      waves := x.waves ++ ws, waveNum := n, draws0 := x.draws0 + ds.length,
      chosenAt := ds.foldl (fun m q => SMap.set m (q.y / 256 * 240 + q.x / 256) x.boundaries) x.chosenAt }

/-- The 512 bytes of a wave. -/
def Wave.bytes (w : Wave) : List Byte :=
  let es := (w.draws.map fun q => leBytes 2 q.x ++ leBytes 2 q.y ++ leBytes 5 q.time ++ [BitVec.ofNat 8 (1 + 2 * b2n q.kind)]
    ++ leBytes 2 q.policy ++ leBytes 4 q.index).flatten
  (es ++ List.replicate 512 0).take 512

/-- A record of RKIND `0x0A` (R346). -/
def State.smpReport (s : State) (d : Nat) (c : Cause) (n va kind lvl : Nat) : State :=
  s.report d ({ va := va, cause := c, kind := kind, lvl := lvl, ctx := s.smpCtx d, die := d, node := BitVec.ofNat 32 n, rkind := 10 } : Rec).report

/-- A node of the device's own (R346), as though an `ENQ` had accepted it, which measures its image: its key, or none for an invalid
image. -/
def State.deviceNode (s : State) (d : Nat) (kind : NodeKind) (image : Word) (prio id : Nat) : Option Nat × State :=
  match s.readKernel d (s.smpCtx d) image with
  | none => (none, (s.touchImage d (s.smpCtx d) image).smpReport d 0x97 id 0 0 0)
  | some k =>
    let (key, s) := ((s.measureImage d (s.smpCtx d) k).touchImage d (s.smpCtx d) image).fresh
    (some key, s.nodeReady key { Node.blank (s.smpCtx d) k with
      kind := kind, id := BitVec.ofNat 40 id, prio := prio, level := prio, dieSel := d } d)

/-- Image address of a kernel register. -/
def kernImage (w : Word) : Word := BitVec.ofNat 64 (fld w 8 44 * 256)

/-- The ring slot of a wave, and whether it is free. -/
def State.waveSlot (s : State) (d num : Nat) : Nat :=
  let log := s.rf (0x70A + d) 0 5
  num % (1 <<< (if 4 ≤ log && log ≤ 16 then log else 4))
def State.canWave (s : State) (d : Nat) : Bool :=
  match (s.die d).waves.head? with
  | none => false
  | some w => (s.die d).waveFault.isNone && (s.die d).waveLive.all fun v => v.slot != s.waveSlot d w.num

/-- `WAVE WRITE` (R349): the next closed wave is written to its slot and its node enqueued. -/
def State.waveWrite (s : State) (d : Nat) : State :=
  match (s.die d).waves with
  | [] => s
  | w :: rest =>
    if !s.canWave d then s
    else
      let slot := s.waveSlot d w.num
      let va := s.base (0x70A + d) + 512 * slot
      match s.deviceTranslate d (s.smpCtx d) va 1 with
      | (.wait, _) => s
      | (.fault c lvl, s) =>
        (s.modDie d fun x => { x with waveFault := some (s.seq.toNat, s.smpCtx d) }).smpReport d c w.num va 1 lvl
      | (.ok p, s) =>
        let n := w.draws.length
        let s := (s.writeHome p.pa w.bytes).modDie d fun x => { x with
          waves := rest, issuedDraws := x.issuedDraws + n, issuedAll := x.issuedAll + BitVec.ofNat 64 n }
        let kr := s.raw (0x706 + 2 * d + b2n w.kind)
        let sp := s.rf (0x700 + d) 24 5
        if !kr.getLsbD 0 then s
        else match s.deviceNode d (.wave w.num slot w.region) (kernImage kr) (if 4 ≤ sp && sp ≤ 23 then sp else 23) w.num with
          | (none, s) => s
          | (some k, s) => s.modDie d fun x => { x with waveLive := x.waveLive ++ [{ node := k, slot := slot, time := w.time }] }
def execWaveWrite (d : Nat) (s : State) : Out := .next (s.waveWrite d)

/-- The answer to the record of a fault on the wave ring (R349): replay, or the wave is discarded. -/
def State.waveResume (s : State) (d : Nat) (replay : Bool) : State :=
  s.modDie d fun x => { x with waveFault := none, waves := if replay then x.waves else x.waves.drop 1 }

/-! ### Retirement of the device's nodes -/

/-- What the retirement of a node means to the sampler and the bands (R349, R354, R358). -/
def State.nodeGone (s : State) (k : Nat) (n : Node) : State :=
  let d := n.die
  match n.kind with
  | .wave _ _ _ => s.modDie d fun x => { x with
      waveLive := x.waveLive.filter fun v => v.node != k, retiredWaves := x.retiredWaves + 1 }
  | .band q _ =>
    let x := s.die d
    if x.period == q && x.phase == 0 && (x.band q).node == some k && !(x.band q).retired then
      let old := s.atCut d
      let s := s.trail d 0x05 n.ctx (q % 240) ((x.band q).payload false)
      ((s.modBand d q fun b => { b with retired := true }).cutTrail d (s.die d).ticks old).gateRise d
    else s
  | .policy _ => s
  | .plain => s

/-! ### Mode changes and restarts (01_device R17) -/

/-- One full period of `len` lies between a tick and a boundary at `t`, both of them in 1/27 ticks. -/
def periodPassed (tick t len : Nat) : Bool := decide (27 * tick + len ≤ t)
/-- The change may take effect at a left-eye boundary at time `t`, one period of `len` having passed, in 1/27 ticks. -/
def PendMode.ripe (p : PendMode) (t len : Nat) : Bool :=
  periodPassed p.written t len && (!p.due || p.back.any fun b => periodPassed b t len)

/-- `TMODE.ACTIVE` takes the value of TOURN, on both dies at once; MEAS[6] is extended (19_trail R392). -/
def State.modeChange (s : State) (t : Nat) : State :=
  let old := fld (s.readReg 0x785) 0 2
  let s := { s with mode := s.raw 0x785 |>.getLsbD 0, modeWait := none }
  -- clocks and biases of the mode in force (R16, 14_column R307)
  let s := [0, 1].foldl (fun (s : State) d => s.modDie d fun x => { x with clockMhz := if s.mode then 1200 else s.rf (0x796 + d) 0 11 }) s
  let s := (List.range 16).foldl (fun (s : State) c => s.modCluster c fun x => { x with
      applied := if s.mode then Config.biasCal c else (s.raw (0x270 + c)).setWidth 8 }) s
  let s := s.extendMeas 6 (sha256 s.configBlock)
  let pay := [BitVec.ofNat 8 (fld (s.readReg 0x785) 0 2), BitVec.ofNat 8 old]
  (s.trailAt 0 t 0x09 0 0 pay).trailAt 1 t 0x09 0 0 pay

/-- What a left-eye boundary at `t` in 1/27 ticks does to a pending mode change. The gates of the right die, which may rise with it, let
their deferred records in at once (17_sample R355). -/
def State.boundaryMode (s : State) (t len : Nat) : State :=
  match s.modeWait with
  | none => s
  | some p =>
    if periodPassed p.written t len && !s.culvertOpen then { s with modeWait := some { p with due := true, back := none } }
    else if p.ripe t len then (s.modeChange (t / 27)).gateRise 1 else s

/-- A write of `SCENE_EPOCH`: E stays as it was until the restart (R345, 01_device R17). -/
def State.epochWrite (s : State) (v : Word) : State :=
  let old := match s.epochWait with | some p => p.val | none => s.raw 0x712
  { s.setRaw 0x712 v with epochWait := some { val := old, written := s.now, back := none, due := false, first := none } }
/-- A write that came between the restarts of the two dies. -/
def State.epochLater (s : State) : State :=
  match s.regWaits.find? fun w => w.1 == 2 with
  | some w => ({ s with regWaits := s.regWaits.filter fun w => w.1 != 2 } : State).epochWrite w.2.2.1
  | none => s

/-- The cut-offs of the periods before a restart, by band: those of the last frame, and of frames before an earlier restart. -/
def State.cutsBefore (s : State) (d : Nat) : SMap Int :=
  let x := s.die d
  (List.range 240).foldl (fun m b =>
    let c := s.cutOff d (x.period - 240 + b)
    SMap.set m b (max c ((SMap.get? m b).getD c))) x.oldCuts

/-- Numbering restarts on die `d` (R345), as its period becomes 0. The bands to come keep the counts that they carry under their new
numbers (R357). -/
def State.restart (s : State) (d : Nat) : State :=
  let cuts := s.cutsBefore d
  let s := match s.epochWait with
    | some p =>
      if p.first.isNone then { s with epochWait := some { p with first := some d } }
      else ({ s with epochWait := none } : State).epochLater
    | none => s
  s.modDie d fun x => { x with
    period := 0, bands := x.bands.map fun b => { b with p := b.p - x.period }, oldCuts := cuts, draws0 := 0, firstDraw := 0, waveNum := 0,
    lowSent := 0, lowPeer := 0 }

/-- The restart takes effect at this boundary of die `d`, the corresponding left-eye boundary being at `t` in 1/27 ticks. -/
def State.restarts (s : State) (d t len : Nat) : Bool :=
  match s.epochWait with
  | none => false
  | some p => (s.die d).period % 240 == 239 && (match p.first with
    | some k => k != d
    | none => s.culvertOpen && p.ripe t len)
/-- A restart falls due while the culvert is closed. -/
def State.epochDue (s : State) (d t len : Nat) : State :=
  match s.epochWait with
  | none => s
  | some p =>
    if (s.die d).period % 240 == 239 && p.first.isNone && !s.culvertOpen && periodPassed p.written t len then
      { s with epochWait := some { p with due := true, back := none } } else s

/-! ### The boundary (R11) -/

/-- Register writes that wait for the boundary of a die take effect (R361). A new CAP empties every bucket and pool and sets every limit
(R353); locks, and what they hold, stay. -/
def State.applyRegs (s : State) (d : Nat) : State :=
  let (mine, rest) := s.regWaits.partition fun w => w.1 == d
  let old := s.cap d
  let s := mine.foldl (fun (s : State) w => s.setRaw w.2.1 ((s.raw w.2.1 &&& ~~~w.2.2.2) ||| (w.2.2.1 &&& w.2.2.2))) { s with regWaits := rest }
  if s.cap d == old then s
  else
    let n := capSlots (s.cap d)
    (s.modDie d fun x => { x with
      buckets := x.buckets.map fun (p : Nat × Bucket) => (p.1, { p.2 with live := [], deferred := [], limit := n }) }).moveDsb s d

/-- New limits and age windows apply, and records beyond them are evicted (R355). -/
def State.applyBuckets (s : State) (d : Nat) : State :=
  let n := capSlots (s.cap d)
  let fix := fun (p : Nat × Bucket) =>
    let b := p.2
    let lim := match b.newLimit with | some v => min n (max 1 v) | none => b.limit
    let age := b.newAge.getD b.age
    let edge := match s.gate d (p.1 / 240) with | some g => g | none => Int.ofNat (s.nominal d (s.die d).period)
    let live := (b.live.filter fun r => age == 0 || decide (edge - Int.ofNat age ≤ Int.ofNat (recTime r))).take lim
    (p.1, { b with limit := lim, age := age, live := live, newLimit := none, newAge := none })
  (s.modDie d fun x => { x with buckets := x.buckets.map fix }).moveDsb s d

/-- The pending copy of a band becomes its shown copy's bytes (R358). -/
def State.copyShown (s : State) (d b : Nat) : State :=
  let dst := s.bandCopy d b (1 - s.shownIdx d b)
  let kept := s.mem.filter fun c => decide (c.1 < dst) || decide (dst + copyBytes ≤ c.1)
  { s with mem := (s.shownCells d b).foldl (fun m c => Memory.write m (c.1 + dst) c.2) kept }

/-- A period that writes no trail record hands its counts on: those of a row to the next period that reads it (R357), the others to the
next period. -/
def State.handOn (s : State) (d : Nat) : State :=
  let x := s.die d
  let b := x.band x.period
  if b.due then s
  else
    let s := s.modBand d x.period fun b => { b with late := [], overs := [], lateMaps := 0, lostX := 0 }
    let s := b.late.foldl (fun s (e : Nat × Nat) => s.modBand d (x.charged e.1) fun b => { b with late := addCount b.late e.1 e.2 }) s
    let s := b.overs.foldl (fun s (e : Nat × Nat) => s.modBand d (x.charged e.1) fun b => { b with overs := addCount b.overs e.1 e.2 }) s
    s.modBand d (x.period + 1) fun c => { c with lateMaps := c.lateMaps + b.lateMaps, lostX := c.lostX + b.lostX }

/-- The band and policy nodes of a period, and its draws (R346). -/
def State.enqueuePeriod (s : State) (d : Nat) : State :=
  let p := (s.die d).period
  if !s.ctxRuns (s.smpCtx d) then
    (s.modBand d p fun b => { b with due := true }).smpReport d 0x90 p 0 0 0
  else
    let rk := s.raw (0x70E + d)
    let s := if !rk.getLsbD 0 then s
      else match s.deviceNode d (.band p (s.periodEnd d).toNat) (kernImage rk) 0 p with
        | (none, s) => s
        | (some k, s) => (s.modBand d p fun b => { b with due := true, node := some k }).copyShown d (p % 240)
    let pk := s.raw (0x710 + d)
    let prio := fld pk 1 5
    let s := if !pk.getLsbD 0 then s
      else
        let (k, s) := s.deviceNode d (.policy p) (kernImage pk) (min 23 prio) p
        s.modDie d fun x => { x with polNode := k }
    s.makeDraws d p

/-- The trail records of a period's end (19_trail R389). -/
def State.periodTrail (s : State) (d t : Nat) : State :=
  let x := s.die d
  let s := s.trailAt d t 0x03 0 0 (leBytes 8 x.period ++ leBytes 4 x.issuedDraws ++ leBytes 4 x.firstDraw)
  (s.trailAt d t 0x04 0 0 (leBytes 8 x.period ++ leBytes 4 x.retiredWaves ++ leBytes 4 x.applied)).modDie d fun x => { x with
    issuedDraws := 0, retiredWaves := 0, applied := 0 }

/-- Die `d` takes a rate, also for the deadline of the period that it has begun (R345). -/
def State.takeRate (s : State) (d rate : Nat) : State :=
  let s := s.modDie d fun x => { x with rate := rate, rateNext := none }
  match ((s.die d).band (s.die d).period).node with
  | some k => s.modNode k fun n => match n.kind with
    | .band q _ => { n with kind := .band q (s.periodEnd d).toNat }
    | _ => n
  | none => s

/-- RATE applies at the left eye's band 0, to the frame that begins there on both dies (18_link R383, R385): the right die, whose boundaries
lie SKEW apart, has begun it or takes the rate when it does. -/
def State.rateBoundary (s : State) (d : Nat) : State :=
  let x := s.die d
  if x.period % 240 != 0 then s
  else if d == 1 then s.modDie 1 fun x => { x with rate := x.rateNext.getD x.rate, rateNext := none }
  else
    let r := s.rf 0x748 2 2
    let s := s.modDie 0 fun x => { x with rate := r }
    if x.boundaries < (s.die 1).boundaries then s.takeRate 1 r else s.modDie 1 fun x => { x with rateNext := some r }

/-- `BAND PERIOD BOUNDARY`: the next period begins. -/
def State.bandBoundary (s : State) (d : Nat) : State :=
  let x := s.die d
  if x.phase != 2 || 2 ≤ d then s
  else
    let len := periodLen x.rate
    let left := x.periodStart + len
    let t := s.endTick d
    let old := s.atCut d
    let s := s.periodTrail d t
    let s := s.epochDue d left len
    let again := s.restarts d left len
    let s := (s.rateBoundary d).modDie d fun x => { x with
      periodStart := x.periodStart + len, period := x.period + 1, phase := 0, boundaries := x.boundaries + 1, polNode := none,
      bands := x.bands.filter fun b => decide (x.period < b.p) }
    let s := if again then s.restart d else s
    let s := s.modDie d fun x => { x with firstDraw := x.draws0 }
    let s := (s.applyMaps d).applyRegs d
    let s := if d == 0 then s.boundaryMode left len else s
    (((s.applyBuckets d).cutTrail d t (if again then [] else old)).gateRise d |>.enqueuePeriod d).handOn d
def execBandPeriodBoundary (d : Nat) (s : State) : Out := .next (s.bandBoundary d)

end Sys2Proof.Machine
end

