-- ==== Sys2Proof/Machine/SampleOps.lean ====
section
/-! DEFINITION. The sample-buffer instructions (17_sample R362-R367, R370, R371): records, buckets and maps as a team's
threads reach them, and the movement of `SLD.sp`. -/

namespace Sys2Proof.Machine

/-! ### Checks (R362, R363) -/

/-- The record that operand `o` holds in a lane. -/
def Env.record (e : Env) (o l : Nat) : SampleRec := (List.range 8).map fun k => lo32 (e.reg o k l)
def recCheck (r : SampleRec) : Option Cause := if 61440 ≤ recX r || 61440 ≤ recY r then some 0xB1 else none

/-- The period and deadline of a team's band node. -/
def State.bandOf (s : State) (t : Team) : Option (Nat × Nat) :=
  match s.node? t.node with
  | none => none
  | some n => match n.kind with
    | .band q due => some (q, due)
    | _ => none

/-- The checks of an operation that names a bucket. -/
def bucketCheck (s : State) (d : Nat) (t : Team) (tile : Nat) : Option Cause :=
  if 57600 ≤ tile then some 0xB0
  else match s.bandOf t with
    | some (q, _) => if s.cut d && !(rowBands (tile / 240)).contains (q % 240) then some 0xB5 else none
    | none => none

/-! ### Replies (R362, 03_encoding R54) -/

/-- An operation whose replies `W_SM` waits for. -/
def State.awaitReplies (s : State) (e : Env) (done : Mask) : State :=
  if done == 0 then s
  else s.modGroup e.gk fun g => { g with
      ops := g.ops ++ [{ id := g.opSeq, cls := .sm, dests := [], writes := [], fx := noFx, wait := .replies, mask := done,
                         hdr := e.ig.hdr, sync := false, watched := [] }]
      opSeq := g.opSeq + 1 }

/-- A request of operation `id` of the group is under way: on its way to a bucket, on the culvert, or held by a lock. -/
def State.replyPending (s : State) (gk id : Nat) : Bool :=
  let mine := fun (i : Insertion) => i.reply == some (gk, id)
  [0, 1].any fun d =>
    let x := s.die d
    x.insertions.any mine || x.xeyes.any mine || x.buckets.any fun b => b.2.held.any mine

/-! ### `SREC` and `XEYE` (R363, R367) -/

def srecRes (e : Env) (s : State) : Res :=
  let id := e.g.opSeq
  let p := perLane s e.act fun s l =>
    let r := e.record 0 l
    match recCheck r <|> bucketCheck s e.d e.t (recTile r) with
    | some c => (.trap c 0, s)
    | none => (.ok [], s.modDie e.d fun x => { x with insertions := x.insertions ++ [{ smp := r, reply := some (e.gk, id) }] })
  ({ p with s := p.s.awaitReplies e p.done } : Perf).res {} []
def execSrec (g : Guard) (f : FmtM) (s : State) : Out := runWord (.srec g f) noCheck srecRes s

/-- The record with flags[0], borrowed from the other eye. -/
def borrowed (r : SampleRec) : SampleRec := r.zipIdx.map fun p => if p.2 == 2 then p.1 ||| 0x100 else p.1

def xeyeRes (f : FmtX) (e : Env) (s : State) : Res :=
  let id := e.g.opSeq
  let p := perLane s e.act fun s l =>
    let r := e.record 0 l
    match recCheck r with
    | some c => (.trap c 0, s)
    | none =>
      if s.culvert.state == .up then
        (.ok [1], s.modDie (1 - e.d) fun x => { x with xeyes := x.xeyes ++ [{ smp := borrowed r, reply := some (e.gk, id) }] })
      else if f.bit 22 then (.trap 0xB6 0, s)
      else (.ok [0], s)
  let got := maskOf fun l => p.done.getLsbD l && Lanes.at p.vals l == [1]
  ({ p with s := p.s.awaitReplies e got } : Perf).res { preds := [{ p := f.fld 25 3, mask := p.done, vals := got }] } []
def execXeye (g : Guard) (f : FmtX) (s : State) : Out := runWord (.xeye g f) noCheck (xeyeRes f) s

/-! ### Reads of buckets (R356, R357, R363, R364) -/

/-- The bucket of a tile is complete for a band node of period `q` (R356). -/
def State.complete (s : State) (d q tile : Nat) : Bool :=
  let c := s.cutOff d q
  let o := s.raw (0x714 + d)
  let col := tile % 240
  s.gate d (tile / 240) == some c && decide (c ≤ Int.ofNat (s.lowMark d))
    && (decide (col < fld o 0 8) || decide (fld o 8 8 < col) || decide (c ≤ Int.ofNat (s.die d).lowPeer))
/-- The team's node is the band node of the period in progress on die `d`, not one of an earlier period, nor of one of the same number
before a restart (R345). -/
def State.bandNow (s : State) (d : Nat) (t : Team) : Bool := ((s.die d).band (s.die d).period).node == some t.node
/-- A read of the bucket by a team of die `d` need not wait: those of a band node wait until the bucket is complete, or its wait limit or
deadline has passed. -/
def State.readReady (s : State) (d : Nat) (t : Team) (tile : Nat) : Bool :=
  match s.bandOf t with
  | none => true
  | some (q, _) =>
    !s.cut d || !s.bandNow d t || (s.die d).phase != 0 || ((s.die d).band q).waitPassed || s.complete d q tile
/-- A band node's read of the bucket now finds it incomplete. -/
def State.readMisses (s : State) (d : Nat) (t : Team) (tile : Nat) : Bool :=
  (s.bandOf t).any fun q => s.cut d && !(s.bandNow d t && s.complete d q.1 tile)

/-- A band node has read a bucket: the band remembers it, and is incomplete where the read could not wait (R356, R357). -/
def State.noteRead (s : State) (d : Nat) (t : Team) (tile : Nat) : State :=
  match s.bandOf t with
  | none => s
  | some (q, _) =>
    if !s.bandNow d t then s
    else s.modBand d q fun b => { b with reads := (tile :: b.reads).eraseDups, incomplete := b.incomplete || s.readMisses d t tile }

/-- The gate as its readers see it: 40 bits, all ones for +∞. -/
def State.gateWord (s : State) (d row : Nat) : Nat :=
  match s.gate d row with
  | none => 0xFFFFFFFFFF
  | some g => (g % 1099511627776).toNat
/-- The header that `SBKT` returns (R364). -/
def State.bucketHead (s : State) (d tile : Nat) : Word :=
  let b := s.bucket d tile
  BitVec.ofNat 64 (b.live.length % 128 + ((b.limit % 128) <<< 7) + (b2n b.owner.isSome <<< 14) + (b2n (!b.deferred.isEmpty) <<< 15)
    + (s.gateWord d (tile / 240) <<< 16))
/-- The 8 registers of `SLD`: the record of a rank, or zeros. -/
def State.bucketRecord (s : State) (d tile rank : Nat) : SampleRec := (s.bucket d tile).live.getD rank (List.replicate 8 0)

/-- One lane's read by the register form of `SLD`, now. -/
def sldNow (s : State) (d : Nat) (t : Team) (tile rank : Nat) : List Byte × State :=
  (recBytes (s.bucketRecord d tile rank), s.noteRead d t tile)
def sbktNow (s : State) (d : Nat) (t : Team) (tile : Nat) : List Byte × State :=
  (bytesOfWord (s.bucketHead d tile), s.noteRead d t tile)

def sldAddr (f : FmtM) (e : Env) (l : Nat) : Nat := (e.src32 0 l + f.off.signExtend 32).toNat
/-- The checks of a lane's sample-buffer address. -/
def sldCheck (f : FmtM) (e : Env) (s : State) (l : Nat) : Option (Cause × Word) :=
  let a := sldAddr f e l
  if a >>> 23 != 0 then some (0x56, BitVec.ofNat 64 a)
  else match bucketCheck s e.d e.t (a % 65536) with
    | some c => some (c, 0)
    | none => if s.dsbPoison e.d (a % 65536) (bitsOf a 16 7) then some (0xE2, 0) else none

/-- A read of buckets in the lanes of an instruction. With a failing lane, the lanes that need not wait read at once and are done;
otherwise the operation reads when it completes. -/
def bucketReads (e : Env) (s : State) (d : BitVec 8) (n : Nat) (check : Nat → Option (Cause × Word)) (tile : Nat → Nat)
    (now : State → Nat → List Byte × State) (wait : Pending) : Res :=
  if e.lanes.all fun l => (check l).isNone then .done s { long := some .sm, wait := wait }
  else
    let m := maskOf fun l => e.act.getLsbD l && ((check l).isSome || s.readReady e.d e.t (tile l))
    let p := perLane s m fun s l => match check l with
      | some (c, i) => (.trap c i, s)
      | none => let r := now s l; (.ok r.1, r.2)
    p.res { regs := bytesRegs d n p.done p.vals } []

def sldRes (f : FmtM) (e : Env) (s : State) : Res :=
  let tile := fun (l : Nat) => sldAddr f e l % 65536
  let rank := fun (l : Nat) => bitsOf (sldAddr f e l) 16 7
  bucketReads e s f.data 8 (sldCheck f e s) tile (fun s l => sldNow s e.d e.t (tile l) (rank l))
    (.sld (e.lanes.map fun l => (l, tile l, rank l)))
def execSld (g : Guard) (f : FmtM) (s : State) : Out := runWord (.sld g f) noCheck (sldRes f) s

/-- `SBKT.q`. -/
def sbktqRes (f : FmtX) (e : Env) (s : State) : Res :=
  let tile := fun (l : Nat) => (e.src32 0 l).toNat
  bucketReads e s f.d 2 (fun l => (bucketCheck s e.d e.t (tile l)).map fun c => (c, 0)) tile (fun s l => sbktNow s e.d e.t (tile l))
    (.sbkt 0 7 (e.lanes.map fun l => (l, tile l)))
def execSbktQ (g : Guard) (f : FmtX) (s : State) : Out := runWord (.sbktQ g f) noCheck (sbktqRes f) s

/-- `SBKT.lock`: a band node's reads the bucket once it is complete, and takes the lock with the read (R356). -/
def sbktLockRes (f : FmtX) (e : Env) (s : State) : Res :=
  let p := perLane s e.act fun s l =>
    let tile := (e.src32 0 l).toNat
    match bucketCheck s e.d e.t tile with
    | some c => (.trap c 0, s)
    | none =>
      if !s.readReady e.d e.t tile then (.block .bucket, s) else
      let b := s.bucket e.d tile
      let ok := b.owner.isNone || b.owner == some e.tid
      let s := if ok then s.setBucket e.d tile { b with owner := some e.tid } else s
      let r := sbktNow s e.d e.t tile
      (.ok (r.1 ++ [BitVec.ofNat 8 (b2n ok)]), r.2)
  let got := maskOf fun l => p.done.getLsbD l && (Lanes.at p.vals l).getD 8 0 == 1
  p.res { regs := bytesRegs f.d 2 p.done p.vals, preds := [{ p := f.fld 23 3, mask := p.done, vals := got }] } []
def execSbktLock (g : Guard) (f : FmtX) (s : State) : Out := runWord (.sbktLock g f) noCheck (sbktLockRes f) s

/-- An issue group that waits for its buckets may go on with one of them. -/
def State.bucketGo (s : State) (gk : Nat) (t : Team) (g : Group) (ig : IssueGroup) : Bool :=
  ig.block != some .bucket || match (s.peekCode t ig.pc).bind decodeRaw with
    | some (.sbktLock gd f) => (maskLanes (ig.mask &&& g.guardMask gd &&& ~~~ig.done)).any fun l =>
        s.readReady (gkDie gk) t (Lanes.at (s.read32 gk g t f.a) l).toNat
    | _ => true

/-- `SBKT.unlock`: without effect for a team that does not own the lock. -/
def sbktUnlockRes (e : Env) (s : State) : Res :=
  (perLane s e.act fun s l =>
    let tile := (e.src32 0 l).toNat
    match bucketCheck s e.d e.t tile with
    | some c => (.trap c 0, s)
    | none => (.ok [], if (s.bucket e.d tile).owner == some e.tid then s.unlock e.d tile else s)).res {} []
def execSbktUnlock (g : Guard) (f : FmtX) (s : State) : Out := runWord (.sbktUnlock g f) noCheck sbktUnlockRes s

/-! ### `SLD.sp` (R363) -/

/-- A layout that names nothing, for the scratchpad form of `SLD`. -/
def Layout.none : Layout :=
  { base := 0, ext := [], ndim := 1, sfmt := 0, etype := 0, sparse := false, spack := 0, tr := false, rnd := 0, dord := false,
    box0 := 1, box1 := 1, strides := [], scales := 0, srow := 0, splane := 0, maskOff := 0, slot := 0 }

/-- One lane of `SLD.sp`: accepted as a copy whose lines fill when the bucket has been read. -/
def sldSpLane (f : FmtM) (e : Env) (s : State) (l : Nat) : LaneEnd × State :=
  let a := sldAddr f e l
  let tile := a % 65536
  let off := (e.src32 1 l).toNat
  let n := 32 + 32 * (s.bucket e.d tile).limit
  let lines := linesOf off n
  if a >>> 16 != 0 then (.trap 0x56 (BitVec.ofNat 64 a), s)
  else match bucketCheck s e.d e.t tile with
    | some c => (.trap c 0, s)
    | none =>
      if off % 128 != 0 then (.trap 0x51 (BitVec.ofNat 64 off), s)
      else if e.t.kernel.scratch < off + n then (.trap 0x50 (BitVec.ofNat 64 off), s)
      else if lines.any (s.ownedLines e.tid ++ s.sourceLines e.tid).contains then (.trap 0xA5 0, s)
      else
        (.ok [], s.acceptCopy
          { core := e.ck, team := e.tid, gk := e.gk, lane := l, form := 4, off := off, bytes := n, lay := Layout.none, coords := [],
            index := [], masks := [], source := [], srcBad := [], pages := [], formed := [], tag := 0, ev := false, cw := none, ctx := e.x,
            nodeId := (s.teamNodeId e.t).setWidth 32, left := lines, fx := 0, status := 0, stage := .accepted, tile := tile })

/-- `SLD.sp` (R363, R402): its reply comes at acceptance. -/
def sldSpRes (f : FmtM) (e : Env) (s : State) : Res :=
  if e.act != 0 && 32 < s.copiesOn e.ck + popMask e.act then .stop s {} 0 (.block .copies)
  else (perLane s e.act (sldSpLane f e)).res {} []
def execSldSp (g : Guard) (f : FmtM) (s : State) : Out := runWord (.sldSp g f) noCheck (sldSpRes f) s

/-- The bytes that `SLD.sp` writes, `n` of them. -/
def State.bucketImage (s : State) (d : Nat) (t : Team) (tile n : Nat) : List Byte :=
  let b := s.bucket d tile
  let head := leBytes 2 b.live.length ++ leBytes 2 b.limit ++ [BitVec.ofNat 8 (b2n (s.readMisses d t tile) + 2 * b2n b.owner.isSome), 0, 0, 0]
    ++ leBytes 5 (s.gateWord d (tile / 240)) ++ [0, 0, 0] ++ leBytes 4 tile ++ List.replicate 12 0
  ((head ++ (b.live.map recBytes).flatten) ++ List.replicate n 0).take n

/-- A line of an `SLD.sp` fills: the bucket is read once, before its first line. -/
def State.sldFill (s : State) (k line : Nat) : State :=
  match s.copy? k with
  | none => s
  | some c =>
    match s.team? c.team with
    | none => s
    | some t =>
      let d := c.core / 96
      if c.form != 4 || !c.left.contains line || (c.source.isEmpty && !s.readReady d t c.tile) then s
      else
        let src := if c.source.isEmpty then s.bucketImage d t c.tile c.bytes else c.source
        let s := if c.source.isEmpty then s.noteRead d t c.tile else s
        let lo := max c.off (line * 128)
        let hi := min (c.off + c.bytes) (line * 128 + 128)
        let bad := (List.range ((c.bytes - 32) / 32)).filter fun r => s.dsbPoison d c.tile r && decide (lo < c.off + 64 + 32 * r)
          && decide (c.off + 32 + 32 * r < hi)
        let s := s.writeScratch c.team lo ((src.drop (lo - c.off)).take (hi - lo))
        let s := if bad.isEmpty then s else
          { s with moved := (bad.map fun r => (unitsOf (c.off + 32 + 32 * r) 32).map (ErrPlace.scratch c.team)).flatten ++ s.moved }
        let s := s.modTeam c.team fun t => { t with empty := t.empty.filter (· != line) }
        s.setCopy k { c with source := src, left := c.left.filter (· != line), stage := .moving }

/-- `COPY LINE FILL` (10_copy R236, R237). -/
def execCopyLineFill (copy line : Nat) (s : State) : Out := .next ((s.copyLineFill copy line).sldFill copy line)

/-! ### `SEVT` (R364, R355) -/

/-- Change a bucket, or every bucket of the die. -/
def State.modBuckets (s : State) (d : Nat) (tile : Option Nat) (f : Bucket → Bucket) : State :=
  match tile with
  | some t => s.setBucket d t (f (s.bucket d t))
  | none =>
    let s := s.setBucket d 57600 (s.bucketDefault d)
    (s.modDie d fun x => { x with buckets := x.buckets.map fun (p : Nat × Bucket) => (p.1, f p.2) }).moveDsb s d

def sevtRes (f : FmtX) (act : Word → Bucket → Bucket) (e : Env) (s : State) : Res :=
  let all := f.bit 25
  (perLane s e.act fun s l =>
    let tile := (e.src32 0 l).toNat
    match (if all then none else bucketCheck s e.d e.t tile) with
    | some c => (.trap c 0, s)
    | none => (.ok [], s.modBuckets e.d (if all then none else some tile) (act (e.src 1 l)))).res {} []
def execSevtLimit (g : Guard) (f : FmtX) (s : State) : Out :=
  runWord (.sevtLimit g f) noCheck (sevtRes f fun v b => { b with newLimit := some (fld v 0 32) }) s
def execSevtAge (g : Guard) (f : FmtX) (s : State) : Out :=
  runWord (.sevtAge g f) noCheck (sevtRes f fun v b => { b with newAge := some (fld v 0 40) }) s
def execSevtDrop (g : Guard) (f : FmtX) (s : State) : Out :=
  runWord (.sevtDrop g f) noCheck (sevtRes f fun v b => { b with live := b.live.take (fld v 0 32) }) s

/-! ### `PRIO` and `EMAP` (R365, R366) -/

/-- A write to a map waits for the next boundary; one of a device node that performs after its target boundary is counted, in the
next band record. -/
def State.mapWrite (s : State) (e : Env) (w : MapWrite) : State :=
  let x := s.die e.d
  let late := match ((s.node? e.t.node).elim .plain Node.kind : NodeKind) with
    | .band _ _ => !s.bandNow e.d e.t
    | .policy _ => x.polNode != some e.t.node
    | _ => false
  let s := if late then s.modBand e.d x.chargedNow fun b => { b with lateMaps := b.lateMaps + 1 } else s
  s.modDie e.d fun x => { x with mapWrites := x.mapWrites ++ [w] }

def mapOp (c : BitVec 2) : MapOp := if c == 0 then .set else if c == 1 then .max else .add

def mapRes (map : Nat) (op : MapOp) (e : Env) (s : State) : Res :=
  (perLane s e.act fun s l =>
    let cell := (e.src32 0 l).toNat
    if 57600 ≤ cell then (.trap 0xB4 0, s)
    else (.ok [], s.mapWrite e { map := map, cell := cell, op := op,
                                 val := (e.src32 1 l).toNat % (if map == 2 then 2 else 65536) })).res {} []
def execPrio (g : Guard) (f : FmtX) (s : State) : Out :=
  runWord (.prio g f) noCheck (mapRes (f.fld 25 3).toNat (mapOp (f.fld 23 2))) s
def execEmap (g : Guard) (f : FmtX) (s : State) : Out := runWord (.emap g f) noCheck (mapRes 4 (mapOp (f.fld 23 2))) s

/-- `PRIO.w`: the four weights. -/
def prioWRes (e : Env) (s : State) : Res :=
  .done (e.lanes.foldl (fun s l => (List.range 4).foldl (fun s k =>
    s.mapWrite e { map := 3, cell := k, op := .set, val := fld (e.src 0 l) (16 * k) 16 }) s) s) {}
def execPrioW (g : Guard) (f : FmtX) (s : State) : Out := runWord (.prioW g f) noCheck prioWRes s

/-! ### `REPROJ` (R367) -/

def f32Of (code : Nat) : Ex := (decodeFp .f32 code).1
/-- An exact operation, NaN where it is invalid or an operand is NaN. -/
def exNan : Ex := .nan false 0x400000
def exMul (a b : Ex) : Ex := if a.isNan || b.isNan then exNan else (a.mul b).getD exNan
def exAdd (a b : Ex) : Ex := if a.isNan || b.isNan then exNan else (a.add false b).getD exNan
/-- The quotient of two values rounded once to fp32, nearest-even; `b` is above 0. -/
def f32Quot (a b : Ex) : Ex :=
  match a, b with
  | .nan .., _ => exNan
  | _, .nan .. => exNan
  | .inf _, .inf _ => exNan
  | .inf n, _ => .inf n
  | _, .inf _ => Ex.zero
  | .fin n m e, .fin _ m' e' =>
    if m == 0 then Ex.zero
    else
      let a := dyadicQ m (e - e')
      f32Of (roundQ .f32 .rn false n a.1 (a.2 * m')).1
/-- 16 times a value rounded to a nearest-even integer, none for a NaN or an infinity. -/
def fix16 : Ex → Option Int
  | .fin n m e => let q := dyadicQ m (e + 4); some (roundIntQ .rn n q.1 q.2)
  | _ => none

/-- The reprojected record of `r` under a matrix; none where P is false. -/
def reproject (m : List W32) (r : SampleRec) : Option SampleRec :=
  let px : Ex := .fin false (recX r) (-4)
  let py : Ex := .fin false (recY r) (-4)
  let z := f32Of (recWord r 3)
  let el := fun (k : Nat) => f32Of (m.getD k 0).toNat
  let q := fun (k : Nat) => (roundEx .f32 .rn false (exAdd (exAdd (exAdd (exMul (exMul (el (4 * k)) px) z)
    (exMul (exMul (el (4 * k + 1)) py) z)) (exMul (el (4 * k + 2)) z)) (el (4 * k + 3)))).1
  let q2 := f32Of (q 2)
  if q2.isNan || q2.isNeg || q2.isZero then none
  else match fix16 (f32Quot (f32Of (q 0)) q2), fix16 (f32Quot (f32Of (q 1)) q2) with
    | some x, some y =>
      if x < 0 || 61440 ≤ x || y < 0 || 61440 ≤ y then none
      else some (r.zipIdx.map fun p =>
        if p.2 == 0 then BitVec.ofNat 32 (x.toNat + (y.toNat <<< 16))
        else if p.2 == 2 then p.1 ||| 0x800
        else if p.2 == 3 then BitVec.ofNat 32 (q 2) else p.1)
    | _, _ => none

/-- x, y or the depth of a record is outside what `REPROJ` takes. -/
def reprojBad (r : SampleRec) : Bool :=
  (recCheck r).isSome || match f32Of (recWord r 3) with
    | .fin n m _ => n || m == 0
    | _ => true

def reprojRes (f : FmtX) (e : Env) (s : State) : Res :=
  match e.lanes.find? fun l => reprojBad (e.record 0 l) with
  | some _ => .stop s {} 0 (.trap 0xB7 0)
  | none =>
    let m := (List.range 12).map fun i => (s.raw (0x720 + 12 * e.d + i)).setWidth 32
    let out : Lanes (Option SampleRec) := lanes fun l => if e.act.getLsbD l then reproject m (e.record 0 l) else none
    let ok := maskOf fun l => (Lanes.at out l).isSome
    .done s { regs := (List.range 8).map fun k => write32 (f.d + BitVec.ofNat 8 k) ok fun l => ((Lanes.at out l).getD []).getD k 0,
              preds := [{ p := f.fld 25 3, mask := e.act, vals := ok }] }
def execReproj (g : Guard) (f : FmtX) (s : State) : Out := runWord (.reproj g f) noCheck (reprojRes f) s

/-! ### `ROWQ` and `ROWW` (R370, R371) -/

/-- The band's next start of scan, in 1/27 ticks: its own period is the current one or the next that is it. -/
def State.scanStart (s : State) (d b : Nat) : Int :=
  let x := s.die d
  let k := (b + 240 - x.period % 240) % 240
  s.periodEnd d + Int.ofNat ((if k == 0 && x.phase == 2 then 240 else k) * periodLen x.rate)

def rowqRes (f : FmtX) (e : Env) (s : State) : Res :=
  let p := perLane s e.act fun s l =>
    let own := f.a == 255
    let b := (e.src32 0 l).toNat
    match s.bandOf e.t with
    | none => if own || 240 ≤ b then (.trap 0xB5 0, s) else (.ok (leBytes 4 b), s)
    | some (q, _) => if own then (.ok (leBytes 4 (q % 240)), s) else if 240 ≤ b then (.trap 0xB5 0, s) else (.ok (leBytes 4 b), s)
  let left := fun (l : Nat) =>
    let b := leNat (Lanes.at p.vals l)
    let t : Int := match (s.bandOf e.t).filter fun q => q.1 % 240 == b with
      | some q => Int.ofNat q.2
      | none => s.scanStart e.d b
    leBytes 8 ((t / 27 - Int.ofNat (s.die e.d).ticks) % 18446744073709551616).toNat
  let vals : Lanes (List Byte) := lanes fun l => left l ++ Lanes.at p.vals l ++ leBytes 4 (s.die e.d).period
  p.res { regs := bytesRegs f.d 4 p.done vals } []
def execRowq (g : Guard) (f : FmtX) (s : State) : Out := runWord (.rowq g f) noCheck (rowqRes f) s

/-- The 10-bit code of an fp16 channel, and invalid for a NaN. -/
def channel (c : Nat) : Nat × Fx :=
  match (decodeFp .f16 c).1 with
  | .nan .. => (0, fxInv)
  | .inf n => (if n then 0 else 1023, 0)
  | .fin n m e =>
    let q := dyadicQ m e
    if n || m == 0 then (0, 0) else if q.2 ≤ q.1 then (1023, 0) else ((roundIntQ .rn false (q.1 * 1023) q.2).toNat, 0)

/-- The pixel of a lane, and what converting it raises. -/
def pixelOf (a b : W32) : Nat × Fx :=
  let r := channel (bitsOf a.toNat 0 16)
  let g := channel (bitsOf a.toNat 16 16)
  let u := channel (bitsOf b.toNat 0 16)
  (r.1 + (g.1 <<< 10) + (u.1 <<< 20), r.2 ||| g.2 ||| u.2)

/-- The band of the team's node may still be written: it is the current one and its deadline has not passed. -/
def State.bandOpen (s : State) (d : Nat) (t : Team) : Bool := s.bandNow d t && (s.die d).phase == 0

def rowwLane (e : Env) (s : State) (l : Nat) : LaneEnd × State :=
  let w := (e.src32 2 l).toNat
  let x := bitsOf w 0 12
  let row := bitsOf w 16 12
  match s.bandOf e.t with
  | none => (.trap 0xB5 0, s)
  | some (q, _) =>
    let b := q % 240
    if 3840 ≤ x || row < 16 * b || 16 * b + 16 ≤ row || bitsOf w 12 4 != 0 || bitsOf w 28 4 != 0 then (.trap 0xB5 0, s)
    else
      let px := pixelOf (e.src32 0 l) (e.src32 1 l)
      let s := if s.bandOpen e.d e.t then
          s.writeHome (s.bandCopy e.d b (1 - s.shownIdx e.d b) + 4 * (3840 * (row - 16 * b) + x)) (leBytes 4 px.1)
        else s
      (.ok [BitVec.ofNat 8 px.2.toNat], s)
def rowwRes (e : Env) (s : State) : Res :=
  let p := perLane s e.act (rowwLane e)
  p.res { fx := lanes fun l => if p.done.getLsbD l then (Lanes.at p.vals l).getD 0 0 else 0 } []
def execRoww (g : Guard) (f : FmtX) (s : State) : Out := runWord (.roww g f) noCheck rowwRes s

end Sys2Proof.Machine
end

