-- ==== Sys2Proof/Machine/Retire.lean ====
section
/-! DEFINITION. The retirement of a team (04_group R101) and, with its last team, of its node (13_queue R282). -/

namespace Sys2Proof.Machine

/-- A poison mark on state that leaves the core with a team: entries and tiles of its groups, its scratchpad and windows. -/
def errLeaves (e : ErrPlace) (tid : Nat) (gks : List Nat) : Bool :=
  match e with
  | .entry d c slot _ _ => gks.contains (groupKey d c slot)
  | .anvil d c slot _ _ _ => gks.contains (groupKey d c slot)
  | .scratch t _ => t == tid
  | .berm t _ _ => t == tid
  | _ => false

/-- The slots of a team are freed, with what they hold. -/
def State.freeGroups (s : State) (tid : Nat) : State :=
  let gks := (s.groupsOf tid).map (·.1)
  let gone := fun (e : ErrPlace) => !errLeaves e tid gks
  { s with
    groups := s.groups.filter fun (p : Nat × Group) => p.2.team != tid
    marks := s.marks.filter gone, moved := s.moved.filter gone }

/-- The team is gone from the machine. -/
def State.dropTeam (s : State) (tid : Nat) : State := { (s.freeGroups tid) with teams := SMap.erase s.teams tid }

/-- Records of the team's groups are still on their way to a bucket. Those that wait for a lock of the team itself are applied
when it retires. -/
def State.outstanding (s : State) (tid : Nat) : Bool :=
  let gks := (s.groupsOf tid).map (·.1)
  let mine := fun (i : Insertion) => i.reply.any fun r => gks.contains r.1
  [0, 1].any fun d =>
    let x := s.die d
    x.insertions.any mine || x.xeyes.any mine || x.buckets.any fun b => b.2.owner != some tid && b.2.held.any mine

/-- Every team of the node has retired: the steps of R282, then what the node was to the sampler and the bands. None: a step has
to wait for the culvert. -/
def State.nodeTeamGone (s : State) (k : Nat) : Option State :=
  match s.node? k with
  | none => some s
  | some n =>
    let s := s.setNode k { n with live := n.live - 1 }
    if 1 < n.live then some s else (s.retireNode k n).map fun s => s.nodeGone k n

/-- A team may retire: it drains, and its stores, copies, samples and reads of buckets have performed. -/
def State.canRetire (s : State) (tid : Nat) : Bool :=
  match s.team? tid with
  | none => false
  | some t => t.stage == .draining && !s.cleanWaits (coreKey t.die t.core) && !s.copies.any (fun c => c.2.team == tid) && !s.outstanding tid
    && (s.groupsOf tid).all fun p => p.2.ops.isEmpty

/-- `TEAM RETIRE`: a release at system scope by every thread (09_memory R217), the buckets that the team holds locked, its
slots and windows freed, and its node. -/
def State.teamRetire (s : State) (tid : Nat) : State :=
  match s.team? tid with
  | none => s
  | some t =>
    if !s.canRetire tid then s
    else
      match (((s.release (coreKey t.die t.core) 6).unlockAll t.die tid).dropTeam tid).nodeTeamGone t.node with
      | none => s
      | some s' => s'.ctxSettle (s.teamCtx t)
def execTeamRetire (team : Nat) (s : State) : Out := .next (s.teamRetire team)

end Sys2Proof.Machine
end

