-- ==== Sys2Proof/Machine/Context.lean ====
section
/-! DEFINITION. Contexts and what the host answers: `FLT_RESUME` (08_page R197, 15_context R322), handler entry (R318), the time
limit of a team (R323), and the context commands (R311, R312). -/

namespace Sys2Proof.Machine

/-! ### `FLT_RESUME` -/

/-- The trap as ACTION `01` delivers it: a copy's translation fault becomes a cause of the copy family (10_copy R240). -/
def Frame.delivered (f : Frame) : Frame :=
  if f.cause.toNat / 16 == 3 && 4 ≤ f.kind then { f with cause := copyCause f.cause, info := 0 } else f

/-- The host's answer for one group: 0 replay, 1 to the handler, 2 the team ends. -/
def State.answerGroup (s : State) (gk action : Nat) : State :=
  match s.group? gk with
  | none => s
  | some g =>
    match g.hostTrap with
    | none => s
    | some (f, _) =>
      let s := s.setGroup gk { g with hostTrap := none }
      match action with
      | 0 => (s.resumeFrame gk f false false).deliverPending gk 0
      | 1 => s.toHandler gk f.delivered
      | 2 => s.endTeam g.team f.cause
      | _ => s

/-- The answer to the one record of a time limit: it acts on every group of the team. -/
def State.answerLimit (s : State) (tid seq action : Nat) : State :=
  let s := s.modTeam tid fun t => { t with limitSeq := none }
  let s : State := if action == 0 then
      { s with
          groups := s.groups.map fun (p : Nat × Group) =>
            (p.1, if p.2.team == tid then { p.2 with pending := p.2.pending.filter fun f => f.cause != 0xD7 } else p.2) }
    else s
  if action == 2 then s.endTeam tid 0xD7
  else (s.groupsOf tid).foldl (fun s p => if p.2.hostTrap.any fun h => h.2 == seq then s.answerGroup p.1 action else s) s

/-- The answer to the record of a copy of the LAE (12_kernel R270). -/
def State.answerLae (s : State) (tid action : Nat) (l : Lae) (c : Cause) : State :=
  match action with
  | 0 => s.modTeam tid fun t => { t with lae := t.lae.map fun l => { l with fault := none } }
  | 1 => match l.cur with
    | some st => s.laeFail tid st (copyCause c)
    | none => s
  | 2 => s.endTeam tid c
  | _ => s

/-- The team holds the pending record `seq`, while resident or in its save image. -/
def Team.awaits (t : Team) (gs : List Group) (seq : Nat) : Bool :=
  t.limitSeq == some seq || (t.lae.any fun l => l.fault.any fun f => f.2 == seq) || gs.any fun g => g.hostTrap.any fun h => h.2 == seq

/-- The answer for one resident team. -/
def State.answerTeam (s : State) (tid seq action : Nat) : State :=
  match s.team? tid with
  | none => s
  | some t =>
    if t.limitSeq == some seq then s.answerLimit tid seq action
    else match t.lae.bind fun l => (l.fault.filter fun f => f.2 == seq).map fun f => (l, f.1) with
      | some (l, c) => s.answerLae tid action l c
      | none =>
        match (s.groupsOf tid).find? fun p => p.2.hostTrap.any fun h => h.2 == seq with
        | some p => s.answerGroup p.1 action
        | none => s

/-- `FLT_RESUME` with a context, a sequence number and an action. A team in a save image keeps the answer for its restore. -/
def State.fltResume (s : State) (x seq action : Nat) : State :=
  if 2 < action then s
  else match s.teams.find? fun p => s.teamCtx p.2 == x
      && p.2.awaits (if p.2.stage == .saved then p.2.kept else (s.groupsOf p.1).map (·.2)) seq with
    | some p =>
      if p.2.stage == .saved then s.setTeam p.1 { p.2 with pendFlt := p.2.pendFlt ++ [(seq, action)] }
      else s.answerTeam p.1 seq action
    | none =>
      match [0, 1].find? fun d => (s.die d).waveFault == some (seq, x) with
      | some d => s.waveResume d (action == 0)
      | none => s
def execFaultReplay (ctx seq : Nat) (s : State) : Out := .next (s.hostCommand fun s => s.fltResume ctx seq 0)
def execFaultDeliver (ctx seq : Nat) (s : State) : Out := .next (s.hostCommand fun s => s.fltResume ctx seq 1)
def execFaultEndTeam (ctx seq : Nat) (s : State) : Out := .next (s.hostCommand fun s => s.fltResume ctx seq 2)

/-! ### Handler entry -/

/-- A group that waits for a handler set may take one: it is the lowest waiting slot of its partition (04_group R96), and no
thread of it is halted. -/
def State.mayEnter (s : State) (gk : Nat) : Option Nat :=
  match s.group? gk with
  | none => none
  | some g =>
    if g.entering.isEmpty || g.anyHalted || g.hostTrap.isSome || (s.setWaiters (gkPart gk)).any (fun k => decide (k < gk)) then none
    else s.freeSet (gkPart gk)

/-- `HANDLER ENTRY` (R318). -/
def State.handlerEntry (s : State) (gk : Nat) : State :=
  match s.mayEnter gk, s.group? gk with
  | some k, some g =>
    match g.entering, (s.team? g.team).bind s.handlerOf with
    | f :: r, some h => s.setGroup gk ({ g with entering := r }.enter f k h)
    | f :: _, none => s.endTeam g.team f.cause
    | [], _ => s
  | _, _ => s
def execHandlerEntry (d c slot : Nat) (s : State) : Out := .next (s.handlerEntry (groupKey d c slot))

/-! ### The time limit of a team (R323) -/

def State.limitDue (s : State) (tid : Nat) : Bool :=
  match s.team? tid with
  | none => false
  | some t => (t.stage == .admitted || t.stage == .running) && !t.limited && !s.teamHalted tid
    && (s.node? t.node).any fun n => n.tlimit != 0 && decide (usTicks n.tlimit ≤ t.ticks)

/-- `TEAM TIME LIMIT`: one record, in the name of the lowest group slot, and the trap in every group. -/
def State.teamTimeLimit (s : State) (tid : Nat) : State :=
  if !s.limitDue tid then s
  else
    let gks := ((s.groupsOf tid).filter fun p => !p.2.allExited).map (·.1)
    let s := gks.foldl State.parkIg s
    match gks.head?.bind fun gk => (s.group? gk).map fun g => (gk, g) with
    | none => s
    | some (gk, g) =>
      let l := lowLane g.live
      let (hdr, pos) := g.pcOf l
      let r := { s.recOf gk with cause := 0xD7, pc := hdr.toNat, pos := pos, lane := l, rkind := 6 }
      let s := s.modTeam tid fun t => { t with limited := true, limitSeq := some s.seq.toNat }
      gks.foldl (fun s k => s.asyncTrap k 0xD7) (s.report (gkDie gk) r.report)
def execTeamTimeLimit (team : Nat) (s : State) : Out := .next (s.teamTimeLimit team)

/-! ### Context commands (R311) -/

/-- A command or write was refused. -/
def State.cmdErr (s : State) : State := s.setRaw 0x5C0 (setBits (s.raw 0x5C0) 17 1 1)
/-- CREATE: the format and matrix trap registers are cleared, all save slots free; the images that it named before are to be
measured anew (19_trail R393). -/
def State.ctxCreate (s : State) (x : Nat) : State :=
  (((({ s with measured := s.measured.filter fun p => p.1 != x } : State).setRaw (0x100 + x) 0).setRaw (0x140 + x) 0).setRaw (0x180 + x) 0).setCtx x { stage := .created, slots := [] }

/-- Resident teams of a context. -/
def State.ctxTeams (s : State) (x : Nat) : List Nat := (s.teams.filter fun p => p.2.resident && s.teamCtx p.2 == x).map (·.1)

/-- SUSPEND: every resident team is to be saved, with REASON `0xD0`. -/
def State.ctxSuspend (s : State) (x : Nat) : State :=
  (s.ctxTeams x).foldl State.suspendSave (s.setCtx x { s.ctx x with stage := .suspended })

/-- RESUME: saved teams may be restored, and one that a save fault left halted runs on (R326). -/
def State.ctxResume (s : State) (x : Nat) : State :=
  let go := fun (s : State) (tid : Nat) => s.modTeam tid fun t =>
    if t.saveFault then
      { t with
          saveFault := false, saveHalt := false, saveReq := none, migrateTo := none,
          stage := match t.stage with | .saving _ => .running | st => st }
    else t
  (s.ctxTeams x).foldl go (s.setCtx x { s.ctx x with stage := .admitted })

/-- A node of a killed context: it stays only while a team of it is resident, and retires without effect (R312). -/
def Node.killed (n : Node) (resident : Nat) : Node :=
  { n with kind := .plain, evr := false, succ := 0, nsucc := 0, done := 0, untaken := [], stage := .running, live := resident }

/-- KILL (R312). -/
def State.ctxKill (s : State) (x : Nat) : State :=
  let res := s.ctxTeams x
  let s := res.foldl (fun s t => s.endTeam t 0xD1) (s.setCtx x { s.ctx x with stage := .draining, slots := [] })
  let nodes := (s.nodes.filter fun p => p.2.ctx == x).map (·.1)
  let here := fun (k : Nat) => (s.teams.filter fun p => res.contains p.1 && p.2.node == k).length
  { s with
    teams := s.teams.filter fun p => !nodes.contains p.2.node || res.contains p.1
    nodes := s.nodes.filterMap fun p =>
      if p.2.ctx != x then some p else if here p.1 == 0 then none else some (p.1, p.2.killed (here p.1))
    clusters := s.clusters.map fun (p : Nat × Cluster) => (p.1, { p.2 with chunks := p.2.chunks.filter fun c => !nodes.contains c.1 })
    dies := s.dies.map fun (p : Nat × Die) => (p.1, { p.2 with waveLive := p.2.waveLive.filter fun v => !nodes.contains v.node })
    monitors := s.monitors.filter fun p => p.2.ctx != x }

/-- A context command; one that is not listed for the state sets ERR, one written while BUSY is ignored. -/
def State.ctxCommand (s : State) (x cmd : Nat) : State :=
  if s.cmdBusy || cmd == 0 then s
  else if 63 < x then s.cmdErr
  else match cmd, (s.ctx x).stage with
    | 1, .free => s.ctxCreate x
    | 2, .created => s.setCtx x { s.ctx x with stage := .admitted }
    | 3, .admitted | 3, .running => s.ctxSuspend x
    | 4, .suspended | 4, .faulted => s.ctxResume x
    | 5, .created | 5, .admitted | 5, .running | 5, .suspended | 5, .faulted => s.ctxKill x
    | 6, .destroyed => s.setCtx x { s.ctx x with stage := .free }
    | _, _ => s.cmdErr

def execCtxCreate (x : Nat) (s : State) : Out := .next (s.hostCommand fun s => s.ctxCommand x 1)
def execCtxAdmit (x : Nat) (s : State) : Out := .next (s.hostCommand fun s => s.ctxCommand x 2)
def execCtxSuspend (x : Nat) (s : State) : Out := .next (s.hostCommand fun s => s.ctxCommand x 3)
def execCtxResume (x : Nat) (s : State) : Out := .next (s.hostCommand fun s => s.ctxCommand x 4)
def execCtxKill (x : Nat) (s : State) : Out := .next (s.hostCommand fun s => s.ctxCommand x 5)
def execCtxFree (x : Nat) (s : State) : Out := .next (s.hostCommand fun s => s.ctxCommand x 6)

/-- The lines pinned through the translations for which `f` holds are released, dirty ones written back (08_page R191). -/
def State.releasePins (s : State) (f : TlbEntry → Bool) : State :=
  let s := s.cores.foldl (fun s p =>
    let lines := (p.2.pins.filter fun q => f q.2).map (·.1)
    if lines.isEmpty then s
    else (s.cleanColumn p.1 fun a => lines.contains (lineOf a)).modCore p.1 fun c => { c with pins := c.pins.filter fun q => !f q.2 }) s
  { s with slicePins := s.slicePins.filter fun q => !f q.2 }

/-- A line so pinned has dirty bytes that cannot cross the culvert now (18_link R382). -/
def State.pinsWait (s : State) (f : TlbEntry → Bool) : Bool :=
  !s.culvertOpen && s.cores.any fun p => p.2.pins.any fun q =>
    f q.2 && crosses (p.1 / 96) (256 * q.1) && p.2.col.any fun e => e.2.dirty && lineOf e.1 == q.1

/-- `CTX DESTROYED` may happen: no team resident or saved, every copy complete. -/
def State.canDestroy (s : State) (x : Nat) : Bool :=
  (s.ctx x).stage == .draining && s.resTeams x == 0 && s.savedTeams x == 0 && !(s.copies.any fun c => c.2.ctx == x)
    && !s.pinsWait fun t => t.ctx == x

/-- `CTX DESTROYED`. -/
def State.ctxDestroyed (s : State) (x : Nat) : State :=
  if s.canDestroy x then (s.setCtx x { s.ctx x with stage := .destroyed }).releasePins fun t => t.ctx == x else s
def execCtxDestroyed (x : Nat) (s : State) : Out := .next (s.ctxDestroyed x)

end Sys2Proof.Machine
end

