-- ==== Sys2Proof/Machine/Image.lean ====
section
/-! DEFINITION. The save image of a team (15_context R327): its bytes, and a team read back from them. -/

namespace Sys2Proof.Machine

/-! ### The state of one thread, as images and inspection give it -/

/-- The queue whose entry an issue group waits for: it reads a destination of a `QPOP` that waits (12_kernel R271). -/
def State.awaitedQueue (s : State) (t : Team) (g : Group) (ig : IssueGroup) : Option Nat :=
  let names := ((((s.peekCode t ig.pc).bind decodeRaw).elim [] operandsOf).map opNames).flatten
  (g.ops.filter fun o => o.dests.any names.contains).findSome? fun o => match o.wait with | .sluice q => some q | _ => none
/-- The queue of a `QPOP` that waits for a `QREL`. -/
def State.qpopQueue (s : State) (t : Team) (g : Group) (ig : IssueGroup) : Nat :=
  match (s.peekCode t ig.pc).bind decodeRaw with
  | some (.qpop _ f) =>
    if f.a == 255 then (f.fld 25 3).toNat else (Lanes.at (g.readV f.a.toNat) (lowLane ig.mask)).toNat % 8
  | _ => 0

/-- Wait kind and wait argument of a thread (R327). -/
def State.waitOf (s : State) (t : Team) (g : Group) (l : Nat) : Nat × Nat :=
  let th := g.thread l
  if th.exited then (0, 0)
  else if th.conv then (5, 0)
  else if g.pending.any fun f => f.cause.toNat / 16 == 6 && f.hset == g.frames.length && f.issue.getLsbD l then (6, 0)
  else match g.igOf l with
    | none => (0, 0)
    | some ig => match ig.block with
      | some .barrier => (1, (Lanes.at ig.tok l).toNat)
      | some .monitor => (2, 0)
      | some .sluice => (3, s.qpopQueue t g ig)
      | some .operand => (s.awaitedQueue t g ig).elim (0, 0) fun q => (3, q)
      | some .grow => (4, 0)
      | some .pool => (7, 0)
      | _ => (0, 0)

/-- Byte 9 of a thread record: state and wait kind. -/
def State.threadByte (s : State) (t : Team) (g : Group) (l : Nat) : Nat :=
  let th := g.thread l
  let blocked := th.conv || th.block.isSome || (g.igOf l).isSome || g.hostTrap.isSome
  let st := if th.exited then 3 else if th.halt.isSome then 2 else if blocked then 1 else 0
  st + 8 * (s.waitOf t g l).1

/-! ### The bytes of an image -/

def zeroBytes (n : Nat) : List Byte := List.replicate n 0
def pad64 (bs : List Byte) : List Byte := bs ++ zeroBytes ((64 - bs.length % 64) % 64)

/-- PC and POS as one word. -/
def pcWord (p : Word × Nat) : Nat := p.1.toNat % (1 <<< 52) + ((p.2 % 16) <<< 52)

def laneBytes (v : Lanes W32) : List Byte := (laneList.map fun l => leBytes 4 (Lanes.at v l).toNat).flatten

/-- A thread record. -/
def State.threadRecord (s : State) (t : Team) (g : Group) (l : Nat) : List Byte :=
  leBytes 8 (pcWord (g.pcOf l)) ++ [(g.thread l).preds.setWidth 8, BitVec.ofNat 8 (s.threadByte t g l), 0, 0]
    ++ leBytes 4 (s.waitOf t g l).2

/-- The interrupted PC of a lane of a frame. -/
def Frame.pcOf (f : Frame) (l : Nat) : Word × Nat :=
  let t := f.threads.toArray.getD l (Thread.init 0)
  match (if t.inIssue then f.susp.find? fun ig => ig.mask.getLsbD l && ig.block != some .anew else none) with
  | some ig => (ig.hdr, ig.pos)
  | none => (t.hdr, t.pos)

/-- A handler frame at nesting depth `k`. -/
def Frame.bytes (f : Frame) (k : Nat) : List Byte :=
  leBytes 8 (f.cause.toNat + (k <<< 8)) ++ leBytes 8 (pcWord (f.hdr, f.pos)) ++ leBytes 8 (f.issue.toNat + (f.done.toNat <<< 32))
    ++ leBytes 8 f.info.toNat ++ (laneList.map fun l => leBytes 8 (pcWord (f.pcOf l))).flatten
    ++ ((List.range 16).map fun n => laneBytes (SMap.getD f.h n (Vector.replicate 32 0))).flatten

/-- Mapped names, ascending. -/
def Group.names (g : Group) : List Nat := g.v.map (·.1)

/-- A group record, whose first 4 bytes give its length. -/
def State.groupRecord (s : State) (t : Team) (g : Group) : List Byte :=
  let exited := maskOf fun l => (g.thread l).exited
  let conv := maskOf fun l => (g.thread l).conv && !(g.thread l).exited
  let flags := b2n g.parked + 2 * b2n g.anyHalted + 4 * b2n g.region.isSome + 16 * g.frames.length
  let body := [BitVec.ofNat 8 g.gidx, BitVec.ofNat 8 g.role, BitVec.ofNat 8 (g.budget - 1), BitVec.ofNat 8 flags]
    ++ leBytes 8 g.fx.toNat ++ leBytes 8 (g.region.getD 0) ++ leBytes 8 (exited.toNat + (conv.toNat <<< 32))
    ++ leBytes 24 (g.names.foldl (fun m n => m + (1 <<< n)) 0) ++ zeroBytes 8
    ++ ((List.range 24).map fun n => leBytes 8 (g.readS n).toNat).flatten
    ++ (laneList.map fun l => s.threadRecord t g l).flatten
    ++ (g.v.map fun p => laneBytes p.2.val).flatten
    ++ ((List.range 4).map fun q => ((List.range t.kernel.anvil).map fun z =>
        ((List.range 64).map fun e => leBytes 8 (g.zAt q z (e / 8) (e % 8)).toNat).flatten).flatten).flatten
    ++ (g.frames.reverse.zipIdx.map fun p => p.1.bytes (p.2 + 1)).flatten
  leBytes 4 (4 + body.length) ++ body

/-- The LAE section. -/
def laeBytes (gs : List Group) (l : Lae) : List Byte :=
  let qs := (gs.map fun g => g.queues).flatten
  let head := fun (q : Sluice) => leBytes 8 (q.permits % 32 + ((q.reserved % 32) <<< 8) + ((q.items.length % 32) <<< 16)
    + (b2n q.finished <<< 24) + ((q.failure.elim 0 (·.toNat)) <<< 32))
  leBytes 4 l.iter ++ leBytes 4 (l.stream + 16 * b2n l.stopped)
    ++ (qs.map fun q => head q.2).flatten
    ++ (qs.map fun q => (q.2.items.map fun i => leBytes 4 i.1.toNat ++ leBytes 4 i.2.1.toNat ++ leBytes 4 i.2.2.1.toNat
        ++ leBytes 4 i.2.2.2.toNat).flatten).flatten

/-- A barrier object in 8 bytes. -/
def Barrier.word (b : Barrier) : Nat :=
  b.ph.toNat + ((b.a % 1024) <<< 24) + ((b.e % 1024) <<< 34) + ((b.en % 1024) <<< 44) + (b2n b.init <<< 54)

def mapBytes (m : SMap Byte) (n : Nat) : List Byte := (List.range n).map fun k => SMap.getD m k 0

/-- Full/empty bits, a whole number of 8 bytes. -/
def Team.lineBytes (t : Team) : List Byte :=
  let lines := t.kernel.scratch / 128
  let bit := fun (i : Nat) => decide (i < lines) && !t.empty.contains i
  (List.range ((lines + 63) / 64 * 8)).map fun k => BitVec.ofNat 8 ((List.range 8).foldl (fun a b => a + (b2n (bit (8 * k + b)) <<< b)) 0)

/-- The sections after the team header: group records, LAE state, scratchpad, full/empty bits, berm windows. -/
def State.sections (s : State) (t : Team) (gs : List Group) : List (List Byte) :=
  (gs.map fun g => s.groupRecord t g) ++ (t.lae.toList.map (laeBytes gs)) ++ [mapBytes t.scratch t.kernel.scratch, t.lineBytes]
    ++ ((t.windows.filter fun w => !w.reclaimed).map fun w => mapBytes w.data 262144)

/-- Offsets of consecutive sections, each at a multiple of 64. -/
def offsetsFrom (o : Nat) : List (List Byte) → List Nat
  | [] => []
  | b :: r => o :: offsetsFrom (o + (b.length + 63) / 64 * 64) r

/-- The team header, 512 bytes. -/
def State.teamHeader (s : State) (t : Team) (n : Nat) (reason : BitVec 8) (size lae : Nat) (offs : List Nat) : List Byte :=
  let node := (s.teamNodeId t).toNat
  let rcl := t.windows.zipIdx.foldl (fun m p => m + (b2n p.1.reclaimed <<< p.2)) 0
  leBytes 4 0x4E395356 ++ leBytes 2 1 ++ [32, BitVec.ofNat 8 n]
    ++ leBytes 8 (node + (s.teamCtx t <<< 40) + (reason.toNat <<< 48) + (((s.node? t.node).elim 0 (·.depth) % 8) <<< 56))
    ++ leBytes 2 t.x ++ leBytes 2 t.y ++ leBytes 2 t.z ++ leBytes 2 0 ++ leBytes 8 t.kernel.image.toNat ++ leBytes 4 size
    ++ leBytes 4 t.kernel.scratch
    ++ [BitVec.ofNat 8 t.kernel.anvil, BitVec.ofNat 8 t.kernel.barriers, BitVec.ofNat 8 t.kernel.teamregs,
        BitVec.ofNat 8 (t.windows.length % 8 + 16 * rcl)]
    ++ leBytes 4 lae ++ leBytes 8 t.ticks ++ leBytes 8 t.phases.toNat
    ++ ((List.range 16).map fun k => leBytes 8 (t.bar k).word).flatten
    ++ ((List.range 64).map fun k => leBytes 4 (t.reg k).toNat).flatten
    ++ ((List.range 16).map fun k => leBytes 4 (offs.getD k 0)).flatten

/-- The image of a team whose groups, by `%gidx`, are `gs`. -/
def State.image (s : State) (t : Team) (gs : List Group) (reason : BitVec 8) : List Byte :=
  let secs := s.sections t gs
  let offs := offsetsFrom 512 secs
  let n := gs.length
  let body := (secs.map pad64).flatten
  s.teamHeader t n reason (512 + body.length) (if t.lae.isSome then offs.getD n 0 else 0) (offs.take n) ++ body

/-- Where a poisoned unit of the team's state lies in its image (R329). `gks` are the keys of its groups, by `%gidx`. -/
def State.imagePlace (s : State) (tid : Nat) (t : Team) (gs : List (Nat × Group)) (e : ErrPlace) : Option Nat :=
  let offs := offsetsFrom 512 (s.sections t (gs.map (·.2)))
  let n := gs.length + b2n t.lae.isSome
  let group := fun (d c slot : Nat) => gs.zipIdx.find? fun p => p.1.1 == groupKey d c slot
  match e with
  | .entry d c slot name lane => (group d c slot).bind fun p =>
      (p.1.2.names.findIdx? (· == name)).map fun i => offs.getD p.2 0 + 768 + 128 * i + lane / 2 * 8
  | .anvil d c slot q z el => (group d c slot).map fun p =>
      offs.getD p.2 0 + 768 + 128 * p.1.2.names.length + 512 * (q * t.kernel.anvil + z) + 8 * el
  | .scratch k o => if k == tid then some (offs.getD n 0 + o) else none
  | .berm k w o => if k != tid then none
      else match (t.windows.zipIdx.filter fun p => !p.1.reclaimed).findIdx? fun p => p.2 == w with
        | some i => some (offs.getD (n + 2 + i) 0 + o)
        | none => none
  | _ => none

/-! ### A team read back -/

/-- `n` bytes of an image at offset `o`, as a number. -/
abbrev ImageRead := Nat → Nat → Nat

/-- The checks of R328 on an image of a kernel. -/
def imageBad (rd : ImageRead) (k : Kernel) : Option Cause :=
  if rd 0 4 != 0x4E395356 || rd 4 2 != 1 || rd 6 1 != 32 then some 0xD3
  else if rd 40 1 != k.anvil || rd 41 1 != k.barriers || rd 42 1 != k.teamregs || rd 36 4 != k.scratch || rd 43 1 % 8 != k.berm
      || (List.range (min 16 (rd 7 1))).any (fun i => decide (192 < rd (rd (448 + 4 * i) 4 + 6) 1 + 1)) then some 0xD4
  else none

def laneVals (rd : ImageRead) (o : Nat) : Lanes W32 := lanes fun l => BitVec.ofNat 32 (rd (o + 4 * l) 4)

/-- A thread at the PC its image gives; where that is the PC at which it was saved, with the wait state it had. -/
def threadBack (th : Thread) (at_ : Word × Nat) (w : Nat) : Thread :=
  if pcWord at_ == w then th else th.stand (BitVec.ofNat 64 (bitsOf w 0 52)) (bitsOf w 52 4) false th.opMark

/-- Suspended issue groups without the threads that have left them. -/
def suspBack (ths : Lanes Thread) (igs : List IssueGroup) : List IssueGroup :=
  let m := maskOf fun l => (ths.toArray.getD l (Thread.init 0)).inIssue
  (igs.map fun ig => ig.part m).filter fun ig => ig.mask != 0

/-- A handler frame of an image. -/
def frameBack (rd : ImageRead) (o : Nat) (f : Frame) : Frame :=
  let ths := lanes fun l => threadBack (f.threads.toArray.getD l (Thread.init 0)) (f.pcOf l) (rd (o + 32 + 8 * l) 8)
  { f with
    threads := ths, susp := suspBack ths f.susp,
    cause := BitVec.ofNat 8 (rd o 1), hdr := BitVec.ofNat 64 (bitsOf (rd (o + 8) 8) 0 52), pos := bitsOf (rd (o + 8) 8) 52 4,
    issue := BitVec.ofNat 32 (rd (o + 16) 4), done := BitVec.ofNat 32 (rd (o + 20) 4), info := BitVec.ofNat 64 (rd (o + 24) 8),
    h := (List.range 16).foldl (fun m n => SMap.put m (Vector.replicate 32 0) n (laneVals rd (o + 288 + 128 * n))) [] }

/-- A group of an image, over what the device keeps of it. -/
def groupBack (rd : ImageRead) (o anvil : Nat) (g : Group) : Group :=
  let names := (List.range 192).filter fun n => bitOf (rd (o + 32 + n / 8) 1) (n % 8)
  let zs := o + 768 + 128 * names.length
  let fr := zs + 2048 * anvil
  let n := g.frames.length
  let ths : Lanes Thread := lanes fun l =>
    let a := o + 256 + 16 * l
    { threadBack (g.thread l) (g.pcOf l) (rd a 8) with
      preds := BitVec.ofNat 7 (rd (a + 8) 1), exited := bitOf (rd (o + 24) 4) l, conv := bitOf (rd (o + 28) 4) l, waits := 0 }
  { g with
    threads := ths, susp := suspBack ths g.susp,
    role := rd (o + 5) 1, budget := rd (o + 6) 1 + 1, parked := bitOf (rd (o + 7) 1) 0, fx := BitVec.ofNat 8 (rd (o + 8) 1),
    s := (List.range 24).foldl (fun m k => SMap.put m 0 k (BitVec.ofNat 64 (rd (o + 64 + 8 * k) 8))) [],
    v := names.zipIdx.map fun p =>
      (p.1, { full := ((SMap.get? g.v p.1).map (·.full)).getD true, val := laneVals rd (o + 768 + 128 * p.2) }),
    z := (List.range 4).foldl (fun m q => (List.range anvil).foldl (fun m z => (List.range 64).foldl (fun m e =>
      SMap.put m 0 ((q * 8 + z) * 64 + e) (BitVec.ofNat 56 (rd (zs + 512 * (q * anvil + z) + 8 * e) 7))) m) m) [],
    frames := g.frames.zipIdx.map fun p => frameBack rd (fr + 2336 * (n - 1 - p.2)) p.1 }

/-- A barrier object of an image. -/
def barrierBack (w : Nat) : Barrier :=
  { init := bitOf w 54, ph := BitVec.ofNat 24 w, a := bitsOf w 24 10, e := bitsOf w 34 10, en := bitsOf w 44 10 }

/-- The queues of the LAE section of an image: for each group the queues, with the offset of the next queue word and of the next
held entry. -/
def queuesBack (rd : ImageRead) : Nat → Nat → SMap Sluice → SMap Sluice × Nat × Nat
  | o, p, [] => ([], o, p)
  | o, p, (k, q) :: r =>
    let w := rd o 8
    let n := bitsOf w 16 5
    let items := (List.range n).map fun i =>
      (BitVec.ofNat 32 (rd (p + 16 * i) 4), BitVec.ofNat 32 (rd (p + 16 * i + 4) 4), BitVec.ofNat 32 (rd (p + 16 * i + 8) 4),
        BitVec.ofNat 32 (rd (p + 16 * i + 12) 4))
    let c := bitsOf w 32 8
    let q := { q with
      permits := bitsOf w 0 5, reserved := bitsOf w 8 5, items := items, finished := bitOf w 24,
      failure := if c == 0 then none else some (BitVec.ofNat 8 c) }
    let (rest, o', p') := queuesBack rd (o + 8) (p + 16 * n) r
    ((k, q) :: rest, o', p')

/-- The groups' queues read back. -/
def groupsQueues (rd : ImageRead) : Nat → Nat → List Group → List Group
  | _, _, [] => []
  | o, p, g :: r =>
    let (qs, o', p') := queuesBack rd o p g.queues
    { g with queues := qs } :: groupsQueues rd o' p' r

/-- A team and its groups as an image gives them, over what the device keeps. `ws` are the windows granted anew. -/
def teamBack (rd : ImageRead) (t : Team) (ws : List Window) : Team × List Group :=
  let k := t.kernel
  let gs := t.kept.zipIdx.map fun p => groupBack rd (rd (448 + 4 * p.2) 4) k.anvil p.1
  let last := (t.kept.zipIdx.map fun p => rd (448 + 4 * p.2) 4 + rd (rd (448 + 4 * p.2) 4) 4).foldl max 512
  let up := fun (n : Nat) => (n + 63) / 64 * 64
  let lo := rd 44 4
  let queues := (gs.map fun g => g.queues.length).sum
  let gs := if t.lae.isNone then gs else groupsQueues rd (lo + 8) (lo + 8 + 8 * queues) gs
  let held := ((gs.map fun g => g.queues.map fun q => q.2.items.length).flatten).sum
  let sp := if t.lae.isNone then up last else up (lo + 8 + 8 * queues + 16 * held)
  let li := up (sp + k.scratch)
  let wi := up (li + (k.scratch / 128 + 63) / 64 * 8)
  let bytes := fun (o n : Nat) => (List.range n).filterMap fun i =>
    let b : Byte := BitVec.ofNat 8 (rd (o + i) 1)
    if b == 0 then none else some (i, b)
  let rcl := fun (i : Nat) => bitOf (rd 43 1) (4 + i)
  let kept := (List.range ws.length).filter fun i => !rcl i
  let win := fun (i : Nat) => match kept.findIdx? (· == i) with
    | some j => bytes (wi + 262144 * j) 262144
    | none => []
  ({ t with
      x := rd 16 2, y := rd 18 2, z := rd 20 2, ticks := rd 48 8, phases := BitVec.ofNat 24 (rd 56 3),
      bars := (List.range 16).foldl (fun m i => SMap.put m Barrier.fresh i (barrierBack (rd (64 + 8 * i) 8))) [],
      wregs := (List.range 64).foldl (fun m i => SMap.put m 0 i (BitVec.ofNat 32 (rd (192 + 4 * i) 4))) [],
      scratch := bytes sp k.scratch,
      empty := (List.range (k.scratch / 128)).filter fun i => !bitOf (rd (li + i / 8) 1) (i % 8),
      windows := ws.zipIdx.map fun p => { p.1 with data := win p.2 },
      lae := t.lae.map fun l => { l with iter := rd lo 4, stream := rd (lo + 4) 1 % 16, stopped := bitOf (rd (lo + 4) 1) 4 } },
    gs)

end Sys2Proof.Machine
end

