-- ==== Sys2Proof/Machine/Watch.lean ====
section
/-! DEFINITION. Watch predicates, inspection and stepping of halted threads (16_watch R332, R339-R344), and the trap-state
registers (15_context R317). -/

namespace Sys2Proof.Machine

/-! ### `WSET`, `WCLR` (R339) -/

/-- Predicate `n` is enabled for another context than `x`, or for every one. -/
def Watch.foreign (w : Watch) (x : Nat) : Bool := w.enabled && (w.flt.getLsbD 54 || fld w.flt 48 6 != x)

/-- The six registers of a predicate change together; its status is cleared. -/
def State.setWatch (s : State) (ck : Nat) (w : Watch) : State :=
  s.modCore ck fun c =>
    let put := fun (m : SMap Word) (k : Nat) (v : Word) => SMap.put m 0 (k + w.n) v
    { c with
        watch := put (put (put (put (put (put (put c.watch 0x680 w.ctl) 0x690 w.a) 0x6A0 w.b) 0x6B0 w.flt) 0x6C0 w.lane)
          0x6D0 w.kern) 0x6E0 0 }

def wsetRes (f : FmtX) (e : Env) (s : State) : Res :=
  if e.act == 0 then .done s {}
  else
    let n := (f.fld 24 4).toNat
    let off := (e.src32 0 e.low).toNat
    let info : Word := BitVec.ofNat 64 off
    match s.team? e.tid with
    | none => .done s {}
    | some t =>
      if t.kernel.scratch < off + 48 then .stop s {} 0 (.trap 0x50 info)
      else if off % 8 != 0 then .stop s {} 0 (.trap 0x51 info)
      else if t.lineEmpty off || t.lineEmpty (off + 47) then .stop s {} 0 (.block .line)
      else match s.localPoison (ErrPlace.inScratch e.tid off 48) with
        | some c => .stop s {} 0 (.trap c info)
        | none =>
          let q := fun (k : Nat) => wordOfBytes (t.scratchBytes (off + 8 * k) 8)
          let dbg := s.debug e.x
          let w : Watch := { n := n, ctl := q 0, a := q 1, b := q 2, flt := q 3, lane := q 4, kern := q 5 }
          if !dbg && ((s.core e.ck).watchOf n).foreign e.x then .stop s {} 0 (.trap 0xC5 0)
          else if w.invalid then .stop s {} 0 (.trap 0xC6 0)
          else .done (s.setWatch e.ck (if dbg then w else { w with flt := setBits w.flt 48 7 e.x })) {}
def execWset (g : Guard) (f : FmtX) (s : State) : Out := runWord (.wset g f) noCheck (wsetRes f) s

/-- EN of a predicate cleared. -/
def State.clearWatch (s : State) (ck n : Nat) : State :=
  s.modCore ck fun c => { c with watch := SMap.put c.watch 0 (0x680 + n) (setBits (SMap.getD c.watch (0x680 + n) 0) 0 1 0) }

def wclrRes (f : FmtX) (e : Env) (s : State) : Res :=
  let n := (f.fld 24 4).toNat
  let may := fun (k : Nat) => s.debug e.x || !((s.core e.ck).watchOf k).foreign e.x
  if e.act == 0 then .done s {}
  else if f.bit 23 then .done (((List.range 16).filter may).foldl (fun s k => s.clearWatch e.ck k) s) {}
  else if !may n then .stop s {} 0 (.trap 0xC5 0)
  else .done (s.clearWatch e.ck n) {}
def execWclr (g : Guard) (f : FmtX) (s : State) : Out := runWord (.wclr g f) noCheck (wclrRes f) s

/-! ### Halt handles (R340) -/

/-- The handle of a lane of a group. -/
def State.handle (s : State) (gk : Nat) (g : Group) (l : Nat) : Word :=
  let x := ((s.team? g.team).map s.teamCtx).getD 0
  BitVec.ofNat 64 (x % 64 + (gkDie gk <<< 6) + (gkNum gk <<< 7) + (gkSlot gk <<< 14) + (l <<< 20) + ((g.thread l).gen.toNat <<< 32))

/-- The halted thread that a live handle names. -/
def State.target (s : State) (h : Word) : Option (Nat × Group × Team × Nat) :=
  let c := fld h 7 7
  let slot := fld h 14 6
  let l := fld h 20 5
  let gk := groupKey (fld h 6 1) c slot
  if 96 ≤ c || 48 ≤ slot || fld h 25 7 != 0 then none
  else match s.group? gk with
    | none => none
    | some g =>
      match s.team? g.team with
      | none => none
      | some t =>
        let th := g.thread l
        if th.halt.isSome && !th.exited && th.gen.toNat == fld h 32 32 && s.teamCtx t == fld h 0 6 then some (gk, g, t, l) else none

/-- Inspection of another context is denied. -/
def State.inspectDenied (s : State) (e : Env) (h : Word) : Bool := !s.debug e.x && fld h 0 6 != e.x

/-- The halted threads of a context: group and lane, ascending. -/
def State.haltedOf (s : State) (x : Nat) : List (Nat × Group × Nat) :=
  ((s.groups.filter fun p => ((s.team? p.2.team).any fun t => s.teamCtx t == x)).map fun p =>
    (laneList.filter fun l => (p.2.thread l).halt.isSome && !(p.2.thread l).exited).map fun l => (p.1, p.2, l)).flatten

/-- `HLIST` (R341). -/
def hlistRes (f : FmtX) (e : Env) (s : State) : Res :=
  let ctxOf := fun (l : Nat) => if f.a == 255 then e.x else (e.src32 0 l).toNat
  let idx := fun (l : Nat) => if f.b == 255 then 0 else (e.src32 1 l).toNat
  if e.lanes.any fun l => ctxOf l != e.x && !s.debug e.x then .stop s {} 0 (.trap 0xC5 0)
  else
    let row := fun (l : Nat) => (s.haltedOf (ctxOf l))[idx l]?
    let hnd := fun (l : Nat) => match row l with | some (gk, g, k) => s.handle gk g k | none => 0
    let why := fun (l : Nat) => match (row l).bind fun r => (r.2.1.thread r.2.2).halt with
      | some h => h.cause.toNat + ((h.pred % 16) <<< 8) + ((h.skid % 4) <<< 12)
      | none => 0
    .done s
      { regs := write64 f.d e.act hnd ++ [write32 (f.d + 2) e.act fun l => BitVec.ofNat 32 (why l),
                                          write32 (f.d + 3) e.act fun l => BitVec.ofNat 32 (s.haltedOf (ctxOf l)).length],
        preds := [{ p := f.fld 25 3, mask := e.act, vals := maskOf fun l => (row l).isSome }] }
def execHlist (g : Guard) (f : FmtX) (s : State) : Out := runWord (.hlist g f) noCheck (hlistRes f) s

/-! ### The trap-state registers (15_context R317) -/

/-- `TS_CAUSE`, `TS_PC`, `TS_MASK`, `TS_INFO` of the innermost frame. -/
def Group.trapState (g : Group) (k : Nat) : Option Word :=
  match g.frames with
  | [] => none
  | f :: _ => match k with
    | 0 => some (BitVec.ofNat 64 (f.cause.toNat + (g.frames.length <<< 8)))
    | 1 => some (BitVec.ofNat 64 (pcWord (f.hdr, f.pos)))
    | 2 => some (f.done ++ f.issue)
    | 3 => some f.info
    | _ => none

/-- A write of the trap state: PC and POS, or DONE; the other fields are read-only, and bits [2:0] of PC are zero. -/
def Group.setTrapState (g : Group) (k : Nat) (v : Word) : Group :=
  match g.frames with
  | [] => g
  | f :: r => match k with
    | 1 => { g with frames := { f with hdr := BitVec.ofNat 64 (8 * fld v 3 49), pos := fld v 52 4 } :: r }
    | 2 => { g with frames := { f with done := BitVec.ofNat 32 (fld v 32 32) } :: r }
    | _ => g

/-! ### `HINS` and `HPUT` (R342) -/

/-- How an access to an item ends: not readable or writable, an empty entry, or a value. -/
inductive Item where
  | no
  | empty
  | ok (v : Word)
  deriving DecidableEq, Repr

/-- `HINS` of an item of lane `l`. -/
def State.itemRead (s : State) (gk : Nat) (g : Group) (t : Team) (l cls sel : Nat) : Item :=
  match cls with
  | 0 =>
    let r : BitVec 8 := BitVec.ofNat 8 sel
    match regKind r with
    | .v => match SMap.get? g.v sel with
      | none => .no
      | some en => if en.full then .ok ((Lanes.at en.val l).setWidth 64) else .empty
    | .s => .ok (g.readS (sel - 192))
    | .h => if g.frames.isEmpty then .no else .ok ((Lanes.at (g.readH (sel - 216)) l).setWidth 64)
    | .special => .ok ((s.special gk g t sel l).setWidth 64)
    | _ => .no
  | 1 => .ok (BitVec.ofNat 64 (pcWord (g.pcOf l)))
  | 2 => .ok ((g.thread l).preds.setWidth 64)
  | 3 => .ok (BitVec.ofNat 64 (s.threadByte t g l + ((s.waitOf t g l).2 <<< 32)))
  | 4 =>
    if bitsOf sel 6 2 != 0 || t.kernel.anvil ≤ bitsOf sel 0 3 then .no
    else .ok ((g.zAt (l / 8) (bitsOf sel 0 3) (l % 8) (bitsOf sel 3 3)).setWidth 64)
  | 5 => .ok (g.fx.setWidth 64)
  | 6 => if t.kernel.barriers ≤ sel then .no
    else .ok (BitVec.ofNat 64 (match (if t.stopped then t.barStop else none) with | some m => (SMap.getD m sel Barrier.fresh).word | none => (t.bar sel).word))
  | 7 => match g.trapState sel with
    | some v => .ok v
    | none => .no
  | 8 => .ok (BitVec.ofNat 64 (g.budget + (g.mapped <<< 8) + (g.gidx <<< 16)))
  | _ => .no

/-- A lane leaves the suspended issue group that holds it. -/
def Group.pull (g : Group) (l : Nat) : Group :=
  { g with susp := (g.susp.map fun ig => ig.part (~~~(laneBit l))).filter fun ig => ig.mask != 0 }

/-- A PC and position at which a thread may stand (03_encoding R53, 15_context R320). -/
def State.pcAllowed (s : State) (gk : Nat) (t : Team) (pc : Word × Nat) : Bool :=
  fld pc.1 0 3 == 0 && match s.peekCode t pc.1 with
    | none => false
    | some h => (hdrBad true pc.1 h).isNone && decide (pc.2 < hdrCount h)
      && (s.tailOk (gkCore gk) (s.teamCtx t) pc.1 (hdrCount h)).1 != some false

/-- A halted thread is moved to another PC (R342), from which it goes on when it resumes: a trap that waits for the host, for a handler set
or behind the halt no longer names it. -/
def Thread.moved (t : Thread) (pc : Word × Nat) : Thread := { t.stand pc.1 pc.2 true t.opMark with conv := false }
def Frame.moveLane (l : Nat) (pc : Word × Nat) (f : Frame) : Frame :=
  let others := ~~~laneBit l
  { f with
    issue := f.issue &&& others, done := f.done &&& others, threads := Lanes.upd f.threads l fun t => t.moved pc,
    susp := (f.susp.map fun ig => ig.part others).filter fun ig => ig.mask != 0, ig := f.ig.map fun ig => ig.part others }
def Group.moveLane (g : Group) (l : Nat) (pc : Word × Nat) : Group :=
  { (g.modThread l fun t => t.moved pc) with
    entering := g.entering.map (Frame.moveLane l pc), hostTrap := g.hostTrap.map fun h => (h.1.moveLane l pc, h.2),
    pending := g.pending.map (Frame.moveLane l pc) }

/-- `HPUT` of an item of lane `l`: the group afterwards. -/
def State.itemWrite (s : State) (gk : Nat) (g : Group) (t : Team) (l cls sel : Nat) (v : Word) : Item × Group :=
  let lane := laneBit l
  match cls with
  | 0 =>
    let r : BitVec 8 := BitVec.ofNat 8 sel
    match regKind r with
    | .v => match SMap.get? g.v sel with
      | some en => if en.full then (.ok 0, g.writeV sel lane (Vector.replicate 32 (lo32 v))) else (.empty, g)
      | none =>
        if g.budget ≤ g.mapped || 1024 ≤ s.entriesUsed (gkPart gk) then (.no, g)
        else (.ok 0, g.writeV sel lane (Vector.replicate 32 (lo32 v)))
    | .s => (.ok 0, g.writeS (sel - 192) v)
    | .h => if g.frames.isEmpty then (.no, g) else (.ok 0, g.writeH (sel - 216) lane (Vector.replicate 32 (lo32 v)))
    | _ => (.no, g)
  | 1 =>
    let pc : Word × Nat := (BitVec.ofNat 64 (fld v 0 52), fld v 52 4)
    if !s.pcAllowed gk t pc then (.no, g)
    else if g.pcOf l == pc then (.ok 0, g)
    else (.ok 0, (g.pull l).moveLane l pc)
  | 2 => (.ok 0, g.modThread l fun th => { th with preds := v.setWidth 7 })
  | 4 =>
    if bitsOf sel 6 2 != 0 || t.kernel.anvil ≤ bitsOf sel 0 3 then (.no, g)
    else (.ok 0, { g with z := SMap.put g.z 0 (zKey (l / 8) (bitsOf sel 0 3) (l % 8) (bitsOf sel 3 3)) (v.setWidth 56) })
  | 5 => (.ok 0, { g with fx := v.setWidth 8 })
  | 7 => if g.frames.isEmpty || !(sel == 1 || sel == 2) then (.no, g) else (.ok 0, g.setTrapState sel v)
  | _ => (.no, g)

/-- The handles of the active lanes name another context, and the issuer may not inspect it. -/
def State.handlesDenied (s : State) (e : Env) : Bool := e.lanes.any fun l => s.inspectDenied e (e.src 0 l)

def hinsLane (f : FmtX) (e : Env) (s : State) (l : Nat) : LaneEnd × State :=
  match s.target (e.src 0 l) with
  | none => (.ok [0], s)
  | some (gk, g, t, k) => match s.itemRead gk g t k (f.fld 16 4).toNat (f.fld 20 8).toNat with
    | .no => (.ok [0], s)
    | .empty => (.block .operand, s)
    | .ok v => (.ok (1 :: bytesOfWord v), s)
def hinsRes (f : FmtX) (e : Env) (s : State) : Res :=
  if s.handlesDenied e then .stop s {} 0 (.trap 0xC5 0)
  else
    let p := seqLanes s e.act (hinsLane f e)
    let item := fun (l : Nat) => (Lanes.at p.vals l).drop 1
    p.res { regs := write64 f.d p.done fun l => BitVec.ofNat 64 (leNat (item l)),
            preds := [{ p := f.fld 13 3, mask := p.done, vals := maskOf fun l => (Lanes.at p.vals l).head? == some 1 }] } []
def execHins (g : Guard) (f : FmtX) (s : State) : Out := runWord (.hins g f) noCheck (hinsRes f) s

def hputLane (f : FmtX) (e : Env) (s : State) (l : Nat) : LaneEnd × State :=
  match s.target (e.src 0 l) with
  | none => (.ok [0], s)
  | some (gk, g, t, k) => match s.itemWrite gk g t k (f.fld 16 4).toNat (f.fld 20 8).toNat (e.src 1 l) with
    | (.no, _) => (.ok [0], s)
    | (.empty, _) => (.block .operand, s)
    | (.ok _, g) => (.ok [1], s.setGroup gk g)
def hputRes (f : FmtX) (e : Env) (s : State) : Res :=
  if s.handlesDenied e then .stop s {} 0 (.trap 0xC5 0)
  else
    let p := seqLanes s e.act (hputLane f e)
    p.res { preds := [{ p := f.fld 13 3, mask := p.done, vals := maskOf fun l => (Lanes.at p.vals l).head? == some 1 }] } []
def execHput (g : Guard) (f : FmtX) (s : State) : Out := runWord (.hput g f) noCheck (hputRes f) s

/-! ### `HSTEP` (R343) -/

/-- An issue group for one step: the lanes leave wherever they stand and issue the instruction at `pc`. -/
def State.stepIg (s : State) (by_ gk : Nat) (ig : IssueGroup) : State :=
  let ig := (s.group? gk).elim ig fun g => g.takeAnew ig
  let s := (s.selectGroup gk).modGroup gk fun g =>
    { (g.modThreads ig.mask fun t => { t with inIssue := true, block := none, hold := none }) with
      susp := (g.susp.map fun o => o.part (~~~ig.mask)).filter fun o => o.mask != 0 }
  { (s.setIg (gkPart gk) { ig with stepFor := some by_, stepOf := none, stepRes := none }) with focus := some (gkPart gk) }

/-- The quarter of a lane stands at one PC, none of its threads running or exited. -/
def Group.quarterAt (g : Group) (l : Nat) (pc : Word × Nat) : Bool :=
  (List.range 8).all fun i =>
    let k := l / 8 * 8 + i
    !(g.thread k).exited && g.pcOf k == pc && ((g.thread k).inIssue == (g.igOf k).isSome)

/-- The step of lane `l` begins, or ends at once with its status. `ig` is the issue group that the lane forms, at an instruction
that may issue. -/
def State.stepAt (s : State) (by_ gk : Nat) (g : Group) (t : Team) (l : Nat) (ig : IssueGroup) : State :=
  let q : Mask := (0xFF#32) <<< (l / 8 * 8)
  match (s.peekCode t ig.pc).bind decodeRaw with
  | some i =>
    if mtxOp i.op && !neverGuard i.guard then
      if g.quarterAt l (ig.hdr, ig.pos) then
        -- with what the instruction has done for the quarter already
        let held := g.susp.filter fun o => o.hdr == ig.hdr && o.pos == ig.pos && o.mask &&& q != 0 && o.block != some .anew
        s.stepIg by_ gk (held.foldl (fun a o => a.absorb (o.part q)) (IssueGroup.form (gkSlot gk) q ig.hdr ig.pos ig.cls ig.count ig.conv))
      else s.stepStatus by_ gk (laneBit l) 4
    else s.stepIg by_ gk ig
  | none => s.stepIg by_ gk ig

/-- The thread of a group issues one instruction for an `HSTEP` of group `by_`. A trap that is pending behind its halt comes before any
further instruction (R333). While its group is in fault, or its team is being saved, the step waits. -/
def State.startStep (s : State) (by_ gk l : Nat) : State :=
  let st := fun (s : State) (n : Nat) => s.stepStatus by_ gk (laneBit l) n
  match s.group? gk with
  | none => st s 3
  | some g =>
    match s.team? g.team with
    | none => st s 3
    | some t =>
      if g.hostTrap.isNone && g.entering.isEmpty && g.pending.any (fun f => g.atDepth f && (f.issue.getLsbD l || f.issue &&& g.live == 0)) then
        st (s.deliverPending gk (laneBit l)) 2
      else if !s.runnable gk g then s
      else if (g.thread l).conv then st s 1
      else
      -- a thread held in a clause's first instruction reaches its header anew (03_encoding R56)
      let g := if (g.igOf l).any (fun ig => ig.pos == 0) then g.reachAnew (laneBit l) else g
      let s := s.setGroup gk g
      match g.igOf l with
        | some ig => s.stepAt by_ gk g t l (ig.part (laneBit l))
        | none =>
          let pc := ((g.thread l).hdr, (g.thread l).pos)
          match s.reachCheck gk t (g.thread l).viaBranch pc with
          | (.trap c info kind lvl, s) =>
            st (s.takeTraps gk [{ cause := c, info := BitVec.ofNat 64 info, hdr := pc.1, pos := pc.2, issue := laneBit l, kind := kind,
                                  lvl := lvl, lane := l }] true) 2
          | (.culvert, s) => st s 1
          | (.report, s) => st s 1
          | (.go h, s) =>
            if pc.2 == 0 && (!s.waitsMet gk g (g.thread l).opMark (hdrWait h) || (hdrConv h && g.live != laneBit l)) then st s 1
            else s.stepAt by_ gk g t l (IssueGroup.form (gkSlot gk) (laneBit l) pc.1 pc.2 (hdrClass h) (hdrCount h) (hdrConv h))

/-- The steps that the `HSTEP`s of a group have asked for and that have not begun. -/
def State.startSteps (s : State) (by_ : Nat) : State :=
  match s.group? by_ with
  | none => s
  | some g => g.susp.foldl (fun s ig => match ig.stepOf with
    | some (gk, l) =>
      if ig.block == some .step && ig.stepRes.isNone && (s.ig? (gkPart gk)).isNone then s.startStep by_ gk l else s
    | none => s) s

/-- `HSTEP`: it waits for the target's partition, then for its step. -/
def hstepRes (f : FmtX) (e : Env) (s : State) : Res :=
  let h := e.src 0 e.low
  let ret := fun (st : Nat) => Res.done s { regs := [write32 f.d e.act fun _ => BitVec.ofNat 32 st] }
  let ig := s.curIg e
  if e.act == 0 then .done s {}
  else match ig.stepRes with
    | some st => ret st
    | none =>
      if s.inspectDenied e h then .stop s {} 0 (.trap 0xC5 0)
      else match s.target h with
        | none => ret 3
        | some (gk, _, _, l) =>
          let free := gkPart gk == e.pk || (s.ig? (gkPart gk)).isNone
          .stop (s.setIg e.pk { ig with stepOf := if free then some (gk, l) else none }) {} 0 (.block .step)
def execHstep (g : Guard) (f : FmtX) (s : State) : Out :=
  match s.env? (.hstep g f) with
  | none => .fault .noIssueGroup
  | some e => .next ((s.issueWord (.hstep g f) e noCheck (hstepRes f)).startSteps e.gk)

/-! ### `HRES` (R344) -/

/-- Threads resume: all of a group, or those of a mask. Those that were held in a clause's first instruction reach its header anew
(03_encoding R56); a pending trap is delivered first, and a `CONV` at which all have arrived releases them (05_group_integer R111). -/
def State.resumeLanes (s : State) (gk : Nat) (m : Mask) : State :=
  ((s.modGroup gk fun g =>
    let m := maskOf fun l => m.getLsbD l && (g.thread l).halt.isSome
    let g := (g.modThreads m fun t => { t with halt := none }).reachAnew m
    if g.anyHalted then g else { g with parked := false }).deliverPending gk 0).settle gk

/-- A team stop ends, and held phases complete, once no thread of the team is halted (R335). -/
def State.unstop (s : State) (tid : Nat) : State :=
  if s.teamHalted tid then s
  else
    let s := s.modTeam tid fun t => { t with stopped := false, barStop := none }
    match s.team? tid with
    | some t => s.releasePhases tid t
    | none => s

def hresRes (f : FmtX) (e : Env) (s : State) : Res :=
  let h := e.src 0 e.low
  if e.act == 0 then .done s {}
  else if s.inspectDenied e h then .stop s {} 0 (.trap 0xC5 0)
  else match s.target h with
    | none => .stop s {} 0 (.trap 0xC7 0)
    | some (gk, g, _, l) =>
      let s := match (f.fld 26 2).toNat with
        | 0 => s.resumeLanes gk (laneBit l)
        | 1 => s.resumeLanes gk 0xFFFFFFFF
        | _ => (s.groupsOf g.team).foldl (fun s (p : Nat × Group) => s.resumeLanes p.1 0xFFFFFFFF) s
      .done (s.unstop g.team) {}
def execHres (g : Guard) (f : FmtX) (s : State) : Out := runWord (.hres g f) noCheck (hresRes f) s

/-! ### Halts that land between instructions (R332) -/

/-- The waiting actions that land with the one of a lane: those of the same instruction. -/
def Group.landing (g : Group) (l : Nat) : List PendHalt :=
  match g.halts.find? fun h => h.lane == l && h.skid != 0 with
  | some h => g.halts.filter fun k => k.op == h.op
  | none => []

/-- `WATCH HALT LAND`: the actions of one instruction land before the thread completes another one: the halt first, a trap action behind
it (R333). -/
def State.watchLand (s : State) (gk l : Nat) : State :=
  match s.group? gk with
  | none => s
  | some g =>
    let hs := g.landing l
    let s := s.setGroup gk { g with halts := g.halts.filter fun k => !hs.contains k }
    let s := s.setSkids (gkCore gk) (hs.map fun h => (h.pred, h.skid - 1))
    let halts := hs.filter fun h => h.act != 4
    let s := match maxOn (·.act) halts with
      | none => s
      | some h =>
        s.haltScope gk ((halts.filter fun k => k.act == h.act).foldl (fun m k => m ||| laneBit k.lane) 0) h.act
          { cause := 0xC0, pred := h.pred, skid := h.skid - 1 }
    let traps := (hs.filter fun h => h.act == 4).foldl (fun m k => m ||| laneBit k.lane) (0 : Mask)
    if traps == 0 then s else s.laneTrap gk 0xC1 traps
def execWatchHaltLand (d c slot lane : Nat) (s : State) : Out := .next (s.watchLand (groupKey d c slot) lane)

end Sys2Proof.Machine
end

