-- ==== Sys2Proof/Machine/Trail.lean ====
section
/-! DEFINITION. `STAMP`, `TRAIL`, `PERFC` (19_trail R397) and the tile stamps of `TMARK` (R390). -/

namespace Sys2Proof.Machine

/-! ### `STAMP` and `PERFC` -/

/-- The pair `r` receives the same value in every active lane. -/
def pairAll (r : BitVec 8) (e : Env) (v : Word) : Eff := { regs := write64 r e.act fun _ => v }

/-- The time base at the leading edge of the issue cycle, rounded down to a tick. -/
def State.issueTick (s : State) (e : Env) : Nat := (s.cluster (clusterOf e.ck)).edge
def execStamp (g : Guard) (f : FmtX) (s : State) : Out :=
  runAlu (.stamp g f) (fun e s => pairAll f.d e (BitVec.ofNat 64 (s.issueTick e))) s

/-- Performance counter `sel` as a group sees it (R397). -/
def State.perfCounter (s : State) (e : Env) (sel : Nat) : Word :=
  let core := s.core e.ck
  let cl := s.cluster (clusterOf e.ck)
  let g := (s.group? e.gk).getD e.g
  match sel with
  | 0 => SMap.getD core.mxToggle e.pk 0
  | 1 => SMap.getD core.mxZero e.pk 0
  | 2 => g.issued
  | 3 => g.readyCycles
  | 4 | 5 | 9 | 10 | 11 => SMap.getD core.perf sel 0
  | 6 | 7 | 8 => SMap.getD cl.perf sel 0
  | 12 => (s.die e.d).issuedAll
  | 13 => (s.die e.d).lateBands
  | _ => 0

def execPerfc (g : Guard) (f : FmtX) (s : State) : Out :=
  runAlu (.perfc g f) (fun e s => pairAll f.d e (s.perfCounter e (f.fld 16 12).toNat)) s

/-! ### `TRAIL` -/

/-- The payload of a lane: the 16 bytes of A to A + 3. -/
def trailPayload (e : Env) (l : Nat) : List Byte := ((List.range 4).map fun k => leBytes 4 (e.reg 0 k l).toNat).flatten

def trailRes (f : FmtX) (e : Env) (s : State) : Res :=
  .done (e.lanes.foldl (fun s l => s.trailAt e.d (s.issueTick e) (f.fld 20 8).toNat e.x l (trailPayload e l)) s) {}
def execTrail (g : Guard) (f : FmtX) (s : State) : Out := runWord (.trail g f) noCheck (trailRes f) s

/-! ### Tile stamps -/

/-- The slots of a team after a mark: the tag's slot, or a new one in place of the oldest of eight. -/
def markSlots (slots : List StampSlot) (tag : W32) (stage : Nat) (mark : Word × Word) : List StampSlot :=
  if slots.any fun p => p.tag == tag then
    slots.map fun p => if p.tag == tag then { p with marks := SMap.set p.marks stage mark } else p
  else (if 8 ≤ slots.length then slots.drop 1 else slots) ++ [{ tag := tag, marks := [(stage, mark)] }]

/-- The 64-byte stamp record (R390). -/
def stampRecord (s : State) (e : Env) (p : StampSlot) : List Byte :=
  let stages := (List.range 5).foldl (fun v k => v + (b2n (SMap.has p.marks k) <<< k)) 0
  let last := (SMap.getD p.marks 4 (0, 0)).2
  let first := (p.marks.map fun m => m.2.2.toNat).foldl min last.toNat
  leBytes 4 p.tag.toNat ++ leBytes 1 stages ++ leBytes 1 (e.ck % 96) ++ leBytes 1 e.d ++ leBytes 1 0
    ++ leBytes 8 (s.teamNodeId e.t).toNat
    ++ ((List.range 5).map fun k => leBytes 8 (SMap.getD p.marks k (0, 0)).1.toNat).flatten
    ++ leBytes 4 (last.toNat + (1 <<< 64) - first) ++ leBytes 4 e.t.index

/-- The write of a stamp record: the checks of R390, then one event at the home slice. -/
def State.stampWrite (s : State) (e : Env) (a : Nat) (bs : List Byte) : LaneEnd × State :=
  if beyond52 a then (.trap 0x43 (BitVec.ofNat 64 a), s)
  else if a % 64 != 0 then (.trap 0x40 (BitVec.ofNat 64 a), s)
  else match s.lanePages e a 64 1 with
    | (.error r, s) => (r, s)
    | (.ok segs, s) =>
      match segs.head? with
      | none => (.ok [], s)
      | some g =>
        if isHost g.p.pa then (.trap 0x44 (BitVec.ofNat 64 a), s)
        else (.ok [], (s.dropLine e.ck g.p.pa).writeHome g.p.pa bs)

/-- `TMARK`: it acts once, with the operands of the lowest active lane. -/
def tmarkRes (f : FmtX) (e : Env) (s : State) : Res :=
  if e.act == 0 then .done s {}
  else
    let stage := (f.fld 25 3).toNat
    let tag := e.src32 0 e.low
    let slots := markSlots e.t.stamps tag stage (BitVec.ofNat 64 (s.issueTick e), BitVec.ofNat 64 (s.cyclesOf e.ck))
    if stage != 4 then .done (s.modTeam e.tid fun t => { t with stamps := slots }) {}
    else
      let a := (e.src 1 e.low).toNat
      let hits := s.addrHits e 1 (if beyond52 a || a % 64 != 0 then 0 else laneBit e.low) fun _ => (a, 64)
      if actionLanes hits != 0 then .stop s {} 0 (.halt hits)
      else match slots.find? fun p => p.tag == tag with
        | none => .done s {}
        | some p =>
          match s.stampWrite e a (stampRecord s e p) with
          | (.ok _, s) =>
            .done ((s.recordHits e hits).modTeam e.tid fun t => { t with stamps := slots.filter fun q => q.tag != tag }) {}
          | (.trap c i, s) => .stop s {} 0 (.trap c i)
          | (.fault c k lvl va, s) => .stop s {} 0 (.fault c k lvl va e.low)
          | (.block b, s) => .stop s {} 0 (.block b)
def execTmark (g : Guard) (f : FmtX) (s : State) : Out := runWord (.tmark g f) noCheck (tmarkRes f) s

end Sys2Proof.Machine
end

