-- ==== Sys2Proof/Machine/Link.lean ====
section
/-! DEFINITION. The culvert (18_link R379-R382), the requests of the host on BAR 2 (R375), tracking input (R377, R378), display
outputs (R385), the alignment of the time bases (19_trail R386, R387), MSI-X (R376) and the Kuide referee port (19_trail
R394-R396). -/

namespace Sys2Proof.Machine

/-! ### Requests on BAR 2 (R375, R382) -/

/-- The pieces of at most 8 naturally aligned bytes into which a request is split: address and length. -/
def piecesOf (pa n : Nat) : List (Nat × Nat) :=
  ((List.range (n / 8 + 2)).map fun k =>
    let lo := max pa ((pa / 8 + k) * 8)
    let hi := min (pa + n) ((pa / 8 + k + 1) * 8)
    (lo, hi - lo)).filter fun p => p.2 != 0

/-- The request needs the culvert, which carries nothing now. -/
def State.hostCut (s : State) (pa n : Nat) : Bool :=
  !s.culvertOpen && (crosses 0 pa || crosses 0 (pa + (n - 1)))

/-- A posted write is performed. -/
def State.hostWrite (s : State) (pa : Nat) (bs : List Byte) : State :=
  (piecesOf pa bs.length).foldl (fun s p => s.writeHome p.1 ((bs.drop (p.1 - pa)).take p.2)) s

/-- A read completes; a poisoned unit's data carries its mark (15_context R329). -/
def State.hostRead (s : State) (pa n : Nat) : State :=
  s.send (if (s.homePoison pa n).isSome then .poisoned (s.bytes pa n) else .data (s.bytes pa n))

/-- Width in bytes and operation of a PCI Express AtomicOp, as R227 numbers it. -/
def hostOpBytes : HostAtomic → Nat
  | .fetchAdd32 => 4
  | .swap32 => 4
  | .cas32 => 4
  | .fetchAdd64 => 8
  | .swap64 => 8
  | .cas64 => 8
def hostOpCode : HostAtomic → Nat
  | .fetchAdd32 => 0
  | .fetchAdd64 => 0
  | .swap32 => 8
  | .swap64 => 8
  | .cas32 => 15
  | .cas64 => 15

/-- An AtomicOp executes at the home slice and answers the old value. On a poisoned unit it answers with the mark and writes nothing
(log entry 56). -/
def State.hostAtomic (s : State) (pa : Nat) (op : HostAtomic) (a b : Word) : State :=
  let n := (hostOpBytes op)
  if (s.homePoison pa n).isSome then s.send (.poisoned (s.bytes pa n)) else
  let cut := fun (w : Word) => w.toNat % (1 <<< (8 * n))
  let old := s.bytes pa n
  let s := match atomicInt (hostOpCode op) (8 * n) (leNat old) (cut a) (cut b) with
    | some v => s.writeHome pa (leBytes n v)
    | none => s
  s.send (.data old)

/-- The input ring can be written, and the place of its next record (R378). -/
def State.inputRing (s : State) : Bool := decide (6 ≤ s.rf 0x744 0 5) && decide (s.rf 0x744 0 5 ≤ 16)
def State.inputSlot (s : State) : Nat := s.base 0x744 + 64 * (s.rf 0x745 0 32 % (1 <<< s.rf 0x744 0 5))
/-- A record that is overwritten, or dropped. -/
def State.inputLost (s : State) : State := s.setRaw 0x745 (setBits (s.raw 0x745) 32 32 (s.rf 0x745 32 32 + 1))
/-- A committed record enters the ring, TAIL advances and the trail gets its record. -/
def State.inputEnter (s : State) (bs : List Byte) : State :=
  if !s.inputRing then s.inputLost
  else
    let s := s.writeHome s.inputSlot bs
    let s := if 1 <<< s.rf 0x744 0 5 ≤ s.inputs then s.inputLost else s
    let s := { s.setRaw 0x745 (setBits (s.raw 0x745) 0 32 (s.rf 0x745 0 32 + 1)) with inputs := s.inputs + 1 }
    s.trail 0 0x01 0 (bs.getD 8 0).toNat ((bs.drop 48).take 8 ++ bs.take 8)
/-- The record's ring lies beyond a culvert that carries nothing now (R382). -/
def State.inputCut (s : State) : Bool := s.inputRing && s.hostCut s.inputSlot 64

/-- Requests that wait are performed as far as the culvert and the order of R375 allow. A posted write that waits holds back whatever its
requester sent after it, but for a write with Relaxed Ordering; `held` names the requesters of such writes. -/
def State.drainGo (s : State) (held : List Nat) : List HostReq → List HostReq × State
  | [] => ([], s)
  | q :: r =>
    let stay := fun (s : State) (held : List Nat) => let out := s.drainGo held r; (q :: out.1, out.2)
    match q with
    | .write who ro pa bs =>
      if (held.contains who && !ro) || s.hostCut pa bs.length then stay s (who :: held) else (s.hostWrite pa bs).drainGo held r
    | .input who bs => if held.contains who || s.inputCut then stay s (who :: held) else (s.inputEnter bs).drainGo held r
    | .read who pa n _ => if held.contains who || s.hostCut pa n then stay s held else (s.hostRead pa n).drainGo held r
    | .atomic who pa op a b _ =>
      if held.contains who || s.hostCut pa (hostOpBytes op) then stay s held else (s.hostAtomic pa op a b).drainGo held r
def State.drainHost (s : State) : State :=
  let out := s.drainGo [] s.hostQueue
  { out.2 with hostQueue := out.1 }

/-- A request arrives: it joins those that wait, and is performed at once where nothing holds it back. -/
def State.hostRequest (s : State) (q : HostReq) : State := ({ s with hostQueue := s.hostQueue ++ [q] } : State).drainHost

/-- What the endpoint answers in place of a BAR 2 access (R373, 20_bringup R400, R401): an offset must lie in the BAR as the host has
sized it (R372), and the memory of its die must have been trained. -/
def State.bar2Refuse (s : State) (off n : Nat) : Option HostMsg :=
  if s.endpointDown then some .abort
  else if min deviceTop (1 <<< (30 + s.bar2Size)) < off + n then some .unsupported
  else if s.memUp.contains (dieOf off) && s.memUp.contains (dieOf (off + (n - 1))) then none else some .abort

def execBar2Read (off n : Nat) (s : State) : Out :=
  .next (match s.bar2Refuse off n with
    | some m => s.send m
    | none => s.hostRequest (.read s.requester.1 off n s.now))
def execBar2Write (off : Nat) (bytes : List Byte) (s : State) : Out :=
  .next (match s.bar2Refuse off bytes.length with
    | some m => s.send m
    | none => s.hostRequest (.write s.requester.1 s.requester.2 off bytes))
/-- `BAR2 ATOMICOP`; a misaligned one is not a request that the completer supports. -/
def execBar2Atomicop (off : Nat) (op : HostAtomic) (a b : Word) (s : State) : Out :=
  .next (match s.bar2Refuse off (hostOpBytes op) with
    | some m => s.send m
    | none => if off % (hostOpBytes op) != 0 then s.send .unsupported else s.hostRequest (.atomic s.requester.1 off op a b s.now))

/-! ### Configuration requests (R372, 20_bringup R400) -/

/-- DOE Discovery: the protocol at an index, and the next index, 0 after the last (log entry 103). -/
def doeDiscovery (index : Nat) : Option (DoeProtocol × Nat) :=
  match index with
  | 0 => some (.discovery, 1)
  | 1 => some (.kuide, 0)
  | _ => none

/-- Errors that are no longer reported, cleared by a write of ones. -/
def AerStatus.clear (a bits : AerStatus) : AerStatus :=
  { unsupported := a.unsupported && !bits.unsupported, abort := a.abort && !bits.abort, poisoned := a.poisoned && !bits.poisoned }

/-- Configuration requests are answered: boot stage 2 has ended, or stopped with ERR set (20_bringup R400). -/
def State.configOpen (s : State) : Bool := decide (3 ≤ s.boot) || s.bootErr != 0
/-- What a configuration request does, and its completion. -/
def State.configAnswer (s : State) (q : ConfigReq) : State :=
  if !s.configOpen then s.send .retry
  else match q with
    | .discovery k => s.send (.protocol ((doeDiscovery k).map (·.1)) ((doeDiscovery k).elim 0 (·.2)))
    | .errors => s.send (.errors s.aer)
    | .clearErrors bits => ({ s with aer := s.aer.clear bits } : State).send .configured
    | .resize log => if log ≤ 7 then ({ s with bar2Size := log } : State).send .configured else s.send .configured
/-- The next configuration request is answered. -/
def State.configServe (s : State) : State :=
  match s.configs with
  | [] => s
  | q :: r => ({ s with configs := r } : State).configAnswer q

/-! ### The culvert (R381, R382) -/

/-- A record with RKIND `0x0B`: bytes 8 to 15, and the address that it gives. -/
def State.linkRecord (s : State) (d ev a : Nat) : State :=
  s.report d fun seq => { w0 := BitVec.ofNat 64 (a % 4503599627370496), w1 := BitVec.ofNat 64 ev, w2 := 0, w3 := BitVec.ofNat 64 (((seq % 65536) <<< 32) + (11 <<< 56)) }

def State.linkReport (s : State) (d ev : Nat) : State := s.linkRecord d ev 0

/-- Flits sent again, until a return of the culvert and with it (R379, R380): a free number (log entry 59). -/
def State.resent (s : State) : Nat × State := s.pick 65536

/-- The culvert enters a state: the record, whose writing raises the vector (R376), and a pending change's wait from its return on (01_device R17). -/
def State.culvertGo (s : State) (st : CulvertState) : State :=
  if s.culvert.state == st then s
  else
    let back := fun (p : PendMode) => if p.due then { p with back := some s.now } else p
    let s := { s with culvert := { s.culvert with state := st } }
    let s := s.linkReport 0 (1 + (st.code <<< 8))
    if s.culvertOpen then
      let (again, s) := s.resent
      ({ s with
          culvert := { s.culvert with retry := min 65535 (s.culvert.retry + again) }, modeWait := s.modeWait.map back,
          epochWait := s.epochWait.map back } : State).drainHost
    else s

/-- The band that lacks a borrowed record (17_sample R360). -/
def State.loseXeye (s : State) (d : Nat) (i : Insertion) : State :=
  s.modBand d ((s.die d).charged (recTile i.smp / 240)) fun b => { b with lostX := b.lostX + 1 }

/-- The issue group at place `k` of those that a group suspends traps with `0xE4` before completion. -/
def State.culTrap (s : State) (gk : Nat) (g : Group) (k : Nat) (ig : IssueGroup) : State :=
  let s := s.setGroup gk ((g.modThreads ig.mask fun t => t.stand ig.hdr ig.pos t.viaBranch t.opMark) |> fun g =>
    { g with susp := g.susp.eraseIdx k })
  s.takeTrap gk { cause := 0xE4, hdr := ig.hdr, pos := ig.pos, issue := ig.mask, done := ig.done,
                  lane := lowLane (ig.mask &&& ~~~ig.done), ig := if ig.traps.isEmpty then none else some ig }

/-- The address of a generic access that lane `l` makes with an instruction. -/
def accessAddr (e : Env) (i : Instr) (l : Nat) : Option Nat :=
  match i with
  | .ld _ f | .st _ f | .sload _ f | .ldl _ f | .stl _ f => some (genAddr e (f.off.signExtend 64) l)
  | .atom _ f | .atomc _ f | .atomf _ f | .red _ f => some (genAddr e ((atomicOff f).signExtend 64) l)
  | .tld _ f => some (e.src 0 l + BitVec.ofNat 64 (8 * f.boff.toNat)).toNat
  | .tst _ f => some (e.src 1 l + BitVec.ofNat 64 (8 * f.boff.toNat)).toNat
  | .rbox _ _ | .rtri _ _ | .probe _ _ => some (e.src 1 l).toNat
  | .waitc _ _ | .enq _ _ | .launch _ _ | .depdec _ _ => some (e.src 0 l).toNat
  | _ => none
def storeWord (i : Instr) : Bool := match i with | .st _ _ | .stl _ _ | .tst _ _ => true | _ => false

/-- The instruction at which a held issue group waits, with its environment. -/
def State.heldWord (s : State) (gk : Nat) (t : Team) (ig : IssueGroup) : Option (Instr × Env) :=
  match (s.peekCode t ig.pc).bind decodeRaw with
  | none => none
  | some i => (({ s.setIg (gkPart gk) { ig with slot := gkSlot gk } with focus := some (gkPart gk) } : State).env? i).map fun e => (i, e)

/-- The generic address of the lowest lane of a request that the culvert has accepted: of the instruction itself while that is read, and 0
where the instruction has none. -/
def State.sentAddr (s : State) (gk : Nat) (t : Team) (ig : IssueGroup) : Nat :=
  if ig.block != some .culvert then ig.pc.toNat
  else ((s.heldWord gk t ig).bind fun p => accessAddr p.2 p.1 (lowLane (ig.mask &&& ~~~ig.done))).getD 0

/-- What becomes of an issue group whose accepted request is lost (R382): the lanes of a store are done; those of a load or an atomic, and
those that wait for a page walk, trap. -/
def State.loseIg (s : State) (gk : Nat) (t : Team) (ig : IssueGroup) : IssueGroup :=
  let rest := ig.mask &&& ~~~ig.done
  let walks := fun (e : Env) (i : Instr) (l : Nat) => (accessAddr e i l).any fun a =>
    match (s.translate e.ck e.x a 1).1 with | .wait => true | _ => false
  let stored := if ig.block != some .culvert then 0 else match s.heldWord gk t ig with
    | some (i, e) => if storeWord i then maskOf fun l => rest.getLsbD l && !walks e i l else 0
    | none => 0
  if stored == rest then { ig with done := ig.mask, block := none, sent := false }
  else { ig with done := ig.done ||| stored, block := some .lost, sent := false }

/-- Threads that wait at a header for a request that the culvert has accepted, and has lost. -/
def Thread.lose (t : Thread) : Thread := if t.block == some (.fetch true) then { t with block := some .lost } else t
def Frame.lose (f : Frame) : Frame := { f with threads := f.threads.map Thread.lose }
def Group.loseHeads (g : Group) : Group :=
  { (g.modThreads 0xFFFFFFFF Thread.lose) with
    frames := g.frames.map Frame.lose, entering := g.entering.map Frame.lose, hostTrap := g.hostTrap.map fun h => (h.1.lose, h.2) }
/-- The headers at which such threads wait, those that the group's handlers interrupted too. -/
def Group.sentHeads (g : Group) : List Word :=
  ((g.threads :: g.frames.map (·.threads)).map fun ts =>
    (ts.toList.filter fun t => !t.exited && t.block == some (.fetch true)).map (·.hdr)).flatten.eraseDups

/-- A group's requests that the culvert has accepted and not performed are lost (R382): the request of each lane is counted, as is that
for a header at which threads wait, and one record gives the address of the first. None of them has performed (log entry 59). -/
def State.loseGroup (s : State) (gk : Nat) : State :=
  match s.group? gk with
  | none => s
  | some g => match s.team? g.team with
    | none => s
    | some t =>
      let igs := g.allIgs.filter IssueGroup.accepted
      let addrs := igs.map (s.sentAddr gk t) ++ g.sentHeads.map BitVec.toNat
      match addrs with
      | [] => s
      | a :: _ =>
        let n := (igs.map fun ig => if ig.block == some .culvert then (maskLanes (ig.mask &&& ~~~ig.done)).length else 1).sum + g.sentHeads.length
        let g := (g.foldIgs (fun (u : Unit) ig => (if ig.accepted then s.loseIg gk t ig else ig, u)) ()).1
        ((s.linkRecord (gkDie gk) 2 a).countLost n).setGroup gk g.loseHeads

def State.loseSent (s : State) : State := (s.groups.map (·.1)).foldl State.loseGroup s

/-- Requests that have not performed are resolved (R382, 17_sample R367, 11_barrier R257): borrowed records and posted writes are lost and
counted, monitors across the culvert end as evicted. -/
def State.culvertResolve (s : State) : State :=
  let posted := s.hostQueue.filter fun q => match q with
    | .write _ _ pa bs => crosses 0 pa || crosses 0 (pa + (bs.length - 1))
    | .input _ _ => s.inputRing && crosses 0 s.inputSlot
    | _ => false
  let n := posted.length + (s.die 0).xeyes.length + (s.die 1).xeyes.length
  let s := [0, 1].foldl (fun (s : State) d =>
    ((s.die d).xeyes.foldl (fun s i => s.loseXeye d i) s).modDie d fun x => { x with xeyes := [], lowPending := [] }) s
  let s := ({ s with hostQueue := s.hostQueue.filter fun q => !posted.contains q } : State).drainHost
  (s.dropMonitors s.monCut).countLost n

/-- TRAIN. -/
def State.culvertTrain (s : State) : State :=
  if s.culvert.state == .training then s
  else ({ s with culvert := { s.culvert with tries := 0 } } : State).culvertGo .training
/-- RST. -/
def State.culvertReset (s : State) : State := (s.loseSent.culvertGo .down).culvertResolve
def execCulvertTrain (s : State) : Out := .next (s.hostCommand State.culvertTrain)
def execCulvertReset (s : State) : Out := .next (s.hostCommand State.culvertReset)

/-- An attempt ends; while a die is halted by its trip every attempt fails (20_bringup R401). -/
def State.trainingResult (s : State) (o : TrainOutcome) : State :=
  if s.culvert.state != .training then s
  else match (if (s.die 0).tripped || (s.die 1).tripped then .fails else o) with
    | .allLanes => s.culvertGo .up
    | .halfLanes => s.culvertGo .degraded
    | .fails =>
      let s := { s with culvert := { s.culvert with tries := s.culvert.tries + 1 } }
      if 3 ≤ s.culvert.tries then (s.loseSent.culvertGo .failed).culvertResolve else s
def execCulvertTrainingResult (outcome : TrainOutcome) (s : State) : Out := .next (s.trainingResult outcome)

def State.lossOfLock (s : State) : State := if s.culvertOpen then s.culvertGo .down else s
def execCulvertLossOfLock (s : State) : Out := .next s.lossOfLock

/-- `CUL_WAIT` in ticks. -/
def State.culWait (s : State) : Nat := usTicks (max 1 (s.rf 0x742 0 16))
/-- A wait for the culvert that began at `since` has passed its limit. -/
def State.culPast (s : State) (since : Nat) : Bool := !s.culvertOpen && decide (since + s.culWait ≤ s.now)
/-- The issue group of a slot whose request the culvert has not accepted within the limit, or has lost, with its place among the
suspended ones. -/
def State.culLate (s : State) (g : Group) : Option (Nat × IssueGroup) :=
  (g.susp.zipIdx.find? fun p => p.1.block == some .lost || (p.1.unaccepted && s.culPast p.1.since)).map fun p => (p.2, p.1)
/-- Threads at a header that the culvert has not let them read within the limit, or lost, and where. -/
def State.culLateAt (s : State) (g : Group) : Option ((Word × Nat) × Mask) :=
  let late := maskOf fun l =>
    let t := g.thread l
    !t.exited && !t.inIssue && t.halt.isNone && (t.block == some .lost || (t.block == some (.fetch false) && s.culPast t.since))
  (lowest late).map fun l =>
    let t := g.thread l
    ((t.hdr, t.pos), maskOf fun k => late.getLsbD k && (g.thread k).hdr == t.hdr && (g.thread k).pos == t.pos)
/-- A wait of a group has passed its limit. -/
def State.culDue (s : State) (gk : Nat) (g : Group) : Bool := s.runnable gk g && ((s.culLate g).isSome || (s.culLateAt g).isSome)
/-- A waiting read or AtomicOp of BAR 2 has passed the limit: its place in the queue. -/
def State.hostLate (s : State) : Option Nat :=
  if s.culvertOpen then none
  else s.hostQueue.findIdx? fun q => match q with
    | .write _ _ _ _ | .input _ _ => false
    | .read _ _ _ t => decide (t + s.culWait ≤ s.now)
    | .atomic _ _ _ _ _ t => decide (t + s.culWait ≤ s.now)

/-- An expiry for a group (R382): the trap `0xE4` before completion. -/
def State.culExpire (s : State) (gk : Nat) : State :=
  match s.group? gk with
  | none => s
  | some g =>
    if !s.culDue gk g then s
    else match s.culLate g with
      | some (k, ig) => s.culTrap gk g k ig
      | none => match s.culLateAt g with
        | some (pc, m) => s.trapAtPc gk m pc 0xE4 0 0 0
        | none => s

/-- `CULVERT WAIT EXPIRY`: of a group's request, or with `d` 2 of the first late request of the host. -/
def execCulvertWaitExpiry (d c slot : Nat) (s : State) : Out :=
  .next (if d == 2 then
      match s.hostLate with
      | some k => ({ s with hostQueue := s.hostQueue.eraseIdx k } : State).send .abort
      | none => s
    else s.culExpire (groupKey d c slot))

/-! ### Tracking input (R377, R378) -/

/-- A write to bytes 48 to 55 of the input window, which hold the sequence word now: the record is committed, stamped with its arrival,
and enters the ring behind what its requester has posted before (R375, R378). -/
def State.inputCommit (s : State) : State :=
  s.hostRequest (.input s.requester.1 (((List.range 56).map fun k => SMap.getD s.window k 0) ++ leBytes 8 (s.die 0).ticks))
/-- Bytes written to the window; those of the sequence word commit. -/
def State.windowWrite (s : State) (off : Nat) (bs : List Byte) : State :=
  let put := fun (w : SMap Byte) (p : Byte × Nat) => if p.2 < 56 then SMap.put w 0 p.2 p.1 else w
  let s := { s with window := (bs.zipIdx off).foldl put s.window }
  if off < 56 && 48 < off + bs.length then s.inputCommit else s
def execInputCommit (seq : Word) (s : State) : Out :=
  .next (s.hostCommand fun s => s.windowWrite 48 (bytesOfWord seq))

/-! ### Display outputs (R385) -/

/-- The output of a die enters a state: the record, whose writing raises the vector (R376). One that is not ACTIVE reads nothing (R384). -/
def State.displayGo (s : State) (d st : Nat) : State :=
  if (s.die d).dispOn == st then s
  else (s.modDie d fun x => { x with dispOn := st, scanning := false, scan := none }).linkReport d (3 + (st <<< 8) + (d <<< 16))
def State.displayEvent (s : State) (d : Nat) (f : Nat → Option Nat) : State :=
  if 2 ≤ d || (s.die d).tripped then s
  else match f (s.die d).dispOn with
    | some st => s.displayGo d st
    | none => s
def State.setEn (s : State) (d : Nat) (v : Bool) : State := s.setRaw (0x748 + d) (setBits (s.raw (0x748 + d)) 0 1 (b2n v))
def State.displayEnable (s : State) (d : Nat) : State :=
  if 2 ≤ d then s else (s.setEn d true).displayEvent d fun st => if st == 0 then some 1 else none
def State.displayDisable (s : State) (d : Nat) : State :=
  if 2 ≤ d then s else (s.setEn d false).displayEvent d fun _ => some 0
def State.displayRetrain (s : State) (d : Nat) : State := s.displayEvent d fun st => if st == 3 then some 1 else none
def execDisplayEnable (d : Nat) (s : State) : Out := .next (s.hostCommand fun s => s.displayEnable d)
def execDisplayDisable (d : Nat) (s : State) : Out := .next (s.hostCommand fun s => s.displayDisable d)
def execDisplayRetrain (d : Nat) (s : State) : Out := .next (s.hostCommand fun s => s.displayRetrain d)
def execDisplayTrainingResult (d : Nat) (ok : Bool) (s : State) : Out :=
  .next (s.displayEvent d fun st => if st == 1 then some (if ok then 2 else 3) else none)
def execDisplayLinkLoss (d : Nat) (s : State) : Out :=
  .next (s.displayEvent d fun st => if st == 2 then some 3 else none)

/-! ### Time base and PTM (19_trail R386, R387) -/

/-- The right die's counter is compared every 10 µs while the culvert carries traffic. -/
def State.compareDue (s : State) : Bool :=
  s.culvertOpen && !s.endpointDown && !(s.die 1).tripped && decide (s.tbNext ≤ (s.die 0).ticks)
/-- `TIME BASE COMPARE`: the difference, and the slew that removes it. -/
def execTimeBaseCompare (s : State) : Out :=
  .next (if !s.culvertOpen || s.endpointDown || (s.die 1).tripped then s
    else
      let s := { s with tbNext := (s.die 0).ticks + usTicks 10 }
      let l := (s.die 0).ticks
      let r := (s.die 1).ticks
      let same := decide (l ≤ r + 1) && decide (r ≤ l + 1)
      let s := s.setRaw 0x781 (BitVec.ofNat 64 ((r + 65536 - l % 65536) % 65536 + (b2n same <<< 16)))
      if same then s else { s with slew := some (decide (r < l), 0) })

/-- A PTM period has passed since the last dialog. -/
def State.ptmDue (s : State) : Bool :=
  !(s.raw 0x782).getLsbD 16 || decide ((s.raw 0x784).toNat + usTicks (1000 * max 1 (s.rf 0x782 8 8)) ≤ (s.die 0).ticks)
/-- `PTM DIALOG`, at every PTM period: the host's master time of this instant. -/
def execPtmDialog (ns : Word) (s : State) : Out :=
  .next (if s.endpointDown || !(s.raw 0x782).getLsbD 0 || !s.ptmDue then s
    else
      let s := (s.setRaw 0x783 ns).setRaw 0x784 (BitVec.ofNat 64 (s.die 0).ticks)
      s.setRaw 0x782 (setBits (setBits (s.raw 0x782) 16 1 1) 32 32 (s.rf 0x782 32 32 + 1)))

/-! ### MSI-X (R376) -/

/-- `MSIX UNMASK SEND`: an unmasked vector whose pending bit is set sends its message. -/
def State.canSendVec (s : State) (v : Nat) : Bool := s.msixPend.contains v && !s.msixMasked v && !s.endpointDown
def execMsixUnmaskSend (vec : Nat) (s : State) : Out :=
  .next (if s.canSendVec vec then ({ s with msixPend := s.msixPend.filter fun v => v != vec } : State).send (.msix vec) else s)

/-! ### Measurement and quotes (19_trail R394-R396) -/

/-- `MEAS_CMD` bit 0: MEAS[5] is extended with `MEAS_IN`. -/
def State.measExtend (s : State) : State :=
  s.extendMeas 5 (((List.range 4).map fun k => bytesOfWord (s.raw (0x790 + k))).flatten)
def execMeasExtend (s : State) : Out := .next (s.hostCommand State.measExtend)

/-- The referee window: the 8 bytes at an offset (R396). -/
def State.refereeWord (s : State) (off : Nat) : Word :=
  let o := off / 8 * 8
  if o < 0x100 then SMap.getD s.meas (o / 8) 0
  else if o == 0x100 then s.readReg 0x785
  else if o == 0x108 then s.readReg 0x788
  else if o == 0x110 then s.readReg 0x789
  else if o == 0x118 then s.readReg 0x780
  else if o < 0x80000 || 0x100000 ≤ o then 0
  else
    let d := (o - 0x80000) / 0x40000
    let j := (o - 0x80000) % 0x40000 / 32
    let log := s.rf (0x786 + d) 0 5
    if log < 8 || 20 < log then 0 else s.word64 (s.base (0x786 + d) + 32 * (j % (1 <<< log)) + o % 32)

/-- What the referee port and BAR 4 answer before stage 3 and while the left die is halted (20_bringup R400, R401). -/
def State.refereeRefuse (s : State) : Option HostMsg := if s.endpointDown then some .abort else if s.boot < 3 then some .retry else none
def State.referee (s : State) (f : State → State) : State :=
  match s.refereeRefuse with
  | some m => s.send m
  | none => f s
def execBar4Read (off : Nat) (s : State) : Out := .next (s.referee fun s => s.send (.data (bytesOfWord (s.refereeWord off))))

/-- The bytes of a quote that are signed (R395). -/
def State.quoteMessage (s : State) (nonce : List Byte) (mask : Byte) : List Byte :=
  leBytes 4 0x4B515431 ++ leBytes 2 1 ++ [mask] ++ [BitVec.ofNat 8 (fld (s.readReg 0x785) 0 2 + 4)]
    ++ leBytes 8 (s.die 0).ticks ++ (nonce ++ List.replicate 32 0).take 32 ++ bytesOfWord Config.serial
    ++ leBytes 4 (s.die 0).trailSeq ++ leBytes 4 (s.die 1).trailSeq
    ++ (((List.range 8).filter fun i => mask.getLsbD i).map s.measBytes).flatten
/-- The response: the message and its signature. -/
def quoteOf (m : List Byte) : List Byte := m ++ (List.range 7856).map (Config.signature m)

/-- One request is served at a time; a further one is answered busy. -/
def State.kuide (s : State) (f : State → State) : State :=
  s.referee fun s => if s.quote.isSome then s.send .busy else f s
def execGetQuote (nonce : List Byte) (mask : Byte) (s : State) : Out :=
  .next (s.kuide fun s => { s with quote := some (s.quoteMessage nonce mask) })
def execGetCert (s : State) : Out := .next (s.kuide fun s => s.send (.data Config.certificate))
def execGetWindow (off : Nat) (s : State) : Out := .next (s.kuide fun s => s.send (.data (bytesOfWord (s.refereeWord off))))
/-- A quote completes within 2 s of its request, whose time its bytes 8 to 15 give. -/
def State.quoteDue (s : State) : Bool :=
  s.quote.any fun m => decide (leNat ((m.drop 8).take 8) + usTicks 2000000 ≤ (s.die 0).ticks)
/-- `QUOTE RESPONSE`: signing ends. -/
def execQuoteResponse (s : State) : Out :=
  .next (match s.quote with
    | some m => if s.endpointDown then { s with quote := none } else ({ s with quote := none } : State).send (.quote (quoteOf m))
    | none => s)

end Sys2Proof.Machine
end

