-- ==== Sys2Proof/Machine/Boot.lean ====
section
/-! DEFINITION. Device reset and boot (20_bringup R399, R400), the junction trip (R401) and soft errors (15_context R329). -/

namespace Sys2Proof.Machine

/-! ### Device reset -/

/-- TRIP0 and TRIP1 as they stand. -/
def State.tripBit (s : State) (d : Nat) : Bool := bitOf (s.raw 0x7C0).toNat (6 + d)
/-- The machine after a device reset that finds the trip sensors hot or not: every register, counter, queue and unit as after
`State.reset`; a TRIP bit stays where its sensor is hot, and a hot die stays halted (R400, R401). What memory holds and what
the host has received stand (log entry 10). -/
def State.deviceReset (s : State) (hot0 hot1 : Bool) : State :=
  let r : State := { State.reset with
    mem := s.mem, hostOut := s.hostOut, agenda := s.agenda, choice := s.choice, nextId := s.nextId,
    bar0Reads := s.bar0Reads, configs := s.configs, awake := s.awake, requester := s.requester,
    marks := s.marks.filter (fun e => match e with | .memory _ => true | _ => false),
    moved := s.moved.filter (fun e => match e with | .memory _ => true | _ => false) }
  let trips := b2n (s.tripBit 0 && hot0) + 2 * b2n (s.tripBit 1 && hot1)
  let r := r.setRaw 0x7C0 (BitVec.ofNat 64 (trips <<< 6))
  let halt := fun (r : State) (d : Nat) (hot : Bool) => if hot then r.modDie d fun x => { x with tripped := true } else r
  halt (halt r 0 hot0) 1 hot1

/-- `POWER ON`: device memory holds what it reads as when nothing has been written (log entry 2). -/
def execPowerOn (hot0 hot1 : Bool) (s : State) : Out :=
  .next (({ s with mem := s.mem.filter fun c => isHost c.1, marks := [], moved := [], awake := false } : State).deviceReset hot0 hot1)
def execBootReset (hot0 hot1 : Bool) (s : State) : Out := .next (s.deviceReset hot0 hot1)
/-- A Function Level Reset is a configuration request, which is retried before boot stage 2 has ended (R400). -/
def execFunctionLevelReset (hot0 hot1 : Bool) (s : State) : Out := .next (if s.configOpen then s.deviceReset hot0 hot1 else s.send .retry)

/-! ### Boot stages -/

/-- The device is in stage `n`, with no error, and no die is halted by a trip (R401). -/
def State.inStage (s : State) (n : Nat) : Bool := s.boot == n && s.bootErr == 0 && !(s.die 0).tripped && !(s.die 1).tripped
/-- The digest of one of the programs that boot measures, by measurement register. -/
def State.extendBoot (s : State) (i : Nat) : State := s.extendMeas i (digestBytes (Config.digest i))

/-- Band periods run from here on (log entry 7). -/
def State.startPeriods (s : State) : State :=
  [0, 1].foldl (fun (s : State) d => s.modDie d fun x => { x with periodStart := 27 * x.ticks }) s

def execBootStage1 (rails hot0 hot1 : Bool) (s : State) : Out :=
  .next (if s.inStage 1 && rails && !hot0 && !hot1 then { s with boot := 2 } else s)
def execBootStage2 (ok : Bool) (s : State) : Out :=
  .next (if !s.inStage 2 then s
    else
      let s := { s.extendBoot 0 with awake := true }
      if ok then { s.extendBoot 1 with boot := 3 } else { s with bootErr := 1 })
def execBootStage3 (ok0 ok1 : Bool) (s : State) : Out :=
  .next (if !s.inStage 3 then s
    else
      let s := { s with memUp := (if ok0 then [0] else []) ++ if ok1 then [1] else [] }
      if ok0 && ok1 then { s with boot := 4 } else { s with bootErr := 2, bootDie := if ok0 then 1 else 0 })
def execBootStage4 (s : State) : Out := .next (if s.inStage 4 then { s.culvertTrain with boot := 5 } else s)
def execBootStage5 (ok : Bool) (s : State) : Out :=
  .next (if !s.inStage 5 then s else if ok then { s.extendBoot 4 with boot := 6 } else { s with bootErr := 3 })
def execBootStage6 (ok : Bool) (s : State) : Out :=
  .next (if !s.inStage 6 then s else if ok then ({ s.extendBoot 2 with boot := 7 } : State).startPeriods else { s with bootErr := 3 })
/-- Stage 6 has ended. -/
def State.booted (s : State) : Bool := s.boot == 7

/-! ### The junction trip (R401) -/

/-- `JUNCTION TRIP`: the die halts; the culvert drops, or its training attempt fails. -/
def State.junctionTrip (s : State) (d : Nat) : State :=
  if 2 ≤ d || (s.die d).tripped then s
  else
    let s := s.modDie d fun x => { x with tripped := true }
    let s := (s.setRaw 0x7C0 (setBits (s.raw 0x7C0) (6 + d) 1 1)).send (.tripAlert d)
    (s.lossOfLock).trainingResult .fails
def execJunctionTrip (d : Nat) (s : State) : Out := .next (s.junctionTrip d)

/-! ### Soft errors (15_context R329) -/

/-- The die of a place and the field of `ECC_CNT` that counts it. -/
def State.errField (s : State) (e : ErrPlace) : Nat × Nat :=
  let teamDie := fun (t : Nat) => ((s.team? t).map (·.die)).getD 0
  match e with
  | .entry d _ _ _ _ => (d, 0)
  | .anvil d _ _ _ _ _ => (d, 0)
  | .scratch t _ => (teamDie t, 16)
  | .berm t _ _ => (teamDie t, 16)
  | .column d _ _ => (d, 16)
  | .dsb d _ _ => (d, 16)
  | .cache pa => (dieOf pa, 32)
  | .l1 d _ _ => (d, 32)
  | .icache d _ _ => (d, 32)
  | .scc d _ _ => (d, 32)
  | .memory pa => (dieOf pa, 48)

/-- The 8-byte unit, or the pair of lanes, that a place names. -/
def errUnit : ErrPlace → ErrPlace
  | .entry d c slot n l => .entry d c slot n (l / 2 * 2)
  | .scratch t o => .scratch t (o / 8 * 8)
  | .berm t w o => .berm t w (o / 8 * 8)
  | .cache pa => .cache (pa / 8 * 8)
  | .l1 d c pa => .l1 d c (pa / 8 * 8)
  | .icache d c pa => .icache d c (pa / 8 * 8)
  | .column d c pa => .column d c (pa / 8 * 8)
  | .memory pa => .memory (pa / 8 * 8)
  | .anvil d c slot q z e => .anvil d c slot q z e
  | .dsb d t r => .dsb d t r
  | .scc d cl i => .scc d cl i

/-- A single-bit error is corrected, counted, and reported at most once per die per millisecond. -/
def State.corrected (s : State) (e : ErrPlace) : State :=
  let (d, lo) := s.errField e
  let s := s.setRaw (0x290 + d) (setBits (s.raw (0x290 + d)) lo 16 (min 65535 (s.rf (0x290 + d) lo 16 + 1)))
  let t := (s.die d).ticks
  if (s.die d).eccTime.any fun u => decide (t < u + usTicks 1000) then s
  else (s.modDie d fun x => { x with eccTime := some t }).report d (({ die := d, rkind := 8 } : Rec).report)
/-- `SOFT ERROR`: a double-bit error poisons the unit. -/
def execSoftError (place : ErrPlace) (double : Bool) (s : State) : Out :=
  .next (if (s.die (s.errField place).1).tripped || 2 ≤ (s.errField place).1 then s
    else if double then { s with marks := errUnit place :: s.marks.filter fun m => m != errUnit place } else s.corrected place)

end Sys2Proof.Machine
end

