-- ==== Sys2Proof/Machine/Save.lean ====
section
/-! DEFINITION. Saving and restoring a team (15_context R324-R328): the request, the halt, the image, the restore; and monitor
swap-out (11_barrier R258). -/

namespace Sys2Proof.Machine

/-! ### The request and the halt (R324, steps 1 to 4) -/

/-- `SAVE REQUEST`. -/
def execSaveRequest (team : Nat) (reason : BitVec 8) (s : State) : Out :=
  .next (if reason == 0xD0 || reason == 0xD5 || reason == 0xD6 then s.requestSave team reason else s)

/-- An issue group of the group is inside a step of another thread, or steps one (16_watch R343). -/
def Group.stepping (g : Group) (ig : Option IssueGroup) : Bool :=
  g.susp.any (fun i => i.stepOf.isSome || i.stepFor.isSome) || ig.any fun i => i.stepOf.isSome || i.stepFor.isSome

/-- The issue group that runs for a group. -/
def State.runs (s : State) (gk : Nat) : Option IssueGroup := (s.ig? (gkPart gk)).filter fun ig => ig.slot == gkSlot gk

/-- A requested save may halt its team: no region of the team is open (11_barrier R263). A team runs when it is saved (04_group R101); the
save of one that is admitted waits for its first clause (log entry 93). -/
def State.mayHalt (s : State) (tid : Nat) : Bool :=
  match s.team? tid with
  | none => false
  | some t => t.saveReq.isSome && !t.saveHalt
    && t.stage == .running
    && (s.groupsOf tid).all fun p => p.2.region.isNone && !p.2.stepping (s.runs p.1)

/-- The monitors of a team that its swap-out waits for (11_barrier R258), none of which has ended: those of a `WAITC` that waits, and those
registered with ASYNC; `%gidx`, lane and monitor. -/
def State.swapMonitors (s : State) (tid : Nat) : List (Nat × Nat × Nat) :=
  (((s.groupsOf tid).map fun p => ((p.2.heldIgs.map (·.mons)).flatten).map fun m => (p.2.gidx, m.1, m.2)).flatten.filter
      fun m => (s.monOutcome m.2.2).isNone)
    ++ (s.monitors.filter fun m => m.2.team == tid && m.2.async && m.2.outcome.isNone).map fun m => (m.2.gidx, lowLane m.2.lanes, m.1)

/-- A wait of a suspended issue group has not ended. -/
def State.waitsOn (s : State) (gk : Nat) (g : Group) (t : Team) (ig : IssueGroup) : Bool :=
  match ig.block with
  | none | some .step => false
  | some .operand | some .pool | some .grow | some .barrier | some .monitor | some .report | some .culvert | some (.fetch _)
  | some .clean | some .watch =>
    !s.mayResume gk g t ig
  | some _ => true

/-- A group of the team has waited in a `WAITC` beyond `MON_SWAP`. -/
def State.waitsLong (s : State) (gk : Nat) : Bool :=
  let us := s.rf 0x230 0 16
  us != 0 && (s.group? gk).any fun g => g.susp.any fun ig => ig.block == some .monitor && decide (usTicks us < ig.waited)

/-- A team is eligible for swap-out and may be saved: no group of it is ready or issuing, no region of it is open, and the core has a
team placed (11_barrier R258). -/
def State.swapEligible (s : State) (tid : Nat) : Bool :=
  match s.team? tid with
  | none => false
  | some t =>
    let gs := s.groupsOf tid
    t.stage == .running && s.placedOn (coreKey t.die t.core) && gs.any (fun p => s.waitsLong p.1)
      && gs.all fun p => p.2.region.isNone && (s.runs p.1).isNone && !s.groupWaits p.1 p.2 && p.2.susp.all (s.waitsOn p.1 p.2 t)

/-- `TEAM HALT FOR SAVE`: every group stops issuing as though trapped (R316), which releases its reuse latch. Watch actions of
instructions that have completed land first (04_group R100), and a team that one of them ends is not saved. A swap-out whose team
is no longer eligible is given up. -/
def State.haltForSave (s : State) (tid : Nat) : State :=
  match s.team? tid with
  | none => s
  | some t =>
    if !s.mayHalt tid then s
    else if t.saveReq == some 0xD6 && !s.swapEligible tid then s.modTeam tid fun t => { t with saveReq := none }
    else
      let mons := if t.saveReq == some 0xD6 then s.swapMonitors tid else []
      let stop := fun (s : State) (p : Nat × Group) =>
        (laneList.foldl (fun s l => s.watchLand p.1 l) (s.parkIg p.1)).modGroup p.1 fun g => { g with latch := [] }
      ((s.groupsOf tid).foldl stop s).modTeam tid fun t =>
        if t.ending.isSome then t else { t with saveHalt := true, stage := .saving (t.saveReq.getD 0xD0), swapMons := mons }
def execTeamHaltForSave (team : Nat) (s : State) : Out := .next (s.haltForSave team)

/-! ### The image (R324, step 6) -/

/-- Operations and copies of a halted team are complete: only `QPOP`s still wait. -/
def State.mayImage (s : State) (tid : Nat) : Bool :=
  match s.team? tid with
  | none => false
  | some t =>
    (match t.stage with | .saving _ => true | _ => false) && !t.saveFault && !s.copies.any (fun c => c.2.team == tid)
      && (s.groupsOf tid).all fun p => p.2.ops.all fun o => match o.wait with | .sluice _ => true | _ => false

/-- The save area of a context: base, slot size, and number of slots; none where it has none. -/
def State.saveArea (s : State) (x : Nat) : Option (Nat × Nat × Nat) :=
  let log := s.rf (0x540 + x) 52 6
  if 16 ≤ log && log ≤ 27 then some (s.base (0x540 + x), 1 <<< log, s.rf (0x540 + x) 58 6 + 1) else none

/-- The slot that an image of `n` bytes takes: the lowest free one. -/
def State.saveSlot (s : State) (x n : Nat) : Option (Nat × Nat) :=
  match s.saveArea x with
  | none => none
  | some (b, size, k) =>
    match (List.range k).find? fun i => !(s.ctx x).slots.contains i with
    | none => none
    | some i => if n ≤ size && decide (b + (i + 1) * size ≤ deviceTop) then some (i, b + i * size) else none

/-- A context becomes FAULTED, with the record of R322. -/
def State.ctxFault (s : State) (t : Team) (d c : Nat) (cause : Cause) : State :=
  let x := s.teamCtx t
  let st := (s.ctx x).stage
  let s := if st == .admitted || st == .running || st == .suspended then s.setCtx x { s.ctx x with stage := .faulted } else s
  s.report d ({ cause := cause, ctx := x, die := d, core := c, node := (s.teamNodeId t).setWidth 32, rkind := 6 } : Rec).report

/-- The cycles of a `YIELD` end, for the threads of a frame. -/
def Frame.unhold (f : Frame) : Frame := { f with threads := f.threads.map fun t => { t with hold := none } }

/-- What the device keeps of a group in an image: monitors and operations that wait, not its place. Every halt handle of it is
stale from now on (16_watch R340). The cycles of a `YIELD` and of its clauses are its core's, and end. -/
def Group.keep (g : Group) : Group :=
  { (g.modThreads 0xFFFFFFFF fun t => { t with hold := none, gen := if t.halt.isSome then t.gen + 1 else t.gen }) with
    latch := [], yielded := false, passed := 0, ran := false, frames := g.frames.map Frame.unhold, entering := g.entering.map Frame.unhold,
    pending := g.pending.map Frame.unhold, ops := g.ops.map fun o => { o with watched := [] }, hostTrap := g.hostTrap.map fun h => (h.1.unhold, h.2) }

/-- The groups of a team with their keys, by `%gidx`. -/
def State.teamGroups (s : State) (tid : Nat) : List (Nat × Group) := sortOn (fun p : Nat × Group => p.2.gidx) (s.groupsOf tid)

/-- The team leaves its core for slot `slot`, its image at `pa`. -/
def State.saveTo (s : State) (tid : Nat) (t : Team) (reason : BitVec 8) (slot pa : Nat) (img : List Byte) : State :=
  let gs := s.teamGroups tid
  let x := s.teamCtx t
  let bad := (s.marks ++ s.moved).filterMap (s.imagePlace tid t gs)
  let s := (s.release (coreKey t.die t.core) 6).writeHome pa img
  let s := { s with moved := bad.map (fun o => ErrPlace.memory (pa + o)) ++ s.moved }
  let kept := gs.map fun p => p.2.keep
  let s := s.setTeam tid { t with
    stage := .saved, saveReq := none, saveHalt := false, slotUsed := some slot, stamps := [], kept := kept,
    wold := [], swapMons := if reason == 0xD6 then t.swapMons else [] }
  let s := (s.unlockAll t.die tid).freeGroups tid
  let s := { s with monitors := s.monitors.map fun (p : Nat × Monitor) => (p.1, if p.2.team == tid then { p.2 with gk := none } else p.2) }
  (s.setCtx x { s.ctx x with slots := slot :: (s.ctx x).slots }).ctxSettle x

/-- A save fault (R326). -/
def State.saveFailed (s : State) (tid : Nat) (t : Team) : State :=
  (s.modTeam tid fun t => { t with saveFault := true, migrateTo := none, swapMons := [] }).ctxFault t t.die t.core 0xD2

/-- An uncorrected error of device memory or of a home slice lies in a range (log entry 98). -/
def State.faulty (s : State) (pa n : Nat) : Bool := s.marks.any fun e => (ErrPlace.home? e).any (meetsUnit pa n)

/-- `SAVE IMAGE WRITE` (R324, R326): the image, or a save fault, which leaves the team halted and resident. -/
def State.saveImage (s : State) (tid : Nat) : State :=
  match s.team? tid with
  | none => s
  | some t =>
    if !s.mayImage tid then s
    else match t.stage with
      | .saving reason =>
        let img := s.image t ((s.teamGroups tid).map (·.2)) reason
        match s.saveSlot (s.teamCtx t) img.length with
        | none => s.saveFailed tid t
        | some (slot, pa) =>
          if (crosses t.die pa && !s.culvertOpen) || s.cleanWaits (coreKey t.die t.core) then s
          else if s.faulty pa img.length then s.saveFailed tid t
          else s.saveTo tid t reason slot pa img
      | _ => s
def execSaveImageWrite (team : Nat) (s : State) : Out := .next (s.saveImage team)

/-! ### The restore (R328) -/

/-- Issue groups and frames of a group that comes to another slot. -/
def Frame.reslot (f : Frame) (slot : Nat) : Frame :=
  { f with susp := f.susp.map fun ig => { ig with slot := slot }, ig := f.ig.map fun ig => { ig with slot := slot } }
def Group.reslot (g : Group) (slot : Nat) : Group :=
  { g with
    susp := g.susp.map fun ig => { ig with slot := slot }, entering := g.entering.map fun f => f.reslot slot,
    pending := g.pending.map fun f => f.reslot slot, hostTrap := g.hostTrap.map fun h => (h.1.reslot slot, h.2) }

/-- The frames of a group take the lowest free handler sets of its partition, outermost first. -/
def Group.takeSets (g : Group) (free : List Nat) : Group :=
  let n := g.frames.length
  { g with frames := g.frames.zipIdx.map fun p => { p.1.reslot 0 with hset := free.getD (n - 1 - p.2) 0 } }

/-- One saved group takes the lowest free slot of a partition, its handler sets, and its monitors. -/
def State.restoreGroup (s : State) (ck part tid : Nat) (g : Group) : State :=
  match (List.range 12).find? fun i => (s.group? (ck * 48 + part * 12 + i)).isNone with
  | none => s
  | some i =>
    let gk := ck * 48 + part * 12 + i
    let free := [0, 1, 2, 3].filter fun k => !(s.setsUsed (ck * 4 + part)).contains k
    let g := (g.takeSets free).reslot (part * 12 + i)
    -- a thread with position 0 reaches its header anew (03_encoding R56)
    let g := Group.reachAnew { g with frames := g.frames.map fun f => f.reslot (part * 12 + i) } 0xFFFFFFFF
    let s := s.setGroup gk g
    { s with
        monitors := s.monitors.map fun (p : Nat × Monitor) =>
          (p.1, if p.2.team == tid && p.2.gidx == g.gidx then { p.2 with gk := some gk, last := s.cyclesOf ck } else p.2) }

/-- The answers to records that came while the team was saved (08_page R197). -/
def State.lateAnswers (s : State) (tid : Nat) (as : List (Nat × Nat)) : State :=
  as.foldl (fun s a => s.answerTeam tid a.1 a.2) (s.modTeam tid fun t => { t with pendFlt := [] })

/-- The team comes back on a core. -/
def State.restoreAt (s : State) (tid : Nat) (t : Team) (pa ck : Nat) (bases : List Nat) (a : Nat) (ws : List Window) : State :=
  let x := s.teamCtx t
  let (i, s) := s.pick bases.length
  let b := bases.getD i 0
  let (q, s) := s.fresh
  let (t', gs) := teamBack (fun o n => leNat (s.bytes (pa + o) n)) t ws
  let s := s.setTeam tid { t' with
    stage := if t.migrateTo.isSome then .running else .admitted, die := ck / 96, core := ck % 96, base := b, scratchBase := a, admitTime := s.now, admitSeq := q,
    kept := [], slotUsed := none, swapMons := [], migrateTo := none }
  let s := gs.foldl (fun s g => s.restoreGroup ck ((b + g.gidx) % 4) tid g) s
  let s := s.setCtx x { s.ctx x with slots := (s.ctx x).slots.filter fun k => some k != t.slotUsed }
  let s := if t.migrateTo.isSome then s.thermalEvent (coreKey t.die t.core) 9 else s
  (((s.ctxStart x).acquire ck 6).lateAnswers tid t.pendFlt)

/-- The image of a saved team in its slot: its place, and the cause for which it is refused (R328, R329). -/
def State.savedAt (s : State) (t : Team) : Option (Nat × Option Cause) :=
  match t.slotUsed, s.saveArea (s.teamCtx t) with
  | some slot, some (base, size, _) =>
    let pa := base + slot * size
    let rd := fun (o n : Nat) => leNat (s.bytes (pa + o) n)
    some (pa, imageBad rd t.kernel <|> s.homePoison pa (rd 32 4))
  | _, _ => none

/-- `TEAM RESTORE`: the checks of R328, which run first, a poisoned image (R329), and the team on core `c` of die `d`, once that has room
for it. -/
def State.teamRestore (s : State) (tid d c : Nat) : State :=
  match s.team? tid with
  | none => s
  | some t =>
    if 2 ≤ d || 96 ≤ c || !s.restorable.any (fun p => p.1 == tid) then s
    else match s.savedAt t with
      | none => s
      | some (pa, bad) =>
        if (crosses d pa && !s.culvertOpen) || s.cleanWaits (coreKey d c) then s
        else match bad with
          | some cause => s.ctxFault t d c cause
          | none => match s.restorePlan (coreKey d c) t with
            | some (bases, a, ws) => s.restoreAt tid t pa (coreKey d c) bases a ws
            | none => s
def execTeamRestore (team d c : Nat) (s : State) : Out := .next (s.teamRestore team d c)

/-! ### Monitor swap-out (11_barrier R258) -/

/-- A team that swap-out may save: eligible, with no save requested. -/
def State.maySwap (s : State) (tid : Nat) : Bool := (s.team? tid).any (fun t => t.saveReq.isNone) && s.swapEligible tid

/-- `SWAP OUT`: the save of an eligible team is requested. -/
def State.swapOut (s : State) (tid : Nat) : State := if s.maySwap tid then s.requestSave tid 0xD6 else s
def execSwapOut (team : Nat) (s : State) : Out := .next (s.swapOut team)

end Sys2Proof.Machine
end

