-- ==== Sys2Proof/Machine/Column.lean ====
section
/-! DEFINITION. `HEAT`, the sensors and the limits of a column, thermal migration, the droop response of a cluster's clock, and
the power cap and boost (14_column R296, R298-R308). -/

namespace Sys2Proof.Machine

/-- `HEAT` (R298). -/
def execHeat (g : Guard) (f : FmtX) (s : State) : Out :=
  runAlu (.heat g f) (fun e s =>
    { regs := [write32 f.d e.act fun _ => BitVec.ofNat 32 (s.heatWord e.ck e.t),
               write32 (f.d + 1) e.act fun _ => lo32 (s.thmStat e.ck)] }) s

/-- `BERM RECLAIM` (R296): the host's write of a lender's column, or the die distributor's choice. -/
def execBermReclaim (d c : Nat) (s : State) : Out := .next (if d < 2 && c < 96 then s.reclaim (coreKey d c) else s)

/-! ### Sensors (R300, R301) -/

def gap (a b : Nat) : Nat := max a b - min a b

/-- The checks of R300 on a sample; `partner` is the partner's accepted value, `est` the model's estimate. -/
def Sensor.fails (x : Sensor) (code est : Nat) (partner : Option Nat) : Bool :=
  code < 80 || 760 < code || x.accepted.any (fun a => decide (8 < gap code a))
    || (x.code == code && decide (4096 ≤ x.same + 1) && partner.any fun p => x.partner.any fun q => decide (12 < gap p q))
    || decide (60 < gap code est)

/-- One more sample with its code: the run of equal codes. -/
def Sensor.run (x : Sensor) (code : Nat) (partner : Option Nat) : Sensor :=
  if x.same != 0 && x.code == code then { x with same := x.same + 1, partner := x.partner <|> partner }
  else { x with code := code, same := 1, partner := partner }

/-- A sample of a sensor that has not failed: its next state, and the EVENT to report. -/
def Sensor.sample (x : Sensor) (code est : Nat) (partner : Option Nat) : Sensor × Option Nat :=
  let bad := x.fails code est partner
  let x := x.run code partner
  let taken := { x with eff := code, accepted := some code }
  match x.state with
  | .ok => if bad then ({ x with state := .suspect 1 0 }, some 6) else (taken, none)
  | .suspect f p =>
    if bad then (if f < 15 then ({ x with state := .suspect (f + 1) 0 }, none) else ({ x with state := .failed }, some 7))
    else if p < 15 then ({ taken with state := .suspect 0 (p + 1) }, none) else ({ taken with state := .ok }, none)
  | .failed => (x, none)

/-- The effective value of a failed sensor. -/
def Sensor.substitute (x partner : Sensor) (est : Nat) : Sensor :=
  if x.state != .failed then x
  else { x with eff := if partner.state == .failed then est else max partner.eff est }

/-- The conditions of R302 that hold on a column, as EVENT codes. -/
def State.conditions (s : State) (ck : Nat) : List Nat :=
  let c := s.column ck
  let top := max c.u.eff c.l.eff
  let vert := gap c.u.eff c.l.eff
  let lat := (neighbours ck).any fun p => decide (72 ≤ gap c.u.eff (s.column p.2).u.eff)
  (if 560 ≤ top then [1] else []) ++ (if 580 ≤ top then [2] else []) ++ (if 36 ≤ vert then [3] else [])
    ++ (if 48 ≤ vert then [4] else []) ++ (if lat then [5] else [])

/-- Thermal migration of a lit column (R306): the team of the highest class, of those the one placed first (log entry 123), to the lowest
core of its cluster that could admit it, or the refusal. -/
def State.migrate (s : State) (ck : Nat) : State :=
  let able := (s.teamsOn ck).filter fun p => (p.2.stage == .admitted || p.2.stage == .running) && p.2.saveReq.isNone
  match maxOn (fun p : Nat × Team => p.2.kernel.heat) able with
  | none => s
  | some (tid, t) =>
    let cl := clusterOf ck
    let bs := (s.teamGroups tid).map (·.2.budget)
    match ((List.range 12).map fun i => coreKey (cl / 8) (cl % 8 * 12 + i)).find? fun k => k != ck && (s.plan k t.kernel bs).isSome with
    | none => s.thermalEvent ck 10
    | some k => (s.requestSave tid 0xD5).modTeam tid fun t => { t with migrateTo := some k }

/-- The limits are tested: what has newly come about is reported, and may trigger a migration. -/
def State.testLimits (s : State) (ck : Nat) : State :=
  let now := s.conditions ck
  let new := now.filter fun e => !(s.column ck).reported.contains e
  let s := s.setColumn ck { s.column ck with reported := now }
  let s := new.foldl (fun s e => s.thermalEvent ck e) s
  let pol := (s.raw 0x282).toNat
  if bitOf pol 0 && ((bitOf pol 1 && new.contains 3) || (bitOf pol 2 && new.contains 1)) && decide (2 ≤ s.columnState ck) && decide (s.columnState ck ≤ 5) then s.migrate ck
  else s

/-- `SENSOR SAMPLE`: codes of the upper and the lower sensor of a column. -/
def State.sensorSample (s : State) (ck u l : Nat) : State :=
  let c := s.column ck
  let ru := c.u.sample u c.est c.l.accepted
  let rl := c.l.sample l c.est c.u.accepted
  let s := s.setColumn ck { c with u := ru.1.substitute rl.1 c.est, l := rl.1.substitute ru.1 c.est }
  let s := (ru.2.toList ++ rl.2.toList).foldl (fun s e => s.thermalEvent ck e) s
  s.testLimits ck
def execSensorSample (d c u l : Nat) (s : State) : Out :=
  .next (if d < 2 && c < 96 && !(s.die d).tripped then s.sensorSample (coreKey d c) (u % 1024) (l % 1024) else s)

/-- `SENSOR REARM`: failed sensors of a column go to SUSPECT. -/
def State.sensorRearm (s : State) (ck : Nat) : State :=
  let c := s.column ck
  let up := fun (x : Sensor) => if x.state == .failed then { x with state := .suspect 0 0 } else x
  let n := b2n (c.u.state == .failed) + b2n (c.l.state == .failed)
  (List.range n).foldl (fun s _ => s.thermalEvent ck 8) (s.setColumn ck { c with u := up c.u, l := up c.l })
def execSensorRearm (col : Nat) (s : State) : Out := .next (if col < 192 then s.hostCommand fun s => s.sensorRearm col else s)

/-! ### Droop (R304) -/

/-- `DROOP ALARM RISE`: a stretch begins, but during one. -/
def State.droopRise (s : State) (k : Nat) : State :=
  let c := s.cluster k
  if c.alarm then s
  else match c.phase with
    | .stretch _ _ => s.setCluster k { c with alarm := true }
    | _ =>
      let s := s.setCluster k { c with
        alarm := true, phase := .stretch 32 (s.die (k / 8)).ticks, perf := SMap.set c.perf 6 (SMap.getD c.perf 6 0 + 1) }
      s.setRaw (0x240 + k) (setBits (s.raw (0x240 + k)) 32 32 (s.rf (0x240 + k) 32 32 + 1))
def execDroopAlarmRise (d cl : Nat) (s : State) : Out := .next (if d < 2 && cl < 8 && !(s.die d).tripped then s.droopRise (8 * d + cl) else s)
/-- `DROOP ALARM CLEAR`. -/
def execDroopAlarmClear (d cl : Nat) (s : State) : Out :=
  .next (if d < 2 && cl < 8 && !(s.die d).tripped then s.modCluster (8 * d + cl) fun c => { c with alarm := false } else s)

/-- `STRETCH END`: the trail record, and the hold. -/
def State.stretchEnd (s : State) (k : Nat) : State :=
  let c := s.cluster k
  match c.phase with
  | .stretch left start =>
    if !c.stretchOver then s
    else
      let hold := s.rf (0x250 + k) 0 16
      let s := s.setCluster k { c with phase := if hold == 0 then .normal else .hold hold true }
      s.trail (k / 8) 0x07 0 k (leBytes 8 start ++ [BitVec.ofNat 8 (32 - left), 0] ++ leBytes 2 hold)
  | _ => s
def execStretchEnd (d cl : Nat) (s : State) : Out := .next (if d < 2 && cl < 8 then s.stretchEnd (8 * d + cl) else s)

/-- `HOLD END`. -/
def execHoldEnd (d cl : Nat) (s : State) : Out :=
  .next (if d < 2 && cl < 8 && !(s.die d).tripped then s.modCluster (8 * d + cl) fun c => if c.phase.held then { c with phase := .normal } else c else s)

/-! ### Power (R305, R307, R308) -/

/-- `POWER MODEL UPDATE`: what the model makes of a column's last µs. -/
def State.powerUpdate (s : State) (ck mw est : Nat) : State :=
  let old := (s.column ck).mw
  let s := s.setColumn ck { s.column ck with mw := mw, est := est }
  let s := s.modCluster (clusterOf ck) fun c => { c with power := c.power - old + mw }
  s.modDie (ck / 96) fun x => { x with powerSum := x.powerSum + mw, powerN := x.powerN + 1 }
def execPowerModelUpdate (d c mw est : Nat) (s : State) : Out :=
  .next (if d < 2 && c < 96 && !(s.die d).tripped then s.powerUpdate (coreKey d c) (mw % 65536) (est % 1024) else s)

/-- Bias codes: the host's setting of a cluster, and how far the cap has raised it. -/
def State.biasSet (s : State) (k : Nat) : Nat := s.rf (0x270 + k) 0 8
def State.biasRaise (s : State) (k : Nat) : Nat := (s.cluster k).applied.toNat - s.biasSet k
def dieClusters (d : Nat) : List Nat := (List.range 8).map (8 * d + ·)

/-- One step down: the clock, and at its floor the bias of the cluster of highest power that can be raised. -/
def State.capStep (s : State) (d : Nat) : State :=
  if 600 < (s.die d).clockMhz then s.modDie d fun x => { x with clockMhz := max 600 (x.clockMhz - 25) }
  else
    let can := (dieClusters d).filter fun k => decide ((s.cluster k).applied.toNat < min 255 (s.biasSet k + 16))
    match maxOn (fun k => (s.cluster k).power) can with
    | none => s
    | some k => s.modCluster k fun c => { c with applied := c.applied + 1 }

/-- One raise of a bias is undone, if there is any. -/
def State.biasStep (s : State) (d : Nat) : Option State :=
  match maxOn s.biasRaise ((dieClusters d).filter fun k => decide (0 < s.biasRaise k)) with
  | none => none
  | some k => some (s.modCluster k fun c => { c with applied := c.applied - 1 })

/-- The mean power of a die over the interval, that of its columns' updates over 96 columns, against `mw` mW, without rounding. -/
def Die.powerVs (x : Die) (mw : Nat) : Ordering := compare (96 * x.powerSum) (mw * max 1 x.powerN)

/-- The clock of a die at the end of an interval that did not exceed the cap; `x` holds the interval's power. -/
def State.clockStep (s : State) (d : Nat) (x : Die) : State :=
  let cap := s.rf (0x280 + d) 0 12
  let hot := x.powerVs (900 * cap) == .gt
  let reg := s.raw (0x796 + d)
  let mhz := fld reg 0 11
  let clk := (s.die d).clockMhz
  let alert := (dieCores d).any fun ck => (s.column ck).reported.any fun e => decide (e ≤ 4)
  let new :=
    if !bitOf reg.toNat 16 then (if cap == 0 then mhz else min mhz (clk + 25))
    else if mhz < clk && ((cap != 0 && hot) || alert) then max mhz (clk - 25)
    else if !alert && (cap == 0 || !hot) then min 1440 (clk + 25)
    else clk
  s.modDie d fun x => { x with clockMhz := new }

/-- `POWER CAP INTERVAL`: every 100 µs. A mean that equals the cap neither takes a step nor undoes one. -/
def State.capInterval (s : State) (d : Nat) : State :=
  let x := s.die d
  let cap := s.rf (0x280 + d) 0 12
  let vs := x.powerVs (1000 * cap)
  let tooHigh := cap != 0 && vs == .gt
  let s := s.modDie d fun x => { x with overCap := tooHigh, powerSum := 0, powerN := 0 }
  if s.mode then s
  else if tooHigh then s.capStep d
  else if cap != 0 && vs == .eq then (if bitOf (s.raw (0x796 + d)).toNat 16 then s.clockStep d x else s)
  else match s.biasStep d with
    | some s => s
    | none => s.clockStep d x
def execPowerCapInterval (d : Nat) (s : State) : Out := .next (if d < 2 then s.capInterval d else s)

/-- What a write of the clock, bias or cap registers of a die changes at once in open mode. -/
def State.clockSettings (s : State) (d : Nat) (raise : Nat → Nat) : State :=
  if s.mode then s
  else
    let cap := s.rf (0x280 + d) 0 12
    let reg := s.raw (0x796 + d)
    let mhz := fld reg 0 11
    let boost := bitOf reg.toNat 16
    let s := s.modDie d fun x => { x with
      clockMhz := if cap == 0 then (if boost then max mhz x.clockMhz else mhz) else if boost then x.clockMhz else min mhz x.clockMhz }
    (dieClusters d).foldl (fun s k => s.modCluster k fun c => { c with
      applied := BitVec.ofNat 8 (if cap == 0 then s.biasSet k else min 255 (s.biasSet k + raise k)) }) s

end Sys2Proof.Machine
end

