-- ==== Sys2Proof/Machine/Complete.lean ====
section
/-! DEFINITION. The completion of long-latency operations (04_group R90, 12_kernel R271, 17_sample R362). -/

namespace Sys2Proof.Machine

/-- The environment in which a group's operation completes. -/
def State.opEnv (s : State) (gk : Nat) : Option Env :=
  match s.group? gk with
  | none => none
  | some g => match s.team? g.team with
    | none => none
    | some t => some { op := 0, pk := gkPart gk, gk := gk, tid := g.team, x := s.teamCtx t, g := g, t := t,
                       ig := IssueGroup.form (gkSlot gk) g.live 0 0 0 0 false, act := 0, guarded := 0, ops := [], vals := [] }

/-- The operation's flags are set, its values written and its entries filled; value predicates that were enabled when it issued
match what it writes (16_watch R332). -/
def State.completeOp (s : State) (gk : Nat) (o : PendOp) (ws : List (Nat × Mask × Lanes W32)) : State :=
  let ws := ws.filter fun w => o.dests.contains w.1
  let regs := ws.map fun w => ({ reg := BitVec.ofNat 8 w.1, mask := w.2.1, vals := w.2.2 } : RegWrite)
  let hits := (s.opEnv gk).elim [] fun e => (s.valueHits e regs).filter fun h => o.watched.contains h.1.words
  let s := (s.opEnv gk).elim s fun e => s.recordHits e hits
  (s.unmarkRegs gk [] regs).modGroup gk fun g =>
    let g := { g with ops := g.ops.filter fun p => p.id != o.id, fx := g.fx ||| fxUnion o.fx, halts := g.halts ++ haltsOf (1 <<< 128 + o.id) 1 hits }
    let g := regs.foldl Group.writeReg g
    { g with
        v := o.dests.foldl (fun v n => match SMap.get? v n with
          | some en => SMap.set v n { en with full := true }
          | none => v) g.v }

/-- Writes of lanes' words, word n mod `k` to register n. -/
def PendOp.fill (o : PendOp) (k : Nat) (m : Mask) (word : Nat → Nat → W32) : List (Nat × Mask × Lanes W32) :=
  o.dests.map fun n => (n, m, lanes fun l => word l (n % k))

/-- What an operation waits for has come about. -/
def State.opReady (s : State) (gk : Nat) (g : Group) (o : PendOp) : Bool :=
  match o.wait with
  | .ready => true
  | .replies => !s.replyPending gk o.id
  | .sluice q =>
    let sl := g.queue q
    (match g.ops.find? fun p => p.wait == .sluice q with | some p => p.id == o.id | none => false)
      && (!sl.items.isEmpty || sl.finished)
  | .sld reads => (s.team? g.team).any fun t => reads.all fun r => s.readReady (gkDie gk) t r.2.1
  | .sbkt _ _ reads => (s.team? g.team).any fun t => reads.all fun r => s.readReady (gkDie gk) t r.2

/-- The reads of buckets in ascending lane order: the words of each lane. -/
def readLanes {α : Type} (s : State) (reads : List (Nat × α)) (now : State → α → List Byte × State) : Lanes (List Byte) × State :=
  reads.foldl (fun acc r => let b := now acc.2 r.2; (Lanes.upd acc.1 r.1 fun _ => b.1, b.2)) (Vector.replicate 32 [], s)
def wordAt (v : Lanes (List Byte)) (l k : Nat) : W32 := BitVec.ofNat 32 (leNat (((Lanes.at v l).drop (4 * k)).take 4))

/-- `QPOP` gets the next entry of its queue (R271); a failure traps at the next boundary, D unchanged. -/
def State.sluiceDone (s : State) (gk : Nat) (g : Group) (o : PendOp) (q : Nat) : State :=
  let sl := g.queue q
  match sl.items, sl.failure with
  | (a, b, c, d) :: r, _ =>
    (s.completeOp gk o (o.fill 4 o.mask fun _ k => [a, b, c, d].getD k 0)).modGroup gk fun g =>
      g.setQueue q { sl with items := r, taken := sl.taken - 1 }
  | [], some c =>
    ((s.completeOp gk o []).modGroup gk fun g =>
      g.setQueue q { sl with failure := none, taken := sl.taken - 1, reserved := sl.reserved - 1 }).laneTrap gk c o.mask
  | [], none =>
    (s.completeOp gk o (o.fill 4 o.mask fun _ k => if k == 3 then BitVec.ofNat 32 (2 + 4 * b2n sl.err) else 0)).modGroup gk fun g =>
      g.setQueue q { sl with taken := sl.taken - 1, reserved := sl.reserved - 1 }

/-- `LONG LATENCY COMPLETE`: operation `op` of a group. -/
def State.longComplete (s : State) (d c slot op : Nat) : State :=
  let gk := groupKey d c slot
  if 2 ≤ d || 96 ≤ c || 48 ≤ slot then s
  else match s.group? gk with
    | none => s
    | some g =>
      match g.ops.find? fun o => o.id == op, s.team? g.team with
      | some o, some t =>
        if !s.opReady gk g o then s
        else match o.wait with
          | .ready => s.completeOp gk o o.writes
          | .replies => s.completeOp gk o []
          | .sluice q => s.sluiceDone gk g o q
          | .sld reads =>
            let r := readLanes s reads fun s (p : Nat × Nat) => sldNow s d t p.1 p.2
            r.2.completeOp gk o (o.fill 8 o.mask (wordAt r.1))
          | .sbkt _ _ reads =>
            let r := readLanes s reads fun s (p : Nat) => sbktNow s d t p
            r.2.completeOp gk o (o.fill 2 o.mask (wordAt r.1))
      | _, _ => s
def execLongLatencyComplete (d c slot op : Nat) (s : State) : Out := .next (s.longComplete d c slot op)

end Sys2Proof.Machine
end

