-- ==== Sys2Proof/Machine/Convert.lean ====
section
/-! DEFINITION. The conversions, `SCALE` and the special functions (06_group_float R132-R138). -/

namespace Sys2Proof.Machine

/-- The formats of the codes of R132. -/
def cvtFmt (c : BitVec 3) : Fp :=
  match c.toNat with
  | 0 => .f32 | 1 => .f16 | 2 => .bf16 | 3 => .k8e4 | 4 => .k8e5 | _ => .a56
def cvtSat (f : Fp) (sat : Bool) : Bool := sat && !f.narrow

/-- `CVT` of one value (R132). -/
def cvt (f : FmtR) (mode : RMode) (a : Word) : Nat × Fx :=
  let sf := cvtFmt f.ty
  let df := cvtFmt f.dtype
  let (x, fx) := decodeFp sf (codeOf sf a)
  let y := x.mods f.aa f.na
  -- a mark is kept for fp32 NaNs only (02_numbers R40)
  let r := if f.ty == 6 && df.narrow && y.isNan then (0x7F, 0)
    else if f.ty == 6 then roundFlush df mode (cvtSat df f.sat) y else roundEx df mode (cvtSat df f.sat) y
  (r.1, fx ||| r.2)
def execCvt (g : Guard) (f : FmtR) (s : State) : Out :=
  runAlu (.cvt g f) (fun e s =>
    laneEff e false f.d fun l =>
      let mode := if f.nb then s.rsMode e l (e.src32 1 l) else rmode f.rnd
      let r := cvt f mode (e.src 0 l)
      (BitVec.ofNat 64 r.1, r.2)) s

/-- `F2I` (R133, 02_numbers R39). -/
def execF2i (g : Guard) (f : FmtR) (s : State) : Out :=
  runAlu (.f2i g f) (fun e _ =>
    let fmt := fpTy f.ty
    let wide := wideTy f.dtype
    laneEff e wide f.d fun l =>
      let x := (valOf fmt (codeOf fmt (e.src 0 l))).mods f.aa f.na
      let r := toInt (if wide then 64 else 32) (elemSigned f.dtype) (rmode f.rnd) x
      (BitVec.ofNat 64 r.1, r.2)) s

/-- `I2F` (R133). -/
def execI2f (g : Guard) (f : FmtR) (s : State) : Out :=
  runAlu (.i2f g f) (fun e s =>
    let df := cvtFmt f.dtype
    laneEff e false f.d fun l =>
      let mode := if f.nb then s.rsMode e l (e.src32 1 l) else rmode f.rnd
      let r := roundEx df mode (cvtSat df f.sat) (.ofInt (elemOf f.ty (e.src 0 l) 0))
      (BitVec.ofNat 64 r.1, r.2)) s

/-- A register with one byte replaced. -/
def putByte (w : W32) (k : Nat) (b : Nat) : W32 :=
  (w &&& ~~~((0xFF : W32) <<< (8 * k))) ||| (BitVec.ofNat 32 (b % 256) <<< (8 * k))
def getByte (w : W32) (k : Nat) : Nat := bitsOf w.toNat (8 * k) 8

/-- `NCVT` (R134). -/
def execNcvtPack (g : Guard) (f : FmtR) (s : State) : Out :=
  runAlu (.ncvtPack g f) (fun e _ =>
    let kt := cvtFmt f.ty
    let h := 2 * b2n (f.mods.getLsbD 2)
    laneEff e false f.d fun l =>
      let enc := fun (x : W32) => roundEx kt (rmode f.rnd) false ((valOf .f32 x.toNat).mods f.aa f.na)
      let a := enc (e.src32 0 l)
      let b := enc (e.src32 1 l)
      ((putByte (putByte (e.src32 2 l) h a.1) (h + 1) b.1).setWidth 64, a.2 ||| b.2)) s
def execNcvtUnpack (g : Guard) (f : FmtR) (s : State) : Out :=
  runAlu (.ncvtUnpack g f) (fun e _ =>
    laneEff e false f.d fun l =>
      let (x, fx) := decodeFp (cvtFmt f.ty) (getByte (e.src32 0 l) (f.mods.extractLsb' 0 2).toNat)
      let r := roundEx .f32 .rn false (x.mods f.aa f.na)
      (BitVec.ofNat 64 r.1, fx ||| r.2)) s

/-- `QCVT` (R135, 02_numbers R26, R27). -/
def execQcvtPack (g : Guard) (f : FmtR) (s : State) : Out :=
  runAlu (.qcvtPack g f) (fun e _ =>
    laneEff e false f.d fun l =>
      let v := fun (x : W32) => (valOf .f32 x.toNat).mods f.aa f.na
      let r := encodeQ4 (rmode f.rnd) (v (e.src32 0 l)) (v (e.src32 1 l))
      ((putByte (e.src32 2 l) (f.mods.extractLsb' 0 2).toNat r.1).setWidth 64, r.2)) s
def execQcvtUnpack (g : Guard) (f : FmtR) (s : State) : Out :=
  runAlu (.qcvtUnpack g f) (fun e _ =>
    laneEff e true f.d fun l =>
      let (xs, fx) := decodeQ4 (getByte (e.src32 0 l) (f.mods.extractLsb' 0 2).toNat)
      let r := fun (x : Ex) => (roundEx .f32 .rn false (x.mods f.aa f.na)).1
      (pair64 (BitVec.ofNat 32 (r xs.1)) (BitVec.ofNat 32 (r xs.2)), fx)) s

/-! ### `SCALE` (R136) -/

/-- An exponent beyond which every result is an overflow, or below every subnormal. -/
def clampExp (k : Int) : Int := if k < -2000 then -2000 else if 2000 < k then 2000 else k

def scaleVal (f : FmtR) (a : Word) : Ex := (valOf (fpTy f.ty) (codeOf (fpTy f.ty) a)).mods f.aa f.na
def execScaleExp (g : Guard) (f : FmtR) (s : State) : Out :=
  runAlu (.scaleExp g f) (fun e _ =>
    laneEff e false f.d fun l =>
      let r := roundEx (fpTy f.ty) (rmode f.rnd) f.sat ((scaleVal f (e.src 0 l)).shift (clampExp (signedOf (e.src32 1 l).toNat 32)))
      (BitVec.ofNat 64 r.1, r.2)) s

/-- The word forms: a scale word with E = 255 gives NaN and raises scale composition. -/
def scaleByWord (f : FmtR) (inv : Bool) (a w : Word) (c : W32) : Word × Fx :=
  let fmt := fpTy f.ty
  let x := scaleVal f a
  if scaleE w == 255 then
    match nanOf fmt [x] with
    | some r => (BitVec.ofNat 64 r.1, r.2 ||| fxScmp)
    | none => (BitVec.ofNat 64 fmt.nanCode, fxScmp)
  else
    let k := scaleExp w (bitsOf c.toNat 0 3) (bitsOf c.toNat 3 3)
    let r := roundFlush fmt (rmode f.rnd) f.sat (x.shift (if inv then -k else k))
    (BitVec.ofNat 64 r.1, r.2)
def scaleWordRes (f : FmtR) (inv : Bool) (e : Env) (s : State) : Res :=
  match e.lanes.find? fun l => scaleBad (e.src 1 l) with
  | some l => .stop s {} 0 (.trap 0x71 (BitVec.ofNat 64 l))
  | none => .done s (laneEff e false f.d fun l => scaleByWord f inv (e.src 0 l) (e.src 1 l) (e.src32 2 l))
def execScaleWord (g : Guard) (f : FmtR) (s : State) : Out := runWord (.scaleWord g f) noCheck (fun e s => scaleWordRes f false e s) s
def execScaleWordinv (g : Guard) (f : FmtR) (s : State) : Out :=
  runWord (.scaleWordinv g f) noCheck (fun e s => scaleWordRes f true e s) s

/-! ### Special functions (R137, R138): long-latency producers -/

def specialFn (fn : Func) (f : FmtR) (e : Env) : Eff :=
  let fmt := fpTy f.ty
  { laneEff e false f.d (fun l =>
      let r := fpFunc fn fmt (rmode f.rnd) ((valOf fmt (codeOf fmt (e.src 0 l))).mods f.aa f.na)
      (BitVec.ofNat 64 r.1, r.2)) with
    long := some .other }
def execRcp (g : Guard) (f : FmtR) (s : State) : Out := runAlu (.rcp g f) (fun e _ => specialFn .rcp f e) s
def execRsq (g : Guard) (f : FmtR) (s : State) : Out := runAlu (.rsq g f) (fun e _ => specialFn .rsq f e) s
def execSqrt (g : Guard) (f : FmtR) (s : State) : Out := runAlu (.sqrt g f) (fun e _ => specialFn .sqrt f e) s
def execLg2 (g : Guard) (f : FmtR) (s : State) : Out := runAlu (.lg2 g f) (fun e _ => specialFn .lg2 f e) s
def execEx2 (g : Guard) (f : FmtR) (s : State) : Out := runAlu (.ex2 g f) (fun e _ => specialFn .ex2 f e) s
def execSin (g : Guard) (f : FmtR) (s : State) : Out := runAlu (.sin g f) (fun e _ => specialFn .sin f e) s
def execCos (g : Guard) (f : FmtR) (s : State) : Out := runAlu (.cos g f) (fun e _ => specialFn .cos f e) s
def execTanh (g : Guard) (f : FmtR) (s : State) : Out := runAlu (.tanh g f) (fun e _ => specialFn .tanh f e) s

end Sys2Proof.Machine
end

