-- ==== Sys2Proof/Machine/HostRegs.lean ====
section
/-! DEFINITION. Writes of system registers by the host and by programs and what they bring about (00_scope R4, 18_link R373, R374
and the register tables of every chapter), translation invalidation (08_page R190), and column-cache write-back (09_memory R202). -/

namespace Sys2Proof.Machine

/-! ### Invalidation (R190) -/

/-- GO: an invalidation starts, unless one is in progress or its range or scope is refused. -/
def State.tlbiGo (s : State) (ctl : Word) : State :=
  let va := s.raw 0x220
  let k := fld va 52 4
  if s.tlbi.isSome then s
  else if fld ctl 8 2 == 3 || (fld ctl 8 2 == 0 && fld va 12 40 % (1 <<< k) != 0) then s.setRaw 0x221 (setBits (s.raw 0x221) 18 1 1)
  else { s with tlbi := some (ctl, va) }

/-- The scope of an invalidation: contexts, units of 4 KiB, and whether global translations go. -/
structure TlbScope where
  ctx : Option Nat
  lo : Nat
  len : Nat
  glb : Bool
  deriving DecidableEq, Repr

def tlbScope (p : Word × Word) : TlbScope :=
  let every := fld p.1 8 2 == 2
  let range := fld p.1 8 2 == 0
  { ctx := if every then none else some (fld p.1 0 6), lo := if range then fld p.2 12 40 else 0,
    len := if range then 1 <<< fld p.2 52 4 else 1 <<< 40, glb := every || bitOf p.1.toNat 10 }

/-- Units `lo` to `lo + n - 1` meet the range. -/
def TlbScope.meets (c : TlbScope) (lo n : Nat) : Bool := decide (lo < c.lo + c.len) && decide (c.lo < lo + n)
/-- The context, or a global translation where those go. -/
def TlbScope.names (c : TlbScope) (x : Nat) (g : Bool) : Bool := if g then c.glb else c.ctx.isNone || c.ctx == some x
/-- A held leaf in scope. -/
def TlbScope.leaf (c : TlbScope) (t : TlbEntry) : Bool :=
  c.names t.ctx (leafGlobal t.leaf) && c.meets (t.unit / (1 <<< leafK t.leaf) * (1 <<< leafK t.leaf)) (1 <<< leafK t.leaf)
/-- A held pointer on the path to an address in scope. -/
def TlbScope.pointer (c : TlbScope) (t : TlbEntry) : Bool :=
  let n := 1 <<< (10 * t.lvl)
  (c.glb || c.names t.ctx false) && c.meets (t.unit / n * n) n

/-- The page of a monitor is covered: the scope holds the 4 KiB unit of its address (log entry 118). -/
def State.covers (s : State) (c : TlbScope) (m : Monitor) : Bool :=
  let glob := match (s.walkVa 0 m.ctx m.va.toNat).1 with | .leaf e _ _ => leafGlobal e | _ => false
  c.meets (m.va.toNat / 4096) 1 && (c.names m.ctx false || (glob && c.names m.ctx true))

/-- The invalidation may complete: no copy that moves uses a translation in scope, for its data or for its completion word, and the lines
that it releases can be written back. -/
def State.canTlbi (s : State) : Bool :=
  s.tlbi.any fun p => !s.pinsWait (tlbScope p).leaf && !s.copies.any fun q =>
    (q.2.stage == .accepted || q.2.stage == .moving) && q.2.pages.any fun g => (tlbScope p).leaf g.2

/-- `TLBI COMPLETE`: held translations in scope are gone, pins made through them released, monitors of their pages evicted. -/
def State.tlbiComplete (s : State) : State :=
  match s.tlbi with
  | none => s
  | some p =>
    if !s.canTlbi then s
    else
      let c := tlbScope p
      let keep := fun (l : List TlbEntry) => l.filter fun t => !c.leaf t
      let s := { s with
        tlbi := none
        cores := s.cores.map fun (k : Nat × Core) => (k.1, { k.2 with tlb := keep k.2.tlb })
        clusters := s.clusters.map fun (k : Nat × Cluster) => (k.1, { k.2 with tlb := keep k.2.tlb })
        dies := s.dies.map fun (k : Nat × Die) => (k.1, { k.2 with walk := k.2.walk.filter fun t => !c.pointer t }) }
      (s.releasePins c.leaf).evictMonitors (s.covers c)
def execTlbiComplete (s : State) : Out := .next s.tlbiComplete

/-! ### Settings with rules of their own -/

/-- `TMODE` (01_device R17): a write starts, restarts or cancels a pending change. A write of its upper half alone does not come here: it
leaves TOURN and the count as they were (log entry 81). -/
def State.tmodeWrite (s : State) (v : Word) : State :=
  let s := s.setRaw 0x785 (v &&& 1)
  if v.getLsbD 0 == s.mode then { s with modeWait := none }
  else { s with modeWait := some { val := v &&& 1, written := s.now, back := none, due := false, first := none } }
/-- `SCENE_EPOCH`; one that comes between the restarts of the two dies waits for the second. -/
def State.sceneEpochWrite (s : State) (v : Word) : State :=
  if s.epochWait.any fun p => p.first.isSome then
    { s with regWaits := s.regWaits.filter (fun w => w.1 != 2) ++ [(2, 0x712, v, 0xFFFFFFFFFF)] }
  else s.epochWrite (v &&& 0xFFFFFFFFFF)

/-- The checks of `L2_QUOTA` (08_page R193), `DRP_THR` (14_column R302) and `CLK_SET` (19_trail R391): a refused value leaves the
fields as they were. -/
def regFix (n : Nat) (old new : Word) : Word :=
  if 0x200 ≤ n && n < 0x220 then
    let w := fld new 0 5
    let k := fld new 8 5
    let p := fld new 16 5
    if 16 < w || 16 < k || 16 < p || 16 < w + k + p then setBits ((new &&& ~~~0x1F1F1F) ||| (old &&& 0x1F1F1F)) 31 1 1 else new
  else if 0x240 ≤ n && n < 0x250 then
    if fld new 0 7 < 10 || 120 < fld new 0 7 then setBits (setBits new 0 7 (fld old 0 7)) 7 1 1 else new
  else if n == 0x796 || n == 0x797 then
    let m := fld new 0 11
    if m < 600 || 1440 < m || m % 25 != 0 then setBits new 0 11 (fld old 0 11) else new
  else new

/-- A sampler or band register, whose writes wait for the boundary of its die (17_sample R361); the die. -/
def boundaryReg (n : Nat) : Option Nat :=
  if 0x706 ≤ n && n < 0x70A then some ((n - 0x706) / 2)
  else if (0x700 ≤ n && n < 0x712) || n == 0x714 || n == 0x715 then some (n % 2) else none

/-- RW and W1C fields of a register after a write of the bits `m` (00_scope R4). -/
def mergeReg (old v m rw w1c : Word) : Word := ((old &&& ~~~(rw &&& m)) ||| (v &&& rw &&& m)) &&& ~~~(v &&& w1c &&& m)

/-- The watch register of a core. -/
def State.watchReg (s : State) (ck n : Nat) : Word := SMap.getD (s.core ck).watch n 0
def State.setWatchReg (s : State) (ck n : Nat) (v : Word) : State :=
  s.modCore ck fun c => { c with watch := SMap.put c.watch 0 n v }
/-- The watch bank's registers (16_watch R330). -/
def watchNum (n : Nat) : Bool := decide (0x680 ≤ n) && decide (n < 0x6F0)
/-- The registers that describe a context and are written only while it is FREE or CREATED (15_context R309). -/
def ctxConfig (n : Nat) : Bool := decide (0x480 ≤ n) && decide (n < 0x5C0)

/-- Pinned lines of a home slice beyond a lowered PIN are released (08_page R193): the newest of each set. -/
def State.trimPins (s : State) (slice : Nat) : State :=
  let ways := s.rf (0x200 + slice) 16 5
  let set_ := fun (l : Nat) => Config.sliceSet l % 1024
  let keep := fun (acc : List (Nat × TlbEntry)) (q : Nat × TlbEntry) =>
    if homeSlice (256 * q.1) == slice && decide (ways ≤ (acc.filter fun r => homeSlice (256 * r.1) == slice && set_ r.1 == set_ q.1).length) then acc
    else acc ++ [q]
  { s with slicePins := s.slicePins.foldl keep [] }

/-- A write of register `n`: the bits `m` of `v`, of which the agent may write the fields `rw`, `w1c` and `wo`. A write of the upper half
of `TMODE` alone is no write of TOURN and does not restart the count of a pending change (log entry 81). Where one write makes several
transitions of an output, they come in the order of R385's rows (00_scope R8). -/
def State.regWrite (s : State) (n : Nat) (v m rw w1c wo : Word) : State :=
  let old := s.kept n
  let new := regFix n old (mergeReg old v m rw w1c)
  let act := v &&& m &&& wo
  let on := fun (b : Nat) => act.getLsbD b
  if ctxConfig n then
    match (s.ctx (n % 64)).stage with
    | .free | .created => s.setRaw n new
    | _ => s.cmdErr
  else if n == 0x5C0 then (s.setRaw n new).ctxCommand (fld new 0 6) (fld act 8 3)
  else if 0x200 ≤ n && n < 0x220 then (s.setRaw n new).trimPins (n - 0x200)
  else if n == 0x221 then let s := s.setRaw n new; if on 16 then s.tlbiGo new else s
  else if n == 0x228 then s.fltResume (fld act 0 6) (fld act 8 16) (fld act 24 2)
  else if n == 0x283 then if fld act 0 8 < 192 then s.reclaim (fld act 0 8) else s
  else if 0x300 ≤ n && n < 0x3C0 then if on 30 then s.sensorRearm (n - 0x300) else s
  else if 0x270 ≤ n && n < 0x282 || n == 0x796 || n == 0x797 then
    let raise := s.biasRaise
    let d := if n < 0x280 then (n - 0x270) / 8 else n % 2
    (s.setRaw n new).clockSettings d raise
  else if n == 0x785 then if m.getLsbD 0 then s.tmodeWrite v else s
  else if n == 0x712 then s.sceneEpochWrite new
  else if n == 0x740 then
    let s := s.setRaw n new
    let s := if on 1 then s.culvertReset else s
    if on 0 then s.culvertTrain else s
  else if n == 0x741 then
    let clr := v &&& m &&& w1c
    let c := s.culvert
    { s with
        culvert := { c with
          retry := c.retry - Nat.land c.retry (fld clr 32 16), lost := c.lost - Nat.land c.lost (fld clr 48 16) } }
  else if n == 0x748 || n == 0x749 then
    let d := n - 0x748
    let s' := s.setRaw n new
    let s' := if new.getLsbD 0 && !old.getLsbD 0 then s'.displayEnable d else s'
    let s' := if on 1 then s'.displayRetrain d else s'
    if !new.getLsbD 0 && old.getLsbD 0 then s'.displayDisable d else s'
  else if 0x790 ≤ n && n < 0x794 then s.setRaw n act
  else if n == 0x794 then if on 0 then s.measExtend else s
  else if n == 0x7C1 then
    if !on 0 then s
    else
      -- what the trip sensors read now is not the write's to say
      let (h0, s) := s.flip
      let (h1, s) := s.flip
      s.deviceReset h0 h1
  else match boundaryReg n with
    | some d => { s with regWaits := s.regWaits ++ [(d, n, v, rw &&& m)] }
    | none => if rw == 0 && w1c == 0 then s else s.setRaw n new

/-! ### BAR 0 (18_link R373, R374) -/

/-- The host writes the bits `m` of register `n`. -/
def State.hostReg (s : State) (n : Nat) (v m : Word) : State :=
  match regDesc n with
  | none => s
  | some d =>
    if watchNum n then
      let sel := s.raw 0x6F0
      let ck := coreKey (fld sel 7 1) (fld sel 0 7)
      if 96 ≤ fld sel 0 7 then s else s.setWatchReg ck n (mergeReg (s.watchReg ck n) v m d.rw d.w1c)
    else s.regWrite n v m d.rw d.w1c d.wo

/-- A BAR 0 access reaches its register: what boot and a trip leave (20_bringup R400, R401). BOOT_STAT and BOOT_CTL, once boot stage 2 has
ended or failed, answer in every stage, also after a later reset, and in a stage 1 in which a trip holds the device. -/
def State.bar0Open (s : State) (off : Nat) : Bool :=
  if off / 8 == 0x7C0 || off / 8 == 0x7C1 then s.awake || fld (s.raw 0x7C0) 6 2 != 0 else decide (3 ≤ s.boot) && !s.endpointDown
/-- The bits of a register that an access at an offset touches. -/
def halfMask (off size : Nat) : Word := if size == 8 then 0xFFFFFFFFFFFFFFFF else if off % 8 == 0 then 0xFFFFFFFF else 0xFFFFFFFF00000000

/-- `REGISTER WRITE`: a write of 4 or 8 bytes to BAR 0. -/
def State.bar0Write (s : State) (off size : Nat) (v : Word) : State :=
  if (size != 4 && size != 8) || off % size != 0 then s.send .unsupported
  else if !s.bar0Open off then (if s.endpointDown && off / 8 != 0x7C0 && off / 8 != 0x7C1 then s.send .abort else s)
  else
    let m := halfMask off size
    let v := if off % 8 == 4 then v <<< 32 else v &&& m
    if off < 0x8000 then s.hostReg (off / 8) v m
    else if 0x100000 ≤ off && off < 0x108000 then
      let i := (off - 0x100000) / 8
      { s with msix := SMap.put s.msix (if i % 2 = 1 then msixDefault else 0) i ((s.msixWord i &&& ~~~m) ||| (v &&& m)) }
    else if 0x110000 ≤ off && off < 0x110040 then
      s.windowWrite (off - 0x110000) (((bytesOfWord v).drop (off % 8)).take size)
    else s
def execRegisterWrite (off size : Nat) (v : Word) (s : State) : Out := .next (s.bar0Write off size v)

/-- The pending bits of 64 vectors. -/
def State.pendWord (s : State) (i : Nat) : Word :=
  (List.range 64).foldl (fun w k => if s.msixPend.contains (64 * i + k) then w ||| (1#64 <<< k) else w) 0
/-- What a BAR 0 read of an aligned 8 bytes returns. It changes nothing. -/
def State.bar0Read (s : State) (off : Nat) : Word :=
  if !s.bar0Open off then 0
  else if off < 0x8000 then s.readReg (off / 8)
  else if 0x100000 ≤ off && off < 0x108000 then s.msixWord ((off - 0x100000) / 8)
  else if 0x108000 ≤ off && off < 0x108100 then s.pendWord ((off - 0x108000) / 8)
  else if 0x110000 ≤ off && off < 0x110038 then
    wordOfBytes ((List.range 8).map fun k => SMap.getD s.window (off - 0x110000 + k) 0)
  else 0

/-- What a read of BAR 0 completes with (R374, 20_bringup R401): one of 4 bytes returns its half of the register. -/
def State.bar0Answer (s : State) (off size : Nat) : HostMsg :=
  if (size != 4 && size != 8) || off % size != 0 then .unsupported
  else if s.endpointDown && off / 8 != 0x7C0 && off / 8 != 0x7C1 then .abort
  else .data (((bytesOfWord (s.bar0Read (off / 8 * 8))).drop (off % 8)).take size)
/-- The next read of BAR 0 that the host has made is answered. It changes no register. -/
def State.bar0Serve (s : State) : State :=
  match s.bar0Reads with
  | [] => s
  | (off, size) :: r => ({ s with bar0Reads := r } : State).send (s.bar0Answer off size)

/-- A register write by the host as a step of its own. -/
def State.hostWhole (s : State) (n : Nat) (v : Word) : State :=
  if s.bar0Open (8 * n) then s.hostReg n v 0xFFFFFFFFFFFFFFFF else if s.endpointDown then s.send .abort else s
def execTmodeWrite (v : Word) (s : State) : Out := .next (s.hostWhole 0x785 v)
def execSceneEpochWrite (v : Word) (s : State) : Out := .next (s.hostWhole 0x712 v)
def execL2QuotaWrite (slice : Nat) (v : Word) (s : State) : Out := .next (if slice < 32 then s.hostWhole (0x200 + slice) v else s)
def execDrpThrWrite (cl : Nat) (v : Word) (s : State) : Out := .next (if cl < 16 then s.hostWhole (0x240 + cl) v else s)
/-- GO with each scope: the range of `TLBI_VA` in a context, all of a context, every context. -/
def tlbiCtl (ctx scope : Nat) (glb : Bool) : Word := BitVec.ofNat 64 (ctx % 64 + (scope <<< 8) + (b2n glb <<< 10) + (1 <<< 16))
def execTlbiRange (ctx : Nat) (glb : Bool) (s : State) : Out := .next (s.hostWhole 0x221 (tlbiCtl ctx 0 glb))
def execTlbiContext (ctx : Nat) (glb : Bool) (s : State) : Out := .next (s.hostWhole 0x221 (tlbiCtl ctx 1 glb))
def execTlbiAll (glb : Bool) (s : State) : Out := .next (s.hostWhole 0x221 (tlbiCtl 0 2 glb))

/-! ### Reports and column caches -/

def execReportRecordWrite (d : Nat) (s : State) : Out := .next (if d < 2 then s.writeReport d else s)

/-- Lines of a core's column cache with a dirty byte, that may be written back, and those with one stored 64 µs ago. -/
def State.dirtyLines (s : State) (ck : Nat) : List Nat :=
  ((((s.core ck).col.filter fun e => e.2.dirty).map fun e => lineOf e.1).eraseDups).filter (s.canClean ck)
def State.dueLines (s : State) (ck : Nat) : List Nat :=
  ((((s.core ck).col.filter fun e => e.2.dirty && decide (e.2.since + usTicks 64 ≤ s.now)).map fun e => lineOf e.1).eraseDups).filter (s.canClean ck)
/-- `COLUMN WRITEBACK` (09_memory R202): the dirty bytes of a 256-byte line go to its home. -/
def execColumnWriteback (d c line : Nat) (s : State) : Out :=
  .next (if d < 2 && c < 96 && s.canClean (coreKey d c) line then s.cleanColumn (coreKey d c) fun a => lineOf a == line else s)

end Sys2Proof.Machine
end

