-- ==== Sys2Proof/Machine/Rays.lean ====
section
/-! DEFINITION. Rays and probes: `RBOX`, `RTRI` and `PROBE` (17_sample R368, R369, 22_program_bvh R404), in exact arithmetic. -/

namespace Sys2Proof.Machine

/-! ### Exact quotients -/

/-- A quotient of integers with a positive denominator, or an infinity. -/
inductive Quot where
  | fin (num : Int) (den : Nat)
  | inf (neg : Bool)
  deriving DecidableEq, Repr

/-- num / den for a denominator that is not 0. -/
def quot (num den : Int) : Quot := .fin (if den < 0 then -num else num) den.natAbs
def Quot.le : Quot → Quot → Bool
  | .inf n, .inf m => n || !m
  | .inf n, _ => n
  | _, .inf m => !m
  | .fin a b, .fin c d => decide (a * Int.ofNat d ≤ c * Int.ofNat b)
/-- The fp32 code of a quotient rounded once. -/
def Quot.f32 (mode : RMode) : Quot → Nat
  | .inf n => signCode .f32 n Fp.f32.infCode
  | .fin a b => if a == 0 then 0 else (roundQ .f32 mode false (decide (a < 0)) a.natAbs b).1
/-- An fp32 value that is not NaN as a quotient. -/
def Quot.ofEx : Ex → Quot
  | .fin n m e => let q := dyadicQ m e; .fin (if n then -Int.ofNat q.1 else Int.ofNat q.1) q.2
  | .inf n => .inf n
  | .nan .. => .inf false
/-- 2^149 times a finite fp32 value. -/
def scaled : Ex → Option Int
  | .fin n m e => let v := Int.ofNat (m <<< (e + 149).toNat); some (if n then -v else v)
  | _ => none

/-! ### Vectors -/

def sub3 (a b : List Int) : List Int := (a.zip b).map fun p => p.1 - p.2
def dot3 (a b : List Int) : Int := ((a.zip b).map fun p => p.1 * p.2).sum
def cross3 : List Int → List Int → List Int
  | [a, b, c], [x, y, z] => [b * z - c * y, c * x - a * z, a * y - b * x]
  | _, _ => []

/-! ### Rays (R368) -/

/-- A ray: eight fp32 values. -/
abbrev Ray := List Ex
def Ray.bad (r : Ray) : Bool :=
  r.any Ex.isNan || (r.take 6).any (fun x => match x with | .inf _ => true | _ => false) || ((r.drop 3).take 3).all Ex.isZero

/-- fp32 values of consecutive words. -/
def f32At (bs : List Byte) (at_ : Nat) : Ex := f32Of (leNat ((bs.drop at_).take 4))

/-! ### `RBOX` (R369) -/

/-- Codes of the slab of one axis; none for a miss, an empty list for (−∞, +∞). -/
def slab (o d mn mx : Ex) : Option (List (Nat × Nat)) :=
  if d.isZero then (if mn.lt false o || mn.eq o then (if o.lt false mx || mx.eq o then some [] else none) else none)
  else
    let t := fun (b : Ex) => match b with
      | .inf n => Quot.inf (n != d.isNeg)
      | _ => quot ((scaled b).getD 0 - (scaled o).getD 0) ((scaled d).getD 1)
    let a := t mn
    let b := t mx
    let p := if a.le b then (a, b) else (b, a)
    some [(p.1.f32 .rd, p.2.f32 .ru)]

def f32Le (a b : Nat) : Bool := (Quot.ofEx (f32Of a)).le (Quot.ofEx (f32Of b))
/-- The largest and the smallest of fp32 codes, the first among equals. -/
def f32Max (l : List Nat) (a : Nat) : Nat := l.foldl (fun m x => if f32Le x m then m else x) a
def f32Min (l : List Nat) (a : Nat) : Nat := l.foldl (fun m x => if f32Le m x then m else x) a

/-- tn of child `c` where it is a hit. -/
def boxChild (codes : List Nat) (bs : List Byte) (c : Nat) : Option Nat :=
  let r := codes.map f32Of
  let kind := bitsOf (leNat ((bs.drop (32 * c + 24)).take 8)) 62 2
  let b := (List.range 6).map fun k => f32At bs (32 * c + 4 * k)
  if kind == 0 || b.any Ex.isNan then none
  else
    let at_ := fun (l : List Ex) (k : Nat) => l.getD k Ex.zero
    match (List.range 3).mapM fun k => slab (at_ r k) (at_ r (3 + k)) (at_ b k) (at_ b (3 + k)) with
    | none => none
    | some ss =>
      let tn := f32Max (ss.flatten.map (·.1)) (codes.getD 6 0)
      let tf := f32Min (ss.flatten.map (·.2)) (codes.getD 7 0)
      if f32Le tn tf then some tn else none

/-- The five result words. -/
def boxWords (codes : List Nat) (bs : List Byte) : List Nat :=
  let ts := (List.range 4).map (boxChild codes bs)
  let hits := (List.range 4).filter fun c => (ts.getD c none).isSome
  let t := fun (c : Nat) => (ts.getD c none).getD 0
  -- ascending tn, lower index first
  let order := hits.foldl (fun acc c => acc.takeWhile (fun x => f32Le (t x) (t c)) ++ c :: acc.dropWhile (fun x => f32Le (t x) (t c))) []
  let order := order ++ (List.range 4).filter fun c => !hits.contains c
  (List.range 4).map (fun c => (ts.getD c none).getD 0x7F800000)
    ++ [(hits.map fun c => 1 <<< c).sum + (order.zipIdx.map fun p => p.1 <<< (4 + 2 * p.2)).sum]

/-- A child of kind `11` (R368). -/
def boxBad (bs : List Byte) : Bool := (List.range 4).any fun c => bitsOf (leNat ((bs.drop (32 * c + 24)).take 8)) 62 2 == 3

/-! ### `RTRI` (R369) -/

/-- t, u and v of a hit. -/
def triHit (r : Ray) (vs : List Int) (cull : Bool) : Option (Quot × Quot × Quot) :=
  let r6 := (r.take 6).map fun x => (scaled x).getD 0
  let o := r6.take 3
  let d := r6.drop 3
  let v0 := vs.take 3
  let e1 := sub3 ((vs.drop 3).take 3) v0
  let e2 := sub3 ((vs.drop 6).take 3) v0
  let w := sub3 o v0
  let p := cross3 d e2
  let q := cross3 w e1
  let det := dot3 e1 p      -- minus the product of the normal with d
  if (cross3 e1 e2).all (· == 0) || det == 0 || (cull && det < 0) then none
  else
    let u := quot (dot3 w p) det
    let v := quot (dot3 d q) det
    let t := quot (dot3 e2 q) det
    let zero := Quot.fin 0 1
    if zero.le u && zero.le v && (quot (dot3 w p + dot3 d q) det).le (.fin 1 1) && (Quot.ofEx (r.getD 6 Ex.zero)).le t
        && t.le (Quot.ofEx (r.getD 7 Ex.zero)) then some (t, u, v) else none

/-- The four result words and the predicate. -/
def triWords (codes : List Nat) (cull : Bool) (bs : List Byte) : List Nat × Bool :=
  let miss := ([0x7F800000, 0, 0, 0xFFFFFFFF], false)
  match (List.range 9).mapM fun k => scaled (f32At bs (4 * k)) with
  | none => miss
  | some vs => match triHit (codes.map f32Of) vs cull with
    | none => miss
    | some (t, u, v) => ([t.f32 .rn, u.f32 .rn, v.f32 .rn, leNat ((bs.drop 36).take 4)], true)

/-! ### `PROBE` (R369) -/

/-- The exact sum of e x z / A, for A > 0, rounded once; R22 where a depth is no number. -/
def probeDepth (es : List Int) (a : Nat) (zs : List Ex) : Nat :=
  match nanOf .f32 zs with
  | some r => r.1
  | none =>
    let terms := (es.zip zs).map fun p => exMul (Ex.ofInt p.1) p.2
    match terms.foldl exAdd Ex.zero with
    | .fin n m e =>
      if m == 0 then 0 else let q := dyadicQ m e; (roundQ .f32 .rn false n q.1 (q.2 * a)).1
    | .inf n => signCode .f32 n Fp.f32.infCode
    | .nan .. => Fp.f32.nanCode

/-- The four result words and the coverage. -/
def probeWords (pos : W32) (bs : List Byte) : List Nat × Bool :=
  let px := Int.ofNat (bitsOf pos.toNat 0 16)
  let py := Int.ofNat (bitsOf pos.toNat 16 16)
  let v := fun (k : Nat) => (Int.ofNat (leNat ((bs.drop (4 * k)).take 2)), Int.ofNat (leNat ((bs.drop (4 * k + 2)).take 2)))
  let id := leNat ((bs.drop 24).take 4)
  let edge := fun (i j : Nat) => ((v j).1 - (v i).1, (v j).2 - (v i).2, (v i).1, (v i).2)
  let es := [edge 1 2, edge 2 0, edge 0 1].map fun q => (q.1 * (py - q.2.2.2) - q.2.1 * (px - q.2.2.1), q.1, q.2.1)
  let a := (es.map (·.1)).sum
  if a == 0 then ((List.range 3).map (fun k => (Config.probeVoid pos bs k).toNat) ++ [id], false)
  else
    let es := if a < 0 then es.map fun q => (-q.1, -q.2.1, -q.2.2) else es
    let cov := es.all fun q => decide (0 < q.1) || (q.1 == 0 && (decide (0 < q.2.2) || (q.2.2 == 0 && decide (q.2.1 < 0))))
    let e := es.map (·.1)
    let w := fun (k : Nat) => (quot (e.getD k 0) (Int.ofNat a.natAbs)).f32 .rn
    ([probeDepth e a.natAbs ((List.range 3).map fun k => f32At bs (12 + 4 * k)), w 1, w 2, id], cov)

/-! ### The instructions -/

/-- An instruction that computes from `n` bytes at each lane's address, a multiple of `align`: the check of the lane's ray, and the
results with the predicate of the bytes, or the trap they give. `p` names the predicate. -/
def rayRes (n align k : Nat) (d : BitVec 8) (p : BitVec 3) (rayOk : Nat → Bool) (eval : Nat → List Byte → Except Cause (List Nat × Bool))
    (e : Env) (s : State) : Res :=
  let addr := fun (l : Nat) => (e.src 1 l).toNat
  let plain := fun (l : Nat) => rayOk l && !beyond52 (addr l) && addr l % align == 0
  let hits := s.addrHits e 0 (maskOf fun l => e.act.getLsbD l && plain l) fun l => (addr l, n)
  let s := if actionLanes hits == 0 then s.recordHits e hits else s
  let r := perLane s (e.act &&& ~~~actionLanes hits) fun s l =>
    if !rayOk l then (.trap 0xB3 0, s)
    else if beyond52 (addr l) then (.trap 0x43 (e.src 1 l), s)
    else if addr l % align != 0 then (.trap 0x40 (e.src 1 l), s)
    else match s.loadLane e (addr l) n false 0 with
      | (.ok bs, s) => match eval l bs with
        | .error c => (.trap c 0, s)
        | .ok (ws, hit) => (.ok ((ws.map (leBytes 4)).flatten ++ [BitVec.ofNat 8 (b2n hit)]), s)
      | (x, s) => (x, s)
  let vals := maskOf fun l => (Lanes.at r.vals l).getD (4 * k) 0 == 1
  r.res { regs := bytesRegs d k r.done r.vals, preds := if p == 7 then [] else [{ p := p, mask := r.done, vals := vals }],
          long := if p == 7 then some .rt else none } hits

/-- The ray of a lane, as codes. -/
def Env.rayCodes (e : Env) (l : Nat) : List Nat := (e.record 0 l).map BitVec.toNat
def Env.rayOk (e : Env) (l : Nat) : Bool := !Ray.bad ((e.rayCodes l).map f32Of)

def execRbox (g : Guard) (f : FmtX) (s : State) : Out :=
  runWord (.rbox g f) noCheck (fun e s => rayRes 128 128 5 f.d 7 e.rayOk
    (fun l bs => if boxBad bs then .error 0xB2 else .ok (boxWords (e.rayCodes l) bs, false)) e s) s
def execRtri (g : Guard) (f : FmtX) (s : State) : Out :=
  runWord (.rtri g f) noCheck (fun e s => rayRes 48 16 4 f.d (f.fld 25 3) e.rayOk
    (fun l bs => .ok (triWords (e.rayCodes l) (f.bit 24) bs)) e s) s
def execProbe (g : Guard) (f : FmtX) (s : State) : Out :=
  runWord (.probe g f) noCheck (fun e s => rayRes 32 32 4 f.d (f.fld 25 3) (fun _ => true)
    (fun l bs => if leNat ((bs.drop 28).take 4) != 0 then .error 0xB2 else .ok (probeWords (e.src32 0 l) bs)) e s) s

end Sys2Proof.Machine
end

