-- ==== Sys2Proof/Machine/System.lean ====
section
/-! DEFINITION. `SYSRD` and `SYSWR` (15_context R321, R413). -/

namespace Sys2Proof.Machine

/-- The registers of a context, at 64 numbers each, of which a program reads only its own (02_numbers R48, 07_tile R165,
15_context R309). -/
def ctxReg (n : Nat) : Bool :=
  (decide (0x100 ≤ n) && decide (n < 0x1C0)) || ctxConfig n || (decide (0x600 ≤ n) && decide (n < 0x640))
/-- The trap-state registers. -/
def trapReg (n : Nat) : Bool := decide (0x051 ≤ n) && decide (n ≤ 0x054)

/-- The fields of register `n` that code may write: RW, W1C and WO. -/
def progFields (n : Nat) (d : RegDesc) (privileged : Bool) : Word × Word × Word :=
  (if privileged then d.priv else 0, if 0x6E0 ≤ n && n < 0x6F0 then d.w1c else 0, if privileged && n == 0x221 then d.wo else 0)

/-- Whether R413 refuses a write of `v`: no field that the code may write, a host's field in the register, or a 1 written to a
W1C or WO field that is not the code's. -/
def writeDenied (n : Nat) (d : RegDesc) (privileged : Bool) (v : Word) : Bool :=
  let f := progFields n d privileged
  (f.1 == 0 && f.2.1 == 0 && f.2.2 == 0) || d.rw &&& ~~~f.1 != 0 || v &&& ((d.w1c &&& ~~~f.2.1) ||| (d.wo &&& ~~~f.2.2)) != 0

/-- The cause with which an access traps: a read, or a write of a value. -/
def sysDenied (e : Env) (privileged : Bool) (n : Nat) (v : Option Word) : Option Cause :=
  if n == 0x050 then none
  else if trapReg n then
    if e.g.frames.isEmpty then some 0x05 else none
  else match regDesc n with
    | none => some 0x01
    | some d =>
      match v with
        | none => if (ctxReg n && n % 64 != e.x) || !(privileged || d.prog) then some 0x07 else none
        | some v => if writeDenied n d privileged v then some 0x07 else none

/-- A register as the group's code reads it. -/
def State.sysRead (s : State) (e : Env) (n : Nat) : Word :=
  let g := (s.group? e.gk).getD e.g
  if n == 0x050 then g.fx.setWidth 64
  else if trapReg n then (g.trapState (n - 0x051)).getD 0
  else if watchNum n then s.watchReg e.ck n
  else s.readReg n

/-- A register as the group's code writes it. -/
def State.sysWrite (s : State) (e : Env) (privileged : Bool) (n : Nat) (v : Word) : State :=
  if n == 0x050 then s.modGroup e.gk fun g => { g with fx := g.fx &&& ~~~(v.setWidth 8) }
  else if trapReg n then s.modGroup e.gk fun g => g.setTrapState (n - 0x051) v
  else match regDesc n with
    | none => s
    | some d =>
      let f := progFields n d privileged
      if watchNum n then s.setWatchReg e.ck n (mergeReg (s.watchReg e.ck n) v 0xFFFFFFFFFFFFFFFF f.1 f.2.1)
      else s.regWrite n v 0xFFFFFFFFFFFFFFFF f.1 f.2.1 f.2.2

/-- NUM + A. -/
def sysNum (f : FmtX) (e : Env) : Nat := (f.fld 16 12).toNat + (e.src32 0 e.low).toNat
/-- Operations of the group that have not completed: the access waits for them (R321, 02_numbers R47). -/
def State.quiet (s : State) (e : Env) : Bool := ((s.group? e.gk).map fun g => g.ops.isEmpty).getD true

def sysrdRes (f : FmtX) (e : Env) (s : State) : Res :=
  if e.act == 0 then .done s {}
  else if !s.quiet e then .stop s {} 0 (.block .operand)
  else match sysDenied e (s.privileged e.x) (sysNum f e) none with
    | some c => .stop s {} 0 (.trap c 0)
    | none => .done s (pairAll f.d e (s.sysRead e (sysNum f e)))
def execSysrd (g : Guard) (f : FmtX) (s : State) : Out := runWord (.sysrd g f) noCheck (sysrdRes f) s

def syswrRes (f : FmtX) (e : Env) (s : State) : Res :=
  if e.act == 0 then .done s {}
  else if !s.quiet e then .stop s {} 0 (.block .operand)
  else
    let v := e.src 1 e.low
    match sysDenied e (s.privileged e.x) (sysNum f e) (some v) with
    | some c => .stop s {} 0 (.trap c 0)
    | none => .done (s.sysWrite e (s.privileged e.x) (sysNum f e) v) {}
def execSyswr (g : Guard) (f : FmtX) (s : State) : Out := runWord (.syswr g f) noCheck (syswrRes f) s

end Sys2Proof.Machine
end

