-- ==== Sys2Proof/Machine/Dispatch.lean ====
section
/-! DEFINITION. The meaning of every instruction: one arm per constructor of `Instr`, in the order of the opcode table. -/

namespace Sys2Proof.Machine

def exec (i : Instr) (s : State) : Host.Outcome State Fault Refusal :=
  match i with
  | .nop g f => Sys2Proof.Machine.execNop g f s
  | .bra g f => Sys2Proof.Machine.execBra g f s
  | .brx g f => Sys2Proof.Machine.execBrx g f s
  | .call g f => Sys2Proof.Machine.execCall g f s
  | .callIndirect g f => Sys2Proof.Machine.execCallIndirect g f s
  | .ret g f => Sys2Proof.Machine.execRet g f s
  | .exit g f => Sys2Proof.Machine.execExit g f s
  | .yield g f => Sys2Proof.Machine.execYield g f s
  | .conv g f => Sys2Proof.Machine.execConv g f s
  | .trap g f => Sys2Proof.Machine.execTrap g f s
  | .bkpt g f => Sys2Proof.Machine.execBkpt g f s
  | .tret g f => Sys2Proof.Machine.execTret g f s
  | .iadd g f => Sys2Proof.Machine.execIadd g f s
  | .iaddi g f => Sys2Proof.Machine.execIaddi g f s
  | .isub g f => Sys2Proof.Machine.execIsub g f s
  | .iaddc g f => Sys2Proof.Machine.execIaddc g f s
  | .imul g f => Sys2Proof.Machine.execImul g f s
  | .imuli g f => Sys2Proof.Machine.execImuli g f s
  | .imulh g f => Sys2Proof.Machine.execImulh g f s
  | .imad g f => Sys2Proof.Machine.execImad g f s
  | .imin g f => Sys2Proof.Machine.execImin g f s
  | .imax g f => Sys2Proof.Machine.execImax g f s
  | .iabs g f => Sys2Proof.Machine.execIabs g f s
  | .isad g f => Sys2Proof.Machine.execIsad g f s
  | .shl g f => Sys2Proof.Machine.execShl g f s
  | .shr g f => Sys2Proof.Machine.execShr g f s
  | .sar g f => Sys2Proof.Machine.execSar g f s
  | .shf g f => Sys2Proof.Machine.execShf g f s
  | .bitf g f => Sys2Proof.Machine.execBitf g f s
  | .bitfi g f => Sys2Proof.Machine.execBitfi g f s
  | .popc g f => Sys2Proof.Machine.execPopc g f s
  | .clz g f => Sys2Proof.Machine.execClz g f s
  | .brev g f => Sys2Proof.Machine.execBrev g f s
  | .bfe g f => Sys2Proof.Machine.execBfe g f s
  | .bfi g f => Sys2Proof.Machine.execBfi g f s
  | .bswz g f => Sys2Proof.Machine.execBswz g f s
  | .icmp g f => Sys2Proof.Machine.execIcmp g f s
  | .icmpi g f => Sys2Proof.Machine.execIcmpi g f s
  | .sel g f => Sys2Proof.Machine.execSel g f s
  | .mov g f => Sys2Proof.Machine.execMov g f s
  | .movi g f => Sys2Proof.Machine.execMovi g f s
  | .lea g f => Sys2Proof.Machine.execLea g f s
  | .plop g f => Sys2Proof.Machine.execPlop g f s
  | .pmovGet g f => Sys2Proof.Machine.execPmovGet g f s
  | .pmovSet g f => Sys2Proof.Machine.execPmovSet g f s
  | .fadd g f => Sys2Proof.Machine.execFadd g f s
  | .fmul g f => Sys2Proof.Machine.execFmul g f s
  | .ffma g f => Sys2Proof.Machine.execFfma g f s
  | .fmin g f => Sys2Proof.Machine.execFmin g f s
  | .fmax g f => Sys2Proof.Machine.execFmax g f s
  | .fcmp g f => Sys2Proof.Machine.execFcmp g f s
  | .fclamp g f => Sys2Proof.Machine.execFclamp g f s
  | .frnd g f => Sys2Proof.Machine.execFrnd g f s
  | .faddi g f => Sys2Proof.Machine.execFaddi g f s
  | .fmuli g f => Sys2Proof.Machine.execFmuli g f s
  | .padd2 g f => Sys2Proof.Machine.execPadd2 g f s
  | .pmul2 g f => Sys2Proof.Machine.execPmul2 g f s
  | .pfma2 g f => Sys2Proof.Machine.execPfma2 g f s
  | .pmnx2 g f => Sys2Proof.Machine.execPmnx2 g f s
  | .pcmp2 g f => Sys2Proof.Machine.execPcmp2 g f s
  | .bfma2 g f => Sys2Proof.Machine.execBfma2 g f s
  | .cvt g f => Sys2Proof.Machine.execCvt g f s
  | .f2i g f => Sys2Proof.Machine.execF2i g f s
  | .i2f g f => Sys2Proof.Machine.execI2f g f s
  | .ncvtPack g f => Sys2Proof.Machine.execNcvtPack g f s
  | .ncvtUnpack g f => Sys2Proof.Machine.execNcvtUnpack g f s
  | .qcvtPack g f => Sys2Proof.Machine.execQcvtPack g f s
  | .qcvtUnpack g f => Sys2Proof.Machine.execQcvtUnpack g f s
  | .scaleExp g f => Sys2Proof.Machine.execScaleExp g f s
  | .scaleWord g f => Sys2Proof.Machine.execScaleWord g f s
  | .scaleWordinv g f => Sys2Proof.Machine.execScaleWordinv g f s
  | .rcp g f => Sys2Proof.Machine.execRcp g f s
  | .rsq g f => Sys2Proof.Machine.execRsq g f s
  | .sqrt g f => Sys2Proof.Machine.execSqrt g f s
  | .lg2 g f => Sys2Proof.Machine.execLg2 g f s
  | .ex2 g f => Sys2Proof.Machine.execEx2 g f s
  | .sin g f => Sys2Proof.Machine.execSin g f s
  | .cos g f => Sys2Proof.Machine.execCos g f s
  | .tanh g f => Sys2Proof.Machine.execTanh g f s
  | .shfl g f => Sys2Proof.Machine.execShfl g f s
  | .poll g f => Sys2Proof.Machine.execPoll g f s
  | .lead g f => Sys2Proof.Machine.execLead g f s
  | .ifold g f => Sys2Proof.Machine.execIfold g f s
  | .ffold g f => Sys2Proof.Machine.execFfold g f s
  | .peers g f => Sys2Proof.Machine.execPeers g f s
  | .qbcast g f => Sys2Proof.Machine.execQbcast g f s
  | .prefixOp g f => Sys2Proof.Machine.execPrefixOp g f s
  | .smov g f => Sys2Proof.Machine.execSmov g f s
  | .smovImm g f => Sys2Proof.Machine.execSmovImm g f s
  | .smovIns g f => Sys2Proof.Machine.execSmovIns g f s
  | .salu g f => Sys2Proof.Machine.execSalu g f s
  | .scmp g f => Sys2Proof.Machine.execScmp g f s
  | .v2sFirst g f => Sys2Proof.Machine.execV2sFirst g f s
  | .v2sUni g f => Sys2Proof.Machine.execV2sUni g f s
  | .v2sLane g f => Sys2Proof.Machine.execV2sLane g f s
  | .sload g f => Sys2Proof.Machine.execSload g f s
  | .sbra g f => Sys2Proof.Machine.execSbra g f s
  | .slea g f => Sys2Proof.Machine.execSlea g f s
  | .spark g f => Sys2Proof.Machine.execSpark g f s
  | .rmask g f => Sys2Proof.Machine.execRmask g f s
  | .ld g f => Sys2Proof.Machine.execLd g f s
  | .st g f => Sys2Proof.Machine.execSt g f s
  | .lds g f => Sys2Proof.Machine.execLds g f s
  | .sts g f => Sys2Proof.Machine.execSts g f s
  | .ldc g f => Sys2Proof.Machine.execLdc g f s
  | .ldb g f => Sys2Proof.Machine.execLdb g f s
  | .stb g f => Sys2Proof.Machine.execStb g f s
  | .ldl g f => Sys2Proof.Machine.execLdl g f s
  | .stl g f => Sys2Proof.Machine.execStl g f s
  | .pref g f => Sys2Proof.Machine.execPref g f s
  | .fence g f => Sys2Proof.Machine.execFence g f s
  | .cinv g f => Sys2Proof.Machine.execCinv g f s
  | .ccln g f => Sys2Proof.Machine.execCcln g f s
  | .atom g f => Sys2Proof.Machine.execAtom g f s
  | .atomc g f => Sys2Proof.Machine.execAtomc g f s
  | .atomf g f => Sys2Proof.Machine.execAtomf g f s
  | .red g f => Sys2Proof.Machine.execRed g f s
  | .atoms g f => Sys2Proof.Machine.execAtoms g f s
  | .waitc g f => Sys2Proof.Machine.execWaitc g f s
  | .mma g f => Sys2Proof.Machine.execMma g f s
  | .mmas g f => Sys2Proof.Machine.execMmas g f s
  | .zclr g f => Sys2Proof.Machine.execZclr g f s
  | .zrd g f => Sys2Proof.Machine.execZrd g f s
  | .zst g f => Sys2Proof.Machine.execZst g f s
  | .zld g f => Sys2Proof.Machine.execZld g f s
  | .tld g f => Sys2Proof.Machine.execTld g f s
  | .tst g f => Sys2Proof.Machine.execTst g f s
  | .cpy g f => Sys2Proof.Machine.execCpy g f s
  | .cpyo g f => Sys2Proof.Machine.execCpyo g f s
  | .cpys g f => Sys2Proof.Machine.execCpys g f s
  | .cpyg g f => Sys2Proof.Machine.execCpyg g f s
  | .fesetFull g f => Sys2Proof.Machine.execFesetFull g f s
  | .fesetEmpty g f => Sys2Proof.Machine.execFesetEmpty g f s
  | .feqry g f => Sys2Proof.Machine.execFeqry g f s
  | .evpop g f => Sys2Proof.Machine.execEvpop g f s
  | .evpush g f => Sys2Proof.Machine.execEvpush g f s
  | .barInit g f => Sys2Proof.Machine.execBarInit g f s
  | .barArv g f => Sys2Proof.Machine.execBarArv g f s
  | .barWait g f => Sys2Proof.Machine.execBarWait g f s
  | .barSync g f => Sys2Proof.Machine.execBarSync g f s
  | .barDrop g f => Sys2Proof.Machine.execBarDrop g f s
  | .barWpar g f => Sys2Proof.Machine.execBarWpar g f s
  | .barQ g f => Sys2Proof.Machine.execBarQ g f s
  | .nprb g f => Sys2Proof.Machine.execNprb g f s
  | .npre g f => Sys2Proof.Machine.execNpre g f s
  | .nprOverrun d c slot => Sys2Proof.Machine.execNprOverrun d c slot s
  | .trd g f => Sys2Proof.Machine.execTrd g f s
  | .twr g f => Sys2Proof.Machine.execTwr g f s
  | .tatm g f => Sys2Proof.Machine.execTatm g f s
  | .enq g f => Sys2Proof.Machine.execEnq g f s
  | .launch g f => Sys2Proof.Machine.execLaunch g f s
  | .depdec g f => Sys2Proof.Machine.execDepdec g f s
  | .grow g f => Sys2Proof.Machine.execGrow g f s
  | .shrink g f => Sys2Proof.Machine.execShrink g f s
  | .qpop g f => Sys2Proof.Machine.execQpop g f s
  | .qrel g f => Sys2Proof.Machine.execQrel g f s
  | .heat g f => Sys2Proof.Machine.execHeat g f s
  | .srec g f => Sys2Proof.Machine.execSrec g f s
  | .sld g f => Sys2Proof.Machine.execSld g f s
  | .sldSp g f => Sys2Proof.Machine.execSldSp g f s
  | .sbktQ g f => Sys2Proof.Machine.execSbktQ g f s
  | .sbktLock g f => Sys2Proof.Machine.execSbktLock g f s
  | .sbktUnlock g f => Sys2Proof.Machine.execSbktUnlock g f s
  | .sevtLimit g f => Sys2Proof.Machine.execSevtLimit g f s
  | .sevtAge g f => Sys2Proof.Machine.execSevtAge g f s
  | .sevtDrop g f => Sys2Proof.Machine.execSevtDrop g f s
  | .prio g f => Sys2Proof.Machine.execPrio g f s
  | .prioW g f => Sys2Proof.Machine.execPrioW g f s
  | .emap g f => Sys2Proof.Machine.execEmap g f s
  | .rbox g f => Sys2Proof.Machine.execRbox g f s
  | .rtri g f => Sys2Proof.Machine.execRtri g f s
  | .probe g f => Sys2Proof.Machine.execProbe g f s
  | .reproj g f => Sys2Proof.Machine.execReproj g f s
  | .xeye g f => Sys2Proof.Machine.execXeye g f s
  | .rowq g f => Sys2Proof.Machine.execRowq g f s
  | .roww g f => Sys2Proof.Machine.execRoww g f s
  | .stamp g f => Sys2Proof.Machine.execStamp g f s
  | .trail g f => Sys2Proof.Machine.execTrail g f s
  | .tmark g f => Sys2Proof.Machine.execTmark g f s
  | .perfc g f => Sys2Proof.Machine.execPerfc g f s
  | .sysrd g f => Sys2Proof.Machine.execSysrd g f s
  | .syswr g f => Sys2Proof.Machine.execSyswr g f s
  | .wset g f => Sys2Proof.Machine.execWset g f s
  | .wclr g f => Sys2Proof.Machine.execWclr g f s
  | .hlist g f => Sys2Proof.Machine.execHlist g f s
  | .hins g f => Sys2Proof.Machine.execHins g f s
  | .hput g f => Sys2Proof.Machine.execHput g f s
  | .hstep g f => Sys2Proof.Machine.execHstep g f s
  | .hres g f => Sys2Proof.Machine.execHres g f s
  | .clauseIssue d c slot sel => Sys2Proof.Machine.execClauseIssue d c slot sel s
  | .longLatencyComplete d c slot op => Sys2Proof.Machine.execLongLatencyComplete d c slot op s
  | .allocationDeadlock d c part => Sys2Proof.Machine.execAllocationDeadlock d c part s
  | .handlerEntry d c slot => Sys2Proof.Machine.execHandlerEntry d c slot s
  | .reportRecordWrite d => Sys2Proof.Machine.execReportRecordWrite d s
  | .faultReplay ctx seq => Sys2Proof.Machine.execFaultReplay ctx seq s
  | .faultDeliver ctx seq => Sys2Proof.Machine.execFaultDeliver ctx seq s
  | .faultEndTeam ctx seq => Sys2Proof.Machine.execFaultEndTeam ctx seq s
  | .teamTimeLimit team => Sys2Proof.Machine.execTeamTimeLimit team s
  | .tlbiRange ctx glb => Sys2Proof.Machine.execTlbiRange ctx glb s
  | .tlbiContext ctx glb => Sys2Proof.Machine.execTlbiContext ctx glb s
  | .tlbiAll glb => Sys2Proof.Machine.execTlbiAll glb s
  | .tlbiComplete => Sys2Proof.Machine.execTlbiComplete s
  | .columnWriteback d c line => Sys2Proof.Machine.execColumnWriteback d c line s
  | .copyLineFill copy line => Sys2Proof.Machine.execCopyLineFill copy line s
  | .copyLanded copy => Sys2Proof.Machine.execCopyLanded copy s
  | .copyPost copy => Sys2Proof.Machine.execCopyPost copy s
  | .laeServeStream team => Sys2Proof.Machine.execLaeServeStream team s
  | .monitorWake mon => Sys2Proof.Machine.execMonitorWake mon s
  | .monitorRecheck mon => Sys2Proof.Machine.execMonitorRecheck mon s
  | .monitorTimeout mon => Sys2Proof.Machine.execMonitorTimeout mon s
  | .swapOut team => Sys2Proof.Machine.execSwapOut team s
  | .dieDistributorTake d => Sys2Proof.Machine.execDieDistributorTake d s
  | .chunkPlace d cl => Sys2Proof.Machine.execChunkPlace d cl s
  | .clusterSteal d cl => Sys2Proof.Machine.execClusterSteal d cl s
  | .crossDieSteal d => Sys2Proof.Machine.execCrossDieSteal d s
  | .distributorPreempt d => Sys2Proof.Machine.execDistributorPreempt d s
  | .nodeAging d node => Sys2Proof.Machine.execNodeAging d node s
  | .heldNodeEnterPool d => Sys2Proof.Machine.execHeldNodeEnterPool d s
  | .teamAdmit team => Sys2Proof.Machine.execTeamAdmit team s
  | .teamRetire team => Sys2Proof.Machine.execTeamRetire team s
  | .saveRequest team reason => Sys2Proof.Machine.execSaveRequest team reason s
  | .teamHaltForSave team => Sys2Proof.Machine.execTeamHaltForSave team s
  | .saveImageWrite team => Sys2Proof.Machine.execSaveImageWrite team s
  | .teamRestore team d c => Sys2Proof.Machine.execTeamRestore team d c s
  | .ctxCreate x => Sys2Proof.Machine.execCtxCreate x s
  | .ctxAdmit x => Sys2Proof.Machine.execCtxAdmit x s
  | .ctxSuspend x => Sys2Proof.Machine.execCtxSuspend x s
  | .ctxResume x => Sys2Proof.Machine.execCtxResume x s
  | .ctxKill x => Sys2Proof.Machine.execCtxKill x s
  | .ctxFree x => Sys2Proof.Machine.execCtxFree x s
  | .ctxDestroyed x => Sys2Proof.Machine.execCtxDestroyed x s
  | .watchHaltLand d c slot lane => Sys2Proof.Machine.execWatchHaltLand d c slot lane s
  | .bandPeriodBoundary d => Sys2Proof.Machine.execBandPeriodBoundary d s
  | .waveWrite d => Sys2Proof.Machine.execWaveWrite d s
  | .lowWaterMarkSend d => Sys2Proof.Machine.execLowWaterMarkSend d s
  | .sampleInsertion d => Sys2Proof.Machine.execSampleInsertion d s
  | .bandDeadline d => Sys2Proof.Machine.execBandDeadline d s
  | .waitLimitExpiry d => Sys2Proof.Machine.execWaitLimitExpiry d s
  | .xeyeReceive d => Sys2Proof.Machine.execXeyeReceive d s
  | .sensorSample d c u l => Sys2Proof.Machine.execSensorSample d c u l s
  | .sensorRearm col => Sys2Proof.Machine.execSensorRearm col s
  | .powerModelUpdate d c mw est => Sys2Proof.Machine.execPowerModelUpdate d c mw est s
  | .powerCapInterval d => Sys2Proof.Machine.execPowerCapInterval d s
  | .droopAlarmRise d cl => Sys2Proof.Machine.execDroopAlarmRise d cl s
  | .stretchEnd d cl => Sys2Proof.Machine.execStretchEnd d cl s
  | .holdEnd d cl => Sys2Proof.Machine.execHoldEnd d cl s
  | .bermReclaim d c => Sys2Proof.Machine.execBermReclaim d c s
  | .junctionTrip d => Sys2Proof.Machine.execJunctionTrip d s
  | .culvertTrain => Sys2Proof.Machine.execCulvertTrain s
  | .culvertReset => Sys2Proof.Machine.execCulvertReset s
  | .culvertTrainingResult outcome => Sys2Proof.Machine.execCulvertTrainingResult outcome s
  | .culvertLossOfLock => Sys2Proof.Machine.execCulvertLossOfLock s
  | .culvertWaitExpiry d c slot => Sys2Proof.Machine.execCulvertWaitExpiry d c slot s
  | .timeBaseCompare => Sys2Proof.Machine.execTimeBaseCompare s
  | .ptmDialog ns => Sys2Proof.Machine.execPtmDialog ns s
  | .displayEnable d => Sys2Proof.Machine.execDisplayEnable d s
  | .displayDisable d => Sys2Proof.Machine.execDisplayDisable d s
  | .displayRetrain d => Sys2Proof.Machine.execDisplayRetrain d s
  | .displayTrainingResult d ok => Sys2Proof.Machine.execDisplayTrainingResult d ok s
  | .displayLinkLoss d => Sys2Proof.Machine.execDisplayLinkLoss d s
  | .startOfScan d => Sys2Proof.Machine.execStartOfScan d s
  | .bar2Read off n => Sys2Proof.Machine.execBar2Read off n s
  | .bar2Write off bytes => Sys2Proof.Machine.execBar2Write off bytes s
  | .bar2Atomicop off op a b => Sys2Proof.Machine.execBar2Atomicop off op a b s
  | .bar4Read off => Sys2Proof.Machine.execBar4Read off s
  | .inputCommit seq => Sys2Proof.Machine.execInputCommit seq s
  | .measExtend => Sys2Proof.Machine.execMeasExtend s
  | .getQuote nonce mask => Sys2Proof.Machine.execGetQuote nonce mask s
  | .getCert => Sys2Proof.Machine.execGetCert s
  | .getWindow off => Sys2Proof.Machine.execGetWindow off s
  | .msixUnmaskSend vec => Sys2Proof.Machine.execMsixUnmaskSend vec s
  | .tmodeWrite v => Sys2Proof.Machine.execTmodeWrite v s
  | .sceneEpochWrite v => Sys2Proof.Machine.execSceneEpochWrite v s
  | .l2QuotaWrite slice v => Sys2Proof.Machine.execL2QuotaWrite slice v s
  | .drpThrWrite cl v => Sys2Proof.Machine.execDrpThrWrite cl v s
  | .registerWrite off size v => Sys2Proof.Machine.execRegisterWrite off size v s
  | .powerOn hot0 hot1 => Sys2Proof.Machine.execPowerOn hot0 hot1 s
  | .bootReset hot0 hot1 => Sys2Proof.Machine.execBootReset hot0 hot1 s
  | .functionLevelReset hot0 hot1 => Sys2Proof.Machine.execFunctionLevelReset hot0 hot1 s
  | .bootStage1 rails hot0 hot1 => Sys2Proof.Machine.execBootStage1 rails hot0 hot1 s
  | .bootStage2 ok => Sys2Proof.Machine.execBootStage2 ok s
  | .bootStage3 ok0 ok1 => Sys2Proof.Machine.execBootStage3 ok0 ok1 s
  | .bootStage4 => Sys2Proof.Machine.execBootStage4 s
  | .bootStage5 ok => Sys2Proof.Machine.execBootStage5 ok s
  | .bootStage6 ok => Sys2Proof.Machine.execBootStage6 ok s
  | .lowWaterMarkArrival d => Sys2Proof.Machine.execLowWaterMarkArrival d s
  | .droopAlarmClear d cl => Sys2Proof.Machine.execDroopAlarmClear d cl s
  | .softError place double => Sys2Proof.Machine.execSoftError place double s
  | .quoteResponse => Sys2Proof.Machine.execQuoteResponse s

end Sys2Proof.Machine
end

