-- ==== Sys2Proof/Machine/Enabled.lean ====
section
/-! DEFINITION. The steps that the machine may take by itself in a state, other than issuing an instruction word: those whose
time has come, which are taken first, and those among which the choice is free (log entry 1); the admit program (13_queue R281);
and the passing of cycles. -/

namespace Sys2Proof.Machine

/-! ### The admit program (R281) -/

/-- The admission page, where the admit program has a slot to process. -/
def State.admitPage (s : State) : Option Nat :=
  let b := s.base 0x235
  let post := leNat (s.bytes b 4)
  if !s.booted || b == 0 || s.endpointDown || s.hostCut b 4096 || post == leNat (s.bytes (b + 4) 4) then none else some b

/-- The admit program processes its next slot: `ENQ` for the slot's context from die 0, then STATUS, then TAKEN. Poison that it meets in
the record is its cause's status (log entry 98). -/
def State.admission (s : State) : State :=
  match s.admitPage with
  | none => s
  | some b =>
    let n := leNat (s.bytes (b + 4) 4)
    let slot := b + 128 * (1 + n % 31)
    let x := (s.byte (slot + 8)).toNat
    let say := fun (s : State) (st : Nat) => (s.writeHome (slot + 12) (leBytes 4 st)).writeHome (b + 4) (leBytes 4 (n + 1))
    if 63 < x then say s 0x190
    else match s.enqueue 0 x (s.word64 slot).toNat with
      | (.error none, _) => s
      | (.error (some c), s) => say s (0x100 + c.toNat)
      | (.ok st, s) => say s (if st == 0 then 1 else 0x100 + st)

/-! ### Cycles -/

/-- A cycle passes, and what waited for it may go on. -/
def State.pass (s : State) : State := s.tick.releaseAll

/-! ### The machine's own events -/

/-- The event takes place: the same meaning that `exec` gives the constructor of that name. -/
def Own.run (o : Own) (s : State) : Host.Outcome State Fault Refusal :=
  match o with
  | .stretchEnd d cl => execStretchEnd d cl s
  | .holdEnd d cl => execHoldEnd d cl s
  | .nprOverrun d c slot => execNprOverrun d c slot s
  | .teamTimeLimit team => execTeamTimeLimit team s
  | .waitLimitExpiry d => execWaitLimitExpiry d s
  | .bandDeadline d => execBandDeadline d s
  | .startOfScan d => execStartOfScan d s
  | .bandPeriodBoundary d => execBandPeriodBoundary d s
  | .clauseIssue d c slot sel => execClauseIssue d c slot sel s
  | .longLatencyComplete d c slot op => execLongLatencyComplete d c slot op s
  | .handlerEntry d c slot => execHandlerEntry d c slot s
  | .watchHaltLand d c slot lane => execWatchHaltLand d c slot lane s
  | .culvertWaitExpiry d c slot => execCulvertWaitExpiry d c slot s
  | .teamAdmit team => execTeamAdmit team s
  | .teamRetire team => execTeamRetire team s
  | .teamHaltForSave team => execTeamHaltForSave team s
  | .saveImageWrite team => execSaveImageWrite team s
  | .swapOut team => execSwapOut team s
  | .laeServeStream team => execLaeServeStream team s
  | .teamRestore team d c => execTeamRestore team d c s
  | .copyLineFill copy line => execCopyLineFill copy line s
  | .copyLanded copy => execCopyLanded copy s
  | .copyPost copy => execCopyPost copy s
  | .monitorWake mon => execMonitorWake mon s
  | .monitorRecheck mon => execMonitorRecheck mon s
  | .monitorTimeout mon => execMonitorTimeout mon s
  | .chunkPlace d cl => execChunkPlace d cl s
  | .clusterSteal d cl => execClusterSteal d cl s
  | .reportRecordWrite d => execReportRecordWrite d s
  | .dieDistributorTake d => execDieDistributorTake d s
  | .heldNodeEnterPool d => execHeldNodeEnterPool d s
  | .nodeAging d node => execNodeAging d node s
  | .crossDieSteal d => execCrossDieSteal d s
  | .distributorPreempt d => execDistributorPreempt d s
  | .bermReclaim d c => execBermReclaim d c s
  | .sampleInsertion d => execSampleInsertion d s
  | .xeyeReceive d => execXeyeReceive d s
  | .lowWaterMarkSend d => execLowWaterMarkSend d s
  | .lowWaterMarkArrival d => execLowWaterMarkArrival d s
  | .waveWrite d => execWaveWrite d s
  | .powerCapInterval d => execPowerCapInterval d s
  | .displayTrainingResult d ok => execDisplayTrainingResult d ok s
  | .allocationDeadlock d c part => execAllocationDeadlock d c part s
  | .columnWriteback d c line => execColumnWriteback d c line s
  | .bootStage1 rails hot0 hot1 => execBootStage1 rails hot0 hot1 s
  | .bootStage2 ok => execBootStage2 ok s
  | .bootStage3 ok0 ok1 => execBootStage3 ok0 ok1 s
  | .bootStage4 => execBootStage4 s
  | .bootStage5 ok => execBootStage5 ok s
  | .bootStage6 ok => execBootStage6 ok s
  | .tlbiComplete => execTlbiComplete s
  | .culvertTrainingResult outcome => execCulvertTrainingResult outcome s
  | .timeBaseCompare => execTimeBaseCompare s
  | .quoteResponse => execQuoteResponse s
  | .msixUnmaskSend vec => execMsixUnmaskSend vec s
  | .ctxDestroyed x => execCtxDestroyed x s

/-! ### Steps whose time has come -/

def State.dieUp (s : State) (d : Nat) : Bool := !(s.die d).tripped
def whenAll (b : Bool) (l : List Own) : List Own := if b then l else []

/-- Ends of stretches and holds (14_column R304), regions and the saves that wait for them (11_barrier R263), time limits (15_context
R323), rechecks and timeouts of monitors (11_barrier R257), aging nodes, held nodes for which the pool has room (13_queue R279, R280), dirty bytes stored
64 µs ago (09_memory R202), waits for the culvert (18_link R382), the comparison of the time bases and the answer to a quote (19_trail
R386, R395), and the band periods (17_sample R345, R356, R358). -/
def State.urgent (s : State) : List Own :=
  (s.clusters.map fun (p : Nat × Cluster) =>
    whenAll (s.dieUp (p.1 / 8)) (whenAll p.2.stretchOver [.stretchEnd (p.1 / 8) (p.1 % 8)]
      ++ whenAll p.2.phase.held [.holdEnd (p.1 / 8) (p.1 % 8)])).flatten
  ++ (s.groups.map fun (p : Nat × Group) =>
    whenAll (s.dieUp (gkDie p.1) && p.2.region.any fun n => decide (8192 ≤ n))
      [.nprOverrun (gkDie p.1) (gkNum p.1) (gkSlot p.1)]).flatten
  ++ (s.groups.map fun (p : Nat × Group) =>
    whenAll (s.culDue p.1 p.2) [.culvertWaitExpiry (gkDie p.1) (gkNum p.1) (gkSlot p.1)]).flatten
  ++ whenAll s.hostLate.isSome [.culvertWaitExpiry 2 0 0]
  ++ (s.teams.map fun (p : Nat × Team) => whenAll (s.dieUp p.2.die)
    (whenAll (s.limitDue p.1) [.teamTimeLimit p.1] ++ whenAll (s.mayHalt p.1) [.teamHaltForSave p.1])).flatten
  ++ (s.monitors.map fun (p : Nat × Monitor) =>
    whenAll (s.canRecheck p.2) [.monitorRecheck p.1] ++ whenAll (s.canTimeout p.2) [.monitorTimeout p.1]).flatten
  ++ ([0, 1].map fun d => whenAll (s.dieUp d) ((s.nextAging d).map fun p => Own.nodeAging d p.1).toList).flatten
  ++ ([0, 1].map fun d => whenAll (s.dieUp d && (s.firstHeld d).isSome && !s.poolFull d) [.heldNodeEnterPool d]).flatten
  ++ (s.cores.map fun (p : Nat × Core) => whenAll (s.dieUp (p.1 / 96))
    ((s.dueLines p.1).map fun l => .columnWriteback (p.1 / 96) (p.1 % 96) l)).flatten
  ++ whenAll s.compareDue [.timeBaseCompare] ++ whenAll s.quoteDue [.quoteResponse]
  ++ ([0, 1].map fun d => whenAll (s.booted && s.dieUp d)
    (match (s.die d).phase with
      | 0 => whenAll (s.canExpire d) [.waitLimitExpiry d] ++ whenAll (s.periodOver d) [.bandDeadline d]
      | 1 => [.startOfScan d]
      | _ => [.bandPeriodBoundary d])).flatten

/-! ### Free steps -/

/-- A group of a partition on which no issue group runs may be selected (R81, R82); one that waits may go on. -/
def State.groupSteps (s : State) (p : Nat × Group) : List Own :=
  let (gk, g) := p
  let (d, c, l) := (gkDie gk, gkNum gk, gkSlot gk)
  let issue := match s.team? g.team with
    | none => []
    | some t =>
      whenAll (s.groupReady gk g && s.mayGo gk g) [Own.clauseIssue d c l 0]
        ++ (g.susp.zipIdx.filter fun q => s.mayResume gk g t q.1 && !s.givesWay gk g && s.bucketGo gk t g q.1).map fun q => Own.clauseIssue d c l (q.2 + 1)
  whenAll (s.dieUp d)
    (whenAll (s.ig? (gkPart gk)).isNone issue
      ++ ((g.ops.filter (s.opReady gk g)).map fun o => Own.longLatencyComplete d c l o.id)
      ++ whenAll (s.mayEnter gk).isSome [.handlerEntry d c l]
      ++ ((laneList.filter fun k => !(g.landing k).isEmpty).map fun k => Own.watchHaltLand d c l k))

def State.teamSteps (s : State) (p : Nat × Team) : List Own :=
  let (tid, t) := p
  whenAll (s.dieUp t.die)
    (whenAll (t.stage == .placed && s.ctxRuns (s.teamCtx t) && s.canAdmit (coreKey t.die t.core) t.kernel) [.teamAdmit tid]
      ++ whenAll (s.canRetire tid) [.teamRetire tid]
      ++ whenAll (s.mayImage tid) [.saveImageWrite tid]
      ++ whenAll (s.maySwap tid) [.swapOut tid]
      ++ whenAll (s.mayServe tid t) [.laeServeStream tid])

/-- Cores on which a saved team may be restored; an image that is refused is, wherever the team was. -/
def State.restoreSteps (s : State) : List Own :=
  (s.restorable.map fun p =>
    let cores := if (s.savedAt p.2).any fun i => i.2.isSome then [coreKey p.2.die p.2.core]
      else (List.range 192).filter fun ck => (s.restorePlan ck p.2).isSome
    (cores.filter fun ck => s.dieUp (ck / 96)).map fun ck => Own.teamRestore p.1 (ck / 96) (ck % 96)).flatten

def State.copySteps (s : State) (p : Nat × Copy) : List Own :=
  let (k, c) := p
  let going := c.stage == .accepted || c.stage == .moving
  let read := c.form != 4 || !c.source.isEmpty || (s.team? c.team).any fun t => s.readReady (c.core / 96) t c.tile
  whenAll (s.dieUp (c.core / 96))
    (whenAll (going && read) (c.left.map fun l => Own.copyLineFill k l)
      ++ whenAll (c.stage == .moving && c.left.isEmpty) [.copyLanded k]
      ++ whenAll (c.stage == .posting && !s.queueFull (clusterOf c.core)) [.copyPost k])

def State.monitorSteps (s : State) (p : Nat × Monitor) : List Own :=
  whenAll (s.canWake p.2) [.monitorWake p.1]

def State.clusterSteps (s : State) (d cl : Nat) : List Own :=
  let k := 8 * d + cl
  whenAll (((s.spreading d).any fun p => s.wants k p.2 && decide (p.2.level < s.restoreLevel)) || (s.nextChunk k).isSome)
    [.chunkPlace d cl]
  ++ whenAll ((s.cluster k).chunks.isEmpty && (s.stealFrom d cl).isSome) [.clusterSteal d cl]

def State.dieSteps (s : State) (d : Nat) : List Own :=
  let x := s.die d
  whenAll (s.dieUp d)
    (whenAll (s.canReport d) [.reportRecordWrite d]
      ++ whenAll (s.poolHead d).isSome [.dieDistributorTake d]
      ++ ((List.range 8).map fun cl => whenAll (!s.nodes.isEmpty) (s.clusterSteps d cl)).flatten
      ++ whenAll (s.culvert.state == .up && s.poolSize d == 0 && !(s.spreading (1 - d)).isEmpty) [.crossDieSteal d]
      ++ whenAll (!s.saving d && (s.starved d).any fun w => (s.victim d w).isSome) [.distributorPreempt d]
      ++ ((s.reclaimTarget d).map fun ck => Own.bermReclaim (ck / 96) (ck % 96)).toList
      ++ whenAll (!x.insertions.isEmpty) [.sampleInsertion d]
      ++ whenAll (!x.xeyes.isEmpty && s.culvertOpen) [.xeyeReceive d]
      ++ whenAll (s.booted && s.canSendMark d) [.lowWaterMarkSend d]
      ++ whenAll (!x.lowPending.isEmpty && s.culvertOpen) [.lowWaterMarkArrival d]
      ++ whenAll (s.canWave d) [.waveWrite d]
      ++ whenAll (9600 ≤ x.powerN) [.powerCapInterval d]
      ++ whenAll (x.dispOn == 1) [.displayTrainingResult d true, .displayTrainingResult d false])

def State.coreSteps (s : State) (p : Nat × Core) : List Own :=
  let (d, c) := (p.1 / 96, p.1 % 96)
  whenAll (s.dieUp d)
    (((p.2.deadlock.filter fun e => decide (64 ≤ e.2)).map fun e => Own.allocationDeadlock d c (e.1 % 4))
      ++ (s.dirtyLines p.1).map fun l => Own.columnWriteback d c l)

/-- The next boot stage, with each way in which it may end (20_bringup R399), while no die is halted. -/
def State.bootSteps (s : State) : List Own :=
  if s.bootErr != 0 || !s.dieUp 0 || !s.dieUp 1 then []
  else match s.boot with
    | 1 => [.bootStage1 true false false]
    | 2 => [.bootStage2 true, .bootStage2 false]
    | 3 => [.bootStage3 true true, .bootStage3 false true, .bootStage3 true false]
    | 4 => [.bootStage4]
    | 5 => [.bootStage5 true, .bootStage5 false]
    | 6 => [.bootStage6 true, .bootStage6 false]
    | _ => []

/-- What belongs to no die. -/
def State.deviceSteps (s : State) : List Own :=
  s.bootSteps
  ++ whenAll s.canTlbi [.tlbiComplete]
  ++ whenAll (s.culvert.state == .training)
    [.culvertTrainingResult .allLanes, .culvertTrainingResult .halfLanes, .culvertTrainingResult .fails]
  ++ whenAll s.quote.isSome [.quoteResponse]
  ++ ((s.msixPend.filter s.canSendVec).map Own.msixUnmaskSend)
  ++ (s.ctxs.filter fun p => s.canDestroy p.1).map fun p => Own.ctxDestroyed p.1

/-- The steps among which the choice is free. -/
def State.enabled (s : State) : List Own :=
  (s.groups.map s.groupSteps).flatten ++ (s.teams.map s.teamSteps).flatten ++ s.restoreSteps ++ (s.copies.map s.copySteps).flatten
    ++ (s.monitors.map s.monitorSteps).flatten ++ s.dieSteps 0 ++ s.dieSteps 1 ++ (s.cores.map s.coreSteps).flatten ++ s.deviceSteps

end Sys2Proof.Machine
end

