-- ==== Sys2Proof/Machine/Step.lean ====
section
/-! DEFINITION. The step function: which of the steps that are possible is taken (log entry 1), instruction fetch, and
`withFetchWord`. -/

namespace Sys2Proof.Machine

/-- The instruction in whose name a word is fetched: no operand and no effect. -/
def fetchInstr : Instr := .nop { p := 7, n := false } { d := 0, a := 0, b := 0, low := 0 }

/-- Partition `pk` issues in this cycle of its cluster, for the group whose issue group it runs. -/
def State.taking (s : State) (pk : Nat) : State :=
  let s := (s.ig? pk).elim s fun ig => s.modGroup (pk / 4 * 48 + ig.slot) fun g => { g with ran := true }
  { (s.spend pk) with focus := some pk }

/-- The word at the issue group's PC is fetched, decoded and issued (03_encoding R67, order 1). A word whose page does not allow it traps
at the header (08_page R187). -/
def State.issueStep (s : State) (pk : Nat) : Host.Outcome State Fault Refusal :=
  let s := s.taking pk
  match s.env? fetchInstr with
  | none => .fault .noIssueGroup
  | some e =>
    match s.fetchCode e.ck e.t e.ig.pc with
    | (.fault _ _, s) => .next (s.trapIg e { e.ig with pos := 0, done := if e.ig.pos == 0 then e.ig.done else 0, traps := [] } 0x17 0 0 0 (lowLane e.ig.mask))
    | (.wait, s) =>
      let (sent, s) := match e.ig.block with | some (.fetch b) => (b, s) | _ => s.flip
      .next (s.blockHere e 0 (.fetch sent))
    | (.poison, s) => .next (s.trapBefore e 0 0xE2 0 0 0 (lowLane e.ig.mask))
    | (.word w, s) =>
      match decodeRaw w with
      | none => .next (s.trapBefore e 0 0x00 0 0 0 (lowLane e.ig.mask))
      | some i => exec i s

/-- Partitions whose issue group may issue its next word in this cycle. -/
def State.issuers (s : State) : List Nat :=
  (s.active.filter fun (p : Nat × IssueGroup) => s.dieUp (p.1 / 384) && s.mayIssue p.1 && match s.group? (p.1 / 4 * 48 + p.2.slot) with
    | some g => p.2.mask &&& g.synced == 0
    | none => true).map (·.1)

/-- Partitions that may issue in this cycle and have no issue group and a group to select: reaching a header costs no cycle
(24_program_droop R409). -/
def State.selectors (s : State) : List Nat :=
  (s.groups.filter fun p => s.dieUp (gkDie p.1) && (s.ig? (gkPart p.1)).isNone && s.mayIssue (gkPart p.1) && (s.team? p.2.team).isSome
    && s.groupReady p.1 p.2 && s.mayGo p.1 p.2).map fun p => gkPart p.1
def State.mustSelect (s : State) : Bool := !s.selectors.isEmpty

/-- The words that may issue next: on each core that of the lowest partition that has still to issue in this cycle. -/
def State.wordsReady (s : State) : List Nat :=
  let waits := s.issuers ++ s.selectors
  s.issuers.filter fun pk => !waits.any fun k => k / 4 == pk / 4 && decide (k < pk)

/-- What may happen next. A cycle passes once no partition has anything to issue or to select in it. -/
def State.options (s : State) : List Turn :=
  let words := s.wordsReady.map Turn.word
  let evs := s.enabled.map Turn.event ++ (if s.admitPage.isSome then [Turn.admission] else [])
    ++ (if s.bar0Reads.isEmpty then [] else [Turn.bar0Read]) ++ if s.configs.isEmpty then [] else [Turn.config]
  if words.isEmpty && !s.mustSelect then evs ++ [.idle] else words ++ evs

/-- How often a turn has been passed over. -/
def State.ageOf (s : State) (t : Turn) : Nat := ((s.ages.find? fun p => p.1 == t).map (·.2)).getD 0
/-- The selections of groups that wait for their partition, on which another issue group runs. -/
def State.laterTurns (s : State) : List Turn :=
  (s.groups.map fun (p : Nat × Group) => match s.ig? (gkPart p.1), s.team? p.2.team with
    | some _, some t =>
      let sel := fun (k : Nat) => Turn.event (.clauseIssue (gkDie p.1) (gkNum p.1) (gkSlot p.1) k)
      (if s.groupReady p.1 p.2 then [sel 0] else [])
        ++ (p.2.susp.zipIdx.filter fun q => s.mayResume p.1 p.2 t q.1).map fun q => sel (q.2 + 1)
    | _, _ => []).flatten
/-- The turns that are passed over now: each possible one counts it, and a selection that waits for its partition keeps its count. -/
def State.passOver (s : State) (os : List Turn) (t : Turn) : State :=
  { s with ages := ((os.filter (· != t)).map fun o => (o, s.ageOf o + 1)) ++ s.laterTurns.map fun o => (o, s.ageOf o) }

/-- The turn taken: a step whose time has come; otherwise the only option, or a free choice. What is possible is passed over a bounded
number of times, so that nothing that R102 promises waits for ever (log entry 95). -/
def State.turn (s : State) : Turn × State :=
  match s.urgent, s.options with
  | o :: _, _ => (.event o, s)
  | [], [o] => (o, s)
  | [], os => match maxOn s.ageOf (os.filter fun o => decide (Config.patience ≤ s.ageOf o)) with
    | some t => (t, s.passOver os t)
    | none => let (k, s) := s.pick os.length; (os.getD k .idle, s.passOver os (os.getD k .idle))

/-- A turn that the machine takes by itself. A cycle passes with an idle turn, which is possible once no partition may issue in it. -/
def State.ownStep (s : State) : Host.Outcome State Fault Refusal :=
  match s.turn with
  | (.word pk, s) => s.issueStep pk
  | (.event o, s) => o.run s
  | (.admission, s) => .next s.admission
  | (.bar0Read, s) => .next s.bar0Serve
  | (.config, s) => .next s.configServe
  | (.idle, s) => .next s.pass

/-- One step: what comes from outside next, if the agenda holds it, otherwise a turn of the machine's own. An instruction word on
the agenda, which is issued only as it is fetched, stands for such a turn (log entry 1). -/
def step (s : State) : Host.Outcome State Fault Refusal :=
  match s.agenda with
  | i :: r => if i.isWord then ({ s with agenda := r } : State).ownStep else exec i { s with agenda := r }
  | [] => s.ownStep

/-! ### Placing one instruction -/

/-- Where `withFetchWord` puts the root table, the lower tables and the code page, and the code's virtual address. -/
def fetchRoot : Nat := 0x10000
def fetchCodePa : Nat := 0x20000
def fetchCodeVa : Nat := 0x100000

/-- A pointer entry and a readable, executable, accessed page that is never cached (08_page R181, R182). -/
def fetchPointer (table : Nat) : List Byte := leBytes 8 (table + 1)
def fetchLeaf : List Byte := leBytes 8 (fetchCodePa + 0x2B + (3 <<< 56))

/-- The header of a clause of one word of the given class (03_encoding R51). -/
def fetchHeader (cls : Nat) : List Byte := leBytes 8 ((0xA5 <<< 56) + (cls <<< 48))

/-- The class of the clause in which a word may stand. -/
def fetchClass (w : Nat) : Nat :=
  match decodeRaw (BitVec.ofNat 64 w) with
  | some i => (opClass i.op).code
  | none => 0

/-- Page tables, header and word in memory. -/
def fetchMem (m : List Host.Cell) (w : Nat) : List Host.Cell :=
  let put := fun (m : List Host.Cell) (pa : Nat) (bs : List Byte) => Memory.writes m pa bs
  let m := put m fetchRoot (fetchPointer (fetchRoot + 0x2000))
  let m := put m (fetchRoot + 0x2000) (fetchPointer (fetchRoot + 0x4000))
  let m := put m (fetchRoot + 0x4000) (fetchPointer (fetchRoot + 0x6000))
  let m := put m (fetchRoot + 0x6000 + 8 * 0x100) fetchLeaf
  let m := put m fetchCodePa (fetchHeader (fetchClass w))
  put m (fetchCodePa + 8) (leBytes 8 w)

/-- `s` with an instruction placed as the first word of a clause that group 0 of core 0 of die 0 has begun, in context 0: the
context's root, the tables, the code page, a node and a team of one group, and its issue group (log entry 9). -/
def State.withFetchWord (s : State) (nbits w : Nat) : State :=
  let w := w % (1 <<< nbits)
  let k := Kernel.blank (BitVec.ofNat 64 fetchCodeVa)
  let hdr : Word := BitVec.ofNat 64 fetchCodeVa
  let g := (Group.fresh 0 0 0 64 hdr).modThreads 0xFFFFFFFF fun t => { t with inIssue := true }
  let s := { s with mem := fetchMem s.mem w, agenda := [], nextId := max 1 s.nextId, boot := 7, memUp := [0, 1] }
  let s := s.setRaw 0x480 (BitVec.ofNat 64 fetchRoot)
  let s := s.setNode 0 (Node.blank 0 k)
  let s := s.setTeam 0 { (Team.place 0 0 0 0 0 0 0 0 k) with stage := .running }
  let s := s.setGroup 0 g
  { (s.setIg 0 (IssueGroup.form 0 0xFFFFFFFF hdr 0 (fetchClass w) 1 false)) with focus := some 0 }

end Sys2Proof.Machine
end

