-- ==== Sys2Proof/Safety.lean ====
section
/-! DEFINITION. The terms in which claims are made: when a word may issue, what a step leaves alone, the canonical form of
memory, and safe runs. -/

namespace Sys2Proof.Machine

/-! ### When an instruction word may issue -/

/-- The word `i` is about to issue in environment `e` and nothing stands in its way before its effect: it passes every check of
03_encoding R67, its guard is not the never-guard of R59, the scalar pipe's rule and the operand checks of R69 and 04_group
R85-R91 hold (the MTX words and the copies make theirs with their effect), and no address predicate of the core's watch bank
is enabled (16_watch R330). -/
structure Ready (s : State) (i : Instr) (e : Env) : Prop where
  env : s.env? i = some e
  enc : s.encCheck i e = none
  guard : neverGuard i.guard = false
  scalar : scalarCheck i e = none
  operands : (mtxOp i.op || copyOp i.op) = false → s.operandCheck e = none
  watch : s.watches e.ck 0 = []

/-- The instruction completes with register effects `f` in a machine that its other effects have brought to `t`
(`State.finish` writes the registers and moves the threads on). -/
abbrev Completes (s : State) (i : Instr) (e : Env) (t : State) (f : Eff) : Prop :=
  exec i s = .next (t.finish e f none [] true id)

/-- A control instruction completes: `place` says where each thread of the issue group stands, `post` are the traps that
follow it. -/
abbrev Moves (s : State) (i : Instr) (e : Env) (t : State) (f : Eff) (place : Nat → Thread → Thread)
    (post : List (Cause × Word)) (after : State → State) : Prop :=
  exec i s = .next (t.finish e f (some place) post true after)

/-- Nothing but the instruction's own traps follows it at its boundary: the group runs the issue group `e.ig`, the core has no watch
predicate, no action or trap waits, and some thread of the issue group runs. -/
structure Quiet (s : State) (e : Env) : Prop where
  group : s.group? e.gk = some e.g
  ig : s.ig? e.pk = some e.ig
  slot : e.gk = e.pk / 4 * 48 + e.ig.slot
  part : gkPart e.gk = e.pk
  watch : (s.core e.ck).watch = []
  halts : e.g.halts = []
  pending : e.g.pending = []
  runs : ∃ l, l < 32 ∧ e.ig.mask.getLsbD l = true ∧ (e.g.thread l).exited = false ∧ (e.g.thread l).conv = false

/-- `t` differs from `s` in group `gk`, in the issue group of partition `pk` and in register marks only. -/
def OnlyGroup (s t : State) (gk pk : Nat) : Prop :=
  (∃ gs as ms, t = { s with groups := gs, active := as, marks := ms })
    ∧ (∀ k, k ≠ gk → t.group? k = s.group? k) ∧ (∀ p, p ≠ pk → t.ig? p = s.ig? p)

/-- The threads of an issue group go on: `place` says where each stands, from the place after the instruction. -/
def Group.moveOn (g : Group) (ig : IssueGroup) (place : Nat → Thread → Thread) : Group :=
  { g with threads := lanes fun l =>
      if ig.mask.getLsbD l then place l ((g.thread l).stand ig.after.1 ig.after.2 false g.opSeq) else g.thread l }

/-- The issue group of `e` has ended: its threads stand where `place` says. The group is otherwise `g`. -/
def Stood (s t : State) (e : Env) (g : Group) (place : Nat → Thread → Thread) : Prop :=
  OnlyGroup s t e.gk e.pk ∧ t.active = SMap.erase s.active e.pk ∧ t.group? e.gk = some (g.moveOn e.ig place)

/-! ### What words and events do -/

/-- No arrivals wait at an MTX word to join the issue group (04_group R83). -/
def unjoined (i : Instr) (e : Env) : Prop := mtxOp i.op = true → e.waiting e.g .quarter = []

/-- Steps that the group's `HSTEP`s wait to begin (16_watch R343) begin after every `HSTEP`, however it ends. -/
def afterWord (i : Instr) (e : Env) (t : State) : State :=
  match i with
  | .hstep _ _ => t.startSteps e.gk
  | _ => t

/-- Effect `x` writes one 32-bit register in the lanes of `m`: lane `l` gets `v l`. -/
def Writes32 (x : Eff) (r : BitVec 8) (m : Mask) (v : Nat → W32) : Prop :=
  ∃ vals, x.regs = [{ reg := r, mask := m, vals := vals }] ∧ ∀ l, l < 32 → m.getLsbD l = true → Lanes.at vals l = v l
/-- A 64-bit destination: the pair from `r`, nothing for 255 (03_encoding R68). -/
def Writes64 (x : Eff) (r : BitVec 8) (m : Mask) (v : Nat → Word) : Prop :=
  (regKind r = .zero ∧ x.regs = [])
  ∨ (regKind r ≠ .zero ∧ ∃ lo hi, x.regs = [{ reg := r, mask := m, vals := lo }, { reg := r + 1, mask := m, vals := hi }]
      ∧ ∀ l, l < 32 → m.getLsbD l = true → Lanes.at lo l = lo32 (v l) ∧ Lanes.at hi l = hi32 (v l))
/-- `n` consecutive 32-bit registers from `r`, nothing for 255. -/
def WritesGroup (x : Eff) (r : BitVec 8) (n : Nat) (m : Mask) (v : Nat → Nat → W32) : Prop :=
  (regKind r = .zero ∧ x.regs = [])
  ∨ (regKind r ≠ .zero ∧ ∃ vals : Nat → Lanes W32, x.regs = (List.range n).map (fun k => { reg := r + BitVec.ofNat 8 k, mask := m, vals := vals k })
      ∧ ∀ k l, k < n → l < 32 → m.getLsbD l = true → Lanes.at (vals k) l = v k l)
/-- Effect `x` writes one predicate in the lanes of `m`. -/
def WritesP (x : Eff) (p : BitVec 3) (m : Mask) (v : Nat → Bool) : Prop :=
  ∃ vals, x.preds = [{ p := p, mask := m, vals := vals }] ∧ ∀ l, l < 32 → m.getLsbD l = true → vals.getLsbD l = v l
/-- Effect `x` raises no format flag. -/
def NoFlags (x : Eff) : Prop := ∀ l, l < 32 → Lanes.at x.fx l = 0

/-- A NaN of fp32 (02_numbers R17). -/
def isNan32 (x : W32) : Prop := 0x7F800000 < (x &&& 0x7FFFFFFF).toNat

/-- A scalar word completes with one 64-bit result in an `s` register. -/
def Scalar (i : Instr) (s : State) (e : Env) (d : BitVec 8) (v : Word) : Prop := Completes s i e s { sreg := some (d, v) }

/-- The threads in `m` stand at the header `tgt`, as after a branch; the others where they would without it. -/
def branchTo (m : Mask) (tgt : Nat → Word) : Nat → Thread → Thread :=
  fun l t => if m.getLsbD l then { t with hdr := tgt l, pos := 0, viaBranch := true } else t

/-- Every lane of a per-lane access passes its checks: none traps, faults or waits. -/
def Perf.passes (p : Perf) : Prop := p.bad = none ∧ p.wait = none

/-- The quarters of an issue group in ascending order. -/
def quarters (op : QuarterOp) (e : Env) (s : State) : MxAcc := [0, 1, 2, 3].foldl (mxQuarter e op) { r := { s := s }, done := 0, wait := none }

/-- The 32 threads of a group issue a tile word together, with every operand full and no error anywhere. -/
structure WholeGroup (s : State) (e : Env) : Prop where
  mask : e.ig.mask = 0xFFFFFFFF
  act : e.act = 0xFFFFFFFF
  done : e.ig.done = 0
  live : e.g.live = 0xFFFFFFFF
  alone : e.waiting e.g .quarter = []
  group : s.group? e.gk = some e.g
  team : s.team? e.tid = some e.t
  ig : s.ig? e.pk = some e.ig
  traps : e.ig.traps = []
  names : ∀ o ∈ e.ops, e.g.unmappedOp o = false ∧ e.g.emptyOp o = false
  latch : e.g.latch = []
  clean : s.marks = [] ∧ s.moved = []
  lines : e.t.empty = []

/-- The scratchpad address of a quarter's operand: B in its lowest thread plus 8 x BOFF (07_tile R164). -/
def tileAddr (e : Env) (f : FmtT) (o q : Nat) : Nat := (e.src32 o (8 * q) + BitVec.ofNat 32 (8 * f.boff.toNat)).toNat
/-- `n` bytes from a quarter's operand address are 8-aligned and inside the scratchpad, in each quarter. -/
def tileFits (e : Env) (f : FmtT) (o n : Nat) : Prop :=
  ∀ q, q < 4 → tileAddr e f o q % 8 = 0 ∧ tileAddr e f o q + n ≤ e.t.kernel.scratch
/-- The scale word that ends record `k` of the run at a quarter's operand address (07_tile R156). -/
def recordScale (e : Env) (f : FmtT) (q k : Nat) : Word :=
  wordOfBytes (e.t.scratchBytes (tileAddr e f 1 q + (k + 1) * recordBytes f.btype - 8) 8)

/-- The event answers a next state of which `P` holds. -/
abbrev Answers (i : Instr) (s : State) (P : State → Prop) : Prop := ∃ t : State, exec i s = .next t ∧ P t

/-- The trap of an issue group whose request has waited for the culvert too long. -/
def lateTrap (ig : IssueGroup) : TrapAt :=
  { cause := 0xE4, hdr := ig.hdr, pos := ig.pos, issue := ig.mask, done := ig.done, lane := lowLane (ig.mask &&& ~~~ig.done),
    ig := if ig.traps.isEmpty then none else some ig }

/-! ### Memory -/

/-- Memory of a state is in canonical form. -/
def State.memWf (s : State) : Prop := Memory.wf s.mem

/-! ### Runs -/

/-- A state from which the machine's next step gives a next state. -/
def State.safe (s : State) : Prop := ∃ t, step s = .next t

/-- The states that `n` steps reach. -/
inductive Reaches : State → Nat → State → Prop
  | here (s : State) : Reaches s 0 s
  | next (s t u : State) (n : Nat) (h : step s = .next t) (r : Reaches t n u) : Reaches s (n + 1) u

end Sys2Proof.Machine
end

