-- ==== Sys2Proof/Certificates/Slice0/Obligations.lean ====
section
/-! DEFINITION. The statements for the provers. Each docstring names the rules of the spec that its statement formalises; where a
clause rests on a choice of the model, it names the log entry. A word's statement gives the state in which it completes
(`Completes`, `Moves`: 02_numbers R49 and 03_encoding R52 say what follows at the boundary, which `WordBoundary` states) for every state in which the word is `Ready` to issue, under conditions on the state and the operands alone. -/

open Sys2Proof Sys2Proof.Machine

/-! ### Encoding -/

/-- 03_encoding R59-R66, R71: every instruction word that passes the checks of its encoding is read back from the word that the
same tables give it, with every operand field at every value. -/
def Obligations.DecodeEncode : Prop :=
  ∀ (i : Instr) (w : Word), i.illFormed = none → encode i = some w → decode w = .ok i

/-- The other direction: a word that the decoder accepts is the word of the instruction it answers, so no bit of it is dropped.
-/
def Obligations.EncodeDecode : Prop :=
  ∀ (i : Instr) (w : Word), decode w = .ok i → encode i = some w

/-- Words written out from the field tables of 03_encoding R59-R66, one for each format, and the instructions they stand for:
`IADD v5, v6, v7`; `MOVI v3, 0x1234`; `LD.b32 v8, [v10+4]`; `BRA` to itself; `EXIT`; `ZCLR z2`; and a word of an opcode that R71
leaves out. -/
def Obligations.DecodedWords : Prop :=
  decode 0x10E050607FF00000 = .ok (.iadd { p := 7, n := false }
      { d := 5, a := 6, b := 7, c := 255, ka := false, kb := false, kc := false, ta := false, tb := false, tc := false, ru := false,
        mods := 0 })
  ∧ decode 0x2CE03FF000001234 = .ok (.movi { p := 7, n := false }
      { d := 3, a := 255, ka := false, ta := false, md := 0, imm := 0x1234 })
  ∧ decode 0x60E080A080000004 = .ok (.ld { p := 7, n := false }
      { data := 8, base := 10, kbase := false, tbase := false, kdata := false, width := 2, space := 0, order := 0, scope := 0, off := 4 })
  ∧ decode 0x01E0FF00FFFFFFFF = .ok (.bra { p := 7, n := false }
      { u := false, link := false, kind := 0, reg := 255, rsv := 0, disp := 0xFFFFFFFF })
  ∧ decode 0x05EFFFFFF0000000 = .ok (.exit { p := 7, n := false } { d := 255, a := 255, b := 255, low := 0 })
  ∧ decode 0x7AE5FFFE01FE0000 = .ok (.zclr { p := 7, n := false }
      { z := 2, a := 255, b := 255, ka := false, ru := false, atype := 0, btype := 0, s := 255, tb := false, boff := 0 })
  ∧ decode 0xFF00000000000000 = .error .illegalOpcode

/-- 03_encoding R71: every opcode that the map leaves out names no instruction, whatever the other bits of the word. -/
def Obligations.UnmappedOpcodes : Prop :=
  ∀ w : Word, decode w = .error .illegalOpcode ↔
    (w.extractLsb' 56 8).toNat ∈ [0x0B, 0x0C, 0x0D, 0x0E, 0x0F, 0x46, 0x47, 0x5F, 0x6D, 0x6E, 0x6F, 0x76, 0x77, 0x94, 0x95, 0x96,
      0x97, 0xAD, 0xAE, 0xAF, 0xBF] ∨ 0xC0 ≤ (w.extractLsb' 56 8).toNat

/-! ### Steps -/

/-- A step runs the decoded instruction: where the machine's own turn is a word of partition `pk` (which turn comes next is log entry
1), the PC of its issue group translates, the 8 bytes there carry no error and are those with which the clause was placed, and they
decode to `i`, the step is `exec i`, in the state in which the partition has taken its turn. -/
def Obligations.StepRunsDecoded : Prop :=
  ∀ (s u v : State) (pk : Nat) (e : Env) (p : Phys) (i : Instr),
    s.agenda = [] → s.turn = (.word pk, u) → (u.taking pk).env? fetchInstr = some e →
    (u.taking pk).translate e.ck ((u.taking pk).teamCtx e.t) e.ig.pc.toNat 2 = (.ok p, v) →
    v.homePoison p.pa 8 = none → v.copyPoison (ErrPlace.icache? e.ck) p.pa 8 = none → (SMap.get? e.t.code e.ig.pc.toNat).getD (v.word64 p.pa) = v.word64 p.pa →
    decode (v.word64 p.pa) = .ok i → step s = exec i v

/-- What comes from outside (log entry 1): an event of the agenda is the next step, and it is `exec` of its constructor; an
instruction word, which only a fetch brings, gives its turn to the machine. -/
def Obligations.StepTakesAgenda : Prop :=
  ∀ (s : State) (i : Instr) (r : List Instr), s.agenda = i :: r →
    (i.isWord = false → step s = exec i { s with agenda := r })
    ∧ (i.isWord = true → step s = State.ownStep { s with agenda := r })

/-- 03_encoding R67: a word that fails a check of its encoding traps with the check's cause before it has any effect; after an `HSTEP`
that does, the steps that its group has asked for begin, which is the model's choice (log entry 51); so it is after one whose guard is
the never-guard of R59, which has no other effect. 03_encoding R67, order 4: `ENQ` and `EVPOP` in a context that is not privileged trap
with `0x07`. -/
def Obligations.EncodingTraps : Prop :=
  (∀ (i : Instr) (s : State) (e : Env) (c : Cause), i.isWord = true → s.env? i = some e → unjoined i e →
     s.watches e.ck 0 = [] → s.encCheck i e = some c →
     exec i s = .next (afterWord i e (s.trapBefore e 0 c 0 0 0 (lowLane (e.ig.mask &&& ~~~e.ig.done)))))
  ∧ (∀ (g : Guard) (f : FmtX) (s : State) (e : Env) (i : Instr), (i = .enq g f ∨ i = .evpop g f) → s.env? i = some e →
     s.watches e.ck 0 = [] → (opClass i.op).code = e.ig.cls → s.privileged e.x = false →
     exec i s = .next (s.trapBefore e 0 0x07 0 0 0 (lowLane (e.ig.mask &&& ~~~e.ig.done))))
  ∧ (∀ (g : Guard) (f : FmtX) (s : State) (e : Env), s.env? (.hstep g f) = some e → s.watches e.ck 0 = [] → s.encCheck (.hstep g f) e = none →
     neverGuard g = true →
     exec (.hstep g f) s = .next ((s.finish { e with act := 0, guarded := 0, ops := [] } {} none [] true id).startSteps e.gk))

/-- 03_encoding R59: where the opcode and the guard stand in a word, in which lanes a guard holds, and which guard is the
never-guard: a word with it that passes the checks of its encoding completes without reading or writing a register; it takes its
slot in the clause and has no other effect. (`HSTEP` stands with the model's choice of log entry 51, in `EncodingTraps`.) -/
def Obligations.NeverGuarded : Prop :=
  (∀ (w : Word) (i : Instr), decode w = .ok i →
     i.op = w.extractLsb' 56 8 ∧ i.guard = { p := w.extractLsb' 53 3, n := w.getLsbD 52 })
  ∧ (∀ (h : Group) (gd : Guard) (l : Nat), l < 32 →
     (h.guardMask gd).getLsbD l = Bool.xor gd.n (if gd.p = 7 then true else (h.thread l).preds.getLsbD gd.p.toNat))
  ∧ (∀ gd : Guard, neverGuard gd = true ↔ gd.p = 7 ∧ gd.n = true)
  ∧ (∀ (i : Instr) (s : State) (e : Env), i.isWord = true → s.env? i = some e → unjoined i e → s.watches e.ck 0 = [] →
     s.encCheck i e = none → neverGuard i.guard = true → (∀ g f, i ≠ .hstep g f) →
     exec i s = .next (s.finish { e with act := 0, guarded := 0, ops := [] } {} none [] true id))

/-! ### What follows an instruction -/

/-- 03_encoding R52, R56, 04_group R90: an instruction that is not the last of its clause and raises nothing that traps leaves its group as
`wordDone` says (its registers written, or on their way with its entries empty), and its issue group goes on to the next word. After
the last word of a clause, and after a control instruction, the threads of the issue group stand where the instruction puts them
(`place`, from the next header) and the partition is free. 02_numbers R49, 15_context R319: traps after completion are taken once the
threads stand at the instruction that follows, which is the saved PC, with no lane done. 16_watch R343: a stepped instruction leaves
its threads there too, the thread halted again and its `HSTEP` told. Register marks apart (15_context R329), nothing else changes:
no other group, no other issue group, no memory. -/
def Obligations.WordBoundary : Prop :=
  ∀ (s : State) (e : Env) (f : Eff), Quiet s e →
    let g := s.wordDone e f e.g
    let none_ := s.formatTrap e.x (s.raisedNow e f) = none
    let standing := maskOf fun l => e.ig.mask.getLsbD l && !(e.g.thread l).exited
    (e.ig.stepFor = none → none_ → e.ig.pos + 1 < e.ig.count →
      let t := s.finish e f none [] true id
      OnlyGroup s t e.gk e.pk ∧ t.group? e.gk = some g
        ∧ t.ig? e.pk = some { e.ig with
            pos := e.ig.pos + 1, done := 0, raised := noFx, arr := 0, was := 0, bar := none, mons := [], block := none, traps := [],
            stepOf := none, stepRes := none })
    ∧ (∀ (place : Option (Nat → Thread → Thread)) (l : Nat), e.ig.stepFor = none → none_ → place.isSome = true ∨ ¬ e.ig.pos + 1 < e.ig.count →
      l < 32 → (∀ th, ((place.getD fun _ t => t) l th).exited = th.exited ∧ ((place.getD fun _ t => t) l th).conv = th.conv) →
      (e.g.thread l).exited = false → (e.g.thread l).conv = false →
      Stood s (s.finish e f place [] true id) e g (place.getD fun _ t => t))
    ∧ (∀ (place : Option (Nat → Thread → Thread)) (post rest : List (Cause × Word)) (c : Cause) (info : Word), e.ig.stepFor = none →
      place = none ∨ place = some (fun _ t => t) → post ++ (s.formatTrap e.x (s.raisedNow e f)).toList = (c, info) :: rest →
      ∃ u : State,
        Stood s u e g (fun l t => { t with viaBranch := place.isNone && decide (e.ig.pos + 1 < e.ig.count) && (e.g.thread l).viaBranch })
        ∧ s.finish e f place post true id = ((u.takeTraps e.gk (((c, info) :: rest).map fun p =>
            { cause := p.1, info := p.2, hdr := e.ig.after.1, pos := e.ig.after.2, issue := standing, lane := lowLane standing }) false).settle
            e.gk).deliverPending e.gk 0)
    ∧ (∀ by_, e.ig.stepFor = some by_ → none_ → ∃ u : State, Stood s u e g (fun _ t => t)
      ∧ s.finish e f none [] true id
        = (((u.rehalt by_ e.gk e.ig.mask).stepStatus by_ e.gk e.ig.mask 0).settle e.gk).deliverPending e.gk 0)

/-- 03_encoding R68, 04_group R94: what an instruction writes and what it leaves. A `v` register that no operand frees keeps its value in
every lane of no write, and its entry where no operand names it as a destination either; a predicate, an `s` register and an `h`
register keep theirs where no write names them, an `h` register in the lanes of no write; a write of register 255 and a write of p7
are discarded. Everything else of the group stays, operations in flight apart (04_group R86). -/
def Obligations.CommitFrame : Prop :=
  ∀ (g : Group) (ops : List Operand) (m : Mask) (f : Eff),
    let h := g.commit ops m f
    let writes := fun (k : RegKind) (n l : Nat) => ∃ w ∈ f.regs, regKind w.reg = k ∧ w.reg.toNat = n ∧ w.mask.getLsbD l = true
    (∀ n, n ∉ freedNames ops → n ∉ dstNames ops → (∀ w ∈ f.regs, regKind w.reg = .v → w.reg.toNat ≠ n) →
      SMap.get? h.v n = SMap.get? g.v n)
    ∧ (∀ n l, l < 32 → n ∉ freedNames ops → ¬ writes .v n l → Lanes.at (h.readV n) l = Lanes.at (g.readV n) l)
    ∧ (∀ l, l < 32 → ∃ ps, h.thread l = { g.thread l with preds := ps }
      ∧ ∀ p : BitVec 3, p ≠ 7 → (∀ w ∈ f.preds, w.p = p → w.mask.getLsbD l = false) →
        ps.getLsbD p.toNat = (g.thread l).preds.getLsbD p.toNat)
    ∧ (∀ n, n < 24 → (∀ r v, f.sreg = some (r, v) → r.toNat ≠ 192 + n) → h.readS n = g.readS n)
    ∧ (∀ n l, n < 16 → l < 32 → ¬ writes .h (216 + n) l → Lanes.at (h.readH n) l = Lanes.at (g.readH n) l)
    ∧ (match g.frames, h.frames with
      | a :: r, b :: r' => r' = r ∧ b = { a with h := b.h }
      | [], fs => fs = []
      | _ :: _, [] => False)
    ∧ h = { g with v := h.v, s := h.s, frames := h.frames, threads := h.threads, ops := h.ops }

/-! ### Traps -/

/-- 15_context R316-R318: taking a trap delivered to the handler, when nothing holds it back (no thread of ISSUE halted, and a handler
set free). The trap state records the cause, the PC, the ISSUE and done masks and the information word, and with them how every
thread stood and what was suspended; every thread that has not exited stands at the handler's header, converged; the group holds a
handler set of its partition, whose registers are zero; of the group nothing else changes, nor anything else. 08_page R194, 15_context
R314, R322: a trap of a family delivered to the host (`0xD7`, for which R323 gives the team one record, apart) blocks its group in
fault and writes one record; the threads stay where they stand. -/
def Obligations.TakeTrap : Prop :=
  (∀ (s : State) (gk k : Nat) (g : Group) (t : Team) (a : TrapAt) (h : Word), s.group? gk = some g → s.ig? (gkPart gk) = none →
     g.mayTake a.issue = true → g.hostTrap = none → g.entering = [] → hostCause a.cause = false → a.cause ≠ 0xD7 →
     s.team? g.team = some t → s.handlerOf t = some h →
     let u := s.setGroup gk { g with latch := [], susp := [] }
     u.freeSet (gkPart gk) = some k → u.setWaiters (gkPart gk) = [] ∨ g.frames ≠ [] →
     let fr : Frame :=
       { cause := a.cause, hdr := a.hdr, pos := a.pos, issue := a.issue, done := a.done, info := a.info, threads := g.threads,
         susp := g.susp, hset := k, h := [], kind := a.kind, lvl := a.lvl, lane := a.lane, ig := a.ig }
     let enters := fun (l : Nat) => if (g.thread l).exited then g.thread l
       else { (g.thread l).stand h 0 false g.opSeq with waits := 0, conv := false }
     s.takeTrap gk a = s.setGroup gk { g with latch := [], susp := [], frames := fr :: g.frames, threads := lanes enters })
  ∧ (∀ (s : State) (gk : Nat) (g : Group) (t : Team) (a : TrapAt), s.group? gk = some g → s.ig? (gkPart gk) = none →
     g.mayTake a.issue = true → g.hostTrap = none → g.entering = [] → hostCause a.cause = true → a.cause ≠ 0xD7 → s.team? g.team = some t →
     let fr : Frame :=
       { cause := a.cause, hdr := a.hdr, pos := a.pos, issue := a.issue, done := a.done, info := a.info, threads := g.threads,
         susp := g.susp, hset := g.frames.length, h := [], kind := a.kind, lvl := a.lvl, lane := a.lane, ig := a.ig }
     let xlat := a.cause.toNat / 16 = 3
     let r : Rec :=
       { ctx := s.teamCtx t, die := gkDie gk, core := gkNum gk, slot := gkSlot gk, node := (s.teamNodeId t).setWidth 32,
         va := a.info.toNat % (1 <<< 52), cause := a.cause, kind := if xlat then a.kind else 0, lvl := if xlat then a.lvl else 0,
         pc := a.hdr.toNat, pos := if xlat ∧ a.kind = 2 then 15 else a.pos, lane := a.lane, done := a.done,
         rkind := if xlat then (if a.kind < 4 then 1 else 2) else 6 }
     s.takeTrap gk a = (s.setGroup gk { g with latch := [], susp := [], hostTrap := some (fr, s.seq.toNat) }).report (gkDie gk) r.report)

/-! ### Register-only words -/

/-- 05_group_integer R112-R124, 06_group_float R126-R144, R152, and the register-only words of the other files: each word named
here completes in every state in which it is ready, on any operands: the next state is the old one with writes of registers and
predicates in the active lanes and the format flags that the word raises. Forms that complete here: `nop`, `spark`, `rmask`,
`stamp`, `perfc`, `heat`, `iadd`, `isub`, `iaddc`, `imul`, `imulh`, `imad`, `imin`, `imax`, `iabs`, `isad`, `shl`, `shr`, `sar`,
`shf`, `bitf`, `popc`, `clz`, `brev`, `bfe`, `bfi`, `bswz`, `icmp`, `sel`, `mov`, `lea`, `plop`, `pmovGet`, `pmovSet`, `fadd`,
`fmul`, `ffma`, `fmin`, `fmax`, `fcmp`, `fclamp`, `frnd`, `padd2`, `pmul2`, `pfma2`, `pmnx2`, `pcmp2`, `bfma2`, `cvt`, `f2i`,
`i2f`, `ncvtPack`, `ncvtUnpack`, `qcvtPack`, `qcvtUnpack`, `scaleExp`, `rcp`, `rsq`, `sqrt`, `lg2`, `ex2`, `sin`, `cos`, `tanh`,
`shfl`, `poll`, `lead`, `ifold`, `ffold`, `peers`, `qbcast`, `prefixOp`, `iaddi`, `imuli`, `bitfi`, `icmpi`, `movi`, `faddi`,
`fmuli`. -/
def Obligations.AluWordsComplete : Prop :=
  ∀ (i : Instr) (s : State) (e : Env),
    ((∃ (g : Guard) (f : FmtX), i ∈
        [.nop g f, .spark g f, .rmask g f, .stamp g f, .perfc g f, .heat g f])
      ∨ (∃ (g : Guard) (f : FmtR), i ∈
        [.iadd g f, .isub g f, .iaddc g f, .imul g f, .imulh g f, .imad g f, .imin g f, .imax g f, .iabs g f, .isad g f,
         .shl g f, .shr g f, .sar g f, .shf g f, .bitf g f, .popc g f, .clz g f, .brev g f, .bfe g f, .bfi g f, .bswz g f,
         .icmp g f, .sel g f, .mov g f, .lea g f, .plop g f, .pmovGet g f, .pmovSet g f, .fadd g f, .fmul g f, .ffma g f,
         .fmin g f, .fmax g f, .fcmp g f, .fclamp g f, .frnd g f, .padd2 g f, .pmul2 g f, .pfma2 g f, .pmnx2 g f, .pcmp2 g f,
         .bfma2 g f, .cvt g f, .f2i g f, .i2f g f, .ncvtPack g f, .ncvtUnpack g f, .qcvtPack g f, .qcvtUnpack g f,
         .scaleExp g f, .rcp g f, .rsq g f, .sqrt g f, .lg2 g f, .ex2 g f, .sin g f, .cos g f, .tanh g f, .shfl g f, .poll g f,
         .lead g f, .ifold g f, .ffold g f, .peers g f, .qbcast g f, .prefixOp g f])
      ∨ ∃ (g : Guard) (f : FmtI), i ∈
        [.iaddi g f, .imuli g f, .bitfi g f, .icmpi g f, .movi g f, .faddi g f, .fmuli g f]) →
    Ready s i e →
    ∃ x : Eff, Completes s i e s x ∧ x.sreg = none ∧ x.wait = .ready ∧ (∀ w ∈ x.regs, w.mask = e.act) ∧ (∀ p ∈ x.preds, p.mask = e.act)

/-- 05_group_integer R105, R114: 32-bit and 64-bit addition, subtraction and multiplication without SAT are modulo 2^w, lane by
lane, and raise nothing. 05_group_integer R105: with SAT a signed 32-bit sum that leaves the range becomes the nearer end of it
and raises `sat`. Forms that complete here: `iadd`, `isub`, `imul`. -/
def Obligations.IntegerArithmetic : Prop :=
  (∀ (g : Guard) (f : FmtR) (s : State) (e : Env) (i : Instr) (op : W32 → W32 → W32) (op64 : Word → Word → Word),
     (i = .iadd g f ∧ op = (· + ·) ∧ op64 = (· + ·)) ∨ (i = .isub g f ∧ op = (· - ·) ∧ op64 = (· - ·))
       ∨ (i = .imul g f ∧ op = (· * ·) ∧ op64 = (· * ·)) →
     f.sat = false → Ready s i e →
     ((f.ty = 0 ∨ f.ty = 1) → ∃ x, Completes s i e s x ∧ NoFlags x ∧ x.preds = []
         ∧ Writes32 x f.d e.act fun l => op (e.src32 0 l) (e.src32 1 l))
     ∧ ((f.ty = 2 ∨ f.ty = 3) → ∃ x, Completes s i e s x ∧ NoFlags x ∧ x.preds = []
         ∧ Writes64 x f.d e.act fun l => op64 (e.src 0 l) (e.src 1 l)))
  ∧ (∀ (g : Guard) (f : FmtR) (s : State) (e : Env), f.sat = true → f.ty = 0 → Ready s (.iadd g f) e →
     ∃ x, Completes s (.iadd g f) e s x ∧
       (Writes32 x f.d e.act fun l =>
         let sum := (e.src32 0 l).toInt + (e.src32 1 l).toInt
         if sum < -2147483648 then 0x80000000 else if 2147483647 < sum then 0x7FFFFFFF else e.src32 0 l + e.src32 1 l)
       ∧ ∀ l, l < 32 → e.act.getLsbD l = true →
         Lanes.at x.fx l = if -2147483648 ≤ (e.src32 0 l).toInt + (e.src32 1 l).toInt
           ∧ (e.src32 0 l).toInt + (e.src32 1 l).toInt ≤ 2147483647 then 0 else fxSat)

/-- 05_group_integer R122: `MOV` copies, `SEL` selects by Q, and `MOVI` writes its immediate: sign-extended to 32 or 64 bits, or
zero-extended to 64. 06_group_float R142: `POLL.mask` gives the active lanes in which Q holds, `LEAD` the lowest active lane.
Forms that complete here: `mov`, `sel`, `movi`, `poll`, `lead`. -/
def Obligations.LaneMoves : Prop :=
  (∀ (g : Guard) (s : State) (e : Env),
     (∀ f, Ready s (.mov g f) e → ∃ x, Completes s (.mov g f) e s x ∧ NoFlags x
       ∧ (wideTy f.ty = false → Writes32 x f.d e.act fun l => e.src32 0 l) ∧ (wideTy f.ty = true → Writes64 x f.d e.act fun l => e.src 0 l))
     ∧ (∀ f, Ready s (.sel g f) e → ∃ x, Completes s (.sel g f) e s x ∧ NoFlags x
       ∧ (wideTy f.ty = false → Writes32 x f.d e.act fun l =>
           if Bool.xor ((e.g.predMask f.p64).getLsbD l) (f.mods.getLsbD 3) then e.src32 0 l else e.src32 1 l)
       ∧ (wideTy f.ty = true → Writes64 x f.d e.act fun l =>
           if Bool.xor ((e.g.predMask f.p64).getLsbD l) (f.mods.getLsbD 3) then e.src 0 l else e.src 1 l))
     ∧ (∀ f, Ready s (.movi g f) e → ∃ x, Completes s (.movi g f) e s x ∧ NoFlags x
       ∧ (f.md = 0 → Writes32 x f.d e.act fun _ => f.imm)
       ∧ (f.md = 1 → Writes64 x f.d e.act fun _ => f.imm.signExtend 64)
       ∧ (f.md = 2 → Writes64 x f.d e.act fun _ => f.imm.setWidth 64)))
  ∧ (∀ (g : Guard) (f : FmtR) (s : State) (e : Env),
     (Ready s (.poll g f) e → f.mods.extractLsb' 0 2 = 3 → f.mods.getLsbD 2 = false →
       ∃ x, Completes s (.poll g f) e s x ∧ Writes32 x f.d e.act fun _ => e.act &&& e.g.predMask f.p64)
     ∧ (Ready s (.lead g f) e → ∃ x, Completes s (.lead g f) e s x ∧ (Writes32 x f.d e.act fun _ => BitVec.ofNat 32 e.low)
       ∧ WritesP x f.p97 e.act fun l => decide (l = e.low)))

/-- 05_group_integer R116: 32-bit shifts by the low 8 bits of B, or with WRAP by those modulo 32: a count of 32 or more gives
zero, or for `SAR` copies of the sign. 05_group_integer R121: `ICMP` of two signed or unsigned 32-bit values, combined with Q,
gives predicate P in the active lanes. 06_group_float R128: against a NaN of fp32, `FCMP` answers true for `.ne` and `.nan` and
false for every other comparison. Forms that complete here: `shl`, `shr`, `sar`, `icmp`, `fcmp`. -/
def Obligations.ShiftsAndCompares : Prop :=
  (∀ (g : Guard) (f : FmtR) (s : State) (e : Env), wideTy f.ty = false →
     let n := fun l => if f.sub.getLsbD 0 then (e.src32 1 l).toNat % 256 % 32 else (e.src32 1 l).toNat % 256
     (Ready s (.shl g f) e → ∃ x, Completes s (.shl g f) e s x ∧ Writes32 x f.d e.act fun l => e.src32 0 l <<< n l)
     ∧ (Ready s (.shr g f) e →
         ∃ x, Completes s (.shr g f) e s x ∧ Writes32 x f.d e.act fun l => e.src32 0 l >>> n l)
     ∧ (Ready s (.sar g f) e →
         ∃ x, Completes s (.sar g f) e s x ∧ Writes32 x f.d e.act fun l => (e.src32 0 l).sshiftRight (n l)))
  ∧ (∀ (g : Guard) (f : FmtR) (s : State) (e : Env), Ready s (.icmp g f) e →
     let q := fun l => (e.g.predMask f.p64).getLsbD l
     let cmp := fun (a b : Int) => match f.cmp.toNat with
       | 0 => decide (a = b) | 1 => decide (a ≠ b) | 2 => decide (a < b) | 3 => decide (a ≤ b) | 4 => decide (a > b) | _ => decide (a ≥ b)
     let join := fun (r : Bool) (l : Nat) => if f.mods.getLsbD 3 then r || q l else r && q l
     (f.ty = 0 → ∃ x, Completes s (.icmp g f) e s x ∧ x.regs = []
         ∧ WritesP x f.p97 e.act fun l => join (cmp (e.src32 0 l).toInt (e.src32 1 l).toInt) l)
     ∧ (f.ty = 1 → ∃ x, Completes s (.icmp g f) e s x ∧ x.regs = []
         ∧ WritesP x f.p97 e.act fun l => join (cmp (e.src32 0 l).toNat (e.src32 1 l).toNat) l))
  ∧ (∀ (g : Guard) (f : FmtR) (s : State) (e : Env), Ready s (.fcmp g f) e → f.ty = 0 → f.mods.getLsbD 3 = false → f.p64 = 7 →
     ∃ x v, Completes s (.fcmp g f) e s x ∧ x.regs = [] ∧ WritesP x f.p97 e.act v
       ∧ ∀ l, l < 32 → e.act.getLsbD l = true → isNan32 (e.src32 0 l) ∨ isNan32 (e.src32 1 l) →
         v l = (f.cmp == 1 || f.cmp == 7))

/-! ### The scalar pipe -/

/-- 06_group_float R145-R148: where every member's guard holds, the scalar words write their results; that a special register which
differs between lanes gives the lowest member's value is the model's choice (log entry 84). R146: the fields of `SMOV`, `SALU` and `SLEA`. 06_group_float R145: a scalar word whose guard holds in
no member completes without an effect; where it holds in some members and not in others, the word traps with `0x14`. Forms that
complete here: `smov`, `smovImm`, `smovIns`, `slea`, `v2sFirst`, `v2sLane`, `v2sUni`, `salu`, `scmp`. -/
def Obligations.ScalarWords : Prop :=
  (∀ (g : Guard) (f : FmtR) (s : State) (e : Env), e.act ≠ 0 → e.act = e.ig.mask →
     let a := e.src 0 e.low
     let b := e.src 1 e.low
     (Ready s (.smov g f) e → Scalar (.smov g f) s e f.d a)
     ∧ (Ready s (.smovImm g f) e → Scalar (.smovImm g f) s e f.d ((f.b ++ f.c).signExtend 64))
     ∧ (Ready s (.smovIns g f) e → Scalar (.smovIns g f) s e f.d ((a <<< 16) ||| (f.b ++ f.c).setWidth 64))
     ∧ (Ready s (.slea g f) e → Scalar (.slea g f) s e f.d (a + (b <<< f.sub.toNat)))
     ∧ (Ready s (.v2sFirst g f) e → Scalar (.v2sFirst g f) s e f.d a)
     ∧ (Ready s (.v2sLane g f) e → Scalar (.v2sLane g f) s e f.d (e.src 0 (b.toNat % 32)))
     ∧ (Ready s (.v2sUni g f) e → (∀ l ∈ e.lanes, e.src 0 l = a) → Scalar (.v2sUni g f) s e f.d a)
     ∧ (Ready s (.salu g f) e →
         (f.sub = 0 → Scalar (.salu g f) s e f.d (a + b)) ∧ (f.sub = 1 → Scalar (.salu g f) s e f.d (a - b))
         ∧ (f.sub = 2 → Scalar (.salu g f) s e f.d (a * b)) ∧ (f.sub = 3 → Scalar (.salu g f) s e f.d (a &&& b))
         ∧ (f.sub = 4 → Scalar (.salu g f) s e f.d (a ||| b)) ∧ (f.sub = 5 → Scalar (.salu g f) s e f.d (a ^^^ b))
         ∧ (f.sub = 6 → Scalar (.salu g f) s e f.d (a <<< (b.toNat % 64))) ∧ (f.sub = 7 → Scalar (.salu g f) s e f.d (a >>> (b.toNat % 64)))
         ∧ (f.sub = 8 → Scalar (.salu g f) s e f.d (a.sshiftRight (b.toNat % 64)))
         ∧ (f.sub = 9 → Scalar (.salu g f) s e f.d (if a.toInt ≤ b.toInt then a else b))
         ∧ (f.sub = 10 → Scalar (.salu g f) s e f.d (if a.toInt ≤ b.toInt then b else a))
         ∧ (f.sub = 11 → Scalar (.salu g f) s e f.d (if a.toNat ≤ b.toNat then a else b))
         ∧ (f.sub = 12 → Scalar (.salu g f) s e f.d (if a.toNat ≤ b.toNat then b else a)))
     ∧ (Ready s (.scmp g f) e → ∃ x, Completes s (.scmp g f) e s x ∧ x.regs = [] ∧ x.sreg = none
         ∧ (f.ty = 2 → f.p64 = 7 → f.mods.getLsbD 3 = false → f.cmp = 2 → WritesP x f.p97 e.act fun _ => decide (a.toInt < b.toInt))))
  ∧ (∀ (g : Guard) (f : FmtR) (s : State) (e : Env) (i : Instr),
     i ∈ [.smov g f, .smovImm g f, .smovIns g f, .slea g f, .v2sFirst g f, .v2sLane g f, .v2sUni g f, .salu g f, .scmp g f] →
     Ready s i e →
     (e.act = 0 → Completes s i e s {})
     ∧ (e.act ≠ 0 → e.act ≠ e.ig.mask → exec i s = .next (s.trapBefore e 0 0x14 0 0 0 (lowLane e.act))))
  ∧ (∀ (g : Guard) (f : FmtR),
     let clear := f.ka = false ∧ f.kb = false ∧ f.kc = false ∧ f.ta = false ∧ f.tb = false ∧ f.tc = false
     ((Instr.smov g f).illFormed = none → f.mods = 0 ∧ f.b = 255 ∧ f.c = 255)
     ∧ ((Instr.smovImm g f).illFormed = none → f.mods = 1 ∧ f.a = 255 ∧ clear)
     ∧ ((Instr.smovIns g f).illFormed = none → f.mods = 2 ∧ clear)
     ∧ ((Instr.salu g f).illFormed = none → f.mods.extractLsb' 4 9 = 0 ∧ f.sub.toNat ≤ 12 ∧ f.c = 255)
     ∧ ((Instr.slea g f).illFormed = none → f.mods.extractLsb' 4 9 = 0 ∧ f.c = 255))

/-! ### Control -/

/-- 05_group_integer R107, R108, 06_group_float R150: relative branches go to the header at the word's own address plus 8 x DISP,
indirect ones to the header that each lane's register names; calls write the address that follows the word to the link pair. A
branch without U, or one whose active threads are all the issue group's and agree on the target. 05_group_integer R108: a branch
with U whose guard holds in some threads of the issue group and not in others traps with `0x14`. Forms that complete here: `bra`,
`brx`, `ret`, `call`, `callIndirect`, `sbra`. -/
def Obligations.Branches : Prop :=
  (∀ (g : Guard) (f : FmtB) (s : State) (e : Env),
     let rel := fun (_ : Nat) => e.ig.pc + ((f.disp.signExtend 64) <<< 3)
     let uni := fun (tgt : Nat → Word) => f.u = false
       ∨ ((e.act = 0 ∨ e.act = e.ig.mask &&& ~~~e.ig.done) ∧ ∀ l ∈ e.lanes, tgt l = tgt e.low)
     (Ready s (.bra g f) e → uni rel → Moves s (.bra g f) e s {} (branchTo e.act rel) [] id)
     ∧ (Ready s (.brx g f) e → uni (e.src 0) → Moves s (.brx g f) e s {} (branchTo e.act (e.src 0)) [] id)
     ∧ (Ready s (.ret g f) e → Moves s (.ret g f) e s {} (branchTo e.act (e.src 0)) [] id)
     ∧ (Ready s (.call g f) e → ∃ x, Moves s (.call g f) e s x (branchTo e.act rel) [] id ∧ Writes64 x 190 e.act fun _ => e.ig.pc + 8)
     ∧ (Ready s (.callIndirect g f) e →
         ∃ x, Moves s (.callIndirect g f) e s x (branchTo e.act (e.src 0)) [] id ∧ Writes64 x 190 e.act fun _ => e.ig.pc + 8)
     ∧ (Ready s (.sbra g f) e → e.act = 0 ∨ e.act = e.ig.mask →
         Moves s (.sbra g f) e s {} (branchTo e.act (if f.kind = 0 then rel else e.src 0)) [] id))
  ∧ (∀ (g : Guard) (f : FmtB) (s : State) (e : Env) (i : Instr), i = .bra g f ∨ i = .brx g f → Ready s i e → f.u = true → e.act ≠ 0 →
     e.act ≠ e.ig.mask &&& ~~~e.ig.done → exec i s = .next (s.trapBefore e 0 0x14 0 0 0 (lowLane e.act)))

/-- 05_group_integer R109-R111: in the threads whose guard holds, `EXIT` ends the thread, `YIELD` keeps it from being selected for
N cycles and lets the other groups go first, and `CONV` makes it wait for the group to converge. Forms that complete here: `exit`,
`conv`, `yield`. -/
def Obligations.ThreadWords : Prop :=
  ∀ (g : Guard) (f : FmtX) (s : State) (e : Env),
    let here := fun (c : Thread → Thread) (l : Nat) (t : Thread) => if e.act.getLsbD l then c t else t
    (Ready s (.exit g f) e → Moves s (.exit g f) e s {} (here fun t => { t with exited := true }) [] id)
    ∧ (Ready s (.conv g f) e → Moves s (.conv g f) e s {} (here fun t => { t with conv := true, block := some .conv }) [] id)
    ∧ (Ready s (.yield g f) e → e.act ≠ 0 → s.group? e.gk = some e.g →
        Moves s (.yield g f) e (s.setGroup e.gk { e.g with yielded := true }) {}
          (here fun t => { t with hold := some (s.cyclesOf e.ck + (f.low.extractLsb' 0 16).toNat) }) [] id)
    ∧ (Ready s (.yield g f) e → e.act = 0 → Moves s (.yield g f) e s {} (fun _ t => t) [] id)

/-- 15_context R319, 16_watch R338: `TRAP k` traps after it completes with cause `0xF0` + k and the value of A; `BKPT` with the
trap action traps with `0xC2` and its code, and otherwise halts its threads, its group or its team; with no active thread neither
has an effect. Forms that complete here: `trap`, `bkpt`. -/
def Obligations.TrapWords : Prop :=
  ∀ (g : Guard) (f : FmtX) (s : State) (e : Env),
    let stay := fun (_ : Nat) (t : Thread) => t
    (Ready s (.trap g f) e → e.act ≠ 0 → regKind f.a ≠ .s →
        Moves s (.trap g f) e s {} stay [(0xF0 + (f.low.extractLsb' 0 3).setWidth 8, e.src 0 e.low)] id)
    ∧ (Ready s (.trap g f) e → e.act ≠ 0 → regKind f.a = .s →
        Moves s (.trap g f) e s {} stay [(0xF0 + (f.low.extractLsb' 0 3).setWidth 8, e.g.readS (f.a.toNat - 192))] id)
    ∧ (Ready s (.trap g f) e → e.act = 0 → Moves s (.trap g f) e s {} stay [] id)
    ∧ (Ready s (.bkpt g f) e → e.act = 0 → Moves s (.bkpt g f) e s {} stay [] id)
    ∧ (Ready s (.bkpt g f) e → e.act ≠ 0 → f.fld 16 3 = 4 →
        Moves s (.bkpt g f) e s {} stay [(0xC2, (f.low.extractLsb' 0 16).setWidth 64)] id)
    ∧ (Ready s (.bkpt g f) e → e.act ≠ 0 → f.fld 16 3 ≠ 4 →
        Moves s (.bkpt g f) e s {} stay [] fun s =>
          s.haltScope e.gk (if f.fld 16 3 = 1 then e.act else e.ig.mask) (f.fld 16 3).toNat { cause := 0xC2, pred := 0, skid := 0 })

/-- 15_context R320: `TRET` at which every thread of the group that has not exited stands, its guard holding in all, returns the
handler set; each interrupted thread that has not exited since resumes: those of ISSUE that are not done at the trapped
instruction, the others where and as they stood. (A thread that a trap found at the first instruction of a clause, or a trapped
word after which the group goes on with other lanes, resumes at its header anew, 03_encoding R56: the clauses on positions leave
such frames aside.) Outside a handler `TRET` traps with `0x05`; with no active thread there it has no effect. Forms that complete
here: `tret`. -/
def Obligations.TrapReturn : Prop :=
  ∀ (g : Guard) (f : FmtX) (s : State) (e : Env), Ready s (.tret g f) e →
    (∀ (fr : Frame) (rest : List Frame), e.g.frames = fr :: rest → e.waiting e.g .conv = [] → e.ig.mask = e.g.live → e.ig.mask ≠ 0 →
      e.ig.mask &&& e.g.guardMask g = e.ig.mask →
      ∃ t place, Moves s (.tret g f) e t {} place [] id ∧ t.mem = s.mem
        ∧ (∃ h, t.group? e.gk = some h ∧ h.frames = rest ∧ h.v = e.g.v ∧ h.s = e.g.s)
        ∧ ∀ l th, l < 32 → (e.g.thread l).exited = false →
          let old := fr.threads.toArray.getD l (Thread.init 0)
          (place l th).preds = (e.g.thread l).preds
          ∧ (fr.ig = none → (∀ ig ∈ fr.susp ++ e.g.susp, ig.pos ≠ 0) →
            (fr.issue.getLsbD l = true → fr.done.getLsbD l = false → f.bit 0 = false →
                (place l th).hdr = fr.hdr ∧ (place l th).pos = fr.pos)
            ∧ (fr.issue.getLsbD l = false → (place l th).hdr = old.hdr ∧ (place l th).pos = old.pos ∧ (place l th).block = old.block)))
    ∧ (e.g.frames = [] → e.act ≠ 0 → exec (.tret g f) s = .next (s.trapBefore e 0 0x05 0 0 0 (lowLane e.act)))
    ∧ (e.g.frames = [] → e.act = 0 → Moves s (.tret g f) e s {} (fun _ t => t) [] id)

/-! ### Barriers, team registers, regions -/

/-- 11_barrier R247, R251: `BAR.INIT` sets a barrier object that no thread uses to a count of 1-512, leaving its phase, and
otherwise traps with `0x82`; `BAR.Q` reads the object's phase, arrivals, counts and INIT. 11_barrier R245: a barrier object beyond
the kernel's traps with `0x83`, and one that `BAR.INIT` has not set up with `0x80`; with no active lane `BAR.INIT` and `BAR.Q`
complete whatever the index, the model's choice (log entry 26). Forms that complete here: `barInit`, `barQ`,
`barArv`, `barDrop`, `barSync`, `barWait`, `barWpar`. -/
def Obligations.BarrierObjects : Prop :=
  (∀ (g : Guard) (f : FmtX) (s : State) (e : Env),
     let k := (f.fld 24 4).toNat
     let n := (e.src32 0 e.low).toNat
     (Ready s (.barInit g f) e → e.act ≠ 0 → k < e.t.kernel.barriers → s.team? e.tid = some e.t →
       n = 0 ∨ 512 < n ∨ (e.t.bar k).a ≠ 0 ∨ s.barWaited e.tid k = true →
       exec (.barInit g f) s = .next (s.trapBefore e 0 0x82 0 0 0 (lowLane e.act)))
     ∧ (Ready s (.barInit g f) e → e.act ≠ 0 → k < e.t.kernel.barriers → 1 ≤ n → n ≤ 512 → (e.t.bar k).a = 0 → s.barWaited e.tid k = false →
       s.team? e.tid = some e.t →
       Completes s (.barInit g f) e (s.setTeam e.tid (e.t.setBar k { e.t.bar k with init := true, e := n, en := n })) {})
     ∧ (Ready s (.barInit g f) e → e.act = 0 → Completes s (.barInit g f) e s {})
     ∧ (Ready s (.barQ g f) e → e.act = 0 ∨ k < e.t.kernel.barriers → ∃ x, Completes s (.barQ g f) e s x
       ∧ Writes64 x f.d e.act fun _ => BitVec.ofNat 64 ((e.t.bar k).ph.toNat
           + (((e.t.bar k).a % 1024 + (((e.t.bar k).e % 1024) <<< 10) + (((e.t.bar k).en % 1024) <<< 20)
               + (if (e.t.bar k).init then 1 <<< 31 else 0)) <<< 32))))
  ∧ (∀ (g : Guard) (f : FmtX) (s : State) (e : Env) (i : Instr),
     i ∈ [.barArv g f, .barDrop g f, .barSync g f, .barWait g f, .barWpar g f] → s.env? i = some e → s.watches e.ck 0 = [] →
     s.encCheck i e = none → neverGuard i.guard = false → e.act ≠ 0 →
     (e.t.kernel.barriers ≤ (f.fld 24 4).toNat →
       exec i s = .next (s.trapBefore e 0 0x83 0 0 0 (lowLane (e.ig.mask &&& ~~~e.ig.done))))
     ∧ ((f.fld 24 4).toNat < e.t.kernel.barriers → (e.t.bar (f.fld 24 4).toNat).init = false →
       exec i s = .next (s.trapBefore e 0 0x80 0 0 0 (lowLane (e.ig.mask &&& ~~~e.ig.done)))))

/-- 11_barrier R246, R248-R250: arrivals at a barrier object, none of which the instruction has made before, that leave its phase
short of its count: `BAR.ARV` and `BAR.DROP` complete with the phase as their token, and the object counts them; `BAR.DROP` lowers
the next count. A `BAR.SYNC` of one thread that brings the phase to its count completes, and the phase moves on. `BAR.WAIT` and
`BAR.WPAR` with TRY complete at once. Forms that complete here: `barArv`, `barDrop`, `barSync`, `barWait`, `barWpar`. -/
def Obligations.BarrierWords : Prop :=
  ∀ (g : Guard) (f : FmtX) (s : State) (e : Env),
    let k := (f.fld 24 4).toNat
    let b := e.t.bar k
    let n := (maskLanes e.act).length
    k < e.t.kernel.barriers → b.init = true → s.team? e.tid = some e.t → s.ig? e.pk = some e.ig → e.ig.arr = 0 → e.act ≠ 0 →
    (Ready s (.barArv g f) e → b.a + n < b.e →
      ∃ t x, Completes s (.barArv g f) e t x ∧ (Writes32 x f.d e.act fun _ => b.ph.setWidth 32) ∧ t.mem = s.mem
        ∧ ∃ tm, t.team? e.tid = some tm ∧ tm.bar k = { b with a := b.a + n })
    ∧ (Ready s (.barDrop g f) e → b.a + n < b.e → popMask e.act + 1 ≤ b.en →
      ∃ t x, Completes s (.barDrop g f) e t x ∧ (Writes32 x f.d e.act fun _ => b.ph.setWidth 32) ∧ t.mem = s.mem
        ∧ ∃ tm, t.team? e.tid = some tm ∧ tm.bar k = { b with a := b.a + n, en := b.en - n })
    ∧ (Ready s (.barSync g f) e → n = 1 → b.a + 1 = b.e → 0 < b.en → s.teamHalted e.tid = false →
      ∃ t, Completes s (.barSync g f) e t {} ∧ t.mem = s.mem
        ∧ ∃ tm, t.team? e.tid = some tm ∧ tm.bar k = { b with ph := b.ph + 1, a := 0, e := b.en })
    ∧ (Ready s (.barWait g f) e → f.bit 18 = true → (∀ l ∈ maskLanes e.act, (b.ph - (e.src32 0 l).setWidth 24).toNat < 1 <<< 23) →
      ∃ t x, Completes s (.barWait g f) e t x ∧ t.teams = s.teams ∧ t.mem = s.mem)
    ∧ (Ready s (.barWpar g f) e → f.bit 18 = true →
      ∃ t x, Completes s (.barWpar g f) e t x ∧ t.teams = s.teams ∧ t.mem = s.mem)

/-- 11_barrier R260, R261: `TWR` writes the active lanes' team registers in ascending lane order; `TRD` reads them, where no
lane's register has been written by another thread in the last 4 cycles; `TATM` completes, and one lane of it gives the old value and
writes the new one that 09_memory R227 gives at 32 bits, if the operation has one. A register number that is too high traps with
`0x24`. Forms that complete here: `twr`, `trd`, `tatm`. -/
def Obligations.TeamRegisters : Prop :=
  ∀ (g : Guard) (f : FmtX) (s : State) (e : Env),
    let idx := fun l => (BitVec.ofNat 32 (f.fld 22 6).toNat + e.src32 0 l).toNat
    let ok := ∀ l ∈ e.lanes, idx l < e.t.kernel.teamregs
    (Ready s (.twr g f) e → ok →
      Completes s (.twr g f) e (e.lanes.foldl (fun s l => s.writeTreg e l (idx l) (e.src32 1 l)) s) {})
    ∧ (Ready s (.trd g f) e → ok → s.team? e.tid = some e.t →
      (∀ l ∈ e.lanes, ∀ o ∈ freshOld (s.cyclesOf e.ck) (SMap.getD e.t.wold (idx l) []), o.writer = threadId e l) →
      ∃ x, Completes s (.trd g f) e s x
        ∧ (regKind f.d ≠ .zero → Writes32 x f.d e.act fun l => SMap.getD e.t.wregs (idx l) 0))
    ∧ (Ready s (.tatm g f) e → ok → ∃ t x, Completes s (.tatm g f) e t x ∧ t.mem = s.mem ∧ t.groups = s.groups)
    ∧ (∀ l, Ready s (.tatm g f) e → ok → s.team? e.tid = some e.t → e.lanes = [l] →
      let old := e.t.reg (idx l)
      ∃ x, Completes s (.tatm g f) e
          (match atomicInt (f.fld 18 4).toNat 32 old.toNat (e.src32 1 l).toNat (hi32 (e.src 1 l)).toNat with
            | some v => s.writeTreg e l (idx l) (BitVec.ofNat 32 v)
            | none => s) x
        ∧ (regKind f.d ≠ .zero → Writes32 x f.d (laneBit l) fun _ => old))
    ∧ (∀ i l, i ∈ [.twr g f, .trd g f, .tatm g f] → Ready s i e → l ∈ e.lanes → e.t.kernel.teamregs ≤ idx l →
      exec i s = .next (s.trapBefore e 0 0x24 0 0 0 (lowLane e.act)))

/-- 11_barrier R262: `NPRB` and `NPRE` have no operand, and every bit of theirs that format X leaves to an entry is as an unused one is.
Where a guard holds, `NPRB` opens the group's region, whose count of cycles starts at 0 and rises with the cycles that pass; of a kernel
without regions it traps with `0x87`, in a region with `0x86`. `NPRE` closes the region, and without one has no effect. The region
closes too when every thread of the group has exited. Forms that complete here: `nprb`, `npre`. -/
def Obligations.Regions : Prop :=
  (∀ (g : Guard) (f : FmtX),
     (Instr.nprb g f).op = 0x8F ∧ (Instr.npre g f).op = 0x90
     ∧ ∀ i : Instr, i = .nprb g f ∨ i = .npre g f → (i.illFormed = none ↔ f.d = 255 ∧ f.a = 255 ∧ f.b = 255 ∧ f.low = 0))
  ∧ (∀ (g : Guard) (f : FmtX) (s : State) (e : Env), s.group? e.gk = some e.g →
     (Ready s (.nprb g f) e → e.act ≠ 0 → e.t.kernel.npr = true → e.g.region = none →
       Completes s (.nprb g f) e (s.setGroup e.gk { e.g with region := some 0 }) {})
     ∧ (Ready s (.nprb g f) e → e.act ≠ 0 → e.t.kernel.npr = false → exec (.nprb g f) s = .next (s.trapBefore e 0 0x87 0 0 0 (lowLane e.act)))
     ∧ (Ready s (.nprb g f) e → e.act ≠ 0 → e.t.kernel.npr = true → e.g.region.isSome = true →
       exec (.nprb g f) s = .next (s.trapBefore e 0 0x86 0 0 0 (lowLane e.act)))
     ∧ (Ready s (.nprb g f) e → e.act = 0 → Completes s (.nprb g f) e s {})
     ∧ (Ready s (.npre g f) e → e.act ≠ 0 → Completes s (.npre g f) e (s.setGroup e.gk { e.g with region := none }) {})
     ∧ (Ready s (.npre g f) e → e.act = 0 ∨ e.g.region = none → ∃ t, Completes s (.npre g f) e t {} ∧ t.group? e.gk = s.group? e.gk))
  ∧ (∀ (s : State) (gk : Nat) (g : Group), s.group? gk = some g →
     (∀ n dt, (s.tickGroup n dt gk g).region = g.region.map (· + n))
     ∧ (g.allExited = true → s.settle gk = (s.groupExit gk).teamCheck g.team ∧ ∃ h, (s.groupExit gk).group? gk = some h ∧ h.region = none))

/-! ### Memory -/

/-- 09_memory R203, R213, R221, R222: a generic load or store all of whose lanes pass their checks performs them in ascending
order; a load at acquire is followed by the acquire, a store at release follows the release. A load is a long-latency producer.
`SLOAD` (06_group_float R149) is the load of the lowest member. (`mustClean`: an ordering with a dirty byte to write back across a
culvert that carries nothing waits as a whole, log entry 108.) Forms that complete here: `ld`, `st`, `sload`. -/
def Obligations.GenericAccess : Prop :=
  ∀ (g : Guard) (f : FmtM) (s : State) (e : Env),
    let n := widthBytes f.width
    let addr := genAddr e (f.off.signExtend 64)
    let aligned := ∀ l ∈ e.lanes, addr l % n = 0
    (Ready s (.ld g f) e → (memAcq f = true → aligned) → s.mustClean e (memAcq f) f.scope.toNat = false →
      let p := perLane s e.act fun s l => s.loadLane e (addr l) n (memAcq f) f.scope.toNat
      Perf.passes p → Completes s (.ld g f) e (if memAcq f && p.done != 0 then p.s.acquire e.ck f.scope.toNat else p.s)
        { regs := loadRegs f.width f.data p.done p.vals, long := some .ld })
    ∧ (Ready s (.st g f) e → (memRel f = true → aligned) → s.mustClean e (memRel f) f.scope.toNat = false →
      let p := perLane (if memRel f && e.act != 0 then s.release e.ck f.scope.toNat else s) e.act
        fun s l => s.storeLane e (addr l) (storeBytes e 1 f.width l) (memRel f) f.scope.toNat
      Perf.passes p → Completes s (.st g f) e p.s {})
    ∧ (∀ bs t, Ready s (.sload g f) e → e.act ≠ 0 → e.act = e.ig.mask → addr e.low % n = 0 → s.mustClean e (memAcq f) f.scope.toNat = false →
      s.loadLane e (addr e.low) n (memAcq f) f.scope.toNat = (.ok bs, t) →
      Completes s (.sload g f) e (if memAcq f then t.acquire e.ck f.scope.toNat else t)
        { sreg := some (f.data, BitVec.ofNat 64 (leNat bs)) })

/-- 09_memory R203: an acquire load, a release store or an atomic with a misaligned active lane traps with `0x40` and the
address of the lowest such lane before any lane has an effect. -/
def Obligations.OrderedAlignment : Prop :=
  ∀ (g : Guard) (f : FmtM) (s : State) (e : Env) (i : Instr) (l : Nat) (off : Word) (n : Nat),
    (i = .ld g f ∧ memAcq f = true ∧ off = f.off.signExtend 64 ∧ n = widthBytes f.width)
      ∨ (i = .st g f ∧ memRel f = true ∧ off = f.off.signExtend 64 ∧ n = widthBytes f.width)
      ∨ (i ∈ [.atom g f, .atomc g f, .atomf g f, .red g f] ∧ off = (f.off.extractLsb' 0 18).signExtend 64 ∧ n = if f.width = 2 then 4 else 8) →
    Ready s i e → e.lanes.find? (fun l => genAddr e off l % n != 0) = some l →
    exec i s = .next (s.trapBefore e 0 0x40 (BitVec.ofNat 64 (genAddr e off l)) 0 0 (lowLane e.act))

/-- 09_memory R221, R222, 14_column R297: loads of the scratchpad, the constant bank and the berm whose lanes all pass their
checks give the bytes there; beyond the bank's size zero; of a bank whose bytes memory still holds as they were placed (12_kernel
R265). Forms that complete here: `lds`, `ldc`, `ldb`. -/
def Obligations.LocalLoads : Prop :=
  ∀ (g : Guard) (f : FmtM) (s : State) (e : Env), s.team? e.tid = some e.t → s.marks = [] → s.moved = [] →
    let n := widthBytes f.width
    let addr := localAddr e (f.off.signExtend 32)
    let addrS := localAddr e ((f.off.extractLsb' 0 21).signExtend 32)
    (Ready s (.lds g f) e → (∀ l ∈ e.lanes, scratchCheck e.t (addrS l) n = none ∧ e.t.lineEmpty (addrS l) = false) →
      ∃ vals, Completes s (.lds g f) e s { regs := loadRegs f.width f.data e.act vals, long := some .ld }
        ∧ ∀ l ∈ e.lanes, Lanes.at vals l = (List.range n).map fun k => SMap.getD e.t.scratch (addrS l + k) 0)
    ∧ (Ready s (.ldc g f) e → (∀ l ∈ e.lanes, addr l + n ≤ 65536 ∧ ∀ k, k < n → e.t.kernel.constSize ≤ addr l + k
          ∨ s.readVirt e.d e.x (e.t.kernel.image.toNat + e.t.kernel.constOff + (addr l + k)) 1 0 = some [SMap.getD e.t.const (addr l + k) 0]) →
      ∃ vals, Completes s (.ldc g f) e s { regs := loadRegs f.width f.data e.act vals, long := some .ld }
        ∧ ∀ l ∈ e.lanes, Lanes.at vals l = (List.range n).map fun k =>
          if e.t.kernel.constSize ≤ addr l + k then 0 else SMap.getD e.t.const (addr l + k) 0)
    ∧ (Ready s (.ldb g f) e → (∀ l ∈ e.lanes, ∃ w, bermCheck e.t (addr l) n = .ok w) →
      ∃ vals, Completes s (.ldb g f) e s { regs := loadRegs f.width f.data e.act vals, long := some .ld }
        ∧ ∀ l ∈ e.lanes, ∀ w, e.t.windows[bitsOf (addr l) 18 2]? = some w →
          Lanes.at vals l = (List.range n).map fun k => SMap.getD w.data (bitsOf (addr l) 0 18 + k) 0)

/-- 09_memory R222, 14_column R297: stores to the scratchpad and the berm whose lanes all pass their checks write them in
ascending lane order, and change nothing else. The frame of a scratchpad write: every scratchpad byte of the team outside the
bytes written, every other team, and all of memory read as before; the bytes written read as written. Forms that complete here:
`sts`, `stb`. -/
def Obligations.LocalStores : Prop :=
  (∀ (g : Guard) (f : FmtM) (s : State) (e : Env),
     let n := widthBytes f.width
     let addr := localAddr e (f.off.signExtend 32)
     (Ready s (.sts g f) e → (∀ l ∈ e.lanes, scratchCheck e.t (addr l) n = none) →
       Completes s (.sts g f) e (e.lanes.foldl (fun s l => s.writeScratch e.tid (addr l) (storeBytes e 1 f.width l)) s) {})
     ∧ (Ready s (.stb g f) e → (∀ l ∈ e.lanes, ∃ w, bermCheck e.t (addr l) n = .ok w) →
       Completes s (.stb g f) e
         (e.lanes.foldl (fun s l => s.writeBerm e.tid (bitsOf (addr l) 18 2) (bitsOf (addr l) 0 18) (storeBytes e 1 f.width l)) s) {}))
  ∧ (∀ (s : State) (tid a : Nat) (bs : List Byte) (t : Team), s.team? tid = some t → SMap.sorted t.scratch = true →
     ∃ t', (s.writeScratch tid a bs).team? tid = some t'
       ∧ (∀ b, b < a ∨ a + bs.length ≤ b → SMap.getD t'.scratch b 0 = SMap.getD t.scratch b 0)
       ∧ (∀ k, k < bs.length → SMap.getD t'.scratch (a + k) 0 = bs.getD k 0)
       ∧ (∀ k, k ≠ tid → (s.writeScratch tid a bs).team? k = s.team? k)
       ∧ (∀ pa, (s.writeScratch tid a bs).byte pa = s.byte pa) ∧ (s.writeScratch tid a bs).groups = s.groups)

/-- 09_memory R205, R215, R223: a line load gives each active lane the 4 bytes at the line's address plus 4 times its lane, once the
core's dirty bytes of the line are written back and its copies dropped; a line store so prepared, and after the release where it has
one, writes them there and leaves every other byte of memory as it is. With no active lane neither has an effect. 09_memory R213,
R224-R226: `PREF` has no effect; at scope die and above `FENCE` cleans the core's dirty bytes (release), cleans and drops its copies
(acquire), or both; `CINV` and `CCLN` do so for the core. Cleaning writes each dirty byte to its home and leaves the lines valid and
clean; `CINV` leaves the column cache and the L1 empty, the pinned lines keep their ways. (`cleanWaits`: with dirty bytes to carry
across a closed culvert they wait, log entry 108.) With no active lane the last three have no effect. Forms that complete here: `ldl`,
`stl`, `pref`, `fence`, `cinv`, `ccln`. -/
def Obligations.LinesAndCaches : Prop :=
  (∀ (g : Guard) (f : FmtM) (s u : State) (e : Env) (p : Phys) (la : Nat),
     (Ready s (.ldl g f) e → e.act ≠ 0 → lineCheck f e s 0 = (.ok (p, la), u) → u.marks = [] → u.moved = [] →
       ∃ x, Completes s (.ldl g f) e
           (if memAcq f then (u.dropLine e.ck p.pa).acquire e.ck f.scope.toNat else u.dropLine e.ck p.pa) x ∧ x.long = some .ld
         ∧ (regKind f.data ≠ .zero → Writes32 x f.data e.act fun l =>
             BitVec.ofNat 32 (leNat ((u.dropLine e.ck p.pa).bytes (p.pa + 4 * l) 4))))
     ∧ (Ready s (.stl g f) e → e.act ≠ 0 → lineCheck f e s 1 = (.ok (p, la), u) → u.memWf →
       let w := (if memRel f then u.release e.ck f.scope.toNat else u).dropLine e.ck p.pa
       ((u.core e.ck).col = [] → w.mem = u.mem)
       ∧ ∃ t, Completes s (.stl g f) e t {}
         ∧ (∀ a, (∀ l ∈ e.lanes, a < p.pa + 4 * l ∨ p.pa + 4 * l + 4 ≤ a) → t.byte a = w.byte a)
         ∧ ∀ l ∈ e.lanes, t.bytes (p.pa + 4 * l) 4 = leBytes 4 (e.src32 1 l).toNat)
     ∧ (Ready s (.ldl g f) e → e.act = 0 → Completes s (.ldl g f) e s { long := some .ld })
     ∧ (Ready s (.stl g f) e → e.act = 0 → Completes s (.stl g f) e s {}))
  ∧ (∀ (g : Guard) (s : State) (e : Env),
     (∀ f, Ready s (.pref g f) e → Completes s (.pref g f) e s {})
     ∧ ∀ f, (Ready s (.fence g f) e → e.act ≠ 0 → 4 ≤ (f.fld 23 3).toNat → s.cleanWaits e.ck = false →
           (f.fld 26 2 = 0 → Completes s (.fence g f) e ((s.ccln e.ck).cinv e.ck) {})
           ∧ (f.fld 26 2 = 1 → Completes s (.fence g f) e (s.cinv e.ck) {})
           ∧ (f.fld 26 2 = 2 → Completes s (.fence g f) e (s.ccln e.ck) {}))
         ∧ (Ready s (.fence g f) e → e.act ≠ 0 → (f.fld 23 3).toNat < 4 → Completes s (.fence g f) e s {})
         ∧ (Ready s (.cinv g f) e → e.act ≠ 0 → s.cleanWaits e.ck = false → Completes s (.cinv g f) e (s.cinv e.ck) {})
         ∧ (Ready s (.ccln g f) e → e.act ≠ 0 → s.cleanWaits e.ck = false → Completes s (.ccln g f) e (s.ccln e.ck) {})
         ∧ ∀ i, i ∈ [.fence g f, .cinv g f, .ccln g f] → Ready s i e → e.act = 0 → Completes s i e s {})
  ∧ (∀ (s : State) (ck : Nat), s.memWf → SMap.sorted (s.core ck).col = true → s.cleanWaits ck = false →
     let home := fun (a : Nat) => match SMap.get? (s.core ck).col a with
       | some b => if b.dirty then b.val else s.byte a
       | none => s.byte a
     (∀ a, (s.ccln ck).byte a = home a ∧ (s.cinv ck).byte a = home a)
     ∧ (s.ccln ck).core ck = { s.core ck with col := (s.core ck).col.map fun b => (b.1, { b.2 with dirty := false }) }
     ∧ (s.cinv ck).core ck = { s.core ck with col := [], l1 := [] })

/-- 09_memory R215, R227: a generic atomic of one active lane, without ordering, whose address passes its checks reads the old
value there and writes the new one, if the operation has one; `RED` returns nothing. 09_memory R227, R228: an atomic all of whose
lanes pass their checks completes; so does a scratchpad atomic, which leaves memory as it is. The operations of R227 on 32-bit
words, in the order of their codes. Forms that complete here: `atom`, `atomc`, `atomf`, `red`, `atoms`. -/
def Obligations.Atomics : Prop :=
  (∀ (g : Guard) (f : FmtM) (s u : State) (e : Env) (i : Instr) (cls : Option OpClass) (l : Nat) (bs : List Byte),
     (i ∈ [.atom g f, .atomc g f, .atomf g f] ∧ cls = some .at) ∨ (i = .red g f ∧ cls = none) → Ready s i e → e.lanes = [l] →
     memAcq f = false → memRel f = false → genAddr e ((f.off.extractLsb' 0 18).signExtend 64) l % atomicBytes f = 0 →
     atomicPages f e s (genAddr e ((f.off.extractLsb' 0 18).signExtend 64) l) = (.ok bs, u) →
     let pa := leNat bs
     let v := u.dropLine e.ck pa
     let old := v.bytes pa (atomicBytes f)
     let r := atomicPerform f e l (leNat old)
     ∃ x, Completes s i e (match r.1 with | some new => v.writeHome pa new | none => v) x ∧ x.long = cls ∧ Lanes.at x.fx l = r.2
       ∧ x.regs = if cls.isSome then bytesRegs f.data (atomicBytes f / 4) (laneBit l) (Lanes.upd (Vector.replicate 32 []) l fun _ => old) else [])
  ∧ (∀ (g : Guard) (f : FmtM) (s : State) (e : Env),
     (∀ i, i ∈ [.atom g f, .atomc g f, .atomf g f, .red g f] → Ready s i e →
       (∀ l ∈ e.lanes, genAddr e ((f.off.extractLsb' 0 18).signExtend 64) l % atomicBytes f = 0) →
       s.mustClean e (memRel f || memAcq f) f.scope.toNat = false →
       Perf.passes (perLane s e.act fun s l => atomicPages f e s (genAddr e ((f.off.extractLsb' 0 18).signExtend 64) l)) →
       ∃ t x, Completes s i e t x)
     ∧ (Ready s (.atoms g f) e → s.team? e.tid = some e.t → s.marks = [] → s.moved = [] →
       (∀ l ∈ e.lanes, scratchCheck e.t (localAddr e ((f.off.extractLsb' 0 18).signExtend 32) l) (atomicBytes f) = none
         ∧ e.t.lineEmpty (localAddr e ((f.off.extractLsb' 0 18).signExtend 32) l) = false) →
       ∃ t x, Completes s (.atoms g f) e t x ∧ t.mem = s.mem ∧ t.groups = s.groups))
  ∧ (∀ old b b2 : W32,
     let op := fun k => atomicInt k 32 old.toNat b.toNat b2.toNat
     op 0 = some (old + b).toNat ∧ op 1 = some (if b.toInt < old.toInt then b else old).toNat
     ∧ op 2 = some (if old.toInt < b.toInt then b else old).toNat ∧ op 3 = some (min old.toNat b.toNat)
     ∧ op 4 = some (max old.toNat b.toNat) ∧ op 5 = some (old &&& b).toNat ∧ op 6 = some (old ||| b).toNat
     ∧ op 7 = some (old ^^^ b).toNat ∧ op 8 = some b.toNat ∧ op 9 = some (if b.toNat ≤ old.toNat then 0 else (old + 1).toNat)
     ∧ op 10 = some (if old = 0 ∨ b.toNat < old.toNat then b.toNat else (old - 1).toNat)
     ∧ op 15 = if old = b then some b2.toNat else none)

/-- 11_barrier R256: a `WAITC` all of whose lanes have monitors, which have ended, completes with their outcomes; a monitor all of
whose lanes have read its outcome is gone; the core holds no copy of the words waited on, which may be older than what the wait has
seen (09_memory R209); with ASYNC, a `WAITC` that registers its monitors completes at once. With no active lane it has no effect.
Forms that complete here: `waitc`. -/
def Obligations.ConditionMonitors : Prop :=
  ∀ (g : Guard) (f : FmtX) (s : State) (e : Env), Ready s (.waitc g f) e → s.ig? e.pk = some e.ig →
    (e.act = 0 → Completes s (.waitc g f) e s {})
    ∧ (e.act ≠ 0 → (∀ l ∈ e.lanes, ∃ p ∈ e.ig.mons, p.1 = l) → (∀ p ∈ e.ig.mons, (s.monOutcome p.2).isSome = true) → f.bit 21 = false →
      f.bit 15 = false →
      let seen := e.ig.mons.foldl (fun (u : State) (p : Nat × Nat) => u.monRead p.2 (laneBit p.1)) s
      let pas := ((e.ig.mons.filterMap fun p => s.monitor? p.2).map (·.pa)).eraseDups
      ∃ x, Completes s (.waitc g f) e (pas.foldl (fun (u : State) (pa : Nat) => u.dropLine e.ck pa) (seen.setIg e.pk e.ig)) x
        ∧ Writes32 x f.d e.act fun l => BitVec.ofNat 32 (((e.ig.mons.find? fun p => p.1 == l).bind fun p => s.monOutcome p.2).getD 0))
    ∧ (∀ k m, SMap.sorted s.monitors = true → s.monitor? k = some m → ∀ b : Mask, m.lanes &&& ~~~b = 0 → (s.monRead k b).monitor? k = none)
    ∧ (e.act ≠ 0 → e.ig.mons = [] → f.bit 15 = true → Perf.passes (seqLanes s e.act (monLane f e)) →
      ∃ t, Completes s (.waitc g f) e t {})

/-! ### Copies and event queues -/

/-- 10_copy R231, R232: a copy instruction accepts one copy for each active lane, in ascending lane order, once there is room for
them and every lane's checks pass. With no active lane it has no effect. Forms that complete here: `cpy`, `cpyo`, `cpys`, `cpyg`.
-/
def Obligations.CopyWords : Prop :=
  ∀ (g : Guard) (f : FmtX) (s : State) (e : Env) (i : Instr) (form : Nat),
    (i = .cpy g f ∧ form = 0) ∨ (i = .cpyo g f ∧ form = 1) ∨ (i = .cpys g f ∧ form = 2) ∨ (i = .cpyg g f ∧ form = 3) → Ready s i e →
    (e.act = 0 → Completes s i e s {})
    ∧ (e.act ≠ 0 → s.copiesOn e.ck + popMask e.act ≤ 32 → s.operandCheck e = none →
      let a := e.lanes.foldl (copyLane f form e) { s := s, copies := [], names := [], why := none }
      a.why = none → ∃ u, Completes s i e (a.copies.foldl State.acceptCopy u) {} ∧ u.copies = a.s.copies ∧ u.mem = a.s.mem)

/-- 10_copy R241, R242: `EVPOP` of one lane takes the oldest record of its cluster's queue, with P true, or with an empty queue
completes with P false; `EVPUSH` of one lane appends a record whose KIND is 0x10 or above while there is room, and otherwise, with
W clear, traps with `0xA6` (both once no dirty byte of the core has to wait for the culvert, log entry 108). 10_copy R243: `FESET` of lines that no copy owns sets them full or empty, lane by lane; `FEQRY` reads
them. Forms that complete here: `evpop`, `evpush`, `fesetFull`, `fesetEmpty`, `feqry`. -/
def Obligations.EventQueueWords : Prop :=
  (∀ (g : Guard) (f : FmtX) (s : State) (e : Env) (l : Nat), e.lanes = [l] → s.marks = [] →
     let cl := clusterOf e.ck
     (Ready s (.evpop g f) e → (s.cluster cl).events = [] →
       ∃ x, Completes s (.evpop g f) e s x ∧ WritesP x (f.fld 25 3) (laneBit l) fun _ => false)
     ∧ (∀ r rest, Ready s (.evpop g f) e → (s.cluster cl).events = r :: rest → s.cleanWaits e.ck = false →
       ∃ t x, Completes s (.evpop g f) e t x ∧ (WritesP x (f.fld 25 3) (laneBit l) fun _ => true)
         ∧ (t.cluster cl).events = rest ++ (s.cluster cl).evWait.take 1)
     ∧ (Ready s (.evpush g f) e → 16 ≤ fld (pushRecord e l).1 0 8 → s.cleanWaits e.ck = false → ((s.release e.ck 5).cluster cl).events.length < 256 →
       Completes s (.evpush g f) e ((s.release e.ck 5).pushEvent cl (pushRecord e l)) {})
     ∧ (Ready s (.evpush g f) e → 16 ≤ fld (pushRecord e l).1 0 8 → s.cleanWaits e.ck = false →
       256 ≤ ((s.release e.ck 5).cluster cl).events.length → f.bit 27 = false →
       exec (.evpush g f) s = .next ((s.release e.ck 5).trapBefore e 0 0xA6 0 0 0 l)))
  ∧ (∀ (g : Guard) (f : FmtX) (s : State) (e : Env),
     (∀ i full, (i = .fesetFull g f ∧ full = true) ∨ (i = .fesetEmpty g f ∧ full = false) → Ready s i e → s.ownedLines e.tid = [] →
       ∀ l first n, e.lanes = [l] → lineArgs e f 1 l = .ok (first, n) → Completes s i e (s.setLines e.tid first n full) {})
     ∧ (∀ l first n, Ready s (.feqry g f) e → e.lanes = [l] → lineArgs e f 32 l = .ok (first, n) → n ≤ 32 →
       ∃ x, Completes s (.feqry g f) e s x
         ∧ (regKind f.d ≠ .zero → Writes32 x f.d (laneBit l) fun _ =>
             BitVec.ofNat 32 (((List.range n).map fun i => if e.t.empty.contains (first + i) then 0 else 1 <<< i).sum))))

/-! ### Kernels, queues and nodes -/

/-- 12_kernel R271-R273: `QPOP` of a queue of the group reserves an entry and leaves the queue's next entry to complete it; `QREL`
gives reservations back, as permits while the queue is not finished (a `QPOP` for which a finished queue has no entry holds none); `GROW` raises the group's budget where its partition has
room, with P true, and answers true at once for a budget it has; `SHRINK` lowers it to no less than the mapped names. 12_kernel
R271-R273: where they trap. Forms that complete here: `qpop`, `qrel`, `grow`, `shrink`. -/
def Obligations.QueueAndBudget : Prop :=
  (∀ (g : Guard) (f : FmtX) (s : State) (e : Env), s.group? e.gk = some e.g → e.act ≠ 0 →
     let q := if f.a = 255 then (f.fld 25 3).toNat else (e.src32 0 e.low).toNat
     let r := (f.fld 25 3).toNat
     let n := (f.fld 20 5).toNat
     let new := (f.fld 20 8).toNat
     (Ready s (.qpop g f) e → q < 8 → SMap.has e.g.queues q = true → (e.g.queue q).held < 16 →
       Completes s (.qpop g f) e (s.setGroup e.gk (e.g.setQueue q
           { e.g.queue q with reserved := (e.g.queue q).reserved + 1, taken := (e.g.queue q).taken + 1 }))
         { long := some .other, wait := .sluice q })
     ∧ (Ready s (.qrel g f) e → SMap.has e.g.queues r = true → n ≤ (e.g.queue r).held →
       Completes s (.qrel g f) e (s.setGroup e.gk (e.g.setQueue r
           { e.g.queue r with
             reserved := (e.g.queue r).reserved - n
             permits := if (e.g.queue r).finished then (e.g.queue r).permits else (e.g.queue r).permits + n })) {})
     ∧ (Ready s (.grow g f) e → new ≤ 192 → e.g.budget < new → (s.curIg e).was = 0 → s.servedBefore e.gk = false →
         s.growRoom e.pk e.g new = true →
       ∃ x, Completes s (.grow g f) e (s.setGroup e.gk { e.g with budget := new }) x ∧ WritesP x (f.fld 17 3) e.act fun _ => true)
     ∧ (Ready s (.grow g f) e → new ≤ 192 → new ≤ e.g.budget →
       ∃ x, Completes s (.grow g f) e s x ∧ WritesP x (f.fld 17 3) e.act fun _ => true)
     ∧ (Ready s (.shrink g f) e → e.g.mapped ≤ new →
       Completes s (.shrink g f) e (s.setGroup e.gk { e.g with budget := min new e.g.budget }) {}))
  ∧ (∀ (g : Guard) (f : FmtX) (s : State) (e : Env), e.act ≠ 0 →
     let q := if f.a = 255 then (f.fld 25 3).toNat else (e.src32 0 e.low).toNat
     let trap := fun (c : Cause) => Host.Outcome.next (s.trapBefore e 0 c 0 0 0 (lowLane e.act))
     (Ready s (.qpop g f) e → 8 ≤ q → exec (.qpop g f) s = trap 0x95)
     ∧ (Ready s (.qpop g f) e → q < 8 → SMap.has e.g.queues q = false → exec (.qpop g f) s = trap 0x94)
     ∧ (Ready s (.qrel g f) e → SMap.has e.g.queues (f.fld 25 3).toNat = false → exec (.qrel g f) s = trap 0x94)
     ∧ (Ready s (.qrel g f) e → SMap.has e.g.queues (f.fld 25 3).toNat = true →
         (e.g.queue (f.fld 25 3).toNat).held < (f.fld 20 5).toNat → exec (.qrel g f) s = trap 0x96)
     ∧ (Ready s (.grow g f) e → 192 < (f.fld 20 8).toNat → exec (.grow g f) s = trap 0x23)
     ∧ (Ready s (.shrink g f) e → (f.fld 20 8).toNat < e.g.mapped → exec (.shrink g f) s = trap 0x22))

/-- 13_queue R288, R289, 12_kernel R274: `ENQ`, `LAUNCH` and `DEPDEC` whose lanes all pass complete, lane by lane in ascending
order. One lane of `ENQ` that the device accepts reads status 0 with P true; one it refuses reads the status with P false; one of
`LAUNCH` arms the record's node one level deeper than its parent; one of `DEPDEC` reads the old COUNT, lowered by N, or by 1 where B is
255, as `DependencyDecrement` says. Each is a release at device scope first, which with a dirty byte to carry across a closed culvert
waits (log entry 108). Forms that complete here: `enq`, `launch`, `depdec`. -/
def Obligations.NodeWords : Prop :=
  ∀ (g : Guard) (f : FmtX) (s : State) (e : Env),
    (∀ i fn, (i = .enq g f ∧ fn = enqLane e) ∨ (i = .launch g f ∧ fn = launchLane e) → Ready s i e → Perf.passes (seqLanes s e.act fn) →
      ∃ x, Completes s i e (seqLanes s e.act fn).s x)
    ∧ (Ready s (.depdec g f) e → Perf.passes (perLane s e.act (depdecLane e)) →
      ∃ x, Completes s (.depdec g f) e (perLane s e.act (depdecLane e)).s x)
    ∧ (∀ l st u, Ready s (.enq g f) e → e.lanes = [l] → f.b = 255 → s.cleanWaits e.ck = false →
      (s.release e.ck 5).enqueue e.ck e.x (e.src 0 l).toNat = (.ok st, u) →
      ∃ x, Completes s (.enq g f) e u x ∧ (WritesP x (f.fld 21 3) (laneBit l) fun _ => decide (st % 4294967296 = 0))
        ∧ (regKind f.d ≠ .zero → Writes32 x f.d (laneBit l) fun _ => BitVec.ofNat 32 st))
    ∧ (∀ l n u, Ready s (.launch g f) e → e.lanes = [l] → s.cleanWaits e.ck = false →
      launchCheck e (s.release e.ck 5) (e.src 0 l).toNat (s.node? e.t.node) = (.ok n, u) →
      ∃ x, Completes s (.launch g f) e (u.arm n e.d (((s.node? e.t.node).elim 0 (·.depth)) + 1)) x
        ∧ (regKind f.d ≠ .zero → Writes32 x f.d (laneBit l) fun _ => BitVec.ofNat 32 n.id.toNat))
    ∧ (∀ l p r u, Ready s (.depdec g f) e → e.lanes = [l] →
      let a := (e.src 0 l).toNat
      let n := if f.b = 255 then 1 else (e.src32 1 l).toNat
      let v := (u.release e.ck 5).dropLine e.ck (p.p.pa + 40)
      a < 1 <<< 52 → a % 64 = 0 → s.lanePages e a 44 3 = (.ok (p :: r), u) → u.cleanWaits e.ck = false →
      v.homePoison (p.p.pa + 40) 4 = none →
      ∃ x, Completes s (.depdec g f) e (v.decrement e.d e.x p.p.pa n).2 x
        ∧ (regKind f.d ≠ .zero → Writes32 x f.d (laneBit l) fun _ => BitVec.ofNat 32 (v.depsWord p.p.pa % 65536)))

/-- 13_queue R276, R289: the decrement of a DEPS word lowers COUNT by `n`, to no less than 0, answers the old COUNT, and clears
ARMED where COUNT reaches 0; every other byte of memory stays. -/
def Obligations.DependencyDecrement : Prop :=
  ∀ (s : State) (d x pa n : Nat), SMap.wf s.mem unwritten = true →
    let old := s.depsWord pa
    let left := old % 65536 - n
    let fires := old % 65536 ≠ 0 ∧ left = 0 ∧ bitOf old 16 = true
    (s.decrement d x pa n).1 = old % 65536
    ∧ (s.decrement d x pa n).2.depsWord pa % 65536 = left
    ∧ (bitOf ((s.decrement d x pa n).2.depsWord pa) 16 = true ↔ bitOf old 16 = true ∧ ¬ fires)
    ∧ ∀ a, a < pa + 40 ∨ pa + 44 ≤ a → (s.decrement d x pa n).2.byte a = s.byte a

/-! ### Samples, bands and maps -/

/-- 17_sample R363-R367: the sample words whose lanes all pass their checks complete: records on their way to their buckets
(`SREC`) or to the other die (`XEYE` with the culvert up: P true), reads of buckets that complete later (`SLD`, `SBKT.q`), copies
of a bucket (`SLD.sp`), and locks. Forms that complete here: `srec`, `xeye`, `sld`, `sbktQ`, `sldSp`, `sbktLock`, `sbktUnlock`. -/
def Obligations.SampleWords : Prop :=
  ∀ (g : Guard) (s : State) (e : Env),
    (∀ f l, Ready s (.srec g f) e → e.lanes = [l] → (recCheck (e.record 0 l) <|> bucketCheck s e.d e.t (recTile (e.record 0 l))) = none →
      ∃ t, Completes s (.srec g f) e t {}
        ∧ (t.die e.d).insertions = (s.die e.d).insertions ++ [{ smp := e.record 0 l, reply := some (e.gk, e.g.opSeq) }])
    ∧ (∀ f l, Ready s (.xeye g f) e → e.lanes = [l] → recCheck (e.record 0 l) = none → s.culvert.state = .up → e.d < 2 →
      ∃ t x, Completes s (.xeye g f) e t x ∧ (WritesP x (f.fld 25 3) (laneBit l) fun _ => true)
        ∧ (t.die (1 - e.d)).xeyes = (s.die (1 - e.d)).xeyes ++ [{ smp := borrowed (e.record 0 l), reply := some (e.gk, e.g.opSeq) }])
    ∧ (∀ f l, Ready s (.xeye g f) e → e.lanes = [l] → recCheck (e.record 0 l) = none → s.culvert.state ≠ .up → f.bit 22 = false →
      ∃ x, Completes s (.xeye g f) e s x ∧ WritesP x (f.fld 25 3) (laneBit l) fun _ => false)
    ∧ (∀ f, Ready s (.sld g f) e → (∀ l ∈ e.lanes, sldCheck f e s l = none) → ∃ x, Completes s (.sld g f) e s x ∧ x.long = some .sm
        ∧ x.regs = [] ∧ ∃ r, x.wait = .sld r ∧ r.map (·.1) = e.lanes)
    ∧ (∀ f, Ready s (.sbktQ g f) e → (∀ l ∈ e.lanes, bucketCheck s e.d e.t (e.src32 0 l).toNat = none) →
      ∃ x, Completes s (.sbktQ g f) e s x ∧ x.long = some .sm ∧ x.regs = [] ∧ ∃ a b r, x.wait = .sbkt a b r ∧ r.map (·.1) = e.lanes)
    ∧ (∀ f, Ready s (.sldSp g f) e → s.copiesOn e.ck + popMask e.act ≤ 32 → Perf.passes (perLane s e.act (sldSpLane f e)) →
      Completes s (.sldSp g f) e (perLane s e.act (sldSpLane f e)).s {})
    ∧ (∀ f l, Ready s (.sbktLock g f) e → e.lanes = [l] → bucketCheck s e.d e.t (e.src32 0 l).toNat = none →
        s.readReady e.d e.t (e.src32 0 l).toNat = true →
      ∃ t x, Completes s (.sbktLock g f) e t x ∧ WritesP x (f.fld 23 3) (laneBit l) fun _ =>
        (s.bucket e.d (e.src32 0 l).toNat).owner.isNone || (s.bucket e.d (e.src32 0 l).toNat).owner == some e.tid)
    ∧ (∀ f l, Ready s (.sbktUnlock g f) e → e.lanes = [l] → bucketCheck s e.d e.t (e.src32 0 l).toNat = none →
      Completes s (.sbktUnlock g f) e
        (if (s.bucket e.d (e.src32 0 l).toNat).owner = some e.tid then s.unlock e.d (e.src32 0 l).toNat else s) {})

/-- 17_sample R364-R366: `SEVT` changes what a bucket, or with ALL every bucket of the die, will evict, in the step that issues it, which
is the model's choice (log entry 41: R364 says when the request arrives); `PRIO`, `EMAP` and `PRIO.w` write the maps, from the next
boundary on. Forms that complete here: `sevtLimit`, `sevtAge`, `sevtDrop`, `prio`, `emap`,
`prioW`. -/
def Obligations.EvictionAndMaps : Prop :=
  ∀ (g : Guard) (f : FmtX) (s : State) (e : Env) (l : Nat), e.lanes = [l] →
    let tile := (e.src32 0 l).toNat
    let named := if f.bit 25 then none else some tile
    let ok := f.bit 25 = true ∨ bucketCheck s e.d e.t tile = none
    let v := e.src 1 l
    (Ready s (.sevtLimit g f) e → ok →
      Completes s (.sevtLimit g f) e (s.modBuckets e.d named fun b => { b with newLimit := some (v.toNat % 4294967296) }) {})
    ∧ (Ready s (.sevtAge g f) e → ok →
      Completes s (.sevtAge g f) e (s.modBuckets e.d named fun b => { b with newAge := some (v.toNat % (1 <<< 40)) }) {})
    ∧ (Ready s (.sevtDrop g f) e → ok →
      Completes s (.sevtDrop g f) e (s.modBuckets e.d named fun b => { b with live := b.live.take (v.toNat % 4294967296) }) {})
    ∧ (∀ i map, (i = .prio g f ∧ map = (f.fld 25 3).toNat) ∨ (i = .emap g f ∧ map = 4) → Ready s i e → tile < 57600 →
      Completes s i e (s.mapWrite e { map := map, cell := tile, op := mapOp (f.fld 23 2),
                                       val := (e.src32 1 l).toNat % (if map = 2 then 2 else 65536) }) {})
    ∧ (Ready s (.prioW g f) e →
      Completes s (.prioW g f) e ((List.range 4).foldl
        (fun s k => s.mapWrite e { map := 3, cell := k, op := .set, val := fld (e.src 0 l) (16 * k) 16 }) s) {})

/-- 17_sample R367, R370, R371: `REPROJ` of records that it takes, `ROWQ` of bands that the lanes may name, and `ROWW` of pixels
of the team's own band complete. `ROWQ` without a band number gives the time left to the team's band, its number and the die's period,
the last being the model's choice for a band that is over (log entry 42). A pixel of an open band is written to the copy of the band
that is not shown, whose address is the model's choice (log entry 38); of a band that is no longer open it is dropped (log entry 42).
21_program_row R403: the pixel does not depend on bits [31:16] of B. Forms that complete here: `reproj`, `rowq`, `roww`. -/
def Obligations.BandWords : Prop :=
  ∀ (g : Guard) (f : FmtX) (s : State) (e : Env),
    (Ready s (.reproj g f) e → (∀ l ∈ e.lanes, reprojBad (e.record 0 l) = false) →
      ∃ x, Completes s (.reproj g f) e s x ∧ x.regs.length = 8
        ∧ WritesP x (f.fld 25 3) e.act fun l =>
          (reproject ((List.range 12).map fun i => (s.raw (0x720 + 12 * e.d + i)).setWidth 32) (e.record 0 l)).isSome)
    ∧ (Ready s (.rowq g f) e → f.a ≠ 255 → (∀ l ∈ e.lanes, (e.src32 0 l).toNat < 240) →
      ∃ x, Completes s (.rowq g f) e s x)
    ∧ (∀ q due, Ready s (.rowq g f) e → f.a = 255 → s.bandOf e.t = some (q, due) →
      let left := BitVec.ofInt 64 (Int.ofNat due / 27 - Int.ofNat (s.die e.d).ticks)
      ∃ x, Completes s (.rowq g f) e s x
        ∧ WritesGroup x f.d 4 e.act fun k _ =>
          if k = 0 then lo32 left else if k = 1 then hi32 left else BitVec.ofNat 32 (if k = 2 then q % 240 else (s.die e.d).period))
    ∧ (∀ l q due, Ready s (.roww g f) e → e.lanes = [l] → s.bandOf e.t = some (q, due) →
      let w := (e.src32 2 l).toNat
      let row := bitsOf w 16 12
      let b := q % 240
      bitsOf w 0 12 < 3840 → 16 * b ≤ row → row < 16 * b + 16 → bitsOf w 12 4 = 0 → bitsOf w 28 4 = 0 →
      ∃ x, Completes s (.roww g f) e
        (if s.bandOpen e.d e.t then
          s.writeHome (s.bandCopy e.d b (1 - s.shownIdx e.d b) + 4 * (3840 * (row - 16 * b) + bitsOf w 0 12))
            (leBytes 4 (pixelOf (e.src32 0 l) (e.src32 1 l)).1)
        else s) x)
    ∧ (∀ a b c : W32, b.setWidth 16 = c.setWidth 16 → pixelOf a b = pixelOf a c)

/-- 17_sample R368, R369, 22_program_bvh R404: `RBOX`, `RTRI` and `PROBE` of one lane whose ray and address pass and whose bytes are read write
to D the words that the bytes determine, and `RTRI` and `PROBE` say in P whether they hit; 06_group_float R136: `SCALE` by words that
are scale words completes. Forms that complete here: `rbox`, `rtri`, `probe`, `scaleWord`, `scaleWordinv`. -/
def Obligations.RayAndScaleWords : Prop :=
  ∀ (g : Guard) (s u : State) (e : Env) (l : Nat) (bs : List Byte), e.lanes = [l] →
    let a := (e.src 1 l).toNat
    let words := fun (ws : List Nat) (k _ : Nat) => BitVec.ofNat 32 (ws.getD k 0)
    (∀ f, Ready s (.rbox g f) e → e.rayOk l = true → a % 128 = 0 → a < 1 <<< 52 → s.loadLane e a 128 false 0 = (.ok bs, u) →
      boxBad bs = false → ∃ x, Completes s (.rbox g f) e u x ∧ x.preds = [] ∧ x.long = some .rt
        ∧ WritesGroup x f.d 5 (laneBit l) (words (boxWords (e.rayCodes l) bs)))
    ∧ (∀ f, Ready s (.rtri g f) e → e.rayOk l = true → a % 16 = 0 → a < 1 <<< 52 → s.loadLane e a 48 false 0 = (.ok bs, u) →
      ∃ x, Completes s (.rtri g f) e u x ∧ WritesGroup x f.d 4 (laneBit l) (words (triWords (e.rayCodes l) (f.bit 24) bs).1)
        ∧ (f.fld 25 3 ≠ 7 → WritesP x (f.fld 25 3) (laneBit l) fun _ => (triWords (e.rayCodes l) (f.bit 24) bs).2))
    ∧ (∀ f, Ready s (.probe g f) e → a % 32 = 0 → a < 1 <<< 52 → s.loadLane e a 32 false 0 = (.ok bs, u) →
      leNat ((bs.drop 28).take 4) = 0 →
      ∃ x, Completes s (.probe g f) e u x ∧ WritesGroup x f.d 4 (laneBit l) (words (probeWords (e.src32 0 l) bs).1)
        ∧ (f.fld 25 3 ≠ 7 → WritesP x (f.fld 25 3) (laneBit l) fun _ => (probeWords (e.src32 0 l) bs).2))
    ∧ (∀ f i inv, (i = .scaleWord g f ∧ inv = false) ∨ (i = .scaleWordinv g f ∧ inv = true) → Ready s i e →
      (∀ l ∈ e.lanes, scaleBad (e.src 1 l) = false) →
      ∃ x, Completes s i e s x
        ∧ Writes32 x f.d e.act fun l => lo32 (scaleByWord f inv (e.src 0 l) (e.src 1 l) (e.src32 2 l)).1)

/-! ### Trail, system registers, watch, halted threads -/

/-- 19_trail R388, R390, R397: `TRAIL` writes one record for each active lane, in ascending lane order; `TMARK` of a stage before
the last stamps the tag's slot with both clocks. Forms that complete here: `trail`, `tmark`. -/
def Obligations.TrailWords : Prop :=
  ∀ (g : Guard) (f : FmtX) (s : State) (e : Env),
    (Ready s (.trail g f) e →
      Completes s (.trail g f) e (e.lanes.foldl (fun s l => s.trail e.d (f.fld 20 8).toNat e.x l (trailPayload e l)) s) {})
    ∧ (Ready s (.tmark g f) e → e.act ≠ 0 → f.fld 25 3 ≠ 4 → s.team? e.tid = some e.t →
      Completes s (.tmark g f) e (s.setTeam e.tid { e.t with
          stamps := markSlots e.t.stamps (e.src32 0 e.low) (f.fld 25 3).toNat (BitVec.ofNat 64 (s.die e.d).ticks, BitVec.ofNat 64 (s.cyclesOf e.ck)) })
        {})
    ∧ (Ready s (.tmark g f) e → e.act = 0 → Completes s (.tmark g f) e s {})

/-- 15_context R321: `SYSRD` and `SYSWR` of a register that the code may read or write, once the group's operations have
completed, act once, with the operands of the lowest active lane; of one it may not, they trap. 15_context R321, R413, R317,
02_numbers R47: which accesses trap: a number that names no register with `0x01`; the trap state outside a handler with `0x05`; a
register of another context with `0x07`; a program's write of a register that only the host writes with `0x07`. A write of `FX`
clears the flags it names. 02_numbers R48: privileged code may write `FX_TRAP` of every context; 15_context R317: in a handler
the trap state may be read and written. That a write of a read-only one of its registers is taken and changes nothing, and that both
words wait for the group's operations, is the model's choice (log entry 19). Forms that complete here: `sysrd`, `syswr`. -/
def Obligations.SystemRegisters : Prop :=
  (∀ (g : Guard) (f : FmtX) (s : State) (e : Env), e.act ≠ 0 → s.quiet e = true →
     let n := (f.fld 16 12).toNat + (e.src32 0 e.low).toNat
     let v := e.src 1 e.low
     (Ready s (.sysrd g f) e → sysDenied e (s.privileged e.x) n none = none →
       ∃ x, Completes s (.sysrd g f) e s x ∧ Writes64 x f.d e.act fun _ => s.sysRead e n)
     ∧ (Ready s (.syswr g f) e → sysDenied e (s.privileged e.x) n (some v) = none →
       Completes s (.syswr g f) e (s.sysWrite e (s.privileged e.x) n v) {})
     ∧ (∀ c, Ready s (.sysrd g f) e → sysDenied e (s.privileged e.x) n none = some c →
       exec (.sysrd g f) s = .next (s.trapBefore e 0 c 0 0 0 (lowLane e.act)))
     ∧ (∀ c, Ready s (.syswr g f) e → sysDenied e (s.privileged e.x) n (some v) = some c →
       exec (.syswr g f) s = .next (s.trapBefore e 0 c 0 0 0 (lowLane e.act))))
  ∧ (∀ (s : State) (e : Env) (p : Bool) (n : Nat) (v : Word),
     (n ≠ 0x050 → trapReg n = false → regDesc n = none → sysDenied e p n none = some 0x01 ∧ sysDenied e p n (some v) = some 0x01)
     ∧ (trapReg n = true → e.g.frames = [] → sysDenied e p n none = some 0x05 ∧ sysDenied e p n (some v) = some 0x05)
     ∧ (trapReg n = true → e.g.frames ≠ [] → sysDenied e p n none = none ∧ sysDenied e p n (some v) = none)
     ∧ (n ≠ 0x050 → trapReg n = false → (regDesc n).isSome = true → ctxReg n = true → n % 64 ≠ e.x → sysDenied e p n none = some 0x07)
     ∧ (n ≠ 0x050 → trapReg n = false → ∀ r, regDesc n = some r →
       (p = true → ctxReg n = false → sysDenied e p n none = none)
       ∧ (p = false → n < 0x6E0 ∨ 0x6F0 ≤ n → sysDenied e p n (some v) = some 0x07)
       ∧ (r.rw &&& ~~~r.priv ≠ 0 → sysDenied e p n (some v) = some 0x07))
     ∧ (p = true → 0x100 ≤ n → n < 0x140 → sysDenied e p n (some v) = none)
     ∧ (s.group? e.gk = some e.g → s.sysRead e 0x050 = e.g.fx.setWidth 64
       ∧ s.sysWrite e p 0x050 v = s.setGroup e.gk { e.g with fx := e.g.fx &&& ~~~(v.setWidth 8) }))

/-- 16_watch R339: `WCLR` clears EN of a predicate that the context may change; `WSET` writes the six registers of one from the 48
bytes at its scratchpad offset, where the checks pass: a context without DEBUG gets its own number in the filter. Forms that
complete here: `wclr`, `wset`. -/
def Obligations.WatchWords : Prop :=
  ∀ (g : Guard) (f : FmtX) (s : State) (e : Env), e.act ≠ 0 →
    let n := (f.fld 24 4).toNat
    let off := (e.src32 0 e.low).toNat
    let may := s.debug e.x = true ∨ ((s.core e.ck).watchOf n).foreign e.x = false
    (Ready s (.wclr g f) e → f.bit 23 = false → may → Completes s (.wclr g f) e (s.clearWatch e.ck n) {})
    ∧ (Ready s (.wclr g f) e → f.bit 23 = false → ¬ may → exec (.wclr g f) s = .next (s.trapBefore e 0 0xC5 0 0 0 (lowLane e.act)))
    ∧ (Ready s (.wset g f) e → s.team? e.tid = some e.t → s.marks = [] → s.moved = [] → off + 48 ≤ e.t.kernel.scratch → off % 8 = 0 →
      e.t.lineEmpty off = false → e.t.lineEmpty (off + 47) = false → may →
      let q := fun (k : Nat) => wordOfBytes (e.t.scratchBytes (off + 8 * k) 8)
      let w : Watch := { n := n, ctl := q 0, a := q 1, b := q 2, flt := q 3, lane := q 4, kern := q 5 }
      w.invalid = false →
      Completes s (.wset g f) e (s.setWatch e.ck (if s.debug e.x then w else { w with flt := setBits w.flt 48 7 e.x })) {})

/-- 16_watch R340-R344: the inspection words in code that may inspect: `HLIST` answers, for each lane, the handle at its index, why that
thread is halted, and how many threads of the context are halted; `HINS` and `HPUT` of a handle that names no halted thread answer P
false (of one that does, which items they answer is log entry 50's where the spec leaves it open); `HRES` resumes a halted thread, its
group or its team; `HSTEP` answers the status of its step, or 3 for a handle that names none (when steps begin is log entry 51).
16_watch R340-R344: without DEBUG, a handle of another context traps with `0xC5`. Forms that complete here: `hlist`, `hins`,
`hput`, `hres`, `hstep`. -/
def Obligations.InspectionWords : Prop :=
  (∀ (g : Guard) (f : FmtX) (s : State) (e : Env) (l : Nat), e.lanes = [l] → s.debug e.x = true →
     (Ready s (.hlist g f) e →
       let all := fun (l : Nat) => s.haltedOf (if f.a = 255 then e.x else (e.src32 0 l).toNat)
       let row := fun (l : Nat) => (all l)[if f.b = 255 then 0 else (e.src32 1 l).toNat]?
       let handle := fun (l : Nat) => match row l with
         | some (gk, h, k) => s.handle gk h k
         | none => 0
       let why := fun (l : Nat) => match (row l).bind fun r => (r.2.1.thread r.2.2).halt with
         | some h => h.cause.toNat + ((h.pred % 16) <<< 8) + ((h.skid % 4) <<< 12)
         | none => 0
       ∃ x, Completes s (.hlist g f) e s x ∧ (WritesP x (f.fld 25 3) e.act fun l => (row l).isSome)
         ∧ (regKind f.d ≠ .zero → WritesGroup x f.d 4 e.act fun k l =>
             if k = 0 then lo32 (handle l) else if k = 1 then hi32 (handle l)
             else BitVec.ofNat 32 (if k = 2 then why l else (all l).length)))
     ∧ (Ready s (.hins g f) e → s.target (e.src 0 l) = none →
       ∃ x, Completes s (.hins g f) e s x ∧ WritesP x (f.fld 13 3) (laneBit l) fun _ => false)
     ∧ (∀ gk h t k v, Ready s (.hins g f) e → s.target (e.src 0 l) = some (gk, h, t, k) →
         s.itemRead gk h t k (f.fld 16 4).toNat (f.fld 20 8).toNat = .ok v →
       ∃ x, Completes s (.hins g f) e s x ∧ (WritesP x (f.fld 13 3) (laneBit l) fun _ => true) ∧ Writes64 x f.d (laneBit l) fun _ => v)
     ∧ (Ready s (.hput g f) e → s.target (e.src 0 l) = none →
       ∃ x, Completes s (.hput g f) e s x ∧ WritesP x (f.fld 13 3) (laneBit l) fun _ => false)
     ∧ (∀ gk h t k v h', Ready s (.hput g f) e → s.target (e.src 0 l) = some (gk, h, t, k) →
         s.itemWrite gk h t k (f.fld 16 4).toNat (f.fld 20 8).toNat (e.src 1 l) = (.ok v, h') →
       ∃ x, Completes s (.hput g f) e (s.setGroup gk h') x ∧ WritesP x (f.fld 13 3) (laneBit l) fun _ => true)
     ∧ (∀ gk h t k, Ready s (.hres g f) e → s.target (e.src 0 l) = some (gk, h, t, k) →
       Completes s (.hres g f) e
         ((if f.fld 26 2 = 0 then s.resumeLanes gk (laneBit k) else if f.fld 26 2 = 1 then s.resumeLanes gk 0xFFFFFFFF
           else (s.groupsOf h.team).foldl (fun (s : State) (q : Nat × Group) => s.resumeLanes q.1 0xFFFFFFFF) s).unstop h.team) {})
     ∧ (Ready s (.hres g f) e → s.target (e.src 0 l) = none → exec (.hres g f) s = .next (s.trapBefore e 0 0xC7 0 0 0 l))
     ∧ (∀ st, Ready s (.hstep g f) e → (s.curIg e).stepRes = some st ∨ ((s.curIg e).stepRes = none ∧ s.target (e.src 0 l) = none ∧ st = 3) →
       ∃ x, exec (.hstep g f) s = .next (afterWord (.hstep g f) e (s.finish e x none [] true id))
         ∧ Writes32 x f.d e.act fun _ => BitVec.ofNat 32 st))
  ∧ (∀ (g : Guard) (f : FmtX) (s : State) (e : Env) (i : Instr), i ∈ [.hins g f, .hput g f, .hres g f] → Ready s i e →
     s.debug e.x = false → e.act ≠ 0 → fld (e.src 0 e.low) 0 6 ≠ e.x → exec i s = .next (s.trapBefore e 0 0xC5 0 0 0 (lowLane e.act)))

/-! ### Tiles -/

/-- 07_tile R158, R164-R166: an MTX word whose own checks pass, in an issue group of whole quarters none of whose quarter
operations stops, completes: every quarter in ascending order, then the one trap of R166 that follows, if any. 07_tile R169:
`ZCLR` of a whole group sets every element of tile Z of every quarter to zero. 07_tile R176, R177: `TST` of one quarter writes its 8
rows and its scale word at the quarter's address, and no other byte. Forms that complete here: `mma`, `mmas`, `zclr`, `zst`, `zld`,
`tst`, `zrd`, `tld`. -/
def Obligations.TileWords : Prop :=
  (∀ (g : Guard) (f : FmtT) (s : State) (e : Env) (i : Instr) (op : QuarterOp) (long : Option OpClass),
     (i = .mma g f ∧ op = mmaQuarter f false ∧ long = none ∧ mmaPre f false e s = none)
       ∨ (i = .mmas g f ∧ op = mmaQuarter f true ∧ long = none ∧ mmaPre f true e s = none)
       ∨ (i = .zclr g f ∧ op = zclrQuarter f ∧ long = none) ∨ (i = .zst g f ∧ op = zstQuarter f ∧ long = none)
       ∨ (i = .zld g f ∧ op = zldQuarter f ∧ long = none) ∨ (i = .tst g f ∧ op = tstQuarter f ∧ long = none)
       ∨ (i = .zrd g f ∧ op = zrdQuarter f ∧ long = some .mx ∧ zrdPre f e s = none)
       ∨ (i = .tld g f ∧ op = tldQuarter f ∧ long = some .ld) →
     Ready s i e → e.waiting e.g .quarter = [] →
     (i = .zrd g f ∨ i = .tld g f → (e.ops.any fun o => o.dst && e.g.emptyOp o) = false ∧ e.g.overBudget e.ops = false
       ∧ s.poolShort e.pk e.g e.ops = false ∧ s.poolWaits e.gk (e.ig.block == some .pool) = false) →
     (quarters op e s).r.why = none → (quarters op e s).wait = none → s.ig? e.pk = some e.ig → e.ig.traps = [] →
     ∃ ts, exec i s = .next ((quarters op e s).r.s.finish e { regs := (quarters op e s).r.regs, fx := (quarters op e s).r.fx, long := long }
         none ts false id)
       ∧ ((quarters op e s).r.traps = [] → (quarters op e s).r.s.ig? e.pk = some e.ig → ts = []))
  ∧ (∀ (g : Guard) (f : FmtT) (s : State) (e : Env), WholeGroup s e →
     let nt := typeK f.atype / 8
     let done := fun (i : Instr) (long : Option OpClass) =>
       ∃ (t : State) (x : Eff) (ts : List (Cause × Word)), exec i s = .next (t.finish e x none ts false id) ∧ x.long = long ∧ t.mem = s.mem
     let room := e.g.overBudget e.ops = false ∧ s.poolShort e.pk e.g e.ops = false ∧ s.poolWaits e.gk (e.ig.block == some .pool) = false
     (Ready s (.zst g f) e → f.z.toNat < e.t.kernel.anvil → tileFits e f 0 512 → done (.zst g f) none)
     ∧ (Ready s (.zld g f) e → f.z.toNat < e.t.kernel.anvil → tileFits e f 0 512 → done (.zld g f) none)
     ∧ (Ready s (.mma g f) e → f.z.toNat < e.t.kernel.anvil → pairAllowed f.atype f.btype = true → tileFits e f 1 (nt * recordBytes f.btype) →
       done (.mma g f) none)
     ∧ (Ready s (.mmas g f) e → f.z.toNat < e.t.kernel.anvil → pairAllowed f.atype f.btype = true → f.atype ≠ 3 → f.atype ≠ 4 → f.s ≠ 255 →
       tileFits e f 1 (nt * recordBytes f.btype) →
       (∀ q k, q < 4 → k < nt → scaleBad (aScale e q k) = false ∧ scaleBad (recordScale e f q k) = false) → done (.mmas g f) none)
     ∧ (Ready s (.zrd g f) e → f.z.toNat < e.t.kernel.anvil → room → zrdPre f e s = none →
       (zrdK8 f = true → f.boff.getLsbD 5 = false → ∀ q, q < 4 → scaleBad (pair64 (e.src32 0 (8 * q)) (e.src32 0 (8 * q + 1))) = false) →
       done (.zrd g f) (some .mx))
     ∧ (Ready s (.tld g f) e → room → f.btype = 0 → tileFits e f 0 (nt * recordBytes f.atype) → done (.tld g f) (some .ld)))
  ∧ (∀ (g : Guard) (f : FmtT) (s u : State) (e : Env) (q : Nat) (p : Seg) (r : List Seg), Ready s (.tst g f) e → q < 4 →
     e.ig.mask = quarterMask q → e.act = quarterMask q → e.ig.done = 0 → e.g.live = 0xFFFFFFFF → e.waiting e.g .quarter = [] →
     s.ig? e.pk = some e.ig → e.ig.traps = [] → s.marks = [] → s.moved = [] → (∀ o ∈ e.ops, e.g.unmappedOp o = false ∧ e.g.emptyOp o = false) →
     let a := (e.src 1 (8 * q) + BitVec.ofNat 64 (8 * f.boff.toNat)).toNat
     let w : Word := if f.s = 255 then 0x7F else pair64 (e.src32 2 (8 * q)) (e.src32 2 (8 * q + 1))
     a % 8 = 0 → a / 128 = (a + recordBytes f.atype - 1) / 128 → scaleBad w = false →
     s.lanePages e a (recordBytes f.atype) 1 = (.ok (p :: r), u) → isHost p.p.pa = false → u.marks = [] →
     let reg := fun (i k : Nat) => if f.atype = 2 then leBytes 4 (e.src32 0 (8 * q + i)).toNat
       else leBytes 4 ((e.src 0 (8 * q + i)) >>> (32 * k)).toNat
     let row := fun (i : Nat) => if f.atype = 2 then reg i 0 else reg i 0 ++ reg i 1
     let bytes := ((List.range 8).map row).flatten ++ bytesOfWord w
     let v := u.dropLine e.ck p.p.pa
     ((u.core e.ck).col = [] → v.mem = u.mem)
     ∧ (u.memWf → ∃ (t : State) (ts : List (Cause × Word)), exec (.tst g f) s = .next (t.finish e {} none ts false id)
       ∧ t.bytes p.p.pa bytes.length = bytes ∧ ∀ b, b < p.p.pa ∨ p.p.pa + bytes.length ≤ b → t.byte b = v.byte b))
  ∧ (∀ (g : Guard) (f : FmtT) (s : State) (e : Env), Ready s (.zclr g f) e → e.waiting e.g .quarter = [] → s.group? e.gk = some e.g →
     e.ig.mask = 0xFFFFFFFF → e.act = 0xFFFFFFFF → e.ig.done = 0 → e.g.live = 0xFFFFFFFF → f.z.toNat < e.t.kernel.anvil → s.ig? e.pk = some e.ig →
     e.ig.traps = [] → SMap.wf e.g.z 0 = true →
     ∃ (t : State) (h : Group), exec (.zclr g f) s = .next (t.finish e {} none [] false id) ∧ t.mem = s.mem ∧ t.group? e.gk = some h
       ∧ (∀ q i j, q < 4 → i < 8 → j < 8 → h.zAt q f.z.toNat i j = 0)
       ∧ (∀ q z i j, q < 4 → z < 8 → z ≠ f.z.toNat → i < 8 → j < 8 → h.zAt q z i j = e.g.zAt q z i j) ∧ h.v = e.g.v)

/-! ### Reset and memory -/

/-- 20_bringup R399, R400 and the reset columns of the register tables: after a device reset the machine is in boot stage 1 with
no error, every register reads at its reset value, every context is FREE, the culvert is DOWN, both clocks stand at 0, and
nothing is placed, copied or awaited. What memory reads as and the values that log entries 3 to 7 name are the model's choices.
-/
def Obligations.ResetState : Prop :=
  State.reset.boot = 1 ∧ State.reset.bootErr = 0 ∧ (∀ n d, regDesc n = some d → State.reset.raw n = d.reset)
  ∧ (∀ x, State.reset.ctx x = { stage := .free, slots := [] }) ∧ State.reset.culvert.state = .down
  ∧ (∀ d, (State.reset.die d).ticks = 0 ∧ (State.reset.die d).tripped = false ∧ (State.reset.die d).reports = [])
  ∧ State.reset.seq = 0 ∧ State.reset.mode = false ∧ State.reset.tlbi = none
  ∧ (∀ k, State.reset.group? k = none ∧ State.reset.team? k = none ∧ State.reset.node? k = none ∧ State.reset.copy? k = none
    ∧ State.reset.monitor? k = none)
  ∧ State.reset.memWf ∧ State.reset.mem = []

/-- Memory stays in canonical form: the addresses listed rise, and none is listed with the value that an unlisted address reads
as (log entry 2). -/
def Obligations.MemoryCanonical : Prop := ∀ s t : State, s.memWf → step s = .next t → t.memWf

/-! ### Events -/

/-- 15_context R311, R312: each context command that is listed for the state of its context changes that state; one that is not
sets ERR and changes nothing else; one written while BUSY is ignored, and so is one written before boot stage 3 (20_bringup R400). `SUSPEND` requests the save of every resident team of the
context, with REASON `0xD0`. A context that drains is destroyed once no team of it is resident or saved and no copy of it is left.
Forms that complete here: `ctxCreate`, `ctxAdmit`, `ctxSuspend`, `ctxResume`, `ctxKill`, `ctxFree`, `ctxDestroyed`. -/
def Obligations.ContextCommands : Prop :=
  ∀ (s : State) (x : Nat), x < 64 → SMap.sorted s.regs = true → s.endpointDown = false →
    let st := (s.ctx x).stage
    let slots := (s.ctx x).slots
    (3 ≤ s.boot → s.cmdBusy = false →
      (st = .free → Answers (.ctxCreate x) s fun t => t.ctx x = { stage := .created, slots := [] } ∧ t.raw (0x100 + x) = 0
        ∧ t.raw (0x140 + x) = 0 ∧ t.raw (0x180 + x) = 0 ∧ (∀ y, y ≠ x → t.ctx y = s.ctx y) ∧ t.mem = s.mem ∧ t.teams = s.teams)
      ∧ (st = .created → exec (.ctxAdmit x) s = .next (s.setCtx x { stage := .admitted, slots := slots }))
      ∧ (st = .admitted ∨ st = .running → Answers (.ctxSuspend x) s fun t => t.ctx x = { stage := .suspended, slots := slots }
        ∧ t.groups = s.groups ∧ t.mem = s.mem
        ∧ ∀ k tm, s.team? k = some tm → tm.resident = true → s.teamCtx tm = x → tm.ending = none →
          ∃ u, t.team? k = some u ∧ u.saveReq = some 0xD0 ∧ u.migrateTo = none)
      ∧ (st = .suspended ∨ st = .faulted → Answers (.ctxResume x) s fun t => t.ctx x = { stage := .admitted, slots := slots }
        ∧ t.groups = s.groups ∧ t.mem = s.mem)
      ∧ (st ∈ [.created, .admitted, .running, .suspended, .faulted] → s.ctxTeams x = [] → Answers (.ctxKill x) s fun t =>
        t.ctx x = { stage := .draining, slots := [] } ∧ (∀ p ∈ t.nodes, p.2.ctx ≠ x) ∧ (∀ p ∈ t.monitors, p.2.ctx ≠ x) ∧ t.mem = s.mem)
      ∧ (st = .destroyed → exec (.ctxFree x) s = .next (s.setCtx x { stage := .free, slots := slots }))
      ∧ (∀ i l, (i = .ctxCreate x ∧ l = [.free]) ∨ (i = .ctxAdmit x ∧ l = [.created]) ∨ (i = .ctxSuspend x ∧ l = [.admitted, .running])
          ∨ (i = .ctxResume x ∧ l = [.suspended, .faulted]) ∨ (i = .ctxKill x ∧ l = [.created, .admitted, .running, .suspended, .faulted])
          ∨ (i = .ctxFree x ∧ l = [.destroyed]) → st ∉ l →
        exec i s = .next (s.setRaw 0x5C0 (setBits (s.raw 0x5C0) 17 1 1))))
    ∧ (∀ i, i ∈ [.ctxCreate x, .ctxAdmit x, .ctxSuspend x, .ctxResume x, .ctxKill x, .ctxFree x] → s.cmdBusy = true ∨ s.boot < 3 →
      exec i s = .next s)
    ∧ (st = .draining → s.resTeams x = 0 → s.savedTeams x = 0 → (∀ c ∈ s.copies, c.2.ctx ≠ x) → s.pinsWait (fun t => t.ctx == x) = false →
      Answers (.ctxDestroyed x) s fun t => (t.ctx x).stage = .destroyed)

/-- 08_page R197, 15_context R322: the host's answer to the record of a trap of a resident group: replay from the saved state,
delivery to the handler, or the end of its team; an answer that no record awaits changes nothing. 08_page R190: a command of
`TLBI_CTL` that is not refused starts an invalidation with the scope written and the `TLBI_VA` of that moment; when it completes,
no core, cluster or walk cache holds a translation or pointer in its scope. Forms that complete here: `faultReplay`,
`faultDeliver`, `faultEndTeam`, `tlbiRange`, `tlbiContext`, `tlbiAll`, `tlbiComplete`. -/
def Obligations.FaultsAndInvalidation : Prop :=
  (∀ (s : State) (x seq : Nat), s.endpointDown = false →
     (∀ tid gk t g f, 3 ≤ s.boot → s.teams.find? (fun p => s.teamCtx p.2 == x
           && p.2.awaits (if p.2.stage == .saved then p.2.kept else (s.groupsOf p.1).map (·.2)) seq) = some (tid, t) →
         s.team? tid = some t → t.stage ≠ .saved → t.limitSeq ≠ some seq → t.lae = none →
         (s.groupsOf tid).find? (fun p => p.2.hostTrap.any fun h => h.2 == seq) = some (gk, g) → s.group? gk = some g →
         g.hostTrap = some (f, seq) →
       let u := s.setGroup gk { g with hostTrap := none }
       exec (.faultReplay x seq) s = .next ((u.resumeFrame gk f false false).deliverPending gk 0)
       ∧ exec (.faultDeliver x seq) s = .next (u.toHandler gk f.delivered)
       ∧ exec (.faultEndTeam x seq) s = .next (u.endTeam g.team f.cause))
     ∧ (∀ i, i ∈ [.faultReplay x seq, .faultDeliver x seq, .faultEndTeam x seq] →
         s.teams.find? (fun p => s.teamCtx p.2 == x
           && p.2.awaits (if p.2.stage == .saved then p.2.kept else (s.groupsOf p.1).map (·.2)) seq) = none →
         (s.die 0).waveFault ≠ some (seq, x) → (s.die 1).waveFault ≠ some (seq, x) → exec i s = .next s)
     ∧ (∀ i, i ∈ [.faultReplay x seq, .faultDeliver x seq, .faultEndTeam x seq] → s.boot < 3 → exec i s = .next s))
  ∧ (∀ (s : State) (x : Nat) (glb : Bool), 3 ≤ s.boot → s.endpointDown = false →
     (∀ i scope, (i = .tlbiRange x glb ∧ scope = 0 ∧ fld (s.raw 0x220) 12 40 % (1 <<< fld (s.raw 0x220) 52 4) = 0)
         ∨ (i = .tlbiContext x glb ∧ scope = 1) ∨ (i = .tlbiAll glb ∧ scope = 2) → s.tlbi = none →
       Answers i s fun t => ∃ w : Word, t.tlbi = some (w, s.raw 0x220) ∧ fld w 8 2 = scope ∧ w.getLsbD 10 = glb
         ∧ (scope ≠ 2 → fld w 0 6 = x % 64))
     ∧ (∀ p, s.tlbi = some p → s.canTlbi = true → Answers .tlbiComplete s fun t => t.tlbi = none
       ∧ (∀ c ∈ t.cores, ∀ e ∈ c.2.tlb, (tlbScope p).leaf e = false) ∧ (∀ c ∈ t.clusters, ∀ e ∈ c.2.tlb, (tlbScope p).leaf e = false)
       ∧ (∀ d ∈ t.dies, ∀ e ∈ d.2.walk, (tlbScope p).pointer e = false))
     ∧ (s.tlbi = none → exec .tlbiComplete s = .next s))

/-- 10_copy R236-R239, 11_barrier R256-R259, 12_kernel R268: a copy fills a line that it has left, is complete once its lines are
full and its completion word is added to, and posts its record when there is room; a monitor ends as woken, timed out, or after a
recheck; the LAE serves its next stream of addresses. Forms that complete here: `copyLineFill`, `copyLanded`, `copyPost`,
`monitorWake`, `monitorTimeout`, `monitorRecheck`, `laeServeStream`. -/
def Obligations.CopiesAndMonitors : Prop :=
  ∀ (s : State) (k : Nat),
    (∀ c line, s.copy? k = some c → c.form ≤ 3 → c.stage = .accepted ∨ c.stage = .moving → line ∈ c.left →
      Answers (.copyLineFill k line) s fun t => ∃ c', t.copy? k = some c' ∧ c'.left = c.left.filter (· != line) ∧ c'.stage = .moving
        ∧ (c.form ≠ 1 → ∀ tm, t.team? c.team = some tm → line ∉ tm.empty))
    ∧ (∀ c, s.copy? k = some c → c.form ≠ 1 → c.stage = .moving → c.left = [] → SMap.sorted s.copies = true →
      (c.cw = none → Answers (.copyLanded k) s fun t => t.copy? k = if c.ev then some { c with stage := .posting } else none)
      ∧ (∀ a, c.cw = some a → crosses (c.core / 96) a = false → s.cleanWaits c.core = false → s.memWf → Answers (.copyLanded k) s fun t =>
          t.bytes a 4 = leBytes 4 (leNat (((s.release c.core 5).dropLine c.core a).bytes a 4) + 1)))
    ∧ (∀ c, s.copy? k = some c → c.stage = .posting → s.queueFull (clusterOf c.core) = false → SMap.sorted s.copies = true →
      Answers (.copyPost k) s fun t => t.copy? k = none
        ∧ (t.cluster (clusterOf c.core)).events = (s.cluster (clusterOf c.core)).events ++ [c.record])
    ∧ (∀ m, s.monitor? k = some m → m.async = false →
      (s.canWake m = true → exec (.monitorWake k) s = .next (s.setMonitor k { m with outcome := some 0 }))
      ∧ (s.canTimeout m = true → exec (.monitorTimeout k) s = .next (s.setMonitor k { m with outcome := some 1 }))
      ∧ (s.canRecheck m = true → exec (.monitorRecheck k) s
          = .next (s.setMonitor k (if s.monHolds m then { m with outcome := some 0 } else { m with last := s.monCycles m }))))
    ∧ (∀ t l st gk g, s.team? k = some t → t.lae = some l → l.cur = some st → s.groupAt k st.gidx = some (gk, g) → s.group? gk = some g →
      t.stage = .running → t.saveHalt = false → (s.die t.die).tripped = false → l.ended = false → l.fault = none →
      (g.queue st.queue).permits ≠ 0 → st.copy = false → Answers (.laeServeStream k) s fun u => ∃ h, u.group? gk = some h
        ∧ (h.queue st.queue).permits = (g.queue st.queue).permits - 1
        ∧ (h.queue st.queue).items.length = (g.queue st.queue).items.length + 1)

/-- 13_queue R279, R280, R283, R284, R287: a held node enters its die's pool; a node that has waited a quantum moves up one level;
a die takes the head of its pool; a cluster places the lowest team of its most urgent chunk on a core that can admit it; clusters
and dies steal the upper half of what they steal from; a victim's save is requested. Forms that complete here:
`heldNodeEnterPool`, `nodeAging`, `dieDistributorTake`, `chunkPlace`, `clusterSteal`, `crossDieSteal`, `distributorPreempt`. -/
def Obligations.Distribution : Prop :=
  ∀ (s : State) (d : Nat), d < 2 →
    (∀ k n, s.firstHeld d = some (k, n) → s.poolFull d = false → Answers (.heldNodeEnterPool d) s fun t =>
      ∃ m, t.node? k = some m ∧ m.stage = .ready ∧ m.level = n.prio ∧ m.since = (s.die d).ticks)
    ∧ (∀ k n, s.nextAging d = some (k, n) → Answers (.nodeAging d k) s fun t =>
      ∃ m, t.node? k = some m ∧ m.stage = .ready ∧ m.level = n.level - 1 ∧ m.since = n.since + s.ageQuantum)
    ∧ (∀ k n, s.poolHead d = some (k, n) → s.nextAging d = none → n.level ≤ 3 → Answers (.dieDistributorTake d) s fun t =>
      ∃ m, t.node? k = some m ∧ m.stage = .distributing ∧ m.untaken = [(d, 0, n.gridx * n.gridy * n.gridz)])
    ∧ (∀ cl k lo hi n kern ck, cl < 8 → s.spreading d = [] → s.nextChunk (8 * d + cl) = some ((k, lo, hi), n) →
        s.readKernel ((8 * d + cl) / 8) n.ctx n.image = some kern →
        maxOn (fun ck => s.heldBytes ck n.ctx lo n.ops) (s.openCores (8 * d + cl) kern) = some ck →
      Answers (.chunkPlace d cl) s fun t => ∃ tm, t.team? s.nextId = some tm ∧ tm.node = k ∧ tm.index = lo ∧ tm.stage = .placed ∧ tm.kernel = kern
        ∧ tm.x = lo % n.gridx ∧ tm.y = lo / n.gridx % n.gridy ∧ tm.z = lo / n.gridx / n.gridy ∧ tm.die = ck / 96 ∧ tm.core = ck % 96)
    ∧ (∀ cl other k lo hi, cl < 8 → other ≠ 8 * d + cl → (s.cluster (8 * d + cl)).chunks = [] → s.stealFrom d cl = some (other, (k, lo, hi)) →
      Answers (.clusterSteal d cl) s fun t => (t.cluster (8 * d + cl)).chunks = [(k, hi - (hi - lo) / 2, hi)]
        ∧ (t.cluster other).chunks = (s.cluster other).chunks.map fun h => if h == (k, lo, hi) then (k, lo, hi - (hi - lo) / 2) else h)
    ∧ (∀ k n o lo hi, s.culvert.state = .up → s.poolSize d = 0 →
        minOn urgency ((s.spreading (1 - d)).filter fun p => p.2.dieSel == 2 && (p.2.untaken.all fun u => u.1 != d)
          && p.2.untaken.any fun u => u.2.1 + 2 ≤ u.2.2) = some (k, n) → n.untaken = [(o, lo, hi)] →
      exec (.crossDieSteal d) s
        = .next (s.setNode k { n with untaken := [(o, lo, hi - (hi - lo) / 2), (d, hi - (hi - lo) / 2, hi)] }))
    ∧ (∀ k t, s.saving d = false → (s.starved d).findSome? (s.victim d) = some (k, t) → s.team? k = some t → t.resident = true →
        t.saveReq = none → t.ending = none →
      Answers (.distributorPreempt d) s fun u => u.team? k = some { t with saveReq := some 0xD0 })

/-- 12_kernel R266, 04_group R101, 15_context R324, R326, R328, 11_barrier R258: a placed team whose core can take it is admitted
at the core's scratchpad offset and windows; a team that drains retires and its node has one team less; a save is requested, halts
the team, and writes its image in the lowest free slot or, without one, faults; a saved team comes back on a core that can take
it, a migrated one running, unless a check of its image faults its context. Forms that complete here: `teamAdmit`, `teamRetire`,
`saveRequest`, `teamHaltForSave`, `saveImageWrite`, `teamRestore`, `swapOut`. -/
def Obligations.TeamEvents : Prop :=
  ∀ (s : State) (tid : Nat) (t : Team), s.team? tid = some t →
    (∀ bases a ws, t.stage = .placed → s.ctxRuns (s.teamCtx t) = true → s.cleanWaits (coreKey t.die t.core) = false →
        s.plan (coreKey t.die t.core) t.kernel (t.kernel.groups.map (·.2)) = some (bases, a, ws) →
      Answers (.teamAdmit tid) s fun u => ∃ v, u.team? tid = some v ∧ v.stage = .admitted ∧ v.scratchBase = a ∧ v.windows = ws
        ∧ v.base = bases.getD (s.pick bases.length).1 0 ∧ v.scratch = t.scratch)
    ∧ (∀ n, s.canRetire tid = true → s.node? t.node = some n → 1 < n.live → SMap.sorted s.teams = true →
      Answers (.teamRetire tid) s fun u => u.team? tid = none ∧ (∀ p ∈ u.groups, p.2.team ≠ tid)
        ∧ u.node? t.node = some { n with live := n.live - 1 })
    ∧ (∀ r, r ∈ [0xD0, 0xD5, 0xD6] → t.resident = true → t.saveReq = none → t.ending = none →
      exec (.saveRequest tid r) s = .next (s.setTeam tid { t with saveReq := some r }))
    ∧ (∀ r, r ∉ [0xD0, 0xD5, 0xD6] → exec (.saveRequest tid r) s = .next s)
    ∧ (s.mayHalt tid = true → t.saveReq ≠ some 0xD6 ∨ s.swapEligible tid = true → t.ending = none → (∀ p ∈ s.groupsOf tid, p.2.halts = []) →
      Answers (.teamHaltForSave tid) s fun u =>
        ∃ v, u.team? tid = some v ∧ v.saveHalt = true ∧ v.stage = .saving (t.saveReq.getD 0xD0))
    ∧ (∀ r, s.mayImage tid = true → t.stage = .saving r →
      let img := s.image t ((s.teamGroups tid).map (·.2)) r
      (s.saveSlot (s.teamCtx t) img.length = none → Answers (.saveImageWrite tid) s fun u =>
          u.team? tid = some { t with saveFault := true, migrateTo := none, swapMons := [] })
      ∧ (∀ slot pa, s.saveSlot (s.teamCtx t) img.length = some (slot, pa) → (crosses t.die pa && !s.culvertOpen) = false →
            s.cleanWaits (coreKey t.die t.core) = false → s.faulty pa img.length = false →
          Answers (.saveImageWrite tid) s fun u => (∃ v, u.team? tid = some v ∧ v.stage = .saved ∧ v.slotUsed = some slot)
            ∧ ∀ p ∈ u.groups, p.2.team ≠ tid))
    ∧ (∀ d c pa, d < 2 → c < 96 → (s.restorable.any fun p => p.1 == tid) = true → (crosses d pa && !s.culvertOpen) = false →
      s.cleanWaits (coreKey d c) = false →
      (∀ bases a ws, s.savedAt t = some (pa, none) → s.restorePlan (coreKey d c) t = some (bases, a, ws) → t.pendFlt = [] →
        Answers (.teamRestore tid d c) s fun u => ∃ v, u.team? tid = some v ∧ v.stage = (if t.migrateTo.isSome then .running else .admitted)
          ∧ v.die = d ∧ v.core = c ∧ v.scratchBase = a ∧ v.slotUsed = none)
      ∧ (∀ cause, s.savedAt t = some (pa, some cause) → exec (.teamRestore tid d c) s = .next (s.ctxFault t d c cause)))
    ∧ (s.maySwap tid = true → t.ending = none → exec (.swapOut tid) s = .next (s.setTeam tid { t with saveReq := some 0xD6 }))

/-- 04_group R80-R82, R89, R90, 08_page R195, 11_barrier R263, 15_context R318, R323, 16_watch R332: the scheduler starts the
clause of the threads that it chooses, or lets a blocked issue group go on; an operation that completes writes its registers with what
it has fetched (the entry of its sluice queue, 12_kernel R271; the record or the head of its bucket, 17_sample R363, R364) and fills
its entries, and the other registers stay; a group that waits for a handler set enters its handler; a region that is open for 8,192 cycles traps with
`0x85`; 64 cycles of an allocation deadlock deny a lone team's `GROW`s; an action with skid lands; the oldest record of a die goes
to the ring; a team that has reached its time limit is reported, in one record of cause `0xD7` and RKIND 6. Forms that complete here: `clauseIssue`, `longLatencyComplete`,
`handlerEntry`, `nprOverrun`, `allocationDeadlock`, `watchHaltLand`, `reportRecordWrite`, `teamTimeLimit`. -/
def Obligations.GroupEvents : Prop :=
  ∀ (s : State) (d c slot : Nat) (g : Group), d < 2 → c < 96 → slot < 48 →
    let gk := groupKey d c slot
    s.group? gk = some g →
    (∀ pc m t h u, s.ig? (gkPart gk) = none → s.chosen gk g = some (pc, m) → s.team? g.team = some t → s.mayGo gk g = true →
        (∀ ig ∈ g.susp, ig.block ≠ some .anew) →
        (s.countPassed gk).reachCheck gk t (g.thread (lowLane m)).viaBranch pc = (.go h, u) →
      let m' := if pc.2 = 0 then u.passHeader gk g m pc.1 h true else m
      m' ≠ 0 →
      Answers (.clauseIssue d c slot 0) s fun v => v.focus = some (gkPart gk)
        ∧ v.ig? (gkPart gk) = some (IssueGroup.form (gkSlot gk) m' pc.1 pc.2 (hdrClass h) (hdrCount h) (hdrConv h)))
    ∧ (∀ k t ig, s.ig? (gkPart gk) = none → g.susp[k]? = some ig → s.team? g.team = some t → s.mayResume gk g t ig = true →
        s.givesWay gk g = false →
      Answers (.clauseIssue d c slot (k + 1)) s fun v => v.focus = some (gkPart gk) ∧ v.ig? (gkPart gk) = some ig
        ∧ v.group? gk = some { g with susp := g.susp.eraseIdx k, yielded := false, passed := 0 })
    ∧ (∀ o op t, g.ops.find? (fun o => o.id == op) = some o → s.team? g.team = some t →
      let done := fun (P : Group → Prop) => Answers (.longLatencyComplete d c slot op) s fun v => ∃ h, v.group? gk = some h
        ∧ h.ops = g.ops.filter (·.id != op) ∧ h.fx = g.fx ||| fxUnion o.fx ∧ h.s = g.s
        ∧ (∀ n ∈ o.dests, ∀ en, SMap.get? h.v n = some en → en.full = true) ∧ P h
      let lands := fun (h : Group) (word : Nat → Nat → W32) => ∀ n ∈ o.dests, n < 192 → (∀ k ∈ o.dests, k % 256 = n → k = n) → ∀ l, l < 32 →
        Lanes.at (h.readV n) l = if o.mask.getLsbD l then word l n else Lanes.at (g.readV n) l
      (o.wait = .ready → done fun h =>
        (∀ n m vals, (n, m, vals) ∈ o.writes → n ∈ o.dests → n < 192 → (∀ w ∈ o.writes, w.1 % 256 = n → w = (n, m, vals)) → ∀ l, l < 32 →
          Lanes.at (h.readV n) l = if m.getLsbD l then Lanes.at vals l else Lanes.at (g.readV n) l)
        ∧ ∀ n, n ∉ o.dests → (∀ w ∈ o.writes, w.1 % 256 ≠ n) → SMap.get? h.v n = SMap.get? g.v n)
      ∧ (o.wait = .replies → s.replyPending gk op = false → done fun h => ∀ n, n ∉ o.dests → SMap.get? h.v n = SMap.get? g.v n)
      ∧ (∀ q a b c' d' r, o.wait = .sluice q → g.ops.find? (fun p => p.wait == .sluice q) = some o → (g.queue q).items = (a, b, c', d') :: r →
        done fun h => h.queue q = { g.queue q with items := r, taken := (g.queue q).taken - 1 }
          ∧ lands h fun _ n => [a, b, c', d'].getD (n % 4) 0)
      ∧ (∀ l tile rank, o.wait = .sld [(l, (tile, rank))] → l < 32 → o.mask = laneBit l → s.readReady d t tile = true →
        done fun h => lands h fun _ n => BitVec.ofNat 32 (leNat (((recBytes (s.bucketRecord d tile rank)).drop (4 * (n % 8))).take 4)))
      ∧ (∀ a b l tile, o.wait = .sbkt a b [(l, tile)] → l < 32 → o.mask = laneBit l → s.readReady d t tile = true →
        done fun h => lands h fun _ n => BitVec.ofNat 32 (leNat (((bytesOfWord (s.bucketHead d tile)).drop (4 * (n % 2))).take 4))))
    ∧ (∀ k f r t h, s.mayEnter gk = some k → g.entering = f :: r → s.team? g.team = some t → s.handlerOf t = some h →
      exec (.handlerEntry d c slot) s = .next (s.setGroup gk ({ g with entering := r }.enter f k h)))
    ∧ (∀ n, g.region = some n → 8192 ≤ n →
      exec (.nprOverrun d c slot) s = .next ((s.setGroup gk { g with region := none }).asyncTrap gk 0x85))
    ∧ (∀ p, gkPart gk = p + 4 * coreKey d c → 64 ≤ SMap.getD (s.core (coreKey d c)).deadlock (gkPart gk) 0 → p < 4 →
        (∃ q, s.teamsIn (gkPart gk) = [q]) →
      Answers (.allocationDeadlock d c p) s fun v => v.teams = s.teams ∧ v.mem = s.mem
        ∧ ∃ h, v.group? gk = some h ∧ h.susp = g.susp.map fun ig => if ig.block == some .grow then { ig with was := ig.mask } else ig)
    ∧ (∀ l h, l < 32 → g.landing l = [h] →
      exec (.watchHaltLand d c slot l) s = .next
        (let u := (s.setGroup gk { g with halts := g.halts.filter fun k => !([h] : List PendHalt).contains k }).setSkids (gkCore gk)
          [(h.pred, h.skid - 1)]
         if h.act = 4 then u.laneTrap gk 0xC1 (laneBit h.lane)
         else u.haltScope gk (laneBit h.lane) h.act { cause := 0xC0, pred := h.pred, skid := h.skid - 1 }))
    ∧ (∀ r rest n, (s.die d).reports = r :: rest → s.canReport d = true → s.rqSize = some n → s.memWf → SMap.sorted s.regs = true →
      Answers (.reportRecordWrite d) s fun v => (v.die d).reports = rest
        ∧ v.bytes (s.base 0x224 + 32 * (s.rf 0x226 0 16 % n)) 32 = r.bytes
        ∧ v.raw 0x226 = BitVec.ofNat 64 ((s.rf 0x226 0 16 + 1) % n))
    ∧ (s.limitDue g.team = true → g.allExited = false → Answers (.teamTimeLimit g.team) s fun v => v.seq = s.seq + 1
        ∧ (∃ tm, v.team? g.team = some tm ∧ tm.limited = true ∧ tm.limitSeq = some s.seq.toNat)
        ∧ ∃ k r, (v.die k).reports = (s.die k).reports ++ [r] ∧ fld r.w0 52 8 = 0xD7 ∧ fld r.w3 56 8 = 6 ∧ fld r.w3 32 16 = s.seq.toNat % 65536)
    ∧ (s.limitDue g.team = false → exec (.teamTimeLimit g.team) s = .next s)

/-- 17_sample R345, R349, R350, R355, R356, R358, R367, 18_link R383: records arrive at their buckets; low-water marks are sent
and arrive; a closed wave is written; a wait limit lets a band's reads proceed; at its deadline a band that has retired is shown
and one that has not is late; a scan starts, and an output that is ACTIVE reads the band's shown copy, from a band 0 on (18_link R384,
R385); the next period begins. Forms that complete here: `sampleInsertion`,
`xeyeReceive`, `lowWaterMarkSend`, `lowWaterMarkArrival`, `waveWrite`, `waitLimitExpiry`, `bandDeadline`, `startOfScan`,
`bandPeriodBoundary`. -/
def Obligations.SampleEvents : Prop :=
  ∀ (s : State) (d : Nat), d < 2 →
    (∀ i, (s.die d).insertions = [i] → (s.bucket d (recTile i.smp)).owner = none → s.cut d = false →
        (s.bucket d (recTile i.smp)).live = [] → (s.bucket d (recTile i.smp)).deferred = [] → 1 ≤ (s.bucket d (recTile i.smp)).limit →
      Answers (.sampleInsertion d) s fun t => (t.die d).insertions = [] ∧ (t.bucket d (recTile i.smp)).live = [i.smp])
    ∧ (∀ i r, (s.die d).xeyes = i :: r → s.culvertOpen = true →
      Answers (.xeyeReceive d) s fun t => (t.die d).xeyes = r ∧ t.mem = s.mem)
    ∧ (s.canSendMark d = true → Answers (.lowWaterMarkSend d) s fun t => (t.die d).lowSent = s.lowMark d
        ∧ (t.die (1 - d)).lowPending = (s.die (1 - d)).lowPending ++ [(s.lowMark d, (s.die (1 - d)).xeyes.length)])
    ∧ (∀ m r, (s.die d).lowPending = (m, 0) :: r → s.culvertOpen = true →
      exec (.lowWaterMarkArrival d) s = .next (s.modDie d fun x => { x with lowPeer := m, lowPending := r }))
    ∧ (∀ w rest p u, (s.die d).waves = w :: rest → s.canWave d = true →
        s.deviceTranslate d (s.smpCtx d) (s.base (0x70A + d) + 512 * s.waveSlot d w.num) 1 = (.ok p, u) →
        (u.raw (0x706 + 2 * d + b2n w.kind)).getLsbD 0 = false → u.memWf →
      Answers (.waveWrite d) s fun t => t.bytes p.pa 512 = w.bytes ∧ (t.die d).waves = rest)
    ∧ (s.canExpire d = true →
      exec (.waitLimitExpiry d) s = .next (s.modBand d (s.die d).period fun b => { b with waitPassed := true }))
    ∧ ((s.die d).phase = 0 → s.periodOver d = true → SMap.sorted (s.die d).shown = true →
      let q := (s.die d).period
      let b := (s.die d).band q
      Answers (.bandDeadline d) s fun t => (t.die d).phase = 1 ∧ (t.die d).period = q
        ∧ t.shownIdx d (q % 240) = (if b.due && b.retired then 1 - s.shownIdx d (q % 240) else s.shownIdx d (q % 240))
        ∧ (t.die d).lateBands = (s.die d).lateBands + (if b.due && !b.retired then 1 else 0))
    ∧ ((s.die d).phase = 1 →
      let b := (s.die d).period % 240
      let on := (s.die d).dispOn == 2 && ((s.die d).scanning || b == 0)
      exec (.startOfScan d) s
        = .next (s.modDie d fun x => { x with phase := 2, scanning := on, scan := if on then some (b, s.shownCells d b) else none }))
    ∧ ((s.die d).phase = 2 → Answers (.bandPeriodBoundary d) s fun t => (t.die d).phase = 0
        ∧ (t.die d).periodStart = (s.die d).periodStart + periodLen (s.die d).rate ∧ (t.die d).boundaries = (s.die d).boundaries + 1)

/-- 09_memory R202, 14_column R296, R300-R308: a dirty line of a column cache goes home; a sample of a sensor that passes every
check is its effective value; failed sensors come back as suspects, others stay; the power model's update, the cap's interval in
tournament mode (log entry 48: the mean of the columns' updates over the interval), the droop response of a cluster's
clock: an alarm starts a stretch, during a hold too, and in a stretch it starts no other; and a lender's windows. Forms that complete here: `columnWriteback`,
`sensorSample`, `sensorRearm`, `powerModelUpdate`, `powerCapInterval`, `droopAlarmRise`, `droopAlarmClear`, `stretchEnd`,
`holdEnd`, `bermReclaim`. -/
def Obligations.ColumnEvents : Prop :=
  ∀ (s : State) (d c cl : Nat), d < 2 → c < 96 → cl < 8 →
    let ck := coreKey d c
    let col := s.column ck
    let k := 8 * d + cl
    (∀ line, (s.canClean ck line = true → exec (.columnWriteback d c line) s = .next (s.cleanColumn ck fun a => lineOf a == line))
        ∧ (s.canClean ck line = false → exec (.columnWriteback d c line) s = .next s))
    ∧ (∀ u l, (s.die d).tripped = false → u < 1024 → l < 1024 → col.u.state = .ok → col.l.state = .ok → col.u.fails u col.est col.l.accepted = false →
        col.l.fails l col.est col.u.accepted = false →
      Answers (.sensorSample d c u l) s fun t => (t.column ck).u.eff = u ∧ (t.column ck).l.eff = l ∧ (t.column ck).u.state = .ok
        ∧ (t.column ck).l.state = .ok ∧ (t.column ck).u.accepted = some u ∧ (t.column ck).l.accepted = some l)
    ∧ (3 ≤ s.boot → s.endpointDown = false → Answers (.sensorRearm ck) s fun t =>
        (t.column ck).u = (if col.u.state = .failed then { col.u with state := .suspect 0 0 } else col.u)
        ∧ (t.column ck).l = (if col.l.state = .failed then { col.l with state := .suspect 0 0 } else col.l))
    ∧ (∀ mw est, (s.die d).tripped = false → mw < 65536 → est < 1024 → Answers (.powerModelUpdate d c mw est) s fun t => (t.column ck).mw = mw
        ∧ (t.column ck).est = est ∧ (t.die d).powerSum = (s.die d).powerSum + mw ∧ (t.die d).powerN = (s.die d).powerN + 1)
    ∧ (s.mode = true → Answers (.powerCapInterval d) s fun t => (t.die d).powerSum = 0 ∧ (t.die d).powerN = 0
        ∧ (t.die d).clockMhz = (s.die d).clockMhz
        ∧ ((t.die d).overCap = true ↔ s.rf (0x280 + d) 0 12 ≠ 0
          ∧ 1000 * s.rf (0x280 + d) 0 12 * max 1 (s.die d).powerN < 96 * (s.die d).powerSum))
    ∧ ((s.die d).tripped = false → (s.cluster k).alarm = false → (∀ left start, (s.cluster k).phase ≠ .stretch left start) →
      Answers (.droopAlarmRise d cl) s fun t => (t.cluster k).alarm = true ∧ (t.cluster k).phase = .stretch 32 (s.die d).ticks)
    ∧ (∀ left start, (s.die d).tripped = false → (s.cluster k).phase = .stretch left start →
      exec (.droopAlarmRise d cl) s = .next (if (s.cluster k).alarm then s else s.setCluster k { s.cluster k with alarm := true }))
    ∧ ((s.die d).tripped = false → exec (.droopAlarmClear d cl) s = .next (s.setCluster k { s.cluster k with alarm := false }))
    ∧ (∀ left start, (s.cluster k).phase = .stretch left start → left = 0 ∨ (left ≤ 28 ∧ (s.cluster k).alarm = false) →
      Answers (.stretchEnd d cl) s fun t => (t.cluster k).phase
        = if s.rf (0x250 + k) 0 16 = 0 then .normal else .hold (s.rf (0x250 + k) 0 16) true)
    ∧ ((s.die d).tripped = false → (s.cluster k).phase.held = true → exec (.holdEnd d cl) s = .next (s.setCluster k { s.cluster k with phase := .normal }))
    ∧ (s.lent ck ≠ 0 → Answers (.bermReclaim d c) s fun t =>
        ∀ p ∈ t.teams, p.2.resident = true → ∀ w ∈ p.2.windows, w.lender = ck → w.reclaimed = true ∧ w.data = [])
    ∧ (s.lent ck = 0 → exec (.bermReclaim d c) s = .next s)

/-- 18_link R381, R382, 19_trail R386, R387: the culvert's states: `TRAIN` and `RST`, the end of an attempt, loss of lock; a
request that has waited for the culvert as long as `CUL_WAIT` says, or that a reset of it has lost, ends, with the trap `0xE4` before
completion; the time bases are compared, and a PTM dialog gives the
host's time. Forms that complete here: `culvertTrain`, `culvertReset`, `culvertTrainingResult`, `culvertLossOfLock`,
`culvertWaitExpiry`, `timeBaseCompare`, `ptmDialog`. -/
def Obligations.LinkEvents : Prop :=
  ∀ (s : State),
    let bar0 := 3 ≤ s.boot ∧ s.endpointDown = false
    (bar0 → s.culvert.state ≠ .training → Answers .culvertTrain s fun t => t.culvert.state = .training ∧ t.culvert.tries = 0 ∧ t.mem = s.mem)
    ∧ (bar0 → s.culvert.state = .training → exec .culvertTrain s = .next s)
    ∧ (bar0 → Answers .culvertReset s fun t => t.culvert.state = .down ∧ (t.die 0).xeyes = [] ∧ (t.die 1).xeyes = [])
    ∧ (s.culvert.state = .training → (s.die 0).tripped = false → (s.die 1).tripped = false →
        (Answers (.culvertTrainingResult .allLanes) s fun t => t.culvert.state = .up)
        ∧ (Answers (.culvertTrainingResult .halfLanes) s fun t => t.culvert.state = .degraded)
        ∧ Answers (.culvertTrainingResult .fails) s fun t => t.culvert.state = if 2 ≤ s.culvert.tries then .failed else .training)
    ∧ (s.culvert.state = .up ∨ s.culvert.state = .degraded → Answers .culvertLossOfLock s fun t => t.culvert.state = .down ∧ t.mem = s.mem)
    ∧ (∀ gk g k ig d c slot, gk = groupKey d c slot → d < 2 → s.group? gk = some g → s.runnable gk g = true → s.culLate g = some (k, ig) →
      Answers (.culvertWaitExpiry d c slot) s fun t => ∃ u : State, t = u.takeTrap gk (lateTrap ig)
        ∧ ∃ h : Group, u.group? gk = some h ∧ h.susp = g.susp.eraseIdx k)
    ∧ (∀ gk g pc m d c slot, gk = groupKey d c slot → d < 2 → s.group? gk = some g → s.runnable gk g = true → s.culLate g = none →
        s.culLateAt g = some (pc, m) →
      exec (.culvertWaitExpiry d c slot) s = .next (s.trapAtPc gk m pc 0xE4 0 0 0))
    ∧ (∀ k, s.hostLate = some k → exec (.culvertWaitExpiry 2 0 0) s
        = .next (({ s with hostQueue := s.hostQueue.eraseIdx k } : State).send .abort))
    ∧ (s.culvertOpen = true → s.endpointDown = false → (s.die 1).tripped = false → SMap.sorted s.regs = true →
      let l := (s.die 0).ticks
      let r := (s.die 1).ticks
      Answers .timeBaseCompare s fun t => t.tbNext = l + usTicks 10 ∧ fld (t.raw 0x781) 0 16 = (r + 65536 - l % 65536) % 65536
        ∧ ((t.raw 0x781).getLsbD 16 = true ↔ l ≤ r + 1 ∧ r ≤ l + 1)
        ∧ (l ≤ r + 1 ∧ r ≤ l + 1 → t.slew = s.slew) ∧ (r + 1 < l → t.slew = some (true, 0)) ∧ (l + 1 < r → t.slew = some (false, 0)))
    ∧ (∀ ns, s.endpointDown = false → (s.raw 0x782).getLsbD 0 = true → s.ptmDue = true → SMap.sorted s.regs = true →
      Answers (.ptmDialog ns) s fun t => t.raw 0x783 = ns ∧ t.raw 0x784 = BitVec.ofNat 64 (s.die 0).ticks
        ∧ fld (t.raw 0x782) 32 32 = (fld (s.raw 0x782) 32 32 + 1) % 4294967296 ∧ (t.raw 0x782).getLsbD 16 = true)
    ∧ (∀ ns, (s.raw 0x782).getLsbD 0 = false ∨ s.ptmDue = false → exec (.ptmDialog ns) s = .next s)

/-- 18_link R385: the states of a display output, 0 off, 1 training, 2 on, 3 failed. Forms that complete here: `displayEnable`,
`displayDisable`, `displayRetrain`, `displayTrainingResult`, `displayLinkLoss`. -/
def Obligations.DisplayEvents : Prop :=
  ∀ (s : State) (d : Nat), d < 2 → (s.die d).tripped = false →
    let st := (s.die d).dispOn
    let goes := fun (i : Instr) (n : Nat) => Answers i s fun t => (t.die d).dispOn = n
    (3 ≤ s.boot → s.endpointDown = false →
      goes (.displayEnable d) (if st = 0 then 1 else st) ∧ goes (.displayDisable d) 0 ∧ goes (.displayRetrain d) (if st = 3 then 1 else st))
    ∧ (∀ ok, goes (.displayTrainingResult d ok) (if st = 1 then (if ok then 2 else 3) else st))
    ∧ goes (.displayLinkLoss d) (if st = 2 then 3 else st)

/-- 18_link R375-R378, 19_trail R394-R396: requests of the host on BAR 2 that nothing holds back read, write and add to memory;
BAR 4 and the referee port answer; a quote is signed while no other is; an unmasked vector that is pending is sent; a record of
the input window goes into its ring, stamped with its arrival, and TAIL counts it. The model's choices: an AtomicOp that is not
aligned is Unsupported, and a request is performed whole (log entry 56); `GET_CERT` and `GET_WINDOW` are refused as busy while a quote
is signed (log entry 57). Forms that complete here: `bar2Read`, `bar2Write`, `bar2Atomicop`, `bar4Read`,
`getQuote`, `getCert`, `getWindow`, `quoteResponse`, `msixUnmaskSend`, `inputCommit`, `measExtend`. -/
def Obligations.HostRequests : Prop :=
  ∀ (s : State), s.endpointDown = false → s.hostQueue = [] →
    (∀ off n, s.bar2Refuse off n = none → s.hostCut off n = false →
      Answers (.bar2Read off n) s fun t => t.mem = s.mem ∧ t.hostQueue = [] ∧ t.hostOut
        = s.hostOut ++ [if (s.homePoison off n).isSome then .poisoned (s.bytes off n) else .data (s.bytes off n)])
    ∧ (∀ off bs, s.bar2Refuse off bs.length = none → s.hostCut off bs.length = false → s.memWf →
      Answers (.bar2Write off bs) s fun t => t.bytes off bs.length = bs ∧ t.hostOut = s.hostOut
        ∧ ∀ a, a < off ∨ off + bs.length ≤ a → t.byte a = s.byte a)
    ∧ (∀ off op a b,
      let n := hostOpBytes op
      let old := leNat (s.bytes off n)
      let a' := a.toNat % (1 <<< (8 * n))
      s.bar2Refuse off n = none → off % n = 0 → s.hostCut off n = false → s.homePoison off n = none → s.memWf →
      Answers (.bar2Atomicop off op a b) s fun t => t.hostOut = s.hostOut ++ [.data (s.bytes off n)]
        ∧ leNat (t.bytes off n) = match op with
          | .fetchAdd32 | .fetchAdd64 => (old + a') % (1 <<< (8 * n))
          | .swap32 | .swap64 => a'
          | .cas32 | .cas64 => if old = a' then b.toNat % (1 <<< (8 * n)) else old)
    ∧ (∀ off op a b, s.bar2Refuse off (hostOpBytes op) = none → off % hostOpBytes op ≠ 0 →
      exec (.bar2Atomicop off op a b) s = .next (s.send .unsupported))
    ∧ (∀ off n m, s.bar2Refuse off n = some m → exec (.bar2Read off n) s = .next (s.send m))
    ∧ (∀ off, 3 ≤ s.boot → exec (.bar4Read off) s = .next (s.send (.data (bytesOfWord (s.refereeWord off)))))
    ∧ (∀ nonce mask, 3 ≤ s.boot → s.quote = none → exec (.getQuote nonce mask) s = .next { s with quote := some (s.quoteMessage nonce mask) })
    ∧ (3 ≤ s.boot → s.quote = none → exec .getCert s = .next (s.send (.data Config.certificate)))
    ∧ (∀ off, 3 ≤ s.boot → s.quote = none → exec (.getWindow off) s = .next (s.send (.data (bytesOfWord (s.refereeWord off)))))
    ∧ (3 ≤ s.boot → s.quote.isSome = true → exec .getCert s = .next (s.send .busy))
    ∧ (∀ m, s.quote = some m → exec .quoteResponse s = .next (({ s with quote := none } : State).send (.quote (quoteOf m))))
    ∧ (∀ v, s.canSendVec v = true → Answers (.msixUnmaskSend v) s fun t => t.hostOut = s.hostOut ++ [.msix v] ∧ v ∉ t.msixPend)
    ∧ (∀ w, 3 ≤ s.boot → s.inputRing = true → s.inputCut = false → s.memWf → SMap.sorted s.regs = true → SMap.sorted s.window = true →
      let record := (List.range 48).map (SMap.getD s.window · 0) ++ bytesOfWord w ++ leBytes 8 (s.die 0).ticks
      let log := s.rf 0x786 0 5
      let tr := s.base 0x786 + 32 * ((s.die 0).trailSeq % (1 <<< log))
      let apart := fun (a : Nat) => log < 8 ∨ 20 < log ∨ a < tr ∨ tr + 32 ≤ a
      Answers (.inputCommit w) s fun t => t.rf 0x745 0 32 = (s.rf 0x745 0 32 + 1) % 4294967296 ∧ t.hostQueue = []
        ∧ (∀ k, k < 64 → apart (s.inputSlot + k) → t.byte (s.inputSlot + k) = record.getD k 0)
        ∧ ∀ a, a < s.inputSlot ∨ s.inputSlot + 64 ≤ a → apart a → t.byte a = s.byte a)
    ∧ (3 ≤ s.boot → exec .measExtend s = .next s.measExtend)

/-- 00_scope R4, 01_device R17, 08_page R193, 14_column R302, 18_link R373, R374: what writes of registers do: `TMODE` and `SCENE_EPOCH`
wait for their boundary (that a second write of the epoch keeps the E before the first is log entry 37), quotas and thresholds in
their range are written, refused ones leave their fields as they were, and a write of BAR 0 of 4 or 8 bytes reaches the half or the
whole of the register at its offset; another size is an Unsupported Request. Forms that complete here: `tmodeWrite`, `sceneEpochWrite`, `l2QuotaWrite`, `drpThrWrite`, `registerWrite`. -/
def Obligations.RegisterWrites : Prop :=
  ∀ (s : State), 3 ≤ s.boot → s.endpointDown = false → SMap.sorted s.regs = true → s.regWaits = [] →
    (∀ v : Word, v.getLsbD 0 ≠ s.mode → Answers (.tmodeWrite v) s fun t => t.mode = s.mode ∧ t.raw 0x785 = v &&& 1
        ∧ t.modeWait = some { val := v &&& 1, written := s.now, back := none, due := false, first := none })
    ∧ (∀ v : Word, v.getLsbD 0 = s.mode → Answers (.tmodeWrite v) s fun t => t.mode = s.mode ∧ t.modeWait = none)
    ∧ (∀ v : Word, s.epochWait = none → Answers (.sceneEpochWrite v) s fun t => t.epochWait
        = some { val := s.raw 0x712, written := s.now, back := none, due := false, first := none })
    ∧ (∀ (n : Nat) (v : Word), n < 32 → 16 < fld v 0 5 →
      Answers (.l2QuotaWrite n v) s fun t => (t.raw (0x200 + n)).getLsbD 31 = true ∧ fld (t.raw (0x200 + n)) 0 5 = fld (s.raw (0x200 + n)) 0 5)
    ∧ (∀ (n : Nat) (v : Word), n < 32 → fld v 0 5 ≤ 16 → fld v 8 5 ≤ 16 → fld v 16 5 ≤ 16 → fld v 0 5 + fld v 8 5 + fld v 16 5 ≤ 16 →
      Answers (.l2QuotaWrite n v) s fun t => fld (t.raw (0x200 + n)) 0 5 = fld v 0 5 ∧ fld (t.raw (0x200 + n)) 8 5 = fld v 8 5
        ∧ fld (t.raw (0x200 + n)) 16 5 = fld v 16 5)
    ∧ (∀ (n : Nat) (v : Word), n < 16 → 10 ≤ fld v 0 7 → fld v 0 7 ≤ 120 →
      Answers (.drpThrWrite n v) s fun t => fld (t.raw (0x240 + n)) 0 7 = fld v 0 7)
    ∧ (∀ (n : Nat) (v : Word), n < 16 → fld v 0 7 < 10 →
      Answers (.drpThrWrite n v) s fun t => (t.raw (0x240 + n)).getLsbD 7 = true ∧ fld (t.raw (0x240 + n)) 0 7 = fld (s.raw (0x240 + n)) 0 7)
    ∧ (∀ (off size : Nat) (v : Word), (size = 4 ∨ size = 8) → off % size = 0 → off < 0x8000 → off / 8 ≠ 0x7C0 → off / 8 ≠ 0x7C1 →
      exec (.registerWrite off size v) s = .next (s.hostReg (off / 8) (if off % 8 = 4 then v <<< 32 else v &&& halfMask off size) (halfMask off size)))
    ∧ (∀ (off size : Nat) (v : Word), (size ≠ 4 ∧ size ≠ 8) ∨ off % size ≠ 0 → exec (.registerWrite off size v) s = .next (s.send .unsupported))

/-- 20_bringup R399-R401, 15_context R329: a reset brings the machine to boot stage 1 with every register at its reset value, but
for a trip bit whose sensor is hot; that it keeps memory (log entry 10), of which power on clears the device's (log entry 2), is the
model's choice. A Function Level Reset is a configuration request, which before boot stage 2 has ended is retried. Each stage that
succeeds leads to the next, and a failure stays in its stage with an error (log entry 62: no stage begins while a die is halted); a trip halts its die; a double-bit error poisons its unit, a single-bit one
is counted. Forms that complete here: `powerOn`, `bootReset`, `functionLevelReset`, `bootStage1`, `bootStage2`, `bootStage3`,
`bootStage4`, `bootStage5`, `bootStage6`, `junctionTrip`, `softError`. -/
def Obligations.BootAndErrors : Prop :=
  ∀ (s : State),
    (∀ i, i = .powerOn false false ∨ i = .bootReset false false ∨ (i = .functionLevelReset false false ∧ s.configOpen = true) → Answers i s fun t =>
      t.boot = 1 ∧ t.bootErr = 0 ∧ (∀ n r, regDesc n = some r → t.raw n = r.reset) ∧ t.teams = [] ∧ t.groups = [] ∧ t.culvert.state = .down
        ∧ t.mem = if i = .powerOn false false then s.mem.filter fun c => isHost c.1 else s.mem)
    ∧ (∀ a b, s.configOpen = false → exec (.functionLevelReset a b) s = .next (s.send .retry))
    ∧ (s.bootErr = 0 → (s.die 0).tripped = false → (s.die 1).tripped = false →
      (s.boot = 1 → exec (.bootStage1 true false false) s = .next { s with boot := 2 })
      ∧ (s.boot = 2 → let m : State := { s.extendBoot 0 with awake := true }
          exec (.bootStage2 false) s = .next { m with bootErr := 1 } ∧ exec (.bootStage2 true) s = .next { m.extendBoot 1 with boot := 3 })
      ∧ (s.boot = 3 → exec (.bootStage3 true true) s = .next { s with boot := 4, memUp := [0, 1] }
          ∧ exec (.bootStage3 true false) s = .next { s with bootErr := 2, bootDie := 1, memUp := [0] }
          ∧ exec (.bootStage3 false true) s = .next { s with bootErr := 2, bootDie := 0, memUp := [1] }
          ∧ exec (.bootStage3 false false) s = .next { s with bootErr := 2, bootDie := 0, memUp := [] })
      ∧ (s.boot = 4 → Answers .bootStage4 s fun t => t.boot = 5 ∧ t.culvert.state = .training)
      ∧ (s.boot = 5 → exec (.bootStage5 true) s = .next { s.extendBoot 4 with boot := 6 }
          ∧ exec (.bootStage5 false) s = .next { s with bootErr := 3 })
      ∧ (s.boot = 6 → (Answers (.bootStage6 true) s fun t => t.boot = 7 ∧ t.teams = s.teams)
          ∧ exec (.bootStage6 false) s = .next { s with bootErr := 3 }))
    ∧ (∀ d, d < 2 → (s.die d).tripped = false → s.culvert.state = .down → SMap.sorted s.regs = true →
      Answers (.junctionTrip d) s fun t => (t.die d).tripped = true ∧ (t.raw 0x7C0).getLsbD (6 + d) = true
        ∧ t.hostOut = s.hostOut ++ [.tripAlert d])
    ∧ (∀ e, (s.errField e).1 < 2 → (s.die (s.errField e).1).tripped = false →
      (exec (.softError e true) s = .next { s with marks := errUnit e :: s.marks.filter fun m => m != errUnit e })
      ∧ (SMap.sorted s.regs = true → Answers (.softError e false) s fun t => t.marks = s.marks
          ∧ t.rf (0x290 + (s.errField e).1) (s.errField e).2 16 = min 65535 (s.rf (0x290 + (s.errField e).1) (s.errField e).2 16 + 1)))
end

