-- ==== Sys2Proof/Laws/SMap.lean ====
section
/-! SUPPORT. Laws of sparse maps: reading after a write and after an erasure, and the canonical form that every operation
keeps; laws of lane vectors and masks. -/

namespace Sys2Proof.Machine

namespace SMap

variable {α : Type}

@[simp] theorem get?_set_same (m : SMap α) (k : Nat) (v : α) : get? (set m k v) k = some v := by
  induction m with
  | nil => simp [set, get?]
  | cons p r ih =>
    obtain ⟨j, u⟩ := p
    by_cases h1 : k < j
    · simp [set, h1, get?]
    · by_cases h2 : j = k
      · simp [set, h2, get?]
      · simp [set, h1, h2, get?, ih]

theorem get?_set_other (m : SMap α) {k i : Nat} (v : α) (h : i ≠ k) : get? (set m k v) i = get? m i := by
  induction m with
  | nil => simp [set, get?, Ne.symm h]
  | cons p r ih =>
    obtain ⟨j, u⟩ := p
    by_cases h1 : k < j
    · simp [set, h1, get?, Ne.symm h]
    · by_cases h2 : j = k
      · subst h2; simp [set, get?, Ne.symm h]
      · simp [set, h1, h2, get?, ih]

theorem get?_set (m : SMap α) (k i : Nat) (v : α) : get? (set m k v) i = if i = k then some v else get? m i := by
  by_cases h : i = k
  · simp [h]
  · simp [h, get?_set_other m v h]

/-- Every key of a map lies above `k`. -/
def above (k : Nat) (m : SMap α) : Prop := ∀ p ∈ m, k < p.1

theorem sorted_cons {k : Nat} {v : α} {m : SMap α} : sorted ((k, v) :: m) = true ↔ above k m ∧ sorted m = true := by
  induction m generalizing k v with
  | nil => simp [sorted, above]
  | cons p r ih =>
    obtain ⟨j, u⟩ := p
    have e : sorted ((k, v) :: (j, u) :: r) = true ↔ k < j ∧ sorted ((j, u) :: r) = true := by simp [sorted]
    rw [e]
    constructor
    · rintro ⟨h1, h2⟩
      refine ⟨?_, h2⟩
      intro q hq
      cases hq with
      | head => exact h1
      | tail _ hq => exact Nat.lt_trans h1 ((ih.mp h2).1 q hq)
    · rintro ⟨h1, h2⟩
      exact ⟨h1 (j, u) (List.mem_cons_self ..), h2⟩

theorem get?_none_of_above {k : Nat} {m : SMap α} (h : above k m) : get? m k = none := by
  induction m with
  | nil => rfl
  | cons p r ih =>
    obtain ⟨j, u⟩ := p
    have hj : k < j := h (j, u) (List.mem_cons_self ..)
    have hr : above k r := fun q hq => h q (List.mem_cons_of_mem _ hq)
    simp [get?, Nat.ne_of_gt hj, ih hr]

theorem above_set {b k : Nat} {v : α} {m : SMap α} (h : above b m) (hk : b < k) : above b (set m k v) := by
  induction m with
  | nil => intro q hq; simp [set] at hq; simp [hq, hk]
  | cons p r ih =>
    obtain ⟨j, u⟩ := p
    have hj : b < j := h (j, u) (List.mem_cons_self ..)
    have hr : above b r := fun q hq => h q (List.mem_cons_of_mem _ hq)
    intro q hq
    unfold set at hq
    split at hq
    · simp only [List.mem_cons] at hq
      rcases hq with rfl | rfl | hq
      · exact hk
      · exact hj
      · exact hr q hq
    · split at hq
      · simp only [List.mem_cons] at hq
        rcases hq with rfl | hq
        · exact hk
        · exact hr q hq
      · simp only [List.mem_cons] at hq
        rcases hq with rfl | hq
        · exact hj
        · exact ih hr q hq

theorem above_erase {b k : Nat} {m : SMap α} (h : above b m) : above b (erase m k) := by
  induction m with
  | nil => exact h
  | cons p r ih =>
    obtain ⟨j, u⟩ := p
    have hr : above b r := fun q hq => h q (List.mem_cons_of_mem _ hq)
    unfold erase
    split
    · exact hr
    · intro q hq
      simp only [List.mem_cons] at hq
      rcases hq with rfl | hq
      · exact h (j, u) (List.mem_cons_self ..)
      · exact ih hr q hq

theorem sorted_set {k : Nat} {v : α} {m : SMap α} (h : sorted m = true) : sorted (set m k v) = true := by
  induction m with
  | nil => simp [set, sorted]
  | cons p r ih =>
    obtain ⟨j, u⟩ := p
    obtain ⟨ha, hs⟩ := sorted_cons.mp h
    unfold set
    split
    · rename_i hlt
      refine sorted_cons.mpr ⟨?_, h⟩
      intro q hq
      simp only [List.mem_cons] at hq
      rcases hq with rfl | hq
      · exact hlt
      · exact Nat.lt_trans hlt (ha q hq)
    · split
      · rename_i he
        subst he
        exact sorted_cons.mpr ⟨ha, hs⟩
      · rename_i h1 h2
        exact sorted_cons.mpr ⟨above_set ha (by omega), ih hs⟩

theorem sorted_erase {k : Nat} {m : SMap α} (h : sorted m = true) : sorted (erase m k) = true := by
  induction m with
  | nil => exact h
  | cons p r ih =>
    obtain ⟨j, u⟩ := p
    obtain ⟨ha, hs⟩ := sorted_cons.mp h
    unfold erase
    split
    · exact hs
    · exact sorted_cons.mpr ⟨above_erase ha, ih hs⟩

theorem get?_erase_other (m : SMap α) {k i : Nat} (h : i ≠ k) : get? (erase m k) i = get? m i := by
  induction m with
  | nil => rfl
  | cons p r ih =>
    obtain ⟨j, u⟩ := p
    by_cases h2 : j = k
    · subst h2; simp [erase, get?, Ne.symm h]
    · simp [erase, h2, get?, ih]

theorem get?_erase_same {m : SMap α} (k : Nat) (h : sorted m = true) : get? (erase m k) k = none := by
  induction m with
  | nil => rfl
  | cons p r ih =>
    obtain ⟨j, u⟩ := p
    obtain ⟨ha, hs⟩ := sorted_cons.mp h
    by_cases h2 : j = k
    · subst h2; simp [erase, get?_none_of_above ha]
    · simp [erase, h2, get?, ih hs]

theorem mem_set {k : Nat} {v : α} {m : SMap α} {q : Nat × α} (h : q ∈ set m k v) : q = (k, v) ∨ q ∈ m := by
  induction m with
  | nil => simpa [set] using h
  | cons p r ih =>
    obtain ⟨j, u⟩ := p
    unfold set at h
    split at h
    · simpa using h
    · split at h
      · simp only [List.mem_cons] at h ⊢
        rcases h with h | h
        · exact .inl h
        · exact .inr (.inr h)
      · simp only [List.mem_cons] at h ⊢
        rcases h with h | h
        · exact .inr (.inl h)
        · rcases ih h with h | h
          · exact .inl h
          · exact .inr (.inr h)

theorem mem_erase {k : Nat} {m : SMap α} {q : Nat × α} (h : q ∈ erase m k) : q ∈ m := by
  induction m with
  | nil => exact h
  | cons p r ih =>
    obtain ⟨j, u⟩ := p
    unfold erase at h
    split at h
    · exact List.mem_cons_of_mem _ h
    · simp only [List.mem_cons] at h ⊢
      rcases h with h | h
      · exact .inl h
      · exact .inr (ih h)

/-- Writing keeps the canonical form. -/
theorem wf_put [DecidableEq α] {m : SMap α} {d : α} (k : Nat) (v : α) (h : wf m d = true) : wf (put m d k v) d = true := by
  simp only [wf, Bool.and_eq_true, List.all_eq_true, decide_eq_true_eq] at h ⊢
  unfold put
  split
  · exact ⟨sorted_erase h.1, fun q hq => h.2 q (mem_erase hq)⟩
  · rename_i hv
    refine ⟨sorted_set h.1, fun q hq => ?_⟩
    rcases mem_set hq with rfl | hq
    · exact hv
    · exact h.2 q hq

/-- A read after a write, at the key written and at the others. -/
theorem getD_put [DecidableEq α] {m : SMap α} {d : α} (k i : Nat) (v : α) (h : sorted m = true) :
    getD (put m d k v) i d = if i = k then v else getD m i d := by
  unfold put getD
  by_cases hi : i = k
  · subst hi
    split
    · rename_i hv; simp [get?_erase_same i h, hv]
    · simp
  · split
    · simp [get?_erase_other m hi]
    · simp [get?_set_other m v hi]

end SMap

/-! ### Lanes -/

@[simp] theorem at_lanes {α : Type} [Inhabited α] (f : Nat → α) {l : Nat} (h : l < 32) : Lanes.at (lanes f) l = f l := by
  simp [Lanes.at, lanes, h]

end Sys2Proof.Machine
end

