-- ==== Sys2Proof/Laws/Memory.lean ====
section
/-! SUPPORT. Memory: every operation keeps the canonical form, a byte written is read back, and every other byte stays. -/

namespace Sys2Proof.Machine

theorem Memory.write_wf {m : List Host.Cell} (pa : Nat) (b : Byte) (h : Memory.wf m) : Memory.wf (Memory.write m pa b) :=
  SMap.wf_put pa b h

theorem Memory.writes_wf {m : List Host.Cell} (pa : Nat) (bs : List Byte) (h : Memory.wf m) :
    Memory.wf (Memory.writes m pa bs) := by
  induction bs generalizing m pa with
  | nil => exact h
  | cons b r ih => exact ih (pa + 1) (Memory.write_wf pa b h)

theorem Memory.wf_sorted {m : List Host.Cell} (h : Memory.wf m) : SMap.sorted m = true := by
  have h' : (SMap.sorted m && m.all fun p => decide (p.2 ≠ unwritten)) = true := h
  exact (Bool.and_eq_true_iff.mp h').1

theorem Memory.read_write {m : List Host.Cell} (pa a : Nat) (b : Byte) (h : Memory.wf m) :
    Memory.read (Memory.write m pa b) a = if a = pa then b else Memory.read m a :=
  SMap.getD_put pa a b (Memory.wf_sorted h)

/-- The bytes written are read back; every byte outside them stays. -/
theorem Memory.read_writes {m : List Host.Cell} (pa a : Nat) (bs : List Byte) (h : Memory.wf m) :
    Memory.read (Memory.writes m pa bs) a =
      if pa ≤ a ∧ a < pa + bs.length then bs.getD (a - pa) 0 else Memory.read m a := by
  induction bs generalizing m pa with
  | nil => rw [if_neg (by simp only [List.length_nil]; omega)]; rfl
  | cons b r ih =>
    rw [Memory.writes, ih (pa + 1) (Memory.write_wf pa b h), Memory.read_write pa a b h]
    by_cases h1 : a = pa
    · subst h1
      have h2 : ¬ (a + 1 ≤ a ∧ a < a + 1 + r.length) := by omega
      have h3 : a ≤ a ∧ a < a + (b :: r).length := by simp
      rw [if_neg h2, if_pos h3, if_pos rfl, Nat.sub_self]
      rfl
    · by_cases h2 : pa + 1 ≤ a ∧ a < pa + 1 + r.length
      · have h3 : pa ≤ a ∧ a < pa + (b :: r).length := by simp; omega
        obtain ⟨k, hk⟩ : ∃ k, a - pa = k + 1 := ⟨a - pa - 1, by omega⟩
        have hk' : a - (pa + 1) = k := by omega
        rw [if_pos h2, if_pos h3, hk, hk']
        rfl
      · have h3 : ¬ (pa ≤ a ∧ a < pa + (b :: r).length) := by simp; omega
        rw [if_neg h2, if_neg h3, if_neg h1]

/-- A write with the same bytes at one place and at another leaves the rest of the state alone. -/
theorem writeHome_mem (s : State) (pa : Nat) (bs : List Byte) : (s.writeHome pa bs).mem = Memory.writes s.mem pa bs := by
  unfold State.writeHome State.wakeMonitors
  split
  · unfold State.unmark; dsimp only; split <;> rfl
  · unfold State.unmark; dsimp only; split <;> rfl

theorem writeHome_wf {s : State} (pa : Nat) (bs : List Byte) (h : s.memWf) : (s.writeHome pa bs).memWf := by
  unfold State.memWf
  rw [writeHome_mem]
  exact Memory.writes_wf pa bs h

/-- Every byte of memory after a write. -/
theorem writeHome_byte {s : State} (pa a : Nat) (bs : List Byte) (h : s.memWf) :
    (s.writeHome pa bs).byte a = if pa ≤ a ∧ a < pa + bs.length then bs.getD (a - pa) 0 else s.byte a := by
  unfold State.byte
  rw [writeHome_mem]
  exact Memory.read_writes pa a bs h

theorem reset_memWf : State.reset.memWf := rfl

end Sys2Proof.Machine
end

