-- ==== Sys2Proof/Laws/State.lean ====
section
/-! SUPPORT. What each named update of the state leaves alone: one lemma per field per update, and what a read of the updated
part then gives. -/

namespace Sys2Proof.Machine

/-! ### `setRaw` -/

@[simp] theorem State.setRaw_mem (s : State) (n : Nat) (v : Word) : (s.setRaw n v).mem = s.mem := rfl
@[simp] theorem State.setRaw_marks (s : State) (n : Nat) (v : Word) : (s.setRaw n v).marks = s.marks := rfl
@[simp] theorem State.setRaw_moved (s : State) (n : Nat) (v : Word) : (s.setRaw n v).moved = s.moved := rfl
@[simp] theorem State.setRaw_regWaits (s : State) (n : Nat) (v : Word) : (s.setRaw n v).regWaits = s.regWaits := rfl
@[simp] theorem State.setRaw_groups (s : State) (n : Nat) (v : Word) : (s.setRaw n v).groups = s.groups := rfl
@[simp] theorem State.setRaw_active (s : State) (n : Nat) (v : Word) : (s.setRaw n v).active = s.active := rfl
@[simp] theorem State.setRaw_teams (s : State) (n : Nat) (v : Word) : (s.setRaw n v).teams = s.teams := rfl
@[simp] theorem State.setRaw_nodes (s : State) (n : Nat) (v : Word) : (s.setRaw n v).nodes = s.nodes := rfl
@[simp] theorem State.setRaw_ctxs (s : State) (n : Nat) (v : Word) : (s.setRaw n v).ctxs = s.ctxs := rfl
@[simp] theorem State.setRaw_cores (s : State) (n : Nat) (v : Word) : (s.setRaw n v).cores = s.cores := rfl
@[simp] theorem State.setRaw_clusters (s : State) (n : Nat) (v : Word) : (s.setRaw n v).clusters = s.clusters := rfl
@[simp] theorem State.setRaw_dies (s : State) (n : Nat) (v : Word) : (s.setRaw n v).dies = s.dies := rfl
@[simp] theorem State.setRaw_copies (s : State) (n : Nat) (v : Word) : (s.setRaw n v).copies = s.copies := rfl
@[simp] theorem State.setRaw_slicePins (s : State) (n : Nat) (v : Word) : (s.setRaw n v).slicePins = s.slicePins := rfl
@[simp] theorem State.setRaw_monitors (s : State) (n : Nat) (v : Word) : (s.setRaw n v).monitors = s.monitors := rfl
@[simp] theorem State.setRaw_culvert (s : State) (n : Nat) (v : Word) : (s.setRaw n v).culvert = s.culvert := rfl
@[simp] theorem State.setRaw_tlbi (s : State) (n : Nat) (v : Word) : (s.setRaw n v).tlbi = s.tlbi := rfl
@[simp] theorem State.setRaw_mode (s : State) (n : Nat) (v : Word) : (s.setRaw n v).mode = s.mode := rfl
@[simp] theorem State.setRaw_modeWait (s : State) (n : Nat) (v : Word) : (s.setRaw n v).modeWait = s.modeWait := rfl
@[simp] theorem State.setRaw_epochWait (s : State) (n : Nat) (v : Word) : (s.setRaw n v).epochWait = s.epochWait := rfl
@[simp] theorem State.setRaw_msix (s : State) (n : Nat) (v : Word) : (s.setRaw n v).msix = s.msix := rfl
@[simp] theorem State.setRaw_msixPend (s : State) (n : Nat) (v : Word) : (s.setRaw n v).msixPend = s.msixPend := rfl
@[simp] theorem State.setRaw_window (s : State) (n : Nat) (v : Word) : (s.setRaw n v).window = s.window := rfl
@[simp] theorem State.setRaw_measured (s : State) (n : Nat) (v : Word) : (s.setRaw n v).measured = s.measured := rfl
@[simp] theorem State.setRaw_meas (s : State) (n : Nat) (v : Word) : (s.setRaw n v).meas = s.meas := rfl
@[simp] theorem State.setRaw_quote (s : State) (n : Nat) (v : Word) : (s.setRaw n v).quote = s.quote := rfl
@[simp] theorem State.setRaw_hostQueue (s : State) (n : Nat) (v : Word) : (s.setRaw n v).hostQueue = s.hostQueue := rfl
@[simp] theorem State.setRaw_bar0Reads (s : State) (n : Nat) (v : Word) : (s.setRaw n v).bar0Reads = s.bar0Reads := rfl
@[simp] theorem State.setRaw_configs (s : State) (n : Nat) (v : Word) : (s.setRaw n v).configs = s.configs := rfl
@[simp] theorem State.setRaw_aer (s : State) (n : Nat) (v : Word) : (s.setRaw n v).aer = s.aer := rfl
@[simp] theorem State.setRaw_inputs (s : State) (n : Nat) (v : Word) : (s.setRaw n v).inputs = s.inputs := rfl
@[simp] theorem State.setRaw_awake (s : State) (n : Nat) (v : Word) : (s.setRaw n v).awake = s.awake := rfl
@[simp] theorem State.setRaw_requester (s : State) (n : Nat) (v : Word) : (s.setRaw n v).requester = s.requester := rfl
@[simp] theorem State.setRaw_bar2Size (s : State) (n : Nat) (v : Word) : (s.setRaw n v).bar2Size = s.bar2Size := rfl
@[simp] theorem State.setRaw_tbNext (s : State) (n : Nat) (v : Word) : (s.setRaw n v).tbNext = s.tbNext := rfl
@[simp] theorem State.setRaw_slew (s : State) (n : Nat) (v : Word) : (s.setRaw n v).slew = s.slew := rfl
@[simp] theorem State.setRaw_boot (s : State) (n : Nat) (v : Word) : (s.setRaw n v).boot = s.boot := rfl
@[simp] theorem State.setRaw_bootErr (s : State) (n : Nat) (v : Word) : (s.setRaw n v).bootErr = s.bootErr := rfl
@[simp] theorem State.setRaw_bootDie (s : State) (n : Nat) (v : Word) : (s.setRaw n v).bootDie = s.bootDie := rfl
@[simp] theorem State.setRaw_memUp (s : State) (n : Nat) (v : Word) : (s.setRaw n v).memUp = s.memUp := rfl
@[simp] theorem State.setRaw_seq (s : State) (n : Nat) (v : Word) : (s.setRaw n v).seq = s.seq := rfl
@[simp] theorem State.setRaw_nextId (s : State) (n : Nat) (v : Word) : (s.setRaw n v).nextId = s.nextId := rfl
@[simp] theorem State.setRaw_hostOut (s : State) (n : Nat) (v : Word) : (s.setRaw n v).hostOut = s.hostOut := rfl
@[simp] theorem State.setRaw_agenda (s : State) (n : Nat) (v : Word) : (s.setRaw n v).agenda = s.agenda := rfl
@[simp] theorem State.setRaw_lastIssue (s : State) (n : Nat) (v : Word) : (s.setRaw n v).lastIssue = s.lastIssue := rfl
@[simp] theorem State.setRaw_focus (s : State) (n : Nat) (v : Word) : (s.setRaw n v).focus = s.focus := rfl
@[simp] theorem State.setRaw_ages (s : State) (n : Nat) (v : Word) : (s.setRaw n v).ages = s.ages := rfl
@[simp] theorem State.setRaw_choice (s : State) (n : Nat) (v : Word) : (s.setRaw n v).choice = s.choice := rfl

/-! ### `setDie` -/

@[simp] theorem State.setDie_mem (s : State) (k : Nat) (x : Die) : (s.setDie k x).mem = s.mem := rfl
@[simp] theorem State.setDie_marks (s : State) (k : Nat) (x : Die) : (s.setDie k x).marks = s.marks := rfl
@[simp] theorem State.setDie_moved (s : State) (k : Nat) (x : Die) : (s.setDie k x).moved = s.moved := rfl
@[simp] theorem State.setDie_regs (s : State) (k : Nat) (x : Die) : (s.setDie k x).regs = s.regs := rfl
@[simp] theorem State.setDie_regWaits (s : State) (k : Nat) (x : Die) : (s.setDie k x).regWaits = s.regWaits := rfl
@[simp] theorem State.setDie_groups (s : State) (k : Nat) (x : Die) : (s.setDie k x).groups = s.groups := rfl
@[simp] theorem State.setDie_active (s : State) (k : Nat) (x : Die) : (s.setDie k x).active = s.active := rfl
@[simp] theorem State.setDie_teams (s : State) (k : Nat) (x : Die) : (s.setDie k x).teams = s.teams := rfl
@[simp] theorem State.setDie_nodes (s : State) (k : Nat) (x : Die) : (s.setDie k x).nodes = s.nodes := rfl
@[simp] theorem State.setDie_ctxs (s : State) (k : Nat) (x : Die) : (s.setDie k x).ctxs = s.ctxs := rfl
@[simp] theorem State.setDie_cores (s : State) (k : Nat) (x : Die) : (s.setDie k x).cores = s.cores := rfl
@[simp] theorem State.setDie_clusters (s : State) (k : Nat) (x : Die) : (s.setDie k x).clusters = s.clusters := rfl
@[simp] theorem State.setDie_copies (s : State) (k : Nat) (x : Die) : (s.setDie k x).copies = s.copies := rfl
@[simp] theorem State.setDie_slicePins (s : State) (k : Nat) (x : Die) : (s.setDie k x).slicePins = s.slicePins := rfl
@[simp] theorem State.setDie_monitors (s : State) (k : Nat) (x : Die) : (s.setDie k x).monitors = s.monitors := rfl
@[simp] theorem State.setDie_culvert (s : State) (k : Nat) (x : Die) : (s.setDie k x).culvert = s.culvert := rfl
@[simp] theorem State.setDie_tlbi (s : State) (k : Nat) (x : Die) : (s.setDie k x).tlbi = s.tlbi := rfl
@[simp] theorem State.setDie_mode (s : State) (k : Nat) (x : Die) : (s.setDie k x).mode = s.mode := rfl
@[simp] theorem State.setDie_modeWait (s : State) (k : Nat) (x : Die) : (s.setDie k x).modeWait = s.modeWait := rfl
@[simp] theorem State.setDie_epochWait (s : State) (k : Nat) (x : Die) : (s.setDie k x).epochWait = s.epochWait := rfl
@[simp] theorem State.setDie_msix (s : State) (k : Nat) (x : Die) : (s.setDie k x).msix = s.msix := rfl
@[simp] theorem State.setDie_msixPend (s : State) (k : Nat) (x : Die) : (s.setDie k x).msixPend = s.msixPend := rfl
@[simp] theorem State.setDie_window (s : State) (k : Nat) (x : Die) : (s.setDie k x).window = s.window := rfl
@[simp] theorem State.setDie_measured (s : State) (k : Nat) (x : Die) : (s.setDie k x).measured = s.measured := rfl
@[simp] theorem State.setDie_meas (s : State) (k : Nat) (x : Die) : (s.setDie k x).meas = s.meas := rfl
@[simp] theorem State.setDie_quote (s : State) (k : Nat) (x : Die) : (s.setDie k x).quote = s.quote := rfl
@[simp] theorem State.setDie_hostQueue (s : State) (k : Nat) (x : Die) : (s.setDie k x).hostQueue = s.hostQueue := rfl
@[simp] theorem State.setDie_bar0Reads (s : State) (k : Nat) (x : Die) : (s.setDie k x).bar0Reads = s.bar0Reads := rfl
@[simp] theorem State.setDie_configs (s : State) (k : Nat) (x : Die) : (s.setDie k x).configs = s.configs := rfl
@[simp] theorem State.setDie_aer (s : State) (k : Nat) (x : Die) : (s.setDie k x).aer = s.aer := rfl
@[simp] theorem State.setDie_inputs (s : State) (k : Nat) (x : Die) : (s.setDie k x).inputs = s.inputs := rfl
@[simp] theorem State.setDie_awake (s : State) (k : Nat) (x : Die) : (s.setDie k x).awake = s.awake := rfl
@[simp] theorem State.setDie_requester (s : State) (k : Nat) (x : Die) : (s.setDie k x).requester = s.requester := rfl
@[simp] theorem State.setDie_bar2Size (s : State) (k : Nat) (x : Die) : (s.setDie k x).bar2Size = s.bar2Size := rfl
@[simp] theorem State.setDie_tbNext (s : State) (k : Nat) (x : Die) : (s.setDie k x).tbNext = s.tbNext := rfl
@[simp] theorem State.setDie_slew (s : State) (k : Nat) (x : Die) : (s.setDie k x).slew = s.slew := rfl
@[simp] theorem State.setDie_boot (s : State) (k : Nat) (x : Die) : (s.setDie k x).boot = s.boot := rfl
@[simp] theorem State.setDie_bootErr (s : State) (k : Nat) (x : Die) : (s.setDie k x).bootErr = s.bootErr := rfl
@[simp] theorem State.setDie_bootDie (s : State) (k : Nat) (x : Die) : (s.setDie k x).bootDie = s.bootDie := rfl
@[simp] theorem State.setDie_memUp (s : State) (k : Nat) (x : Die) : (s.setDie k x).memUp = s.memUp := rfl
@[simp] theorem State.setDie_seq (s : State) (k : Nat) (x : Die) : (s.setDie k x).seq = s.seq := rfl
@[simp] theorem State.setDie_nextId (s : State) (k : Nat) (x : Die) : (s.setDie k x).nextId = s.nextId := rfl
@[simp] theorem State.setDie_hostOut (s : State) (k : Nat) (x : Die) : (s.setDie k x).hostOut = s.hostOut := rfl
@[simp] theorem State.setDie_agenda (s : State) (k : Nat) (x : Die) : (s.setDie k x).agenda = s.agenda := rfl
@[simp] theorem State.setDie_lastIssue (s : State) (k : Nat) (x : Die) : (s.setDie k x).lastIssue = s.lastIssue := rfl
@[simp] theorem State.setDie_focus (s : State) (k : Nat) (x : Die) : (s.setDie k x).focus = s.focus := rfl
@[simp] theorem State.setDie_ages (s : State) (k : Nat) (x : Die) : (s.setDie k x).ages = s.ages := rfl
@[simp] theorem State.setDie_choice (s : State) (k : Nat) (x : Die) : (s.setDie k x).choice = s.choice := rfl

/-! ### `setCore` -/

@[simp] theorem State.setCore_mem (s : State) (k : Nat) (x : Core) : (s.setCore k x).mem = s.mem := rfl
@[simp] theorem State.setCore_marks (s : State) (k : Nat) (x : Core) : (s.setCore k x).marks = s.marks := rfl
@[simp] theorem State.setCore_moved (s : State) (k : Nat) (x : Core) : (s.setCore k x).moved = s.moved := rfl
@[simp] theorem State.setCore_regs (s : State) (k : Nat) (x : Core) : (s.setCore k x).regs = s.regs := rfl
@[simp] theorem State.setCore_regWaits (s : State) (k : Nat) (x : Core) : (s.setCore k x).regWaits = s.regWaits := rfl
@[simp] theorem State.setCore_groups (s : State) (k : Nat) (x : Core) : (s.setCore k x).groups = s.groups := rfl
@[simp] theorem State.setCore_active (s : State) (k : Nat) (x : Core) : (s.setCore k x).active = s.active := rfl
@[simp] theorem State.setCore_teams (s : State) (k : Nat) (x : Core) : (s.setCore k x).teams = s.teams := rfl
@[simp] theorem State.setCore_nodes (s : State) (k : Nat) (x : Core) : (s.setCore k x).nodes = s.nodes := rfl
@[simp] theorem State.setCore_ctxs (s : State) (k : Nat) (x : Core) : (s.setCore k x).ctxs = s.ctxs := rfl
@[simp] theorem State.setCore_clusters (s : State) (k : Nat) (x : Core) : (s.setCore k x).clusters = s.clusters := rfl
@[simp] theorem State.setCore_dies (s : State) (k : Nat) (x : Core) : (s.setCore k x).dies = s.dies := rfl
@[simp] theorem State.setCore_copies (s : State) (k : Nat) (x : Core) : (s.setCore k x).copies = s.copies := rfl
@[simp] theorem State.setCore_slicePins (s : State) (k : Nat) (x : Core) : (s.setCore k x).slicePins = s.slicePins := rfl
@[simp] theorem State.setCore_monitors (s : State) (k : Nat) (x : Core) : (s.setCore k x).monitors = s.monitors := rfl
@[simp] theorem State.setCore_culvert (s : State) (k : Nat) (x : Core) : (s.setCore k x).culvert = s.culvert := rfl
@[simp] theorem State.setCore_tlbi (s : State) (k : Nat) (x : Core) : (s.setCore k x).tlbi = s.tlbi := rfl
@[simp] theorem State.setCore_mode (s : State) (k : Nat) (x : Core) : (s.setCore k x).mode = s.mode := rfl
@[simp] theorem State.setCore_modeWait (s : State) (k : Nat) (x : Core) : (s.setCore k x).modeWait = s.modeWait := rfl
@[simp] theorem State.setCore_epochWait (s : State) (k : Nat) (x : Core) : (s.setCore k x).epochWait = s.epochWait := rfl
@[simp] theorem State.setCore_msix (s : State) (k : Nat) (x : Core) : (s.setCore k x).msix = s.msix := rfl
@[simp] theorem State.setCore_msixPend (s : State) (k : Nat) (x : Core) : (s.setCore k x).msixPend = s.msixPend := rfl
@[simp] theorem State.setCore_window (s : State) (k : Nat) (x : Core) : (s.setCore k x).window = s.window := rfl
@[simp] theorem State.setCore_measured (s : State) (k : Nat) (x : Core) : (s.setCore k x).measured = s.measured := rfl
@[simp] theorem State.setCore_meas (s : State) (k : Nat) (x : Core) : (s.setCore k x).meas = s.meas := rfl
@[simp] theorem State.setCore_quote (s : State) (k : Nat) (x : Core) : (s.setCore k x).quote = s.quote := rfl
@[simp] theorem State.setCore_hostQueue (s : State) (k : Nat) (x : Core) : (s.setCore k x).hostQueue = s.hostQueue := rfl
@[simp] theorem State.setCore_bar0Reads (s : State) (k : Nat) (x : Core) : (s.setCore k x).bar0Reads = s.bar0Reads := rfl
@[simp] theorem State.setCore_configs (s : State) (k : Nat) (x : Core) : (s.setCore k x).configs = s.configs := rfl
@[simp] theorem State.setCore_aer (s : State) (k : Nat) (x : Core) : (s.setCore k x).aer = s.aer := rfl
@[simp] theorem State.setCore_inputs (s : State) (k : Nat) (x : Core) : (s.setCore k x).inputs = s.inputs := rfl
@[simp] theorem State.setCore_awake (s : State) (k : Nat) (x : Core) : (s.setCore k x).awake = s.awake := rfl
@[simp] theorem State.setCore_requester (s : State) (k : Nat) (x : Core) : (s.setCore k x).requester = s.requester := rfl
@[simp] theorem State.setCore_bar2Size (s : State) (k : Nat) (x : Core) : (s.setCore k x).bar2Size = s.bar2Size := rfl
@[simp] theorem State.setCore_tbNext (s : State) (k : Nat) (x : Core) : (s.setCore k x).tbNext = s.tbNext := rfl
@[simp] theorem State.setCore_slew (s : State) (k : Nat) (x : Core) : (s.setCore k x).slew = s.slew := rfl
@[simp] theorem State.setCore_boot (s : State) (k : Nat) (x : Core) : (s.setCore k x).boot = s.boot := rfl
@[simp] theorem State.setCore_bootErr (s : State) (k : Nat) (x : Core) : (s.setCore k x).bootErr = s.bootErr := rfl
@[simp] theorem State.setCore_bootDie (s : State) (k : Nat) (x : Core) : (s.setCore k x).bootDie = s.bootDie := rfl
@[simp] theorem State.setCore_memUp (s : State) (k : Nat) (x : Core) : (s.setCore k x).memUp = s.memUp := rfl
@[simp] theorem State.setCore_seq (s : State) (k : Nat) (x : Core) : (s.setCore k x).seq = s.seq := rfl
@[simp] theorem State.setCore_nextId (s : State) (k : Nat) (x : Core) : (s.setCore k x).nextId = s.nextId := rfl
@[simp] theorem State.setCore_hostOut (s : State) (k : Nat) (x : Core) : (s.setCore k x).hostOut = s.hostOut := rfl
@[simp] theorem State.setCore_agenda (s : State) (k : Nat) (x : Core) : (s.setCore k x).agenda = s.agenda := rfl
@[simp] theorem State.setCore_lastIssue (s : State) (k : Nat) (x : Core) : (s.setCore k x).lastIssue = s.lastIssue := rfl
@[simp] theorem State.setCore_focus (s : State) (k : Nat) (x : Core) : (s.setCore k x).focus = s.focus := rfl
@[simp] theorem State.setCore_ages (s : State) (k : Nat) (x : Core) : (s.setCore k x).ages = s.ages := rfl
@[simp] theorem State.setCore_choice (s : State) (k : Nat) (x : Core) : (s.setCore k x).choice = s.choice := rfl

/-! ### `setCluster` -/

@[simp] theorem State.setCluster_mem (s : State) (k : Nat) (x : Cluster) : (s.setCluster k x).mem = s.mem := rfl
@[simp] theorem State.setCluster_marks (s : State) (k : Nat) (x : Cluster) : (s.setCluster k x).marks = s.marks := rfl
@[simp] theorem State.setCluster_moved (s : State) (k : Nat) (x : Cluster) : (s.setCluster k x).moved = s.moved := rfl
@[simp] theorem State.setCluster_regs (s : State) (k : Nat) (x : Cluster) : (s.setCluster k x).regs = s.regs := rfl
@[simp] theorem State.setCluster_regWaits (s : State) (k : Nat) (x : Cluster) : (s.setCluster k x).regWaits = s.regWaits := rfl
@[simp] theorem State.setCluster_groups (s : State) (k : Nat) (x : Cluster) : (s.setCluster k x).groups = s.groups := rfl
@[simp] theorem State.setCluster_active (s : State) (k : Nat) (x : Cluster) : (s.setCluster k x).active = s.active := rfl
@[simp] theorem State.setCluster_teams (s : State) (k : Nat) (x : Cluster) : (s.setCluster k x).teams = s.teams := rfl
@[simp] theorem State.setCluster_nodes (s : State) (k : Nat) (x : Cluster) : (s.setCluster k x).nodes = s.nodes := rfl
@[simp] theorem State.setCluster_ctxs (s : State) (k : Nat) (x : Cluster) : (s.setCluster k x).ctxs = s.ctxs := rfl
@[simp] theorem State.setCluster_cores (s : State) (k : Nat) (x : Cluster) : (s.setCluster k x).cores = s.cores := rfl
@[simp] theorem State.setCluster_dies (s : State) (k : Nat) (x : Cluster) : (s.setCluster k x).dies = s.dies := rfl
@[simp] theorem State.setCluster_copies (s : State) (k : Nat) (x : Cluster) : (s.setCluster k x).copies = s.copies := rfl
@[simp] theorem State.setCluster_slicePins (s : State) (k : Nat) (x : Cluster) : (s.setCluster k x).slicePins = s.slicePins := rfl
@[simp] theorem State.setCluster_monitors (s : State) (k : Nat) (x : Cluster) : (s.setCluster k x).monitors = s.monitors := rfl
@[simp] theorem State.setCluster_culvert (s : State) (k : Nat) (x : Cluster) : (s.setCluster k x).culvert = s.culvert := rfl
@[simp] theorem State.setCluster_tlbi (s : State) (k : Nat) (x : Cluster) : (s.setCluster k x).tlbi = s.tlbi := rfl
@[simp] theorem State.setCluster_mode (s : State) (k : Nat) (x : Cluster) : (s.setCluster k x).mode = s.mode := rfl
@[simp] theorem State.setCluster_modeWait (s : State) (k : Nat) (x : Cluster) : (s.setCluster k x).modeWait = s.modeWait := rfl
@[simp] theorem State.setCluster_epochWait (s : State) (k : Nat) (x : Cluster) : (s.setCluster k x).epochWait = s.epochWait := rfl
@[simp] theorem State.setCluster_msix (s : State) (k : Nat) (x : Cluster) : (s.setCluster k x).msix = s.msix := rfl
@[simp] theorem State.setCluster_msixPend (s : State) (k : Nat) (x : Cluster) : (s.setCluster k x).msixPend = s.msixPend := rfl
@[simp] theorem State.setCluster_window (s : State) (k : Nat) (x : Cluster) : (s.setCluster k x).window = s.window := rfl
@[simp] theorem State.setCluster_measured (s : State) (k : Nat) (x : Cluster) : (s.setCluster k x).measured = s.measured := rfl
@[simp] theorem State.setCluster_meas (s : State) (k : Nat) (x : Cluster) : (s.setCluster k x).meas = s.meas := rfl
@[simp] theorem State.setCluster_quote (s : State) (k : Nat) (x : Cluster) : (s.setCluster k x).quote = s.quote := rfl
@[simp] theorem State.setCluster_hostQueue (s : State) (k : Nat) (x : Cluster) : (s.setCluster k x).hostQueue = s.hostQueue := rfl
@[simp] theorem State.setCluster_bar0Reads (s : State) (k : Nat) (x : Cluster) : (s.setCluster k x).bar0Reads = s.bar0Reads := rfl
@[simp] theorem State.setCluster_configs (s : State) (k : Nat) (x : Cluster) : (s.setCluster k x).configs = s.configs := rfl
@[simp] theorem State.setCluster_aer (s : State) (k : Nat) (x : Cluster) : (s.setCluster k x).aer = s.aer := rfl
@[simp] theorem State.setCluster_inputs (s : State) (k : Nat) (x : Cluster) : (s.setCluster k x).inputs = s.inputs := rfl
@[simp] theorem State.setCluster_awake (s : State) (k : Nat) (x : Cluster) : (s.setCluster k x).awake = s.awake := rfl
@[simp] theorem State.setCluster_requester (s : State) (k : Nat) (x : Cluster) : (s.setCluster k x).requester = s.requester := rfl
@[simp] theorem State.setCluster_bar2Size (s : State) (k : Nat) (x : Cluster) : (s.setCluster k x).bar2Size = s.bar2Size := rfl
@[simp] theorem State.setCluster_tbNext (s : State) (k : Nat) (x : Cluster) : (s.setCluster k x).tbNext = s.tbNext := rfl
@[simp] theorem State.setCluster_slew (s : State) (k : Nat) (x : Cluster) : (s.setCluster k x).slew = s.slew := rfl
@[simp] theorem State.setCluster_boot (s : State) (k : Nat) (x : Cluster) : (s.setCluster k x).boot = s.boot := rfl
@[simp] theorem State.setCluster_bootErr (s : State) (k : Nat) (x : Cluster) : (s.setCluster k x).bootErr = s.bootErr := rfl
@[simp] theorem State.setCluster_bootDie (s : State) (k : Nat) (x : Cluster) : (s.setCluster k x).bootDie = s.bootDie := rfl
@[simp] theorem State.setCluster_memUp (s : State) (k : Nat) (x : Cluster) : (s.setCluster k x).memUp = s.memUp := rfl
@[simp] theorem State.setCluster_seq (s : State) (k : Nat) (x : Cluster) : (s.setCluster k x).seq = s.seq := rfl
@[simp] theorem State.setCluster_nextId (s : State) (k : Nat) (x : Cluster) : (s.setCluster k x).nextId = s.nextId := rfl
@[simp] theorem State.setCluster_hostOut (s : State) (k : Nat) (x : Cluster) : (s.setCluster k x).hostOut = s.hostOut := rfl
@[simp] theorem State.setCluster_agenda (s : State) (k : Nat) (x : Cluster) : (s.setCluster k x).agenda = s.agenda := rfl
@[simp] theorem State.setCluster_lastIssue (s : State) (k : Nat) (x : Cluster) : (s.setCluster k x).lastIssue = s.lastIssue := rfl
@[simp] theorem State.setCluster_focus (s : State) (k : Nat) (x : Cluster) : (s.setCluster k x).focus = s.focus := rfl
@[simp] theorem State.setCluster_ages (s : State) (k : Nat) (x : Cluster) : (s.setCluster k x).ages = s.ages := rfl
@[simp] theorem State.setCluster_choice (s : State) (k : Nat) (x : Cluster) : (s.setCluster k x).choice = s.choice := rfl

/-! ### `setGroup` -/

@[simp] theorem State.setGroup_mem (s : State) (k : Nat) (x : Group) : (s.setGroup k x).mem = s.mem := rfl
@[simp] theorem State.setGroup_marks (s : State) (k : Nat) (x : Group) : (s.setGroup k x).marks = s.marks := rfl
@[simp] theorem State.setGroup_moved (s : State) (k : Nat) (x : Group) : (s.setGroup k x).moved = s.moved := rfl
@[simp] theorem State.setGroup_regs (s : State) (k : Nat) (x : Group) : (s.setGroup k x).regs = s.regs := rfl
@[simp] theorem State.setGroup_regWaits (s : State) (k : Nat) (x : Group) : (s.setGroup k x).regWaits = s.regWaits := rfl
@[simp] theorem State.setGroup_active (s : State) (k : Nat) (x : Group) : (s.setGroup k x).active = s.active := rfl
@[simp] theorem State.setGroup_teams (s : State) (k : Nat) (x : Group) : (s.setGroup k x).teams = s.teams := rfl
@[simp] theorem State.setGroup_nodes (s : State) (k : Nat) (x : Group) : (s.setGroup k x).nodes = s.nodes := rfl
@[simp] theorem State.setGroup_ctxs (s : State) (k : Nat) (x : Group) : (s.setGroup k x).ctxs = s.ctxs := rfl
@[simp] theorem State.setGroup_cores (s : State) (k : Nat) (x : Group) : (s.setGroup k x).cores = s.cores := rfl
@[simp] theorem State.setGroup_clusters (s : State) (k : Nat) (x : Group) : (s.setGroup k x).clusters = s.clusters := rfl
@[simp] theorem State.setGroup_dies (s : State) (k : Nat) (x : Group) : (s.setGroup k x).dies = s.dies := rfl
@[simp] theorem State.setGroup_copies (s : State) (k : Nat) (x : Group) : (s.setGroup k x).copies = s.copies := rfl
@[simp] theorem State.setGroup_slicePins (s : State) (k : Nat) (x : Group) : (s.setGroup k x).slicePins = s.slicePins := rfl
@[simp] theorem State.setGroup_monitors (s : State) (k : Nat) (x : Group) : (s.setGroup k x).monitors = s.monitors := rfl
@[simp] theorem State.setGroup_culvert (s : State) (k : Nat) (x : Group) : (s.setGroup k x).culvert = s.culvert := rfl
@[simp] theorem State.setGroup_tlbi (s : State) (k : Nat) (x : Group) : (s.setGroup k x).tlbi = s.tlbi := rfl
@[simp] theorem State.setGroup_mode (s : State) (k : Nat) (x : Group) : (s.setGroup k x).mode = s.mode := rfl
@[simp] theorem State.setGroup_modeWait (s : State) (k : Nat) (x : Group) : (s.setGroup k x).modeWait = s.modeWait := rfl
@[simp] theorem State.setGroup_epochWait (s : State) (k : Nat) (x : Group) : (s.setGroup k x).epochWait = s.epochWait := rfl
@[simp] theorem State.setGroup_msix (s : State) (k : Nat) (x : Group) : (s.setGroup k x).msix = s.msix := rfl
@[simp] theorem State.setGroup_msixPend (s : State) (k : Nat) (x : Group) : (s.setGroup k x).msixPend = s.msixPend := rfl
@[simp] theorem State.setGroup_window (s : State) (k : Nat) (x : Group) : (s.setGroup k x).window = s.window := rfl
@[simp] theorem State.setGroup_measured (s : State) (k : Nat) (x : Group) : (s.setGroup k x).measured = s.measured := rfl
@[simp] theorem State.setGroup_meas (s : State) (k : Nat) (x : Group) : (s.setGroup k x).meas = s.meas := rfl
@[simp] theorem State.setGroup_quote (s : State) (k : Nat) (x : Group) : (s.setGroup k x).quote = s.quote := rfl
@[simp] theorem State.setGroup_hostQueue (s : State) (k : Nat) (x : Group) : (s.setGroup k x).hostQueue = s.hostQueue := rfl
@[simp] theorem State.setGroup_bar0Reads (s : State) (k : Nat) (x : Group) : (s.setGroup k x).bar0Reads = s.bar0Reads := rfl
@[simp] theorem State.setGroup_configs (s : State) (k : Nat) (x : Group) : (s.setGroup k x).configs = s.configs := rfl
@[simp] theorem State.setGroup_aer (s : State) (k : Nat) (x : Group) : (s.setGroup k x).aer = s.aer := rfl
@[simp] theorem State.setGroup_inputs (s : State) (k : Nat) (x : Group) : (s.setGroup k x).inputs = s.inputs := rfl
@[simp] theorem State.setGroup_awake (s : State) (k : Nat) (x : Group) : (s.setGroup k x).awake = s.awake := rfl
@[simp] theorem State.setGroup_requester (s : State) (k : Nat) (x : Group) : (s.setGroup k x).requester = s.requester := rfl
@[simp] theorem State.setGroup_bar2Size (s : State) (k : Nat) (x : Group) : (s.setGroup k x).bar2Size = s.bar2Size := rfl
@[simp] theorem State.setGroup_tbNext (s : State) (k : Nat) (x : Group) : (s.setGroup k x).tbNext = s.tbNext := rfl
@[simp] theorem State.setGroup_slew (s : State) (k : Nat) (x : Group) : (s.setGroup k x).slew = s.slew := rfl
@[simp] theorem State.setGroup_boot (s : State) (k : Nat) (x : Group) : (s.setGroup k x).boot = s.boot := rfl
@[simp] theorem State.setGroup_bootErr (s : State) (k : Nat) (x : Group) : (s.setGroup k x).bootErr = s.bootErr := rfl
@[simp] theorem State.setGroup_bootDie (s : State) (k : Nat) (x : Group) : (s.setGroup k x).bootDie = s.bootDie := rfl
@[simp] theorem State.setGroup_memUp (s : State) (k : Nat) (x : Group) : (s.setGroup k x).memUp = s.memUp := rfl
@[simp] theorem State.setGroup_seq (s : State) (k : Nat) (x : Group) : (s.setGroup k x).seq = s.seq := rfl
@[simp] theorem State.setGroup_nextId (s : State) (k : Nat) (x : Group) : (s.setGroup k x).nextId = s.nextId := rfl
@[simp] theorem State.setGroup_hostOut (s : State) (k : Nat) (x : Group) : (s.setGroup k x).hostOut = s.hostOut := rfl
@[simp] theorem State.setGroup_agenda (s : State) (k : Nat) (x : Group) : (s.setGroup k x).agenda = s.agenda := rfl
@[simp] theorem State.setGroup_lastIssue (s : State) (k : Nat) (x : Group) : (s.setGroup k x).lastIssue = s.lastIssue := rfl
@[simp] theorem State.setGroup_focus (s : State) (k : Nat) (x : Group) : (s.setGroup k x).focus = s.focus := rfl
@[simp] theorem State.setGroup_ages (s : State) (k : Nat) (x : Group) : (s.setGroup k x).ages = s.ages := rfl
@[simp] theorem State.setGroup_choice (s : State) (k : Nat) (x : Group) : (s.setGroup k x).choice = s.choice := rfl

/-! ### `setTeam` -/

@[simp] theorem State.setTeam_mem (s : State) (k : Nat) (x : Team) : (s.setTeam k x).mem = s.mem := rfl
@[simp] theorem State.setTeam_marks (s : State) (k : Nat) (x : Team) : (s.setTeam k x).marks = s.marks := rfl
@[simp] theorem State.setTeam_moved (s : State) (k : Nat) (x : Team) : (s.setTeam k x).moved = s.moved := rfl
@[simp] theorem State.setTeam_regs (s : State) (k : Nat) (x : Team) : (s.setTeam k x).regs = s.regs := rfl
@[simp] theorem State.setTeam_regWaits (s : State) (k : Nat) (x : Team) : (s.setTeam k x).regWaits = s.regWaits := rfl
@[simp] theorem State.setTeam_groups (s : State) (k : Nat) (x : Team) : (s.setTeam k x).groups = s.groups := rfl
@[simp] theorem State.setTeam_active (s : State) (k : Nat) (x : Team) : (s.setTeam k x).active = s.active := rfl
@[simp] theorem State.setTeam_nodes (s : State) (k : Nat) (x : Team) : (s.setTeam k x).nodes = s.nodes := rfl
@[simp] theorem State.setTeam_ctxs (s : State) (k : Nat) (x : Team) : (s.setTeam k x).ctxs = s.ctxs := rfl
@[simp] theorem State.setTeam_cores (s : State) (k : Nat) (x : Team) : (s.setTeam k x).cores = s.cores := rfl
@[simp] theorem State.setTeam_clusters (s : State) (k : Nat) (x : Team) : (s.setTeam k x).clusters = s.clusters := rfl
@[simp] theorem State.setTeam_dies (s : State) (k : Nat) (x : Team) : (s.setTeam k x).dies = s.dies := rfl
@[simp] theorem State.setTeam_copies (s : State) (k : Nat) (x : Team) : (s.setTeam k x).copies = s.copies := rfl
@[simp] theorem State.setTeam_slicePins (s : State) (k : Nat) (x : Team) : (s.setTeam k x).slicePins = s.slicePins := rfl
@[simp] theorem State.setTeam_monitors (s : State) (k : Nat) (x : Team) : (s.setTeam k x).monitors = s.monitors := rfl
@[simp] theorem State.setTeam_culvert (s : State) (k : Nat) (x : Team) : (s.setTeam k x).culvert = s.culvert := rfl
@[simp] theorem State.setTeam_tlbi (s : State) (k : Nat) (x : Team) : (s.setTeam k x).tlbi = s.tlbi := rfl
@[simp] theorem State.setTeam_mode (s : State) (k : Nat) (x : Team) : (s.setTeam k x).mode = s.mode := rfl
@[simp] theorem State.setTeam_modeWait (s : State) (k : Nat) (x : Team) : (s.setTeam k x).modeWait = s.modeWait := rfl
@[simp] theorem State.setTeam_epochWait (s : State) (k : Nat) (x : Team) : (s.setTeam k x).epochWait = s.epochWait := rfl
@[simp] theorem State.setTeam_msix (s : State) (k : Nat) (x : Team) : (s.setTeam k x).msix = s.msix := rfl
@[simp] theorem State.setTeam_msixPend (s : State) (k : Nat) (x : Team) : (s.setTeam k x).msixPend = s.msixPend := rfl
@[simp] theorem State.setTeam_window (s : State) (k : Nat) (x : Team) : (s.setTeam k x).window = s.window := rfl
@[simp] theorem State.setTeam_measured (s : State) (k : Nat) (x : Team) : (s.setTeam k x).measured = s.measured := rfl
@[simp] theorem State.setTeam_meas (s : State) (k : Nat) (x : Team) : (s.setTeam k x).meas = s.meas := rfl
@[simp] theorem State.setTeam_quote (s : State) (k : Nat) (x : Team) : (s.setTeam k x).quote = s.quote := rfl
@[simp] theorem State.setTeam_hostQueue (s : State) (k : Nat) (x : Team) : (s.setTeam k x).hostQueue = s.hostQueue := rfl
@[simp] theorem State.setTeam_bar0Reads (s : State) (k : Nat) (x : Team) : (s.setTeam k x).bar0Reads = s.bar0Reads := rfl
@[simp] theorem State.setTeam_configs (s : State) (k : Nat) (x : Team) : (s.setTeam k x).configs = s.configs := rfl
@[simp] theorem State.setTeam_aer (s : State) (k : Nat) (x : Team) : (s.setTeam k x).aer = s.aer := rfl
@[simp] theorem State.setTeam_inputs (s : State) (k : Nat) (x : Team) : (s.setTeam k x).inputs = s.inputs := rfl
@[simp] theorem State.setTeam_awake (s : State) (k : Nat) (x : Team) : (s.setTeam k x).awake = s.awake := rfl
@[simp] theorem State.setTeam_requester (s : State) (k : Nat) (x : Team) : (s.setTeam k x).requester = s.requester := rfl
@[simp] theorem State.setTeam_bar2Size (s : State) (k : Nat) (x : Team) : (s.setTeam k x).bar2Size = s.bar2Size := rfl
@[simp] theorem State.setTeam_tbNext (s : State) (k : Nat) (x : Team) : (s.setTeam k x).tbNext = s.tbNext := rfl
@[simp] theorem State.setTeam_slew (s : State) (k : Nat) (x : Team) : (s.setTeam k x).slew = s.slew := rfl
@[simp] theorem State.setTeam_boot (s : State) (k : Nat) (x : Team) : (s.setTeam k x).boot = s.boot := rfl
@[simp] theorem State.setTeam_bootErr (s : State) (k : Nat) (x : Team) : (s.setTeam k x).bootErr = s.bootErr := rfl
@[simp] theorem State.setTeam_bootDie (s : State) (k : Nat) (x : Team) : (s.setTeam k x).bootDie = s.bootDie := rfl
@[simp] theorem State.setTeam_memUp (s : State) (k : Nat) (x : Team) : (s.setTeam k x).memUp = s.memUp := rfl
@[simp] theorem State.setTeam_seq (s : State) (k : Nat) (x : Team) : (s.setTeam k x).seq = s.seq := rfl
@[simp] theorem State.setTeam_nextId (s : State) (k : Nat) (x : Team) : (s.setTeam k x).nextId = s.nextId := rfl
@[simp] theorem State.setTeam_hostOut (s : State) (k : Nat) (x : Team) : (s.setTeam k x).hostOut = s.hostOut := rfl
@[simp] theorem State.setTeam_agenda (s : State) (k : Nat) (x : Team) : (s.setTeam k x).agenda = s.agenda := rfl
@[simp] theorem State.setTeam_lastIssue (s : State) (k : Nat) (x : Team) : (s.setTeam k x).lastIssue = s.lastIssue := rfl
@[simp] theorem State.setTeam_focus (s : State) (k : Nat) (x : Team) : (s.setTeam k x).focus = s.focus := rfl
@[simp] theorem State.setTeam_ages (s : State) (k : Nat) (x : Team) : (s.setTeam k x).ages = s.ages := rfl
@[simp] theorem State.setTeam_choice (s : State) (k : Nat) (x : Team) : (s.setTeam k x).choice = s.choice := rfl

/-! ### `setNode` -/

@[simp] theorem State.setNode_mem (s : State) (k : Nat) (x : Node) : (s.setNode k x).mem = s.mem := rfl
@[simp] theorem State.setNode_marks (s : State) (k : Nat) (x : Node) : (s.setNode k x).marks = s.marks := rfl
@[simp] theorem State.setNode_moved (s : State) (k : Nat) (x : Node) : (s.setNode k x).moved = s.moved := rfl
@[simp] theorem State.setNode_regs (s : State) (k : Nat) (x : Node) : (s.setNode k x).regs = s.regs := rfl
@[simp] theorem State.setNode_regWaits (s : State) (k : Nat) (x : Node) : (s.setNode k x).regWaits = s.regWaits := rfl
@[simp] theorem State.setNode_groups (s : State) (k : Nat) (x : Node) : (s.setNode k x).groups = s.groups := rfl
@[simp] theorem State.setNode_active (s : State) (k : Nat) (x : Node) : (s.setNode k x).active = s.active := rfl
@[simp] theorem State.setNode_teams (s : State) (k : Nat) (x : Node) : (s.setNode k x).teams = s.teams := rfl
@[simp] theorem State.setNode_ctxs (s : State) (k : Nat) (x : Node) : (s.setNode k x).ctxs = s.ctxs := rfl
@[simp] theorem State.setNode_cores (s : State) (k : Nat) (x : Node) : (s.setNode k x).cores = s.cores := rfl
@[simp] theorem State.setNode_clusters (s : State) (k : Nat) (x : Node) : (s.setNode k x).clusters = s.clusters := rfl
@[simp] theorem State.setNode_dies (s : State) (k : Nat) (x : Node) : (s.setNode k x).dies = s.dies := rfl
@[simp] theorem State.setNode_copies (s : State) (k : Nat) (x : Node) : (s.setNode k x).copies = s.copies := rfl
@[simp] theorem State.setNode_slicePins (s : State) (k : Nat) (x : Node) : (s.setNode k x).slicePins = s.slicePins := rfl
@[simp] theorem State.setNode_monitors (s : State) (k : Nat) (x : Node) : (s.setNode k x).monitors = s.monitors := rfl
@[simp] theorem State.setNode_culvert (s : State) (k : Nat) (x : Node) : (s.setNode k x).culvert = s.culvert := rfl
@[simp] theorem State.setNode_tlbi (s : State) (k : Nat) (x : Node) : (s.setNode k x).tlbi = s.tlbi := rfl
@[simp] theorem State.setNode_mode (s : State) (k : Nat) (x : Node) : (s.setNode k x).mode = s.mode := rfl
@[simp] theorem State.setNode_modeWait (s : State) (k : Nat) (x : Node) : (s.setNode k x).modeWait = s.modeWait := rfl
@[simp] theorem State.setNode_epochWait (s : State) (k : Nat) (x : Node) : (s.setNode k x).epochWait = s.epochWait := rfl
@[simp] theorem State.setNode_msix (s : State) (k : Nat) (x : Node) : (s.setNode k x).msix = s.msix := rfl
@[simp] theorem State.setNode_msixPend (s : State) (k : Nat) (x : Node) : (s.setNode k x).msixPend = s.msixPend := rfl
@[simp] theorem State.setNode_window (s : State) (k : Nat) (x : Node) : (s.setNode k x).window = s.window := rfl
@[simp] theorem State.setNode_measured (s : State) (k : Nat) (x : Node) : (s.setNode k x).measured = s.measured := rfl
@[simp] theorem State.setNode_meas (s : State) (k : Nat) (x : Node) : (s.setNode k x).meas = s.meas := rfl
@[simp] theorem State.setNode_quote (s : State) (k : Nat) (x : Node) : (s.setNode k x).quote = s.quote := rfl
@[simp] theorem State.setNode_hostQueue (s : State) (k : Nat) (x : Node) : (s.setNode k x).hostQueue = s.hostQueue := rfl
@[simp] theorem State.setNode_bar0Reads (s : State) (k : Nat) (x : Node) : (s.setNode k x).bar0Reads = s.bar0Reads := rfl
@[simp] theorem State.setNode_configs (s : State) (k : Nat) (x : Node) : (s.setNode k x).configs = s.configs := rfl
@[simp] theorem State.setNode_aer (s : State) (k : Nat) (x : Node) : (s.setNode k x).aer = s.aer := rfl
@[simp] theorem State.setNode_inputs (s : State) (k : Nat) (x : Node) : (s.setNode k x).inputs = s.inputs := rfl
@[simp] theorem State.setNode_awake (s : State) (k : Nat) (x : Node) : (s.setNode k x).awake = s.awake := rfl
@[simp] theorem State.setNode_requester (s : State) (k : Nat) (x : Node) : (s.setNode k x).requester = s.requester := rfl
@[simp] theorem State.setNode_bar2Size (s : State) (k : Nat) (x : Node) : (s.setNode k x).bar2Size = s.bar2Size := rfl
@[simp] theorem State.setNode_tbNext (s : State) (k : Nat) (x : Node) : (s.setNode k x).tbNext = s.tbNext := rfl
@[simp] theorem State.setNode_slew (s : State) (k : Nat) (x : Node) : (s.setNode k x).slew = s.slew := rfl
@[simp] theorem State.setNode_boot (s : State) (k : Nat) (x : Node) : (s.setNode k x).boot = s.boot := rfl
@[simp] theorem State.setNode_bootErr (s : State) (k : Nat) (x : Node) : (s.setNode k x).bootErr = s.bootErr := rfl
@[simp] theorem State.setNode_bootDie (s : State) (k : Nat) (x : Node) : (s.setNode k x).bootDie = s.bootDie := rfl
@[simp] theorem State.setNode_memUp (s : State) (k : Nat) (x : Node) : (s.setNode k x).memUp = s.memUp := rfl
@[simp] theorem State.setNode_seq (s : State) (k : Nat) (x : Node) : (s.setNode k x).seq = s.seq := rfl
@[simp] theorem State.setNode_nextId (s : State) (k : Nat) (x : Node) : (s.setNode k x).nextId = s.nextId := rfl
@[simp] theorem State.setNode_hostOut (s : State) (k : Nat) (x : Node) : (s.setNode k x).hostOut = s.hostOut := rfl
@[simp] theorem State.setNode_agenda (s : State) (k : Nat) (x : Node) : (s.setNode k x).agenda = s.agenda := rfl
@[simp] theorem State.setNode_lastIssue (s : State) (k : Nat) (x : Node) : (s.setNode k x).lastIssue = s.lastIssue := rfl
@[simp] theorem State.setNode_focus (s : State) (k : Nat) (x : Node) : (s.setNode k x).focus = s.focus := rfl
@[simp] theorem State.setNode_ages (s : State) (k : Nat) (x : Node) : (s.setNode k x).ages = s.ages := rfl
@[simp] theorem State.setNode_choice (s : State) (k : Nat) (x : Node) : (s.setNode k x).choice = s.choice := rfl

/-! ### `setCtx` -/

@[simp] theorem State.setCtx_mem (s : State) (k : Nat) (x : Ctx) : (s.setCtx k x).mem = s.mem := rfl
@[simp] theorem State.setCtx_marks (s : State) (k : Nat) (x : Ctx) : (s.setCtx k x).marks = s.marks := rfl
@[simp] theorem State.setCtx_moved (s : State) (k : Nat) (x : Ctx) : (s.setCtx k x).moved = s.moved := rfl
@[simp] theorem State.setCtx_regs (s : State) (k : Nat) (x : Ctx) : (s.setCtx k x).regs = s.regs := rfl
@[simp] theorem State.setCtx_regWaits (s : State) (k : Nat) (x : Ctx) : (s.setCtx k x).regWaits = s.regWaits := rfl
@[simp] theorem State.setCtx_groups (s : State) (k : Nat) (x : Ctx) : (s.setCtx k x).groups = s.groups := rfl
@[simp] theorem State.setCtx_active (s : State) (k : Nat) (x : Ctx) : (s.setCtx k x).active = s.active := rfl
@[simp] theorem State.setCtx_teams (s : State) (k : Nat) (x : Ctx) : (s.setCtx k x).teams = s.teams := rfl
@[simp] theorem State.setCtx_nodes (s : State) (k : Nat) (x : Ctx) : (s.setCtx k x).nodes = s.nodes := rfl
@[simp] theorem State.setCtx_cores (s : State) (k : Nat) (x : Ctx) : (s.setCtx k x).cores = s.cores := rfl
@[simp] theorem State.setCtx_clusters (s : State) (k : Nat) (x : Ctx) : (s.setCtx k x).clusters = s.clusters := rfl
@[simp] theorem State.setCtx_dies (s : State) (k : Nat) (x : Ctx) : (s.setCtx k x).dies = s.dies := rfl
@[simp] theorem State.setCtx_copies (s : State) (k : Nat) (x : Ctx) : (s.setCtx k x).copies = s.copies := rfl
@[simp] theorem State.setCtx_slicePins (s : State) (k : Nat) (x : Ctx) : (s.setCtx k x).slicePins = s.slicePins := rfl
@[simp] theorem State.setCtx_monitors (s : State) (k : Nat) (x : Ctx) : (s.setCtx k x).monitors = s.monitors := rfl
@[simp] theorem State.setCtx_culvert (s : State) (k : Nat) (x : Ctx) : (s.setCtx k x).culvert = s.culvert := rfl
@[simp] theorem State.setCtx_tlbi (s : State) (k : Nat) (x : Ctx) : (s.setCtx k x).tlbi = s.tlbi := rfl
@[simp] theorem State.setCtx_mode (s : State) (k : Nat) (x : Ctx) : (s.setCtx k x).mode = s.mode := rfl
@[simp] theorem State.setCtx_modeWait (s : State) (k : Nat) (x : Ctx) : (s.setCtx k x).modeWait = s.modeWait := rfl
@[simp] theorem State.setCtx_epochWait (s : State) (k : Nat) (x : Ctx) : (s.setCtx k x).epochWait = s.epochWait := rfl
@[simp] theorem State.setCtx_msix (s : State) (k : Nat) (x : Ctx) : (s.setCtx k x).msix = s.msix := rfl
@[simp] theorem State.setCtx_msixPend (s : State) (k : Nat) (x : Ctx) : (s.setCtx k x).msixPend = s.msixPend := rfl
@[simp] theorem State.setCtx_window (s : State) (k : Nat) (x : Ctx) : (s.setCtx k x).window = s.window := rfl
@[simp] theorem State.setCtx_measured (s : State) (k : Nat) (x : Ctx) : (s.setCtx k x).measured = s.measured := rfl
@[simp] theorem State.setCtx_meas (s : State) (k : Nat) (x : Ctx) : (s.setCtx k x).meas = s.meas := rfl
@[simp] theorem State.setCtx_quote (s : State) (k : Nat) (x : Ctx) : (s.setCtx k x).quote = s.quote := rfl
@[simp] theorem State.setCtx_hostQueue (s : State) (k : Nat) (x : Ctx) : (s.setCtx k x).hostQueue = s.hostQueue := rfl
@[simp] theorem State.setCtx_bar0Reads (s : State) (k : Nat) (x : Ctx) : (s.setCtx k x).bar0Reads = s.bar0Reads := rfl
@[simp] theorem State.setCtx_configs (s : State) (k : Nat) (x : Ctx) : (s.setCtx k x).configs = s.configs := rfl
@[simp] theorem State.setCtx_aer (s : State) (k : Nat) (x : Ctx) : (s.setCtx k x).aer = s.aer := rfl
@[simp] theorem State.setCtx_inputs (s : State) (k : Nat) (x : Ctx) : (s.setCtx k x).inputs = s.inputs := rfl
@[simp] theorem State.setCtx_awake (s : State) (k : Nat) (x : Ctx) : (s.setCtx k x).awake = s.awake := rfl
@[simp] theorem State.setCtx_requester (s : State) (k : Nat) (x : Ctx) : (s.setCtx k x).requester = s.requester := rfl
@[simp] theorem State.setCtx_bar2Size (s : State) (k : Nat) (x : Ctx) : (s.setCtx k x).bar2Size = s.bar2Size := rfl
@[simp] theorem State.setCtx_tbNext (s : State) (k : Nat) (x : Ctx) : (s.setCtx k x).tbNext = s.tbNext := rfl
@[simp] theorem State.setCtx_slew (s : State) (k : Nat) (x : Ctx) : (s.setCtx k x).slew = s.slew := rfl
@[simp] theorem State.setCtx_boot (s : State) (k : Nat) (x : Ctx) : (s.setCtx k x).boot = s.boot := rfl
@[simp] theorem State.setCtx_bootErr (s : State) (k : Nat) (x : Ctx) : (s.setCtx k x).bootErr = s.bootErr := rfl
@[simp] theorem State.setCtx_bootDie (s : State) (k : Nat) (x : Ctx) : (s.setCtx k x).bootDie = s.bootDie := rfl
@[simp] theorem State.setCtx_memUp (s : State) (k : Nat) (x : Ctx) : (s.setCtx k x).memUp = s.memUp := rfl
@[simp] theorem State.setCtx_seq (s : State) (k : Nat) (x : Ctx) : (s.setCtx k x).seq = s.seq := rfl
@[simp] theorem State.setCtx_nextId (s : State) (k : Nat) (x : Ctx) : (s.setCtx k x).nextId = s.nextId := rfl
@[simp] theorem State.setCtx_hostOut (s : State) (k : Nat) (x : Ctx) : (s.setCtx k x).hostOut = s.hostOut := rfl
@[simp] theorem State.setCtx_agenda (s : State) (k : Nat) (x : Ctx) : (s.setCtx k x).agenda = s.agenda := rfl
@[simp] theorem State.setCtx_lastIssue (s : State) (k : Nat) (x : Ctx) : (s.setCtx k x).lastIssue = s.lastIssue := rfl
@[simp] theorem State.setCtx_focus (s : State) (k : Nat) (x : Ctx) : (s.setCtx k x).focus = s.focus := rfl
@[simp] theorem State.setCtx_ages (s : State) (k : Nat) (x : Ctx) : (s.setCtx k x).ages = s.ages := rfl
@[simp] theorem State.setCtx_choice (s : State) (k : Nat) (x : Ctx) : (s.setCtx k x).choice = s.choice := rfl

/-! ### `setCopy` -/

@[simp] theorem State.setCopy_mem (s : State) (k : Nat) (x : Copy) : (s.setCopy k x).mem = s.mem := rfl
@[simp] theorem State.setCopy_marks (s : State) (k : Nat) (x : Copy) : (s.setCopy k x).marks = s.marks := rfl
@[simp] theorem State.setCopy_moved (s : State) (k : Nat) (x : Copy) : (s.setCopy k x).moved = s.moved := rfl
@[simp] theorem State.setCopy_regs (s : State) (k : Nat) (x : Copy) : (s.setCopy k x).regs = s.regs := rfl
@[simp] theorem State.setCopy_regWaits (s : State) (k : Nat) (x : Copy) : (s.setCopy k x).regWaits = s.regWaits := rfl
@[simp] theorem State.setCopy_groups (s : State) (k : Nat) (x : Copy) : (s.setCopy k x).groups = s.groups := rfl
@[simp] theorem State.setCopy_active (s : State) (k : Nat) (x : Copy) : (s.setCopy k x).active = s.active := rfl
@[simp] theorem State.setCopy_teams (s : State) (k : Nat) (x : Copy) : (s.setCopy k x).teams = s.teams := rfl
@[simp] theorem State.setCopy_nodes (s : State) (k : Nat) (x : Copy) : (s.setCopy k x).nodes = s.nodes := rfl
@[simp] theorem State.setCopy_ctxs (s : State) (k : Nat) (x : Copy) : (s.setCopy k x).ctxs = s.ctxs := rfl
@[simp] theorem State.setCopy_cores (s : State) (k : Nat) (x : Copy) : (s.setCopy k x).cores = s.cores := rfl
@[simp] theorem State.setCopy_clusters (s : State) (k : Nat) (x : Copy) : (s.setCopy k x).clusters = s.clusters := rfl
@[simp] theorem State.setCopy_dies (s : State) (k : Nat) (x : Copy) : (s.setCopy k x).dies = s.dies := rfl
@[simp] theorem State.setCopy_slicePins (s : State) (k : Nat) (x : Copy) : (s.setCopy k x).slicePins = s.slicePins := rfl
@[simp] theorem State.setCopy_monitors (s : State) (k : Nat) (x : Copy) : (s.setCopy k x).monitors = s.monitors := rfl
@[simp] theorem State.setCopy_culvert (s : State) (k : Nat) (x : Copy) : (s.setCopy k x).culvert = s.culvert := rfl
@[simp] theorem State.setCopy_tlbi (s : State) (k : Nat) (x : Copy) : (s.setCopy k x).tlbi = s.tlbi := rfl
@[simp] theorem State.setCopy_mode (s : State) (k : Nat) (x : Copy) : (s.setCopy k x).mode = s.mode := rfl
@[simp] theorem State.setCopy_modeWait (s : State) (k : Nat) (x : Copy) : (s.setCopy k x).modeWait = s.modeWait := rfl
@[simp] theorem State.setCopy_epochWait (s : State) (k : Nat) (x : Copy) : (s.setCopy k x).epochWait = s.epochWait := rfl
@[simp] theorem State.setCopy_msix (s : State) (k : Nat) (x : Copy) : (s.setCopy k x).msix = s.msix := rfl
@[simp] theorem State.setCopy_msixPend (s : State) (k : Nat) (x : Copy) : (s.setCopy k x).msixPend = s.msixPend := rfl
@[simp] theorem State.setCopy_window (s : State) (k : Nat) (x : Copy) : (s.setCopy k x).window = s.window := rfl
@[simp] theorem State.setCopy_measured (s : State) (k : Nat) (x : Copy) : (s.setCopy k x).measured = s.measured := rfl
@[simp] theorem State.setCopy_meas (s : State) (k : Nat) (x : Copy) : (s.setCopy k x).meas = s.meas := rfl
@[simp] theorem State.setCopy_quote (s : State) (k : Nat) (x : Copy) : (s.setCopy k x).quote = s.quote := rfl
@[simp] theorem State.setCopy_hostQueue (s : State) (k : Nat) (x : Copy) : (s.setCopy k x).hostQueue = s.hostQueue := rfl
@[simp] theorem State.setCopy_bar0Reads (s : State) (k : Nat) (x : Copy) : (s.setCopy k x).bar0Reads = s.bar0Reads := rfl
@[simp] theorem State.setCopy_configs (s : State) (k : Nat) (x : Copy) : (s.setCopy k x).configs = s.configs := rfl
@[simp] theorem State.setCopy_aer (s : State) (k : Nat) (x : Copy) : (s.setCopy k x).aer = s.aer := rfl
@[simp] theorem State.setCopy_inputs (s : State) (k : Nat) (x : Copy) : (s.setCopy k x).inputs = s.inputs := rfl
@[simp] theorem State.setCopy_awake (s : State) (k : Nat) (x : Copy) : (s.setCopy k x).awake = s.awake := rfl
@[simp] theorem State.setCopy_requester (s : State) (k : Nat) (x : Copy) : (s.setCopy k x).requester = s.requester := rfl
@[simp] theorem State.setCopy_bar2Size (s : State) (k : Nat) (x : Copy) : (s.setCopy k x).bar2Size = s.bar2Size := rfl
@[simp] theorem State.setCopy_tbNext (s : State) (k : Nat) (x : Copy) : (s.setCopy k x).tbNext = s.tbNext := rfl
@[simp] theorem State.setCopy_slew (s : State) (k : Nat) (x : Copy) : (s.setCopy k x).slew = s.slew := rfl
@[simp] theorem State.setCopy_boot (s : State) (k : Nat) (x : Copy) : (s.setCopy k x).boot = s.boot := rfl
@[simp] theorem State.setCopy_bootErr (s : State) (k : Nat) (x : Copy) : (s.setCopy k x).bootErr = s.bootErr := rfl
@[simp] theorem State.setCopy_bootDie (s : State) (k : Nat) (x : Copy) : (s.setCopy k x).bootDie = s.bootDie := rfl
@[simp] theorem State.setCopy_memUp (s : State) (k : Nat) (x : Copy) : (s.setCopy k x).memUp = s.memUp := rfl
@[simp] theorem State.setCopy_seq (s : State) (k : Nat) (x : Copy) : (s.setCopy k x).seq = s.seq := rfl
@[simp] theorem State.setCopy_nextId (s : State) (k : Nat) (x : Copy) : (s.setCopy k x).nextId = s.nextId := rfl
@[simp] theorem State.setCopy_hostOut (s : State) (k : Nat) (x : Copy) : (s.setCopy k x).hostOut = s.hostOut := rfl
@[simp] theorem State.setCopy_agenda (s : State) (k : Nat) (x : Copy) : (s.setCopy k x).agenda = s.agenda := rfl
@[simp] theorem State.setCopy_lastIssue (s : State) (k : Nat) (x : Copy) : (s.setCopy k x).lastIssue = s.lastIssue := rfl
@[simp] theorem State.setCopy_focus (s : State) (k : Nat) (x : Copy) : (s.setCopy k x).focus = s.focus := rfl
@[simp] theorem State.setCopy_ages (s : State) (k : Nat) (x : Copy) : (s.setCopy k x).ages = s.ages := rfl
@[simp] theorem State.setCopy_choice (s : State) (k : Nat) (x : Copy) : (s.setCopy k x).choice = s.choice := rfl

/-! ### `setMonitor` -/

@[simp] theorem State.setMonitor_mem (s : State) (k : Nat) (x : Monitor) : (s.setMonitor k x).mem = s.mem := rfl
@[simp] theorem State.setMonitor_marks (s : State) (k : Nat) (x : Monitor) : (s.setMonitor k x).marks = s.marks := rfl
@[simp] theorem State.setMonitor_moved (s : State) (k : Nat) (x : Monitor) : (s.setMonitor k x).moved = s.moved := rfl
@[simp] theorem State.setMonitor_regs (s : State) (k : Nat) (x : Monitor) : (s.setMonitor k x).regs = s.regs := rfl
@[simp] theorem State.setMonitor_regWaits (s : State) (k : Nat) (x : Monitor) : (s.setMonitor k x).regWaits = s.regWaits := rfl
@[simp] theorem State.setMonitor_groups (s : State) (k : Nat) (x : Monitor) : (s.setMonitor k x).groups = s.groups := rfl
@[simp] theorem State.setMonitor_active (s : State) (k : Nat) (x : Monitor) : (s.setMonitor k x).active = s.active := rfl
@[simp] theorem State.setMonitor_teams (s : State) (k : Nat) (x : Monitor) : (s.setMonitor k x).teams = s.teams := rfl
@[simp] theorem State.setMonitor_nodes (s : State) (k : Nat) (x : Monitor) : (s.setMonitor k x).nodes = s.nodes := rfl
@[simp] theorem State.setMonitor_ctxs (s : State) (k : Nat) (x : Monitor) : (s.setMonitor k x).ctxs = s.ctxs := rfl
@[simp] theorem State.setMonitor_cores (s : State) (k : Nat) (x : Monitor) : (s.setMonitor k x).cores = s.cores := rfl
@[simp] theorem State.setMonitor_clusters (s : State) (k : Nat) (x : Monitor) : (s.setMonitor k x).clusters = s.clusters := rfl
@[simp] theorem State.setMonitor_dies (s : State) (k : Nat) (x : Monitor) : (s.setMonitor k x).dies = s.dies := rfl
@[simp] theorem State.setMonitor_copies (s : State) (k : Nat) (x : Monitor) : (s.setMonitor k x).copies = s.copies := rfl
@[simp] theorem State.setMonitor_slicePins (s : State) (k : Nat) (x : Monitor) : (s.setMonitor k x).slicePins = s.slicePins := rfl
@[simp] theorem State.setMonitor_culvert (s : State) (k : Nat) (x : Monitor) : (s.setMonitor k x).culvert = s.culvert := rfl
@[simp] theorem State.setMonitor_tlbi (s : State) (k : Nat) (x : Monitor) : (s.setMonitor k x).tlbi = s.tlbi := rfl
@[simp] theorem State.setMonitor_mode (s : State) (k : Nat) (x : Monitor) : (s.setMonitor k x).mode = s.mode := rfl
@[simp] theorem State.setMonitor_modeWait (s : State) (k : Nat) (x : Monitor) : (s.setMonitor k x).modeWait = s.modeWait := rfl
@[simp] theorem State.setMonitor_epochWait (s : State) (k : Nat) (x : Monitor) : (s.setMonitor k x).epochWait = s.epochWait := rfl
@[simp] theorem State.setMonitor_msix (s : State) (k : Nat) (x : Monitor) : (s.setMonitor k x).msix = s.msix := rfl
@[simp] theorem State.setMonitor_msixPend (s : State) (k : Nat) (x : Monitor) : (s.setMonitor k x).msixPend = s.msixPend := rfl
@[simp] theorem State.setMonitor_window (s : State) (k : Nat) (x : Monitor) : (s.setMonitor k x).window = s.window := rfl
@[simp] theorem State.setMonitor_measured (s : State) (k : Nat) (x : Monitor) : (s.setMonitor k x).measured = s.measured := rfl
@[simp] theorem State.setMonitor_meas (s : State) (k : Nat) (x : Monitor) : (s.setMonitor k x).meas = s.meas := rfl
@[simp] theorem State.setMonitor_quote (s : State) (k : Nat) (x : Monitor) : (s.setMonitor k x).quote = s.quote := rfl
@[simp] theorem State.setMonitor_hostQueue (s : State) (k : Nat) (x : Monitor) : (s.setMonitor k x).hostQueue = s.hostQueue := rfl
@[simp] theorem State.setMonitor_bar0Reads (s : State) (k : Nat) (x : Monitor) : (s.setMonitor k x).bar0Reads = s.bar0Reads := rfl
@[simp] theorem State.setMonitor_configs (s : State) (k : Nat) (x : Monitor) : (s.setMonitor k x).configs = s.configs := rfl
@[simp] theorem State.setMonitor_aer (s : State) (k : Nat) (x : Monitor) : (s.setMonitor k x).aer = s.aer := rfl
@[simp] theorem State.setMonitor_inputs (s : State) (k : Nat) (x : Monitor) : (s.setMonitor k x).inputs = s.inputs := rfl
@[simp] theorem State.setMonitor_awake (s : State) (k : Nat) (x : Monitor) : (s.setMonitor k x).awake = s.awake := rfl
@[simp] theorem State.setMonitor_requester (s : State) (k : Nat) (x : Monitor) : (s.setMonitor k x).requester = s.requester := rfl
@[simp] theorem State.setMonitor_bar2Size (s : State) (k : Nat) (x : Monitor) : (s.setMonitor k x).bar2Size = s.bar2Size := rfl
@[simp] theorem State.setMonitor_tbNext (s : State) (k : Nat) (x : Monitor) : (s.setMonitor k x).tbNext = s.tbNext := rfl
@[simp] theorem State.setMonitor_slew (s : State) (k : Nat) (x : Monitor) : (s.setMonitor k x).slew = s.slew := rfl
@[simp] theorem State.setMonitor_boot (s : State) (k : Nat) (x : Monitor) : (s.setMonitor k x).boot = s.boot := rfl
@[simp] theorem State.setMonitor_bootErr (s : State) (k : Nat) (x : Monitor) : (s.setMonitor k x).bootErr = s.bootErr := rfl
@[simp] theorem State.setMonitor_bootDie (s : State) (k : Nat) (x : Monitor) : (s.setMonitor k x).bootDie = s.bootDie := rfl
@[simp] theorem State.setMonitor_memUp (s : State) (k : Nat) (x : Monitor) : (s.setMonitor k x).memUp = s.memUp := rfl
@[simp] theorem State.setMonitor_seq (s : State) (k : Nat) (x : Monitor) : (s.setMonitor k x).seq = s.seq := rfl
@[simp] theorem State.setMonitor_nextId (s : State) (k : Nat) (x : Monitor) : (s.setMonitor k x).nextId = s.nextId := rfl
@[simp] theorem State.setMonitor_hostOut (s : State) (k : Nat) (x : Monitor) : (s.setMonitor k x).hostOut = s.hostOut := rfl
@[simp] theorem State.setMonitor_agenda (s : State) (k : Nat) (x : Monitor) : (s.setMonitor k x).agenda = s.agenda := rfl
@[simp] theorem State.setMonitor_lastIssue (s : State) (k : Nat) (x : Monitor) : (s.setMonitor k x).lastIssue = s.lastIssue := rfl
@[simp] theorem State.setMonitor_focus (s : State) (k : Nat) (x : Monitor) : (s.setMonitor k x).focus = s.focus := rfl
@[simp] theorem State.setMonitor_ages (s : State) (k : Nat) (x : Monitor) : (s.setMonitor k x).ages = s.ages := rfl
@[simp] theorem State.setMonitor_choice (s : State) (k : Nat) (x : Monitor) : (s.setMonitor k x).choice = s.choice := rfl

/-! ### `setIg` -/

@[simp] theorem State.setIg_mem (s : State) (k : Nat) (x : IssueGroup) : (s.setIg k x).mem = s.mem := rfl
@[simp] theorem State.setIg_marks (s : State) (k : Nat) (x : IssueGroup) : (s.setIg k x).marks = s.marks := rfl
@[simp] theorem State.setIg_moved (s : State) (k : Nat) (x : IssueGroup) : (s.setIg k x).moved = s.moved := rfl
@[simp] theorem State.setIg_regs (s : State) (k : Nat) (x : IssueGroup) : (s.setIg k x).regs = s.regs := rfl
@[simp] theorem State.setIg_regWaits (s : State) (k : Nat) (x : IssueGroup) : (s.setIg k x).regWaits = s.regWaits := rfl
@[simp] theorem State.setIg_groups (s : State) (k : Nat) (x : IssueGroup) : (s.setIg k x).groups = s.groups := rfl
@[simp] theorem State.setIg_teams (s : State) (k : Nat) (x : IssueGroup) : (s.setIg k x).teams = s.teams := rfl
@[simp] theorem State.setIg_nodes (s : State) (k : Nat) (x : IssueGroup) : (s.setIg k x).nodes = s.nodes := rfl
@[simp] theorem State.setIg_ctxs (s : State) (k : Nat) (x : IssueGroup) : (s.setIg k x).ctxs = s.ctxs := rfl
@[simp] theorem State.setIg_cores (s : State) (k : Nat) (x : IssueGroup) : (s.setIg k x).cores = s.cores := rfl
@[simp] theorem State.setIg_clusters (s : State) (k : Nat) (x : IssueGroup) : (s.setIg k x).clusters = s.clusters := rfl
@[simp] theorem State.setIg_dies (s : State) (k : Nat) (x : IssueGroup) : (s.setIg k x).dies = s.dies := rfl
@[simp] theorem State.setIg_copies (s : State) (k : Nat) (x : IssueGroup) : (s.setIg k x).copies = s.copies := rfl
@[simp] theorem State.setIg_slicePins (s : State) (k : Nat) (x : IssueGroup) : (s.setIg k x).slicePins = s.slicePins := rfl
@[simp] theorem State.setIg_monitors (s : State) (k : Nat) (x : IssueGroup) : (s.setIg k x).monitors = s.monitors := rfl
@[simp] theorem State.setIg_culvert (s : State) (k : Nat) (x : IssueGroup) : (s.setIg k x).culvert = s.culvert := rfl
@[simp] theorem State.setIg_tlbi (s : State) (k : Nat) (x : IssueGroup) : (s.setIg k x).tlbi = s.tlbi := rfl
@[simp] theorem State.setIg_mode (s : State) (k : Nat) (x : IssueGroup) : (s.setIg k x).mode = s.mode := rfl
@[simp] theorem State.setIg_modeWait (s : State) (k : Nat) (x : IssueGroup) : (s.setIg k x).modeWait = s.modeWait := rfl
@[simp] theorem State.setIg_epochWait (s : State) (k : Nat) (x : IssueGroup) : (s.setIg k x).epochWait = s.epochWait := rfl
@[simp] theorem State.setIg_msix (s : State) (k : Nat) (x : IssueGroup) : (s.setIg k x).msix = s.msix := rfl
@[simp] theorem State.setIg_msixPend (s : State) (k : Nat) (x : IssueGroup) : (s.setIg k x).msixPend = s.msixPend := rfl
@[simp] theorem State.setIg_window (s : State) (k : Nat) (x : IssueGroup) : (s.setIg k x).window = s.window := rfl
@[simp] theorem State.setIg_measured (s : State) (k : Nat) (x : IssueGroup) : (s.setIg k x).measured = s.measured := rfl
@[simp] theorem State.setIg_meas (s : State) (k : Nat) (x : IssueGroup) : (s.setIg k x).meas = s.meas := rfl
@[simp] theorem State.setIg_quote (s : State) (k : Nat) (x : IssueGroup) : (s.setIg k x).quote = s.quote := rfl
@[simp] theorem State.setIg_hostQueue (s : State) (k : Nat) (x : IssueGroup) : (s.setIg k x).hostQueue = s.hostQueue := rfl
@[simp] theorem State.setIg_bar0Reads (s : State) (k : Nat) (x : IssueGroup) : (s.setIg k x).bar0Reads = s.bar0Reads := rfl
@[simp] theorem State.setIg_configs (s : State) (k : Nat) (x : IssueGroup) : (s.setIg k x).configs = s.configs := rfl
@[simp] theorem State.setIg_aer (s : State) (k : Nat) (x : IssueGroup) : (s.setIg k x).aer = s.aer := rfl
@[simp] theorem State.setIg_inputs (s : State) (k : Nat) (x : IssueGroup) : (s.setIg k x).inputs = s.inputs := rfl
@[simp] theorem State.setIg_awake (s : State) (k : Nat) (x : IssueGroup) : (s.setIg k x).awake = s.awake := rfl
@[simp] theorem State.setIg_requester (s : State) (k : Nat) (x : IssueGroup) : (s.setIg k x).requester = s.requester := rfl
@[simp] theorem State.setIg_bar2Size (s : State) (k : Nat) (x : IssueGroup) : (s.setIg k x).bar2Size = s.bar2Size := rfl
@[simp] theorem State.setIg_tbNext (s : State) (k : Nat) (x : IssueGroup) : (s.setIg k x).tbNext = s.tbNext := rfl
@[simp] theorem State.setIg_slew (s : State) (k : Nat) (x : IssueGroup) : (s.setIg k x).slew = s.slew := rfl
@[simp] theorem State.setIg_boot (s : State) (k : Nat) (x : IssueGroup) : (s.setIg k x).boot = s.boot := rfl
@[simp] theorem State.setIg_bootErr (s : State) (k : Nat) (x : IssueGroup) : (s.setIg k x).bootErr = s.bootErr := rfl
@[simp] theorem State.setIg_bootDie (s : State) (k : Nat) (x : IssueGroup) : (s.setIg k x).bootDie = s.bootDie := rfl
@[simp] theorem State.setIg_memUp (s : State) (k : Nat) (x : IssueGroup) : (s.setIg k x).memUp = s.memUp := rfl
@[simp] theorem State.setIg_seq (s : State) (k : Nat) (x : IssueGroup) : (s.setIg k x).seq = s.seq := rfl
@[simp] theorem State.setIg_nextId (s : State) (k : Nat) (x : IssueGroup) : (s.setIg k x).nextId = s.nextId := rfl
@[simp] theorem State.setIg_hostOut (s : State) (k : Nat) (x : IssueGroup) : (s.setIg k x).hostOut = s.hostOut := rfl
@[simp] theorem State.setIg_agenda (s : State) (k : Nat) (x : IssueGroup) : (s.setIg k x).agenda = s.agenda := rfl
@[simp] theorem State.setIg_lastIssue (s : State) (k : Nat) (x : IssueGroup) : (s.setIg k x).lastIssue = s.lastIssue := rfl
@[simp] theorem State.setIg_focus (s : State) (k : Nat) (x : IssueGroup) : (s.setIg k x).focus = s.focus := rfl
@[simp] theorem State.setIg_ages (s : State) (k : Nat) (x : IssueGroup) : (s.setIg k x).ages = s.ages := rfl
@[simp] theorem State.setIg_choice (s : State) (k : Nat) (x : IssueGroup) : (s.setIg k x).choice = s.choice := rfl

/-! ### `dropIg` -/

@[simp] theorem State.dropIg_mem (s : State) (k : Nat) : (s.dropIg k).mem = s.mem := rfl
@[simp] theorem State.dropIg_marks (s : State) (k : Nat) : (s.dropIg k).marks = s.marks := rfl
@[simp] theorem State.dropIg_moved (s : State) (k : Nat) : (s.dropIg k).moved = s.moved := rfl
@[simp] theorem State.dropIg_regs (s : State) (k : Nat) : (s.dropIg k).regs = s.regs := rfl
@[simp] theorem State.dropIg_regWaits (s : State) (k : Nat) : (s.dropIg k).regWaits = s.regWaits := rfl
@[simp] theorem State.dropIg_groups (s : State) (k : Nat) : (s.dropIg k).groups = s.groups := rfl
@[simp] theorem State.dropIg_teams (s : State) (k : Nat) : (s.dropIg k).teams = s.teams := rfl
@[simp] theorem State.dropIg_nodes (s : State) (k : Nat) : (s.dropIg k).nodes = s.nodes := rfl
@[simp] theorem State.dropIg_ctxs (s : State) (k : Nat) : (s.dropIg k).ctxs = s.ctxs := rfl
@[simp] theorem State.dropIg_cores (s : State) (k : Nat) : (s.dropIg k).cores = s.cores := rfl
@[simp] theorem State.dropIg_clusters (s : State) (k : Nat) : (s.dropIg k).clusters = s.clusters := rfl
@[simp] theorem State.dropIg_dies (s : State) (k : Nat) : (s.dropIg k).dies = s.dies := rfl
@[simp] theorem State.dropIg_copies (s : State) (k : Nat) : (s.dropIg k).copies = s.copies := rfl
@[simp] theorem State.dropIg_slicePins (s : State) (k : Nat) : (s.dropIg k).slicePins = s.slicePins := rfl
@[simp] theorem State.dropIg_monitors (s : State) (k : Nat) : (s.dropIg k).monitors = s.monitors := rfl
@[simp] theorem State.dropIg_culvert (s : State) (k : Nat) : (s.dropIg k).culvert = s.culvert := rfl
@[simp] theorem State.dropIg_tlbi (s : State) (k : Nat) : (s.dropIg k).tlbi = s.tlbi := rfl
@[simp] theorem State.dropIg_mode (s : State) (k : Nat) : (s.dropIg k).mode = s.mode := rfl
@[simp] theorem State.dropIg_modeWait (s : State) (k : Nat) : (s.dropIg k).modeWait = s.modeWait := rfl
@[simp] theorem State.dropIg_epochWait (s : State) (k : Nat) : (s.dropIg k).epochWait = s.epochWait := rfl
@[simp] theorem State.dropIg_msix (s : State) (k : Nat) : (s.dropIg k).msix = s.msix := rfl
@[simp] theorem State.dropIg_msixPend (s : State) (k : Nat) : (s.dropIg k).msixPend = s.msixPend := rfl
@[simp] theorem State.dropIg_window (s : State) (k : Nat) : (s.dropIg k).window = s.window := rfl
@[simp] theorem State.dropIg_measured (s : State) (k : Nat) : (s.dropIg k).measured = s.measured := rfl
@[simp] theorem State.dropIg_meas (s : State) (k : Nat) : (s.dropIg k).meas = s.meas := rfl
@[simp] theorem State.dropIg_quote (s : State) (k : Nat) : (s.dropIg k).quote = s.quote := rfl
@[simp] theorem State.dropIg_hostQueue (s : State) (k : Nat) : (s.dropIg k).hostQueue = s.hostQueue := rfl
@[simp] theorem State.dropIg_bar0Reads (s : State) (k : Nat) : (s.dropIg k).bar0Reads = s.bar0Reads := rfl
@[simp] theorem State.dropIg_configs (s : State) (k : Nat) : (s.dropIg k).configs = s.configs := rfl
@[simp] theorem State.dropIg_aer (s : State) (k : Nat) : (s.dropIg k).aer = s.aer := rfl
@[simp] theorem State.dropIg_inputs (s : State) (k : Nat) : (s.dropIg k).inputs = s.inputs := rfl
@[simp] theorem State.dropIg_awake (s : State) (k : Nat) : (s.dropIg k).awake = s.awake := rfl
@[simp] theorem State.dropIg_requester (s : State) (k : Nat) : (s.dropIg k).requester = s.requester := rfl
@[simp] theorem State.dropIg_bar2Size (s : State) (k : Nat) : (s.dropIg k).bar2Size = s.bar2Size := rfl
@[simp] theorem State.dropIg_tbNext (s : State) (k : Nat) : (s.dropIg k).tbNext = s.tbNext := rfl
@[simp] theorem State.dropIg_slew (s : State) (k : Nat) : (s.dropIg k).slew = s.slew := rfl
@[simp] theorem State.dropIg_boot (s : State) (k : Nat) : (s.dropIg k).boot = s.boot := rfl
@[simp] theorem State.dropIg_bootErr (s : State) (k : Nat) : (s.dropIg k).bootErr = s.bootErr := rfl
@[simp] theorem State.dropIg_bootDie (s : State) (k : Nat) : (s.dropIg k).bootDie = s.bootDie := rfl
@[simp] theorem State.dropIg_memUp (s : State) (k : Nat) : (s.dropIg k).memUp = s.memUp := rfl
@[simp] theorem State.dropIg_seq (s : State) (k : Nat) : (s.dropIg k).seq = s.seq := rfl
@[simp] theorem State.dropIg_nextId (s : State) (k : Nat) : (s.dropIg k).nextId = s.nextId := rfl
@[simp] theorem State.dropIg_hostOut (s : State) (k : Nat) : (s.dropIg k).hostOut = s.hostOut := rfl
@[simp] theorem State.dropIg_agenda (s : State) (k : Nat) : (s.dropIg k).agenda = s.agenda := rfl
@[simp] theorem State.dropIg_lastIssue (s : State) (k : Nat) : (s.dropIg k).lastIssue = s.lastIssue := rfl
@[simp] theorem State.dropIg_focus (s : State) (k : Nat) : (s.dropIg k).focus = s.focus := rfl
@[simp] theorem State.dropIg_ages (s : State) (k : Nat) : (s.dropIg k).ages = s.ages := rfl
@[simp] theorem State.dropIg_choice (s : State) (k : Nat) : (s.dropIg k).choice = s.choice := rfl

/-! ### `modDie` -/

@[simp] theorem State.modDie_mem (s : State) (k : Nat) (f : Die → Die) : (s.modDie k f).mem = s.mem := rfl
@[simp] theorem State.modDie_marks (s : State) (k : Nat) (f : Die → Die) : (s.modDie k f).marks = s.marks := rfl
@[simp] theorem State.modDie_moved (s : State) (k : Nat) (f : Die → Die) : (s.modDie k f).moved = s.moved := rfl
@[simp] theorem State.modDie_regs (s : State) (k : Nat) (f : Die → Die) : (s.modDie k f).regs = s.regs := rfl
@[simp] theorem State.modDie_regWaits (s : State) (k : Nat) (f : Die → Die) : (s.modDie k f).regWaits = s.regWaits := rfl
@[simp] theorem State.modDie_groups (s : State) (k : Nat) (f : Die → Die) : (s.modDie k f).groups = s.groups := rfl
@[simp] theorem State.modDie_active (s : State) (k : Nat) (f : Die → Die) : (s.modDie k f).active = s.active := rfl
@[simp] theorem State.modDie_teams (s : State) (k : Nat) (f : Die → Die) : (s.modDie k f).teams = s.teams := rfl
@[simp] theorem State.modDie_nodes (s : State) (k : Nat) (f : Die → Die) : (s.modDie k f).nodes = s.nodes := rfl
@[simp] theorem State.modDie_ctxs (s : State) (k : Nat) (f : Die → Die) : (s.modDie k f).ctxs = s.ctxs := rfl
@[simp] theorem State.modDie_cores (s : State) (k : Nat) (f : Die → Die) : (s.modDie k f).cores = s.cores := rfl
@[simp] theorem State.modDie_clusters (s : State) (k : Nat) (f : Die → Die) : (s.modDie k f).clusters = s.clusters := rfl
@[simp] theorem State.modDie_copies (s : State) (k : Nat) (f : Die → Die) : (s.modDie k f).copies = s.copies := rfl
@[simp] theorem State.modDie_slicePins (s : State) (k : Nat) (f : Die → Die) : (s.modDie k f).slicePins = s.slicePins := rfl
@[simp] theorem State.modDie_monitors (s : State) (k : Nat) (f : Die → Die) : (s.modDie k f).monitors = s.monitors := rfl
@[simp] theorem State.modDie_culvert (s : State) (k : Nat) (f : Die → Die) : (s.modDie k f).culvert = s.culvert := rfl
@[simp] theorem State.modDie_tlbi (s : State) (k : Nat) (f : Die → Die) : (s.modDie k f).tlbi = s.tlbi := rfl
@[simp] theorem State.modDie_mode (s : State) (k : Nat) (f : Die → Die) : (s.modDie k f).mode = s.mode := rfl
@[simp] theorem State.modDie_modeWait (s : State) (k : Nat) (f : Die → Die) : (s.modDie k f).modeWait = s.modeWait := rfl
@[simp] theorem State.modDie_epochWait (s : State) (k : Nat) (f : Die → Die) : (s.modDie k f).epochWait = s.epochWait := rfl
@[simp] theorem State.modDie_msix (s : State) (k : Nat) (f : Die → Die) : (s.modDie k f).msix = s.msix := rfl
@[simp] theorem State.modDie_msixPend (s : State) (k : Nat) (f : Die → Die) : (s.modDie k f).msixPend = s.msixPend := rfl
@[simp] theorem State.modDie_window (s : State) (k : Nat) (f : Die → Die) : (s.modDie k f).window = s.window := rfl
@[simp] theorem State.modDie_measured (s : State) (k : Nat) (f : Die → Die) : (s.modDie k f).measured = s.measured := rfl
@[simp] theorem State.modDie_meas (s : State) (k : Nat) (f : Die → Die) : (s.modDie k f).meas = s.meas := rfl
@[simp] theorem State.modDie_quote (s : State) (k : Nat) (f : Die → Die) : (s.modDie k f).quote = s.quote := rfl
@[simp] theorem State.modDie_hostQueue (s : State) (k : Nat) (f : Die → Die) : (s.modDie k f).hostQueue = s.hostQueue := rfl
@[simp] theorem State.modDie_bar0Reads (s : State) (k : Nat) (f : Die → Die) : (s.modDie k f).bar0Reads = s.bar0Reads := rfl
@[simp] theorem State.modDie_configs (s : State) (k : Nat) (f : Die → Die) : (s.modDie k f).configs = s.configs := rfl
@[simp] theorem State.modDie_aer (s : State) (k : Nat) (f : Die → Die) : (s.modDie k f).aer = s.aer := rfl
@[simp] theorem State.modDie_inputs (s : State) (k : Nat) (f : Die → Die) : (s.modDie k f).inputs = s.inputs := rfl
@[simp] theorem State.modDie_awake (s : State) (k : Nat) (f : Die → Die) : (s.modDie k f).awake = s.awake := rfl
@[simp] theorem State.modDie_requester (s : State) (k : Nat) (f : Die → Die) : (s.modDie k f).requester = s.requester := rfl
@[simp] theorem State.modDie_bar2Size (s : State) (k : Nat) (f : Die → Die) : (s.modDie k f).bar2Size = s.bar2Size := rfl
@[simp] theorem State.modDie_tbNext (s : State) (k : Nat) (f : Die → Die) : (s.modDie k f).tbNext = s.tbNext := rfl
@[simp] theorem State.modDie_slew (s : State) (k : Nat) (f : Die → Die) : (s.modDie k f).slew = s.slew := rfl
@[simp] theorem State.modDie_boot (s : State) (k : Nat) (f : Die → Die) : (s.modDie k f).boot = s.boot := rfl
@[simp] theorem State.modDie_bootErr (s : State) (k : Nat) (f : Die → Die) : (s.modDie k f).bootErr = s.bootErr := rfl
@[simp] theorem State.modDie_bootDie (s : State) (k : Nat) (f : Die → Die) : (s.modDie k f).bootDie = s.bootDie := rfl
@[simp] theorem State.modDie_memUp (s : State) (k : Nat) (f : Die → Die) : (s.modDie k f).memUp = s.memUp := rfl
@[simp] theorem State.modDie_seq (s : State) (k : Nat) (f : Die → Die) : (s.modDie k f).seq = s.seq := rfl
@[simp] theorem State.modDie_nextId (s : State) (k : Nat) (f : Die → Die) : (s.modDie k f).nextId = s.nextId := rfl
@[simp] theorem State.modDie_hostOut (s : State) (k : Nat) (f : Die → Die) : (s.modDie k f).hostOut = s.hostOut := rfl
@[simp] theorem State.modDie_agenda (s : State) (k : Nat) (f : Die → Die) : (s.modDie k f).agenda = s.agenda := rfl
@[simp] theorem State.modDie_lastIssue (s : State) (k : Nat) (f : Die → Die) : (s.modDie k f).lastIssue = s.lastIssue := rfl
@[simp] theorem State.modDie_focus (s : State) (k : Nat) (f : Die → Die) : (s.modDie k f).focus = s.focus := rfl
@[simp] theorem State.modDie_ages (s : State) (k : Nat) (f : Die → Die) : (s.modDie k f).ages = s.ages := rfl
@[simp] theorem State.modDie_choice (s : State) (k : Nat) (f : Die → Die) : (s.modDie k f).choice = s.choice := rfl

/-! ### `modCore` -/

@[simp] theorem State.modCore_mem (s : State) (k : Nat) (f : Core → Core) : (s.modCore k f).mem = s.mem := rfl
@[simp] theorem State.modCore_marks (s : State) (k : Nat) (f : Core → Core) : (s.modCore k f).marks = s.marks := rfl
@[simp] theorem State.modCore_moved (s : State) (k : Nat) (f : Core → Core) : (s.modCore k f).moved = s.moved := rfl
@[simp] theorem State.modCore_regs (s : State) (k : Nat) (f : Core → Core) : (s.modCore k f).regs = s.regs := rfl
@[simp] theorem State.modCore_regWaits (s : State) (k : Nat) (f : Core → Core) : (s.modCore k f).regWaits = s.regWaits := rfl
@[simp] theorem State.modCore_groups (s : State) (k : Nat) (f : Core → Core) : (s.modCore k f).groups = s.groups := rfl
@[simp] theorem State.modCore_active (s : State) (k : Nat) (f : Core → Core) : (s.modCore k f).active = s.active := rfl
@[simp] theorem State.modCore_teams (s : State) (k : Nat) (f : Core → Core) : (s.modCore k f).teams = s.teams := rfl
@[simp] theorem State.modCore_nodes (s : State) (k : Nat) (f : Core → Core) : (s.modCore k f).nodes = s.nodes := rfl
@[simp] theorem State.modCore_ctxs (s : State) (k : Nat) (f : Core → Core) : (s.modCore k f).ctxs = s.ctxs := rfl
@[simp] theorem State.modCore_clusters (s : State) (k : Nat) (f : Core → Core) : (s.modCore k f).clusters = s.clusters := rfl
@[simp] theorem State.modCore_dies (s : State) (k : Nat) (f : Core → Core) : (s.modCore k f).dies = s.dies := rfl
@[simp] theorem State.modCore_copies (s : State) (k : Nat) (f : Core → Core) : (s.modCore k f).copies = s.copies := rfl
@[simp] theorem State.modCore_slicePins (s : State) (k : Nat) (f : Core → Core) : (s.modCore k f).slicePins = s.slicePins := rfl
@[simp] theorem State.modCore_monitors (s : State) (k : Nat) (f : Core → Core) : (s.modCore k f).monitors = s.monitors := rfl
@[simp] theorem State.modCore_culvert (s : State) (k : Nat) (f : Core → Core) : (s.modCore k f).culvert = s.culvert := rfl
@[simp] theorem State.modCore_tlbi (s : State) (k : Nat) (f : Core → Core) : (s.modCore k f).tlbi = s.tlbi := rfl
@[simp] theorem State.modCore_mode (s : State) (k : Nat) (f : Core → Core) : (s.modCore k f).mode = s.mode := rfl
@[simp] theorem State.modCore_modeWait (s : State) (k : Nat) (f : Core → Core) : (s.modCore k f).modeWait = s.modeWait := rfl
@[simp] theorem State.modCore_epochWait (s : State) (k : Nat) (f : Core → Core) : (s.modCore k f).epochWait = s.epochWait := rfl
@[simp] theorem State.modCore_msix (s : State) (k : Nat) (f : Core → Core) : (s.modCore k f).msix = s.msix := rfl
@[simp] theorem State.modCore_msixPend (s : State) (k : Nat) (f : Core → Core) : (s.modCore k f).msixPend = s.msixPend := rfl
@[simp] theorem State.modCore_window (s : State) (k : Nat) (f : Core → Core) : (s.modCore k f).window = s.window := rfl
@[simp] theorem State.modCore_measured (s : State) (k : Nat) (f : Core → Core) : (s.modCore k f).measured = s.measured := rfl
@[simp] theorem State.modCore_meas (s : State) (k : Nat) (f : Core → Core) : (s.modCore k f).meas = s.meas := rfl
@[simp] theorem State.modCore_quote (s : State) (k : Nat) (f : Core → Core) : (s.modCore k f).quote = s.quote := rfl
@[simp] theorem State.modCore_hostQueue (s : State) (k : Nat) (f : Core → Core) : (s.modCore k f).hostQueue = s.hostQueue := rfl
@[simp] theorem State.modCore_bar0Reads (s : State) (k : Nat) (f : Core → Core) : (s.modCore k f).bar0Reads = s.bar0Reads := rfl
@[simp] theorem State.modCore_configs (s : State) (k : Nat) (f : Core → Core) : (s.modCore k f).configs = s.configs := rfl
@[simp] theorem State.modCore_aer (s : State) (k : Nat) (f : Core → Core) : (s.modCore k f).aer = s.aer := rfl
@[simp] theorem State.modCore_inputs (s : State) (k : Nat) (f : Core → Core) : (s.modCore k f).inputs = s.inputs := rfl
@[simp] theorem State.modCore_awake (s : State) (k : Nat) (f : Core → Core) : (s.modCore k f).awake = s.awake := rfl
@[simp] theorem State.modCore_requester (s : State) (k : Nat) (f : Core → Core) : (s.modCore k f).requester = s.requester := rfl
@[simp] theorem State.modCore_bar2Size (s : State) (k : Nat) (f : Core → Core) : (s.modCore k f).bar2Size = s.bar2Size := rfl
@[simp] theorem State.modCore_tbNext (s : State) (k : Nat) (f : Core → Core) : (s.modCore k f).tbNext = s.tbNext := rfl
@[simp] theorem State.modCore_slew (s : State) (k : Nat) (f : Core → Core) : (s.modCore k f).slew = s.slew := rfl
@[simp] theorem State.modCore_boot (s : State) (k : Nat) (f : Core → Core) : (s.modCore k f).boot = s.boot := rfl
@[simp] theorem State.modCore_bootErr (s : State) (k : Nat) (f : Core → Core) : (s.modCore k f).bootErr = s.bootErr := rfl
@[simp] theorem State.modCore_bootDie (s : State) (k : Nat) (f : Core → Core) : (s.modCore k f).bootDie = s.bootDie := rfl
@[simp] theorem State.modCore_memUp (s : State) (k : Nat) (f : Core → Core) : (s.modCore k f).memUp = s.memUp := rfl
@[simp] theorem State.modCore_seq (s : State) (k : Nat) (f : Core → Core) : (s.modCore k f).seq = s.seq := rfl
@[simp] theorem State.modCore_nextId (s : State) (k : Nat) (f : Core → Core) : (s.modCore k f).nextId = s.nextId := rfl
@[simp] theorem State.modCore_hostOut (s : State) (k : Nat) (f : Core → Core) : (s.modCore k f).hostOut = s.hostOut := rfl
@[simp] theorem State.modCore_agenda (s : State) (k : Nat) (f : Core → Core) : (s.modCore k f).agenda = s.agenda := rfl
@[simp] theorem State.modCore_lastIssue (s : State) (k : Nat) (f : Core → Core) : (s.modCore k f).lastIssue = s.lastIssue := rfl
@[simp] theorem State.modCore_focus (s : State) (k : Nat) (f : Core → Core) : (s.modCore k f).focus = s.focus := rfl
@[simp] theorem State.modCore_ages (s : State) (k : Nat) (f : Core → Core) : (s.modCore k f).ages = s.ages := rfl
@[simp] theorem State.modCore_choice (s : State) (k : Nat) (f : Core → Core) : (s.modCore k f).choice = s.choice := rfl

/-! ### `modCluster` -/

@[simp] theorem State.modCluster_mem (s : State) (k : Nat) (f : Cluster → Cluster) : (s.modCluster k f).mem = s.mem := rfl
@[simp] theorem State.modCluster_marks (s : State) (k : Nat) (f : Cluster → Cluster) : (s.modCluster k f).marks = s.marks := rfl
@[simp] theorem State.modCluster_moved (s : State) (k : Nat) (f : Cluster → Cluster) : (s.modCluster k f).moved = s.moved := rfl
@[simp] theorem State.modCluster_regs (s : State) (k : Nat) (f : Cluster → Cluster) : (s.modCluster k f).regs = s.regs := rfl
@[simp] theorem State.modCluster_regWaits (s : State) (k : Nat) (f : Cluster → Cluster) : (s.modCluster k f).regWaits = s.regWaits := rfl
@[simp] theorem State.modCluster_groups (s : State) (k : Nat) (f : Cluster → Cluster) : (s.modCluster k f).groups = s.groups := rfl
@[simp] theorem State.modCluster_active (s : State) (k : Nat) (f : Cluster → Cluster) : (s.modCluster k f).active = s.active := rfl
@[simp] theorem State.modCluster_teams (s : State) (k : Nat) (f : Cluster → Cluster) : (s.modCluster k f).teams = s.teams := rfl
@[simp] theorem State.modCluster_nodes (s : State) (k : Nat) (f : Cluster → Cluster) : (s.modCluster k f).nodes = s.nodes := rfl
@[simp] theorem State.modCluster_ctxs (s : State) (k : Nat) (f : Cluster → Cluster) : (s.modCluster k f).ctxs = s.ctxs := rfl
@[simp] theorem State.modCluster_cores (s : State) (k : Nat) (f : Cluster → Cluster) : (s.modCluster k f).cores = s.cores := rfl
@[simp] theorem State.modCluster_dies (s : State) (k : Nat) (f : Cluster → Cluster) : (s.modCluster k f).dies = s.dies := rfl
@[simp] theorem State.modCluster_copies (s : State) (k : Nat) (f : Cluster → Cluster) : (s.modCluster k f).copies = s.copies := rfl
@[simp] theorem State.modCluster_slicePins (s : State) (k : Nat) (f : Cluster → Cluster) : (s.modCluster k f).slicePins = s.slicePins := rfl
@[simp] theorem State.modCluster_monitors (s : State) (k : Nat) (f : Cluster → Cluster) : (s.modCluster k f).monitors = s.monitors := rfl
@[simp] theorem State.modCluster_culvert (s : State) (k : Nat) (f : Cluster → Cluster) : (s.modCluster k f).culvert = s.culvert := rfl
@[simp] theorem State.modCluster_tlbi (s : State) (k : Nat) (f : Cluster → Cluster) : (s.modCluster k f).tlbi = s.tlbi := rfl
@[simp] theorem State.modCluster_mode (s : State) (k : Nat) (f : Cluster → Cluster) : (s.modCluster k f).mode = s.mode := rfl
@[simp] theorem State.modCluster_modeWait (s : State) (k : Nat) (f : Cluster → Cluster) : (s.modCluster k f).modeWait = s.modeWait := rfl
@[simp] theorem State.modCluster_epochWait (s : State) (k : Nat) (f : Cluster → Cluster) : (s.modCluster k f).epochWait = s.epochWait := rfl
@[simp] theorem State.modCluster_msix (s : State) (k : Nat) (f : Cluster → Cluster) : (s.modCluster k f).msix = s.msix := rfl
@[simp] theorem State.modCluster_msixPend (s : State) (k : Nat) (f : Cluster → Cluster) : (s.modCluster k f).msixPend = s.msixPend := rfl
@[simp] theorem State.modCluster_window (s : State) (k : Nat) (f : Cluster → Cluster) : (s.modCluster k f).window = s.window := rfl
@[simp] theorem State.modCluster_measured (s : State) (k : Nat) (f : Cluster → Cluster) : (s.modCluster k f).measured = s.measured := rfl
@[simp] theorem State.modCluster_meas (s : State) (k : Nat) (f : Cluster → Cluster) : (s.modCluster k f).meas = s.meas := rfl
@[simp] theorem State.modCluster_quote (s : State) (k : Nat) (f : Cluster → Cluster) : (s.modCluster k f).quote = s.quote := rfl
@[simp] theorem State.modCluster_hostQueue (s : State) (k : Nat) (f : Cluster → Cluster) : (s.modCluster k f).hostQueue = s.hostQueue := rfl
@[simp] theorem State.modCluster_bar0Reads (s : State) (k : Nat) (f : Cluster → Cluster) : (s.modCluster k f).bar0Reads = s.bar0Reads := rfl
@[simp] theorem State.modCluster_configs (s : State) (k : Nat) (f : Cluster → Cluster) : (s.modCluster k f).configs = s.configs := rfl
@[simp] theorem State.modCluster_aer (s : State) (k : Nat) (f : Cluster → Cluster) : (s.modCluster k f).aer = s.aer := rfl
@[simp] theorem State.modCluster_inputs (s : State) (k : Nat) (f : Cluster → Cluster) : (s.modCluster k f).inputs = s.inputs := rfl
@[simp] theorem State.modCluster_awake (s : State) (k : Nat) (f : Cluster → Cluster) : (s.modCluster k f).awake = s.awake := rfl
@[simp] theorem State.modCluster_requester (s : State) (k : Nat) (f : Cluster → Cluster) : (s.modCluster k f).requester = s.requester := rfl
@[simp] theorem State.modCluster_bar2Size (s : State) (k : Nat) (f : Cluster → Cluster) : (s.modCluster k f).bar2Size = s.bar2Size := rfl
@[simp] theorem State.modCluster_tbNext (s : State) (k : Nat) (f : Cluster → Cluster) : (s.modCluster k f).tbNext = s.tbNext := rfl
@[simp] theorem State.modCluster_slew (s : State) (k : Nat) (f : Cluster → Cluster) : (s.modCluster k f).slew = s.slew := rfl
@[simp] theorem State.modCluster_boot (s : State) (k : Nat) (f : Cluster → Cluster) : (s.modCluster k f).boot = s.boot := rfl
@[simp] theorem State.modCluster_bootErr (s : State) (k : Nat) (f : Cluster → Cluster) : (s.modCluster k f).bootErr = s.bootErr := rfl
@[simp] theorem State.modCluster_bootDie (s : State) (k : Nat) (f : Cluster → Cluster) : (s.modCluster k f).bootDie = s.bootDie := rfl
@[simp] theorem State.modCluster_memUp (s : State) (k : Nat) (f : Cluster → Cluster) : (s.modCluster k f).memUp = s.memUp := rfl
@[simp] theorem State.modCluster_seq (s : State) (k : Nat) (f : Cluster → Cluster) : (s.modCluster k f).seq = s.seq := rfl
@[simp] theorem State.modCluster_nextId (s : State) (k : Nat) (f : Cluster → Cluster) : (s.modCluster k f).nextId = s.nextId := rfl
@[simp] theorem State.modCluster_hostOut (s : State) (k : Nat) (f : Cluster → Cluster) : (s.modCluster k f).hostOut = s.hostOut := rfl
@[simp] theorem State.modCluster_agenda (s : State) (k : Nat) (f : Cluster → Cluster) : (s.modCluster k f).agenda = s.agenda := rfl
@[simp] theorem State.modCluster_lastIssue (s : State) (k : Nat) (f : Cluster → Cluster) : (s.modCluster k f).lastIssue = s.lastIssue := rfl
@[simp] theorem State.modCluster_focus (s : State) (k : Nat) (f : Cluster → Cluster) : (s.modCluster k f).focus = s.focus := rfl
@[simp] theorem State.modCluster_ages (s : State) (k : Nat) (f : Cluster → Cluster) : (s.modCluster k f).ages = s.ages := rfl
@[simp] theorem State.modCluster_choice (s : State) (k : Nat) (f : Cluster → Cluster) : (s.modCluster k f).choice = s.choice := rfl

/-! ### `modGroup` -/

@[simp] theorem State.modGroup_mem (s : State) (k : Nat) (f : Group → Group) : (s.modGroup k f).mem = s.mem := by
  unfold State.modGroup; split <;> rfl
@[simp] theorem State.modGroup_marks (s : State) (k : Nat) (f : Group → Group) : (s.modGroup k f).marks = s.marks := by
  unfold State.modGroup; split <;> rfl
@[simp] theorem State.modGroup_moved (s : State) (k : Nat) (f : Group → Group) : (s.modGroup k f).moved = s.moved := by
  unfold State.modGroup; split <;> rfl
@[simp] theorem State.modGroup_regs (s : State) (k : Nat) (f : Group → Group) : (s.modGroup k f).regs = s.regs := by
  unfold State.modGroup; split <;> rfl
@[simp] theorem State.modGroup_regWaits (s : State) (k : Nat) (f : Group → Group) : (s.modGroup k f).regWaits = s.regWaits := by
  unfold State.modGroup; split <;> rfl
@[simp] theorem State.modGroup_active (s : State) (k : Nat) (f : Group → Group) : (s.modGroup k f).active = s.active := by
  unfold State.modGroup; split <;> rfl
@[simp] theorem State.modGroup_teams (s : State) (k : Nat) (f : Group → Group) : (s.modGroup k f).teams = s.teams := by
  unfold State.modGroup; split <;> rfl
@[simp] theorem State.modGroup_nodes (s : State) (k : Nat) (f : Group → Group) : (s.modGroup k f).nodes = s.nodes := by
  unfold State.modGroup; split <;> rfl
@[simp] theorem State.modGroup_ctxs (s : State) (k : Nat) (f : Group → Group) : (s.modGroup k f).ctxs = s.ctxs := by
  unfold State.modGroup; split <;> rfl
@[simp] theorem State.modGroup_cores (s : State) (k : Nat) (f : Group → Group) : (s.modGroup k f).cores = s.cores := by
  unfold State.modGroup; split <;> rfl
@[simp] theorem State.modGroup_clusters (s : State) (k : Nat) (f : Group → Group) : (s.modGroup k f).clusters = s.clusters := by
  unfold State.modGroup; split <;> rfl
@[simp] theorem State.modGroup_dies (s : State) (k : Nat) (f : Group → Group) : (s.modGroup k f).dies = s.dies := by
  unfold State.modGroup; split <;> rfl
@[simp] theorem State.modGroup_copies (s : State) (k : Nat) (f : Group → Group) : (s.modGroup k f).copies = s.copies := by
  unfold State.modGroup; split <;> rfl
@[simp] theorem State.modGroup_slicePins (s : State) (k : Nat) (f : Group → Group) : (s.modGroup k f).slicePins = s.slicePins := by
  unfold State.modGroup; split <;> rfl
@[simp] theorem State.modGroup_monitors (s : State) (k : Nat) (f : Group → Group) : (s.modGroup k f).monitors = s.monitors := by
  unfold State.modGroup; split <;> rfl
@[simp] theorem State.modGroup_culvert (s : State) (k : Nat) (f : Group → Group) : (s.modGroup k f).culvert = s.culvert := by
  unfold State.modGroup; split <;> rfl
@[simp] theorem State.modGroup_tlbi (s : State) (k : Nat) (f : Group → Group) : (s.modGroup k f).tlbi = s.tlbi := by
  unfold State.modGroup; split <;> rfl
@[simp] theorem State.modGroup_mode (s : State) (k : Nat) (f : Group → Group) : (s.modGroup k f).mode = s.mode := by
  unfold State.modGroup; split <;> rfl
@[simp] theorem State.modGroup_modeWait (s : State) (k : Nat) (f : Group → Group) : (s.modGroup k f).modeWait = s.modeWait := by
  unfold State.modGroup; split <;> rfl
@[simp] theorem State.modGroup_epochWait (s : State) (k : Nat) (f : Group → Group) : (s.modGroup k f).epochWait = s.epochWait := by
  unfold State.modGroup; split <;> rfl
@[simp] theorem State.modGroup_msix (s : State) (k : Nat) (f : Group → Group) : (s.modGroup k f).msix = s.msix := by
  unfold State.modGroup; split <;> rfl
@[simp] theorem State.modGroup_msixPend (s : State) (k : Nat) (f : Group → Group) : (s.modGroup k f).msixPend = s.msixPend := by
  unfold State.modGroup; split <;> rfl
@[simp] theorem State.modGroup_window (s : State) (k : Nat) (f : Group → Group) : (s.modGroup k f).window = s.window := by
  unfold State.modGroup; split <;> rfl
@[simp] theorem State.modGroup_measured (s : State) (k : Nat) (f : Group → Group) : (s.modGroup k f).measured = s.measured := by
  unfold State.modGroup; split <;> rfl
@[simp] theorem State.modGroup_meas (s : State) (k : Nat) (f : Group → Group) : (s.modGroup k f).meas = s.meas := by
  unfold State.modGroup; split <;> rfl
@[simp] theorem State.modGroup_quote (s : State) (k : Nat) (f : Group → Group) : (s.modGroup k f).quote = s.quote := by
  unfold State.modGroup; split <;> rfl
@[simp] theorem State.modGroup_hostQueue (s : State) (k : Nat) (f : Group → Group) : (s.modGroup k f).hostQueue = s.hostQueue := by
  unfold State.modGroup; split <;> rfl
@[simp] theorem State.modGroup_bar0Reads (s : State) (k : Nat) (f : Group → Group) : (s.modGroup k f).bar0Reads = s.bar0Reads := by
  unfold State.modGroup; split <;> rfl
@[simp] theorem State.modGroup_configs (s : State) (k : Nat) (f : Group → Group) : (s.modGroup k f).configs = s.configs := by
  unfold State.modGroup; split <;> rfl
@[simp] theorem State.modGroup_aer (s : State) (k : Nat) (f : Group → Group) : (s.modGroup k f).aer = s.aer := by
  unfold State.modGroup; split <;> rfl
@[simp] theorem State.modGroup_inputs (s : State) (k : Nat) (f : Group → Group) : (s.modGroup k f).inputs = s.inputs := by
  unfold State.modGroup; split <;> rfl
@[simp] theorem State.modGroup_awake (s : State) (k : Nat) (f : Group → Group) : (s.modGroup k f).awake = s.awake := by
  unfold State.modGroup; split <;> rfl
@[simp] theorem State.modGroup_requester (s : State) (k : Nat) (f : Group → Group) : (s.modGroup k f).requester = s.requester := by
  unfold State.modGroup; split <;> rfl
@[simp] theorem State.modGroup_bar2Size (s : State) (k : Nat) (f : Group → Group) : (s.modGroup k f).bar2Size = s.bar2Size := by
  unfold State.modGroup; split <;> rfl
@[simp] theorem State.modGroup_tbNext (s : State) (k : Nat) (f : Group → Group) : (s.modGroup k f).tbNext = s.tbNext := by
  unfold State.modGroup; split <;> rfl
@[simp] theorem State.modGroup_slew (s : State) (k : Nat) (f : Group → Group) : (s.modGroup k f).slew = s.slew := by
  unfold State.modGroup; split <;> rfl
@[simp] theorem State.modGroup_boot (s : State) (k : Nat) (f : Group → Group) : (s.modGroup k f).boot = s.boot := by
  unfold State.modGroup; split <;> rfl
@[simp] theorem State.modGroup_bootErr (s : State) (k : Nat) (f : Group → Group) : (s.modGroup k f).bootErr = s.bootErr := by
  unfold State.modGroup; split <;> rfl
@[simp] theorem State.modGroup_bootDie (s : State) (k : Nat) (f : Group → Group) : (s.modGroup k f).bootDie = s.bootDie := by
  unfold State.modGroup; split <;> rfl
@[simp] theorem State.modGroup_memUp (s : State) (k : Nat) (f : Group → Group) : (s.modGroup k f).memUp = s.memUp := by
  unfold State.modGroup; split <;> rfl
@[simp] theorem State.modGroup_seq (s : State) (k : Nat) (f : Group → Group) : (s.modGroup k f).seq = s.seq := by
  unfold State.modGroup; split <;> rfl
@[simp] theorem State.modGroup_nextId (s : State) (k : Nat) (f : Group → Group) : (s.modGroup k f).nextId = s.nextId := by
  unfold State.modGroup; split <;> rfl
@[simp] theorem State.modGroup_hostOut (s : State) (k : Nat) (f : Group → Group) : (s.modGroup k f).hostOut = s.hostOut := by
  unfold State.modGroup; split <;> rfl
@[simp] theorem State.modGroup_agenda (s : State) (k : Nat) (f : Group → Group) : (s.modGroup k f).agenda = s.agenda := by
  unfold State.modGroup; split <;> rfl
@[simp] theorem State.modGroup_lastIssue (s : State) (k : Nat) (f : Group → Group) : (s.modGroup k f).lastIssue = s.lastIssue := by
  unfold State.modGroup; split <;> rfl
@[simp] theorem State.modGroup_focus (s : State) (k : Nat) (f : Group → Group) : (s.modGroup k f).focus = s.focus := by
  unfold State.modGroup; split <;> rfl
@[simp] theorem State.modGroup_ages (s : State) (k : Nat) (f : Group → Group) : (s.modGroup k f).ages = s.ages := by
  unfold State.modGroup; split <;> rfl
@[simp] theorem State.modGroup_choice (s : State) (k : Nat) (f : Group → Group) : (s.modGroup k f).choice = s.choice := by
  unfold State.modGroup; split <;> rfl

/-! ### `modTeam` -/

@[simp] theorem State.modTeam_mem (s : State) (k : Nat) (f : Team → Team) : (s.modTeam k f).mem = s.mem := by
  unfold State.modTeam; split <;> rfl
@[simp] theorem State.modTeam_marks (s : State) (k : Nat) (f : Team → Team) : (s.modTeam k f).marks = s.marks := by
  unfold State.modTeam; split <;> rfl
@[simp] theorem State.modTeam_moved (s : State) (k : Nat) (f : Team → Team) : (s.modTeam k f).moved = s.moved := by
  unfold State.modTeam; split <;> rfl
@[simp] theorem State.modTeam_regs (s : State) (k : Nat) (f : Team → Team) : (s.modTeam k f).regs = s.regs := by
  unfold State.modTeam; split <;> rfl
@[simp] theorem State.modTeam_regWaits (s : State) (k : Nat) (f : Team → Team) : (s.modTeam k f).regWaits = s.regWaits := by
  unfold State.modTeam; split <;> rfl
@[simp] theorem State.modTeam_groups (s : State) (k : Nat) (f : Team → Team) : (s.modTeam k f).groups = s.groups := by
  unfold State.modTeam; split <;> rfl
@[simp] theorem State.modTeam_active (s : State) (k : Nat) (f : Team → Team) : (s.modTeam k f).active = s.active := by
  unfold State.modTeam; split <;> rfl
@[simp] theorem State.modTeam_nodes (s : State) (k : Nat) (f : Team → Team) : (s.modTeam k f).nodes = s.nodes := by
  unfold State.modTeam; split <;> rfl
@[simp] theorem State.modTeam_ctxs (s : State) (k : Nat) (f : Team → Team) : (s.modTeam k f).ctxs = s.ctxs := by
  unfold State.modTeam; split <;> rfl
@[simp] theorem State.modTeam_cores (s : State) (k : Nat) (f : Team → Team) : (s.modTeam k f).cores = s.cores := by
  unfold State.modTeam; split <;> rfl
@[simp] theorem State.modTeam_clusters (s : State) (k : Nat) (f : Team → Team) : (s.modTeam k f).clusters = s.clusters := by
  unfold State.modTeam; split <;> rfl
@[simp] theorem State.modTeam_dies (s : State) (k : Nat) (f : Team → Team) : (s.modTeam k f).dies = s.dies := by
  unfold State.modTeam; split <;> rfl
@[simp] theorem State.modTeam_copies (s : State) (k : Nat) (f : Team → Team) : (s.modTeam k f).copies = s.copies := by
  unfold State.modTeam; split <;> rfl
@[simp] theorem State.modTeam_slicePins (s : State) (k : Nat) (f : Team → Team) : (s.modTeam k f).slicePins = s.slicePins := by
  unfold State.modTeam; split <;> rfl
@[simp] theorem State.modTeam_monitors (s : State) (k : Nat) (f : Team → Team) : (s.modTeam k f).monitors = s.monitors := by
  unfold State.modTeam; split <;> rfl
@[simp] theorem State.modTeam_culvert (s : State) (k : Nat) (f : Team → Team) : (s.modTeam k f).culvert = s.culvert := by
  unfold State.modTeam; split <;> rfl
@[simp] theorem State.modTeam_tlbi (s : State) (k : Nat) (f : Team → Team) : (s.modTeam k f).tlbi = s.tlbi := by
  unfold State.modTeam; split <;> rfl
@[simp] theorem State.modTeam_mode (s : State) (k : Nat) (f : Team → Team) : (s.modTeam k f).mode = s.mode := by
  unfold State.modTeam; split <;> rfl
@[simp] theorem State.modTeam_modeWait (s : State) (k : Nat) (f : Team → Team) : (s.modTeam k f).modeWait = s.modeWait := by
  unfold State.modTeam; split <;> rfl
@[simp] theorem State.modTeam_epochWait (s : State) (k : Nat) (f : Team → Team) : (s.modTeam k f).epochWait = s.epochWait := by
  unfold State.modTeam; split <;> rfl
@[simp] theorem State.modTeam_msix (s : State) (k : Nat) (f : Team → Team) : (s.modTeam k f).msix = s.msix := by
  unfold State.modTeam; split <;> rfl
@[simp] theorem State.modTeam_msixPend (s : State) (k : Nat) (f : Team → Team) : (s.modTeam k f).msixPend = s.msixPend := by
  unfold State.modTeam; split <;> rfl
@[simp] theorem State.modTeam_window (s : State) (k : Nat) (f : Team → Team) : (s.modTeam k f).window = s.window := by
  unfold State.modTeam; split <;> rfl
@[simp] theorem State.modTeam_measured (s : State) (k : Nat) (f : Team → Team) : (s.modTeam k f).measured = s.measured := by
  unfold State.modTeam; split <;> rfl
@[simp] theorem State.modTeam_meas (s : State) (k : Nat) (f : Team → Team) : (s.modTeam k f).meas = s.meas := by
  unfold State.modTeam; split <;> rfl
@[simp] theorem State.modTeam_quote (s : State) (k : Nat) (f : Team → Team) : (s.modTeam k f).quote = s.quote := by
  unfold State.modTeam; split <;> rfl
@[simp] theorem State.modTeam_hostQueue (s : State) (k : Nat) (f : Team → Team) : (s.modTeam k f).hostQueue = s.hostQueue := by
  unfold State.modTeam; split <;> rfl
@[simp] theorem State.modTeam_bar0Reads (s : State) (k : Nat) (f : Team → Team) : (s.modTeam k f).bar0Reads = s.bar0Reads := by
  unfold State.modTeam; split <;> rfl
@[simp] theorem State.modTeam_configs (s : State) (k : Nat) (f : Team → Team) : (s.modTeam k f).configs = s.configs := by
  unfold State.modTeam; split <;> rfl
@[simp] theorem State.modTeam_aer (s : State) (k : Nat) (f : Team → Team) : (s.modTeam k f).aer = s.aer := by
  unfold State.modTeam; split <;> rfl
@[simp] theorem State.modTeam_inputs (s : State) (k : Nat) (f : Team → Team) : (s.modTeam k f).inputs = s.inputs := by
  unfold State.modTeam; split <;> rfl
@[simp] theorem State.modTeam_awake (s : State) (k : Nat) (f : Team → Team) : (s.modTeam k f).awake = s.awake := by
  unfold State.modTeam; split <;> rfl
@[simp] theorem State.modTeam_requester (s : State) (k : Nat) (f : Team → Team) : (s.modTeam k f).requester = s.requester := by
  unfold State.modTeam; split <;> rfl
@[simp] theorem State.modTeam_bar2Size (s : State) (k : Nat) (f : Team → Team) : (s.modTeam k f).bar2Size = s.bar2Size := by
  unfold State.modTeam; split <;> rfl
@[simp] theorem State.modTeam_tbNext (s : State) (k : Nat) (f : Team → Team) : (s.modTeam k f).tbNext = s.tbNext := by
  unfold State.modTeam; split <;> rfl
@[simp] theorem State.modTeam_slew (s : State) (k : Nat) (f : Team → Team) : (s.modTeam k f).slew = s.slew := by
  unfold State.modTeam; split <;> rfl
@[simp] theorem State.modTeam_boot (s : State) (k : Nat) (f : Team → Team) : (s.modTeam k f).boot = s.boot := by
  unfold State.modTeam; split <;> rfl
@[simp] theorem State.modTeam_bootErr (s : State) (k : Nat) (f : Team → Team) : (s.modTeam k f).bootErr = s.bootErr := by
  unfold State.modTeam; split <;> rfl
@[simp] theorem State.modTeam_bootDie (s : State) (k : Nat) (f : Team → Team) : (s.modTeam k f).bootDie = s.bootDie := by
  unfold State.modTeam; split <;> rfl
@[simp] theorem State.modTeam_memUp (s : State) (k : Nat) (f : Team → Team) : (s.modTeam k f).memUp = s.memUp := by
  unfold State.modTeam; split <;> rfl
@[simp] theorem State.modTeam_seq (s : State) (k : Nat) (f : Team → Team) : (s.modTeam k f).seq = s.seq := by
  unfold State.modTeam; split <;> rfl
@[simp] theorem State.modTeam_nextId (s : State) (k : Nat) (f : Team → Team) : (s.modTeam k f).nextId = s.nextId := by
  unfold State.modTeam; split <;> rfl
@[simp] theorem State.modTeam_hostOut (s : State) (k : Nat) (f : Team → Team) : (s.modTeam k f).hostOut = s.hostOut := by
  unfold State.modTeam; split <;> rfl
@[simp] theorem State.modTeam_agenda (s : State) (k : Nat) (f : Team → Team) : (s.modTeam k f).agenda = s.agenda := by
  unfold State.modTeam; split <;> rfl
@[simp] theorem State.modTeam_lastIssue (s : State) (k : Nat) (f : Team → Team) : (s.modTeam k f).lastIssue = s.lastIssue := by
  unfold State.modTeam; split <;> rfl
@[simp] theorem State.modTeam_focus (s : State) (k : Nat) (f : Team → Team) : (s.modTeam k f).focus = s.focus := by
  unfold State.modTeam; split <;> rfl
@[simp] theorem State.modTeam_ages (s : State) (k : Nat) (f : Team → Team) : (s.modTeam k f).ages = s.ages := by
  unfold State.modTeam; split <;> rfl
@[simp] theorem State.modTeam_choice (s : State) (k : Nat) (f : Team → Team) : (s.modTeam k f).choice = s.choice := by
  unfold State.modTeam; split <;> rfl

/-! ### `modNode` -/

@[simp] theorem State.modNode_mem (s : State) (k : Nat) (f : Node → Node) : (s.modNode k f).mem = s.mem := by
  unfold State.modNode; split <;> rfl
@[simp] theorem State.modNode_marks (s : State) (k : Nat) (f : Node → Node) : (s.modNode k f).marks = s.marks := by
  unfold State.modNode; split <;> rfl
@[simp] theorem State.modNode_moved (s : State) (k : Nat) (f : Node → Node) : (s.modNode k f).moved = s.moved := by
  unfold State.modNode; split <;> rfl
@[simp] theorem State.modNode_regs (s : State) (k : Nat) (f : Node → Node) : (s.modNode k f).regs = s.regs := by
  unfold State.modNode; split <;> rfl
@[simp] theorem State.modNode_regWaits (s : State) (k : Nat) (f : Node → Node) : (s.modNode k f).regWaits = s.regWaits := by
  unfold State.modNode; split <;> rfl
@[simp] theorem State.modNode_groups (s : State) (k : Nat) (f : Node → Node) : (s.modNode k f).groups = s.groups := by
  unfold State.modNode; split <;> rfl
@[simp] theorem State.modNode_active (s : State) (k : Nat) (f : Node → Node) : (s.modNode k f).active = s.active := by
  unfold State.modNode; split <;> rfl
@[simp] theorem State.modNode_teams (s : State) (k : Nat) (f : Node → Node) : (s.modNode k f).teams = s.teams := by
  unfold State.modNode; split <;> rfl
@[simp] theorem State.modNode_ctxs (s : State) (k : Nat) (f : Node → Node) : (s.modNode k f).ctxs = s.ctxs := by
  unfold State.modNode; split <;> rfl
@[simp] theorem State.modNode_cores (s : State) (k : Nat) (f : Node → Node) : (s.modNode k f).cores = s.cores := by
  unfold State.modNode; split <;> rfl
@[simp] theorem State.modNode_clusters (s : State) (k : Nat) (f : Node → Node) : (s.modNode k f).clusters = s.clusters := by
  unfold State.modNode; split <;> rfl
@[simp] theorem State.modNode_dies (s : State) (k : Nat) (f : Node → Node) : (s.modNode k f).dies = s.dies := by
  unfold State.modNode; split <;> rfl
@[simp] theorem State.modNode_copies (s : State) (k : Nat) (f : Node → Node) : (s.modNode k f).copies = s.copies := by
  unfold State.modNode; split <;> rfl
@[simp] theorem State.modNode_slicePins (s : State) (k : Nat) (f : Node → Node) : (s.modNode k f).slicePins = s.slicePins := by
  unfold State.modNode; split <;> rfl
@[simp] theorem State.modNode_monitors (s : State) (k : Nat) (f : Node → Node) : (s.modNode k f).monitors = s.monitors := by
  unfold State.modNode; split <;> rfl
@[simp] theorem State.modNode_culvert (s : State) (k : Nat) (f : Node → Node) : (s.modNode k f).culvert = s.culvert := by
  unfold State.modNode; split <;> rfl
@[simp] theorem State.modNode_tlbi (s : State) (k : Nat) (f : Node → Node) : (s.modNode k f).tlbi = s.tlbi := by
  unfold State.modNode; split <;> rfl
@[simp] theorem State.modNode_mode (s : State) (k : Nat) (f : Node → Node) : (s.modNode k f).mode = s.mode := by
  unfold State.modNode; split <;> rfl
@[simp] theorem State.modNode_modeWait (s : State) (k : Nat) (f : Node → Node) : (s.modNode k f).modeWait = s.modeWait := by
  unfold State.modNode; split <;> rfl
@[simp] theorem State.modNode_epochWait (s : State) (k : Nat) (f : Node → Node) : (s.modNode k f).epochWait = s.epochWait := by
  unfold State.modNode; split <;> rfl
@[simp] theorem State.modNode_msix (s : State) (k : Nat) (f : Node → Node) : (s.modNode k f).msix = s.msix := by
  unfold State.modNode; split <;> rfl
@[simp] theorem State.modNode_msixPend (s : State) (k : Nat) (f : Node → Node) : (s.modNode k f).msixPend = s.msixPend := by
  unfold State.modNode; split <;> rfl
@[simp] theorem State.modNode_window (s : State) (k : Nat) (f : Node → Node) : (s.modNode k f).window = s.window := by
  unfold State.modNode; split <;> rfl
@[simp] theorem State.modNode_measured (s : State) (k : Nat) (f : Node → Node) : (s.modNode k f).measured = s.measured := by
  unfold State.modNode; split <;> rfl
@[simp] theorem State.modNode_meas (s : State) (k : Nat) (f : Node → Node) : (s.modNode k f).meas = s.meas := by
  unfold State.modNode; split <;> rfl
@[simp] theorem State.modNode_quote (s : State) (k : Nat) (f : Node → Node) : (s.modNode k f).quote = s.quote := by
  unfold State.modNode; split <;> rfl
@[simp] theorem State.modNode_hostQueue (s : State) (k : Nat) (f : Node → Node) : (s.modNode k f).hostQueue = s.hostQueue := by
  unfold State.modNode; split <;> rfl
@[simp] theorem State.modNode_bar0Reads (s : State) (k : Nat) (f : Node → Node) : (s.modNode k f).bar0Reads = s.bar0Reads := by
  unfold State.modNode; split <;> rfl
@[simp] theorem State.modNode_configs (s : State) (k : Nat) (f : Node → Node) : (s.modNode k f).configs = s.configs := by
  unfold State.modNode; split <;> rfl
@[simp] theorem State.modNode_aer (s : State) (k : Nat) (f : Node → Node) : (s.modNode k f).aer = s.aer := by
  unfold State.modNode; split <;> rfl
@[simp] theorem State.modNode_inputs (s : State) (k : Nat) (f : Node → Node) : (s.modNode k f).inputs = s.inputs := by
  unfold State.modNode; split <;> rfl
@[simp] theorem State.modNode_awake (s : State) (k : Nat) (f : Node → Node) : (s.modNode k f).awake = s.awake := by
  unfold State.modNode; split <;> rfl
@[simp] theorem State.modNode_requester (s : State) (k : Nat) (f : Node → Node) : (s.modNode k f).requester = s.requester := by
  unfold State.modNode; split <;> rfl
@[simp] theorem State.modNode_bar2Size (s : State) (k : Nat) (f : Node → Node) : (s.modNode k f).bar2Size = s.bar2Size := by
  unfold State.modNode; split <;> rfl
@[simp] theorem State.modNode_tbNext (s : State) (k : Nat) (f : Node → Node) : (s.modNode k f).tbNext = s.tbNext := by
  unfold State.modNode; split <;> rfl
@[simp] theorem State.modNode_slew (s : State) (k : Nat) (f : Node → Node) : (s.modNode k f).slew = s.slew := by
  unfold State.modNode; split <;> rfl
@[simp] theorem State.modNode_boot (s : State) (k : Nat) (f : Node → Node) : (s.modNode k f).boot = s.boot := by
  unfold State.modNode; split <;> rfl
@[simp] theorem State.modNode_bootErr (s : State) (k : Nat) (f : Node → Node) : (s.modNode k f).bootErr = s.bootErr := by
  unfold State.modNode; split <;> rfl
@[simp] theorem State.modNode_bootDie (s : State) (k : Nat) (f : Node → Node) : (s.modNode k f).bootDie = s.bootDie := by
  unfold State.modNode; split <;> rfl
@[simp] theorem State.modNode_memUp (s : State) (k : Nat) (f : Node → Node) : (s.modNode k f).memUp = s.memUp := by
  unfold State.modNode; split <;> rfl
@[simp] theorem State.modNode_seq (s : State) (k : Nat) (f : Node → Node) : (s.modNode k f).seq = s.seq := by
  unfold State.modNode; split <;> rfl
@[simp] theorem State.modNode_nextId (s : State) (k : Nat) (f : Node → Node) : (s.modNode k f).nextId = s.nextId := by
  unfold State.modNode; split <;> rfl
@[simp] theorem State.modNode_hostOut (s : State) (k : Nat) (f : Node → Node) : (s.modNode k f).hostOut = s.hostOut := by
  unfold State.modNode; split <;> rfl
@[simp] theorem State.modNode_agenda (s : State) (k : Nat) (f : Node → Node) : (s.modNode k f).agenda = s.agenda := by
  unfold State.modNode; split <;> rfl
@[simp] theorem State.modNode_lastIssue (s : State) (k : Nat) (f : Node → Node) : (s.modNode k f).lastIssue = s.lastIssue := by
  unfold State.modNode; split <;> rfl
@[simp] theorem State.modNode_focus (s : State) (k : Nat) (f : Node → Node) : (s.modNode k f).focus = s.focus := by
  unfold State.modNode; split <;> rfl
@[simp] theorem State.modNode_ages (s : State) (k : Nat) (f : Node → Node) : (s.modNode k f).ages = s.ages := by
  unfold State.modNode; split <;> rfl
@[simp] theorem State.modNode_choice (s : State) (k : Nat) (f : Node → Node) : (s.modNode k f).choice = s.choice := by
  unfold State.modNode; split <;> rfl

/-! ### Reading the updated part -/


@[simp] theorem State.group?_setGroup (s : State) (k : Nat) (x : Group) : (s.setGroup k x).group? k = some x :=
  SMap.get?_set_same ..
theorem State.group?_setGroup_other (s : State) {k j : Nat} (x : Group) (h : j ≠ k) : (s.setGroup k x).group? j = s.group? j :=
  SMap.get?_set_other _ _ h
theorem State.group?_modGroup (s : State) (k : Nat) (f : Group → Group) : (s.modGroup k f).group? k = (s.group? k).map f := by
  unfold State.modGroup
  cases h : s.group? k with
  | none => simpa using h
  | some x => simp
theorem State.group?_modGroup_other (s : State) {k j : Nat} (f : Group → Group) (h : j ≠ k) :
    (s.modGroup k f).group? j = s.group? j := by
  unfold State.modGroup
  split
  · exact State.group?_setGroup_other s _ h
  · rfl

@[simp] theorem State.team?_setTeam (s : State) (k : Nat) (x : Team) : (s.setTeam k x).team? k = some x :=
  SMap.get?_set_same ..
theorem State.team?_setTeam_other (s : State) {k j : Nat} (x : Team) (h : j ≠ k) : (s.setTeam k x).team? j = s.team? j :=
  SMap.get?_set_other _ _ h
theorem State.team?_modTeam (s : State) (k : Nat) (f : Team → Team) : (s.modTeam k f).team? k = (s.team? k).map f := by
  unfold State.modTeam
  cases h : s.team? k with
  | none => simpa using h
  | some x => simp
theorem State.team?_modTeam_other (s : State) {k j : Nat} (f : Team → Team) (h : j ≠ k) :
    (s.modTeam k f).team? j = s.team? j := by
  unfold State.modTeam
  split
  · exact State.team?_setTeam_other s _ h
  · rfl

@[simp] theorem State.node?_setNode (s : State) (k : Nat) (x : Node) : (s.setNode k x).node? k = some x :=
  SMap.get?_set_same ..
theorem State.node?_setNode_other (s : State) {k j : Nat} (x : Node) (h : j ≠ k) : (s.setNode k x).node? j = s.node? j :=
  SMap.get?_set_other _ _ h
theorem State.node?_modNode (s : State) (k : Nat) (f : Node → Node) : (s.modNode k f).node? k = (s.node? k).map f := by
  unfold State.modNode
  cases h : s.node? k with
  | none => simpa using h
  | some x => simp
theorem State.node?_modNode_other (s : State) {k j : Nat} (f : Node → Node) (h : j ≠ k) :
    (s.modNode k f).node? j = s.node? j := by
  unfold State.modNode
  split
  · exact State.node?_setNode_other s _ h
  · rfl

@[simp] theorem State.ig?_setIg (s : State) (k : Nat) (x : IssueGroup) : (s.setIg k x).ig? k = some x := SMap.get?_set_same ..
theorem State.ig?_setIg_other (s : State) {k j : Nat} (x : IssueGroup) (h : j ≠ k) : (s.setIg k x).ig? j = s.ig? j :=
  SMap.get?_set_other _ _ h
theorem State.ig?_dropIg_other (s : State) {k j : Nat} (h : j ≠ k) : (s.dropIg k).ig? j = s.ig? j := SMap.get?_erase_other _ h
theorem State.die_setDie (s : State) (k : Nat) (x : Die) : (s.setDie k x).die k = x := by simp [State.die, State.setDie, SMap.getD]
theorem State.core_setCore (s : State) (k : Nat) (x : Core) : (s.setCore k x).core k = x := by
  simp [State.core, State.setCore, SMap.getD]
theorem State.cluster_setCluster (s : State) (k : Nat) (x : Cluster) : (s.setCluster k x).cluster k = x := by
  simp [State.cluster, State.setCluster, SMap.getD]
theorem State.ctx_setCtx (s : State) (k : Nat) (x : Ctx) : (s.setCtx k x).ctx k = x := by simp [State.ctx, State.setCtx, SMap.getD]
@[simp] theorem State.monitor?_setMonitor (s : State) (k : Nat) (x : Monitor) : (s.setMonitor k x).monitor? k = some x :=
  SMap.get?_set_same ..
@[simp] theorem State.copy?_setCopy (s : State) (k : Nat) (x : Copy) : (s.setCopy k x).copy? k = some x := SMap.get?_set_same ..

end Sys2Proof.Machine
end

