-- ==== Sys2Proof/Laws/Canonical.lean ====
section
/-! SUPPORT. Which operations keep the canonical form of memory: those of the caches, of translation and of the reports, for
the invariant `MemoryCanonical`. -/

namespace Sys2Proof.Machine

/-- The canonical form is a matter of memory alone. -/
theorem memWf_of_mem {s t : State} (h : t.mem = s.mem) (k : s.memWf) : t.memWf := by
  unfold State.memWf at *
  rw [h]
  exact k

/-- A fold of steps that keep it keeps it. -/
theorem foldl_memWf {α : Type} (f : State → α → State) (hf : ∀ s a, s.memWf → (f s a).memWf) (l : List α) (s : State) (h : s.memWf) :
    (l.foldl f s).memWf := by
  induction l generalizing s with
  | nil => exact h
  | cons a r ih => exact ih _ (hf s a h)

/-- A fold that carries a state beside other data. -/
theorem foldl_fst_memWf {α β : Type} (f : State × β → α → State × β) (hf : ∀ p a, p.1.memWf → (f p a).1.memWf) (l : List α)
    (p : State × β) (h : p.1.memWf) : (l.foldl f p).1.memWf := by
  induction l generalizing p with
  | nil => exact h
  | cons a r ih => exact ih _ (hf p a h)
theorem foldl_snd_memWf {α β : Type} (f : β × State → α → β × State) (hf : ∀ p a, p.2.memWf → (f p a).2.memWf) (l : List α)
    (p : β × State) (h : p.2.memWf) : (l.foldl f p).2.memWf := by
  induction l generalizing p with
  | nil => exact h
  | cons a r ih => exact ih _ (hf p a h)

theorem wakeMonitors_mem (s : State) (pa n : Nat) : (s.wakeMonitors pa n).mem = s.mem := by
  unfold State.wakeMonitors
  split <;> rfl
theorem orHome_memWf {s : State} (pa : Nat) (w : Word) (h : s.memWf) : (s.orHome pa w).memWf :=
  memWf_of_mem (wakeMonitors_mem ..) (Memory.writes_wf _ _ h)

theorem setAccessed_memWf {s : State} (slot : Nat) (e : Word) (kind : Nat) (h : s.memWf) : (s.setAccessed slot e kind).2.memWf := by
  unfold State.setAccessed
  dsimp only
  split
  · exact h
  · exact orHome_memWf _ _ h

theorem walkGo_mem (s : State) (d x va fuel t lvl : Nat) : (s.walkGo d x va fuel t lvl).2.mem = s.mem := by
  induction fuel generalizing s t lvl with
  | zero => rfl
  | succ n ih =>
    unfold State.walkGo
    dsimp only
    repeat' split
    all_goals first | rfl | exact (ih _ _ _).trans rfl

theorem walkVa_mem (s : State) (d x va : Nat) : (s.walkVa d x va).2.mem = s.mem := by
  unfold State.walkVa
  dsimp only
  split
  · rfl
  · exact walkGo_mem ..

theorem translate_memWf {s : State} (ck x va kind : Nat) (h : s.memWf) : (s.translate ck x va kind).2.memWf := by
  unfold State.translate
  dsimp only
  have h1 : (s.walkVa (ck / 96) x va).2.memWf := memWf_of_mem (walkVa_mem ..) h
  generalize s.walkVa (ck / 96) x va = w at *
  obtain ⟨w, s1⟩ := w
  dsimp only at *
  have h2 : (if (s1.core ck).tlb.any fun t => t.covers x va then s1 else s1.countPerf ck 11).memWf := by
    split
    · exact h1
    · exact h1
  generalize (if (s1.core ck).tlb.any fun t => t.covers x va then s1 else s1.countPerf ck 11) = s2 at *
  have h3 : ∀ (o : Option TlbEntry), (match o with
      | some t => if (w == Walk.leaf t.leaf t.lvl t.slot) = true then (w, s2)
          else (if s2.flip.1 = true then Walk.leaf t.leaf t.lvl t.slot else w, s2.flip.2)
      | none => (w, s2)).2.memWf := by
    intro o
    split
    · split
      · exact h2
      · exact h2
    · exact h2
  have h4 := h3 ((((s2.core ck).tlb ++ (s2.cluster (clusterOf ck)).tlb).find? fun t => t.covers x va).filter fun t => s2.heldServes t kind)
  split
  · exact h4
  · exact h4
  · split
    · exact h4
    · exact setAccessed_memWf _ _ _ h4

theorem translateRange_memWf {s : State} (ck x va n kind : Nat) (h : s.memWf) : (s.translateRange ck x va n kind).2.memWf := by
  unfold State.translateRange
  dsimp only
  have h1 := translate_memWf ck x va kind h
  generalize s.translate ck x va kind = w at *
  obtain ⟨w, s1⟩ := w
  cases w with
  | fault => exact h1
  | wait => exact h1
  | ok p =>
    dsimp only at *
    split
    · exact h1
    · split
      · exact h1
      · have h2 := translate_memWf ck x (va + min n (p.left va)) kind h1
        generalize s1.translate ck x (va + min n (p.left va)) kind = w at *
        obtain ⟨w, s2⟩ := w
        cases w <;> exact h2

theorem dropCopyMarks_mem (s : State) (at_ : ErrPlace → Option Nat) (f : Nat → Bool) : (s.dropCopyMarks at_ f).mem = s.mem := by
  unfold State.dropCopyMarks
  split <;> rfl
theorem pick_mem (s : State) (n : Nat) : (s.pick n).2.mem = s.mem := rfl

theorem cleanColumn_memWf {s : State} (ck : Nat) (f : Nat → Bool) (h : s.memWf) : (s.cleanColumn ck f).memWf := by
  unfold State.cleanColumn
  dsimp only
  split
  · exact h
  · have key : ∀ (l : List (Nat × ColByte)) (p : State × Option (Nat × List Byte)), p.1.memWf →
        (l.foldl (fun (acc : State × Option (Nat × List Byte)) (e : Nat × ColByte) =>
          match acc.2 with
          | none => (acc.1, some (e.1, [e.2.val]))
          | some (a, bs) =>
            if e.1 == a + bs.length && e.1 / 8 == a / 8 then (acc.1, some (a, bs ++ [e.2.val]))
            else (acc.1.writeHome a bs, some (e.1, [e.2.val]))) p).1.memWf := by
      intro l p hp
      refine foldl_fst_memWf _ (fun p a hp => ?_) l p hp
      split
      · exact hp
      · split
        · exact hp
        · exact writeHome_wf _ _ hp
    have all : ∀ (l : List (Nat × ColByte)) (p : State × Option (Nat × List Byte)), p.1.memWf →
        (match l.foldl (fun (acc : State × Option (Nat × List Byte)) (e : Nat × ColByte) =>
          match acc.2 with
          | none => (acc.1, some (e.1, [e.2.val]))
          | some (a, bs) =>
            if e.1 == a + bs.length && e.1 / 8 == a / 8 then (acc.1, some (a, bs ++ [e.2.val]))
            else (acc.1.writeHome a bs, some (e.1, [e.2.val]))) p with
        | (s, none) => s
        | (s, some (a, bs)) => s.writeHome a bs).memWf := by
      intro l p hp
      have h1 := key l p hp
      split
      · rename_i he
        rw [he] at h1
        exact h1
      · rename_i he
        rw [he] at h1
        exact writeHome_wf _ _ h1
    split
    · exact all _ _ h
    · exact all _ _ h

theorem dropColumn_memWf {s : State} (ck : Nat) (f : Nat → Bool) (h : s.memWf) : (s.dropColumn ck f).memWf :=
  memWf_of_mem ((dropCopyMarks_mem ..).trans rfl) (cleanColumn_memWf ck f h)
theorem dropL1_mem (s : State) (ck : Nat) (f : Nat → Bool) : (s.dropL1 ck f).mem = s.mem := (dropCopyMarks_mem ..).trans rfl
theorem ccln_memWf {s : State} (ck : Nat) (h : s.memWf) : (s.ccln ck).memWf := cleanColumn_memWf ck _ h
theorem cinv_memWf {s : State} (ck : Nat) (h : s.memWf) : (s.cinv ck).memWf := memWf_of_mem (dropL1_mem ..) (dropColumn_memWf ck _ h)
theorem dropLine_memWf {s : State} (ck pa : Nat) (h : s.memWf) : (s.dropLine ck pa).memWf :=
  memWf_of_mem (dropL1_mem ..) (dropColumn_memWf ck _ h)
theorem acquire_memWf {s : State} (ck scope : Nat) (h : s.memWf) : (s.acquire ck scope).memWf := by
  unfold State.acquire
  split
  · exact cinv_memWf ck h
  · exact h
theorem release_memWf {s : State} (ck scope : Nat) (h : s.memWf) : (s.release ck scope).memWf := by
  unfold State.release
  split
  · exact ccln_memWf ck h
  · exact h

theorem writeEvents_memWf {s : State} (pa : Nat) (bs : List Byte) (h : s.memWf) : (s.writeEvents pa bs).memWf := by
  unfold State.writeEvents
  dsimp only
  split
  · exact writeHome_wf _ _ h
  · split
    · exact writeHome_wf _ _ (writeHome_wf _ _ h)
    · exact foldl_memWf _ (fun _ _ hp => writeHome_wf _ _ hp) _ _ h

theorem columnRoom_memWf {s : State} (ck line : Nat) (h : s.memWf) : (s.columnRoom ck line).memWf := by
  unfold State.columnRoom
  split
  · exact h
  · exact dropColumn_memWf ck _ (memWf_of_mem (pick_mem s (s.victims ck line).length) h)
theorem dropHeld_memWf {s : State} (ck pa : Nat) (h : s.memWf) : (s.dropHeld ck pa).memWf := by
  unfold State.dropHeld
  split
  · exact dropLine_memWf ck pa h
  · exact h
theorem pinColumn_memWf {s : State} (ck : Nat) (p : Phys) (h : s.memWf) : (s.pinColumn ck p).memWf :=
  memWf_of_mem (dropL1_mem ..) (columnRoom_memWf ck _ h)
theorem pinSlice_memWf {s : State} (p : Phys) (h : s.memWf) : (s.pinSlice p).memWf :=
  foldl_memWf _ (fun _ _ hp => dropHeld_memWf _ _ hp) _ _ h
theorem keptAs_memWf {s : State} (ck : Nat) (p : Phys) (h : s.memWf) : (s.keptAs ck p).2.memWf := by
  unfold State.keptAs
  dsimp only
  repeat' split
  all_goals first | exact h | exact pinColumn_memWf ck p h | exact dropHeld_memWf ck _ h | exact pinSlice_memWf p h

theorem writeLine_memWf {s : State} (ck : Nat) (p : Phys) (bs : List Byte) (h : s.memWf) : (s.writeLine ck p bs).memWf := by
  unfold State.writeLine
  dsimp only
  have h0 : (s.keptAs ck p).2.memWf := keptAs_memWf ck p h
  generalize s.keptAs ck p = k at *
  obtain ⟨home, s0⟩ := k
  dsimp only at *
  have count : ∀ (t : State) (c : Nat), t.memWf → (t.countPerf ck c).memWf := fun _ _ ht => ht
  generalize hs : (if cachesL1 _ = true then State.countPerf s0 ck _ else s0) = s1
  have h1 : s1.memWf := by
    subst hs
    split
    · exact count _ _ h0
    · exact h0
  generalize ht : (if (s1.core ck).l1.isEmpty = true then s1 else _) = s2
  have h2 : s2.memWf := by
    subst ht
    split
    · exact h1
    · exact memWf_of_mem ((dropCopyMarks_mem ..).trans rfl) h1
  split
  · exact writeEvents_memWf _ _ h2
  · generalize hu : State.countPerf s2 ck _ = s3
    have h3 : s3.memWf := by subst hu; exact count _ _ h2
    generalize hq : @ite (Bool × State) (_ = true) (instDecidableEqBool _ true) (false, s3) _ = q
    have h4 : q.2.memWf := by
      subst hq
      repeat' split
      all_goals exact h3
    obtain ⟨b, s4⟩ := q
    dsimp only at *
    split
    · exact writeEvents_memWf _ _ h4
    · exact memWf_of_mem ((dropCopyMarks_mem ..).trans rfl) (columnRoom_memWf ck _ h4)

theorem writeCached_memWf {s : State} (ck : Nat) (p : Phys) (bs : List Byte) (h : s.memWf) : (s.writeCached ck p bs).memWf :=
  foldl_memWf _ (fun _ _ hp => writeLine_memWf ck _ _ hp) _ _ h

theorem memWrite_memWf {s : State} (ck : Nat) (segs : List Seg) (bs : List Byte) (rel : Bool) (scope : Nat) (h : s.memWf) :
    (s.memWrite ck segs bs rel scope).memWf := by
  unfold State.memWrite
  dsimp only
  refine foldl_snd_memWf _ (fun p g hp => ?_) segs (bs, s) h
  dsimp only
  split
  · exact writeHome_wf _ _ (dropLine_memWf ck _ hp)
  · exact writeCached_memWf ck _ _ hp

theorem trailAt_memWf {s : State} (d time kind ctx index : Nat) (payload : List Byte) (h : s.memWf) :
    (s.trailAt d time kind ctx index payload).memWf := by
  unfold State.trailAt
  split
  · exact h
  · dsimp only
    split
    · exact writeHome_wf _ _ h
    · exact h

theorem raiseVec_mem (s : State) (v : Nat) : (s.raiseVec v).mem = s.mem := by
  unfold State.raiseVec
  split <;> rfl

theorem writeReport_memWf {s : State} (d : Nat) (h : s.memWf) : (s.writeReport d).memWf := by
  unfold State.writeReport
  split
  · split
    · exact h
    · exact foldl_memWf _ (fun _ _ hp => memWf_of_mem (raiseVec_mem ..) hp) _ _ (memWf_of_mem (raiseVec_mem ..) (writeHome_wf _ _ h))
  · exact h

/-- A part of a canonical memory is canonical. -/
theorem filter_wf (f : Host.Cell → Bool) {m : List Host.Cell} (h : Memory.wf m) : Memory.wf (m.filter f) := by
  have hs : ∀ m : SMap Byte, SMap.sorted m = true → SMap.sorted (m.filter f) = true := by
    intro m
    induction m with
    | nil => exact id
    | cons a r ih =>
      obtain ⟨k, v⟩ := a
      intro h
      rw [SMap.sorted_cons] at h
      rw [List.filter_cons]
      split
      · rw [SMap.sorted_cons]
        exact ⟨fun p hp => h.1 p ((List.mem_filter.mp hp).1), ih h.2⟩
      · exact ih h.2
  simp only [Memory.wf, SMap.wf, Bool.and_eq_true, List.all_eq_true] at *
  exact ⟨hs m h.1, fun p hp => h.2 p ((List.mem_filter.mp hp).1)⟩

theorem copyShown_memWf {s : State} (d b : Nat) (h : s.memWf) : (s.copyShown d b).memWf := by
  unfold State.copyShown State.memWf
  dsimp only
  have key : ∀ (l : List Host.Cell) (g : Host.Cell → Nat) (m : List Host.Cell), Memory.wf m →
      Memory.wf (l.foldl (fun m c => Memory.write m (g c) c.2) m) := by
    intro l g
    induction l with
    | nil => intro m h; exact h
    | cons a r ih => intro m h; exact ih _ (Memory.write_wf _ _ h)
  exact key _ _ _ (filter_wf _ h)

theorem deviceReset_mem (s : State) (hot0 hot1 : Bool) : (s.deviceReset hot0 hot1).mem = s.mem := by
  unfold State.deviceReset
  cases hot0 <;> cases hot1 <;> rfl

end Sys2Proof.Machine
end

