-- ==== Sys2Proof/Laws/Group.lean ====
section
/-! SUPPORT. What register effects change in a group: names, handler registers, scalar registers, predicates and the operations
in flight, and nothing else. -/

namespace Sys2Proof.Machine

/-- `h` is `g` with other register contents: names, operations in flight, the innermost frame's `h` registers, predicates and
scalar registers may differ. -/
structure RegsOnly (g h : Group) : Prop where
  eq : ∃ v ops fr th sr, h = { g with v := v, ops := ops, frames := fr, threads := th, s := sr }
  frames : h.frames.length = g.frames.length
  thread : ∀ l, ∃ p, h.thread l = { g.thread l with preds := p }

theorem RegsOnly.refl (g : Group) : RegsOnly g g := ⟨⟨_, _, _, _, _, rfl⟩, rfl, fun _ => ⟨_, rfl⟩⟩

theorem RegsOnly.trans {a b c : Group} (h : RegsOnly a b) (k : RegsOnly b c) : RegsOnly a c := by
  refine ⟨?_, k.frames.trans h.frames, fun l => ?_⟩
  · obtain ⟨_, _, _, _, _, rfl⟩ := h.eq
    obtain ⟨_, _, _, _, _, rfl⟩ := k.eq
    exact ⟨_, _, _, _, _, rfl⟩
  · obtain ⟨p, hp⟩ := h.thread l
    obtain ⟨q, hq⟩ := k.thread l
    exact ⟨q, by rw [hq, hp]⟩

theorem RegsOnly.halts {g h : Group} (k : RegsOnly g h) : h.halts = g.halts := by
  obtain ⟨_, _, _, _, _, rfl⟩ := k.eq; rfl
theorem RegsOnly.pending {g h : Group} (k : RegsOnly g h) : h.pending = g.pending := by
  obtain ⟨_, _, _, _, _, rfl⟩ := k.eq; rfl
theorem RegsOnly.susp {g h : Group} (k : RegsOnly g h) : h.susp = g.susp := by
  obtain ⟨_, _, _, _, _, rfl⟩ := k.eq; rfl
theorem RegsOnly.fx {g h : Group} (k : RegsOnly g h) : h.fx = g.fx := by
  obtain ⟨_, _, _, _, _, rfl⟩ := k.eq; rfl
theorem RegsOnly.exited {g h : Group} (k : RegsOnly g h) (l : Nat) : (h.thread l).exited = (g.thread l).exited := by
  obtain ⟨p, hp⟩ := k.thread l; rw [hp]
theorem RegsOnly.conv {g h : Group} (k : RegsOnly g h) (l : Nat) : (h.thread l).conv = (g.thread l).conv := by
  obtain ⟨p, hp⟩ := k.thread l; rw [hp]

theorem writeV_regsOnly (g : Group) (n : Nat) (m : Mask) (x : Lanes W32) : RegsOnly g (g.writeV n m x) :=
  ⟨⟨_, _, _, _, _, rfl⟩, rfl, fun _ => ⟨_, rfl⟩⟩
theorem writeS_regsOnly (g : Group) (n : Nat) (x : Word) : RegsOnly g (g.writeS n x) :=
  ⟨⟨_, _, _, _, _, rfl⟩, rfl, fun _ => ⟨_, rfl⟩⟩
theorem writeH_regsOnly (g : Group) (n : Nat) (m : Mask) (x : Lanes W32) : RegsOnly g (g.writeH n m x) := by
  unfold Group.writeH
  split
  · rename_i f r h
    exact ⟨⟨_, _, _, _, _, rfl⟩, by simp [h], fun _ => ⟨_, rfl⟩⟩
  · exact RegsOnly.refl g
theorem unmap_regsOnly (g : Group) (ns : List Nat) : RegsOnly g (g.unmap ns) := by
  unfold Group.unmap
  split
  · exact RegsOnly.refl g
  · exact ⟨⟨_, _, _, _, _, rfl⟩, rfl, fun _ => ⟨_, rfl⟩⟩
theorem mapNames_regsOnly (g : Group) (ns : List Nat) : RegsOnly g (g.mapNames ns) :=
  ⟨⟨_, _, _, _, _, rfl⟩, rfl, fun _ => ⟨_, rfl⟩⟩
theorem writeReg_regsOnly (g : Group) (w : RegWrite) : RegsOnly g (g.writeReg w) := by
  unfold Group.writeReg
  split
  · exact writeV_regsOnly ..
  · exact writeH_regsOnly ..
  all_goals exact RegsOnly.refl g

theorem thread_of_lanes (g : Group) (f : Nat → Thread) (l : Nat) :
    ({ g with threads := lanes f } : Group).thread l = if l < 32 then f l else Thread.init 0 := by
  unfold Group.thread lanes
  by_cases h : l < 32
  · simp [h]
  · simp [h]

theorem thread_beyond (g : Group) {l : Nat} (h : ¬ l < 32) : g.thread l = Thread.init 0 := by
  unfold Group.thread
  simp [h]

theorem writePred_regsOnly (g : Group) (w : PredWrite) : RegsOnly g (g.writePred w) := by
  unfold Group.writePred
  split
  · exact RegsOnly.refl g
  · refine ⟨⟨_, _, _, _, _, rfl⟩, rfl, fun l => ?_⟩
    rw [thread_of_lanes]
    by_cases h : l < 32
    · simp only [h, if_true]
      split
      · exact ⟨_, rfl⟩
      · exact ⟨_, rfl⟩
    · simp only [h, if_false, thread_beyond g h]
      exact ⟨_, rfl⟩

theorem foldl_regsOnly {α : Type} (f : Group → α → Group) (hf : ∀ g a, RegsOnly g (f g a)) (l : List α) (g : Group) :
    RegsOnly g (l.foldl f g) := by
  induction l generalizing g with
  | nil => exact RegsOnly.refl g
  | cons a r ih => exact (hf g a).trans (ih (f g a))

/-- Committing an instruction's register effects changes nothing else in the group. -/
theorem commit_regsOnly (g : Group) (ops : List Operand) (m : Mask) (f : Eff) : RegsOnly g (g.commit ops m f) := by
  have h1 := (unmap_regsOnly g (freedNames ops)).trans (mapNames_regsOnly _ (dstNames ops))
  have h2 := h1.trans (foldl_regsOnly (fun g (p : Nat × Lanes W32) => g.writeV p.1 m p.2) (fun g p => writeV_regsOnly ..)
    (((dstNames ops).filter fun n => (freedNames ops).contains n && m != 0).map fun n => (n, g.readV n)) _)
  have h3 := h2.trans (foldl_regsOnly Group.writeReg writeReg_regsOnly f.regs _)
  have h4 := h3.trans (foldl_regsOnly Group.writePred writePred_regsOnly f.preds _)
  unfold Group.commit
  dsimp only
  split
  · split
    · exact h4.trans (writeS_regsOnly ..)
    · exact h4
  · exact h4

end Sys2Proof.Machine
end

