-- ==== Sys2Proof/Laws/Issue.lean ====
section
/-! SUPPORT. What issuing a word does: an instruction that is ready applies its effect, one that fails a check of 03_encoding
R67 traps, and one whose guard is the never-guard completes without an effect. -/

namespace Sys2Proof.Machine

theorem addrHits_unwatched {s : State} {e : Env} (h : s.watches e.ck 0 = []) (k : Nat) (m : Mask) (r : Nat → Nat × Nat) :
    s.addrHits e k m r = [] := by simp [State.addrHits, h]

theorem recordHits_nil (s : State) (e : Env) : s.recordHits e [] = s := rfl

/-- An unwatched word that passes the checks of its encoding goes on to its guard, its own checks and its operands. -/
theorem issueWord_unwatched {s : State} {i : Instr} {e : Env} {pre : PreCheck} {body : Env → State → Res}
    (h : s.watches e.ck 0 = []) :
    s.issueWord i e pre body = match s.encCheck i e with
      | some c => s.trapBefore e 0 c 0 0 0 (lowLane (e.ig.mask &&& ~~~e.ig.done))
      | none =>
        if neverGuard i.guard then s.finish { e with act := 0, guarded := 0, ops := [] } {} none [] true id
        else match scalarCheck i e <|> pre e s with
          | some c => s.trapBefore e 0 c 0 0 0 (lowLane (e.ig.mask &&& ~~~e.ig.done))
          | none =>
            match (if mtxOp i.op || copyOp i.op then none else s.operandCheck e) with
            | some why => (Res.stop s {} 0 why).apply s e
            | none => (body e s).apply s e := by
  unfold State.issueWord
  rw [addrHits_unwatched h]
  simp only [recordHits_nil, ite_self]
  rfl

/-- A ready word applies its effect. -/
theorem issueWord_ready {s : State} {i : Instr} {e : Env} {pre : PreCheck} {body : Env → State → Res}
    (h : Ready s i e) (hp : pre e s = none) : s.issueWord i e pre body = (body e s).apply s e := by
  rw [issueWord_unwatched h.watch, h.enc]
  simp only [h.guard, h.scalar, hp, Bool.false_eq_true, if_false]
  cases hc : mtxOp i.op || copyOp i.op with
  | true => rfl
  | false => simp [h.operands hc]

theorem runWord_ready {s : State} {i : Instr} {e : Env} {pre : PreCheck} {body : Env → State → Res}
    (h : Ready s i e) (hp : pre e s = none) : runWord i pre body s = .next ((body e s).apply s e) := by
  simp [runWord, h.env, issueWord_ready h hp]

/-- A ready word that writes registers completes with what it writes. -/
theorem runAlu_ready {s : State} {i : Instr} {e : Env} {body : Env → State → Eff} (h : Ready s i e) :
    runAlu i body s = .next (s.finish e (body e s) none [] true id) := by
  rw [runAlu, runWord_ready h (pre := noCheck) rfl]
  rfl

/-- A word that fails a check of its encoding traps before it has any effect. -/
theorem runWord_encoding {s : State} {i : Instr} {e : Env} {pre : PreCheck} {body : Env → State → Res} {c : Cause}
    (he : s.env? i = some e) (hw : s.watches e.ck 0 = []) (hc : s.encCheck i e = some c) :
    runWord i pre body s = .next (s.trapBefore e 0 c 0 0 0 (lowLane (e.ig.mask &&& ~~~e.ig.done))) := by
  simp [runWord, he, issueWord_unwatched hw, hc]

/-- A never-guarded word completes without an effect. -/
theorem runWord_never {s : State} {i : Instr} {e : Env} {pre : PreCheck} {body : Env → State → Res}
    (he : s.env? i = some e) (hw : s.watches e.ck 0 = []) (hc : s.encCheck i e = none) (hn : neverGuard i.guard = true) :
    runWord i pre body s = .next (s.finish { e with act := 0, guarded := 0, ops := [] } {} none [] true id) := by
  simp [runWord, he, issueWord_unwatched hw, hc, hn]

end Sys2Proof.Machine
end

