-- ==== Sys2Proof/Laws/Complete.lean ====
section
/-! SUPPORT. What the completion of an instruction does when nothing waits at its boundary: the register effects, the count of
issued instructions, and the threads that move on. -/

namespace Sys2Proof.Machine

theorem SMap.set_set {α : Type} (m : SMap α) (k : Nat) (a b : α) : SMap.set (SMap.set m k a) k b = SMap.set m k b := by
  induction m with
  | nil => simp [SMap.set]
  | cons p r ih =>
    obtain ⟨j, u⟩ := p
    by_cases h1 : k < j
    · simp [SMap.set, h1]
    · by_cases h2 : j = k
      · simp [SMap.set, h2]
      · simp [SMap.set, h1, h2, ih]

theorem setGroup_setGroup (s : State) (k : Nat) (a b : Group) : (s.setGroup k a).setGroup k b = s.setGroup k b := by
  simp [State.setGroup, SMap.set_set]

theorem modGroup_of {s : State} {k : Nat} {g : Group} (h : s.group? k = some g) (f : Group → Group) :
    s.modGroup k f = s.setGroup k (f g) := by simp [State.modGroup, h]

theorem watches_empty {s : State} {ck : Nat} (h : (s.core ck).watch = []) (k : Nat) : s.watches ck k = [] := by
  simp [State.watches, h]

theorem unmarkRegs_eq (s : State) (gk : Nat) (fr : List Nat) (ws : List RegWrite) :
    ∃ ms, s.unmarkRegs gk fr ws = { s with marks := ms } := by
  unfold State.unmarkRegs
  split
  · exact ⟨s.marks, rfl⟩
  · exact ⟨_, rfl⟩

/-- What the word has done to its group before the threads move on: the predicates are all that a thread gets. -/
theorem wordDone_regs (s : State) (e : Env) (f : Eff) (g : Group) :
    (∀ l, ∃ p, (s.wordDone e f g).thread l = { g.thread l with preds := p })
      ∧ (s.wordDone e f g).halts = g.halts ∧ (s.wordDone e f g).pending = g.pending := by
  unfold State.wordDone
  cases s.inFlight e f with
  | none =>
    have k := commit_regsOnly g e.ops e.ig.done f
    exact ⟨k.thread, k.halts, k.pending⟩
  | some cls =>
    have k := commit_regsOnly g e.ops e.ig.done { f with regs := [], fx := noFx }
    exact ⟨k.thread, k.halts, k.pending⟩

theorem wordDone_thread (s : State) (e : Env) (f : Eff) (g : Group) (l : Nat) :
    ∃ p, (s.wordDone e f g).thread l = { g.thread l with preds := p } := (wordDone_regs s e f g).1 l
theorem wordDone_halts (s : State) (e : Env) (f : Eff) (g : Group) : (s.wordDone e f g).halts = g.halts := (wordDone_regs s e f g).2.1
theorem wordDone_pending (s : State) (e : Env) (f : Eff) (g : Group) : (s.wordDone e f g).pending = g.pending :=
  (wordDone_regs s e f g).2.2

/-- A group in which some thread runs keeps its arrivals at `CONV`. -/
theorem convRelease_running {g : Group} {l : Nat} (hl : l < 32) (h1 : (g.thread l).exited = false)
    (h2 : (g.thread l).conv = false) : g.convRelease = g := by
  have h : ¬ (laneList.all fun l => (g.thread l).exited || ((g.thread l).conv && (g.thread l).halt.isNone)) = true := by
    intro h
    have := List.all_eq_true.mp h l (List.mem_range.mpr hl)
    simp [h1, h2] at this
  unfold Group.convRelease
  rw [if_neg h]

theorem laneBit_getLsbD (l : Nat) : (1#32 <<< l).getLsbD l = decide (l < 32) := by
  by_cases h : l < 32 <;> simp [h]

theorem foldl_maskOf_le (f : Nat → Bool) (ls : List Nat) (m : Mask) (l : Nat) (h : m.getLsbD l = true) :
    (ls.foldl (fun m l => if f l then m ||| (1#32 <<< l) else m) m).getLsbD l = true := by
  induction ls generalizing m with
  | nil => exact h
  | cons a r ih =>
    apply ih
    dsimp only
    split
    · rw [BitVec.getLsbD_or, h, Bool.true_or]
    · exact h

theorem foldl_maskOf_mem (f : Nat → Bool) (ls : List Nat) (m : Mask) {l : Nat} (hm : l ∈ ls) (hl : l < 32) (h : f l = true) :
    (ls.foldl (fun m l => if f l then m ||| (1#32 <<< l) else m) m).getLsbD l = true := by
  induction ls generalizing m with
  | nil => cases hm
  | cons a r ih =>
    rcases List.mem_cons.mp hm with rfl | hm
    · rw [List.foldl_cons, if_pos h]
      refine foldl_maskOf_le f r _ l ?_
      rw [BitVec.getLsbD_or, laneBit_getLsbD]
      simp [hl]
    · exact ih _ hm

theorem maskOf_true {f : Nat → Bool} {l : Nat} (hl : l < 32) (h : f l = true) : (maskOf f).getLsbD l = true :=
  foldl_maskOf_mem f laneList 0 (List.mem_range.mpr hl) hl h

theorem allExited_false {g : Group} {l : Nat} (hl : l < 32) (h : (g.thread l).exited = false) : g.allExited = false := by
  have : g.live.getLsbD l = true := maskOf_true hl (by simp [h])
  unfold Group.allExited
  cases hz : g.live == 0 with
  | false => rfl
  | true =>
    rw [eq_of_beq hz] at this
    simp at this

/-- A group in which some thread runs settles as it is. -/
theorem settle_running {s : State} {gk : Nat} {g : Group} {l : Nat} (hg : s.group? gk = some g) (hl : l < 32)
    (h1 : (g.thread l).exited = false) (h2 : (g.thread l).conv = false) : s.settle gk = s.setGroup gk g := by
  unfold State.settle
  rw [hg]
  simp only [allExited_false hl h1, convRelease_running hl h1 h2, Bool.false_eq_true, if_false]

theorem deliverPending_none {s : State} {gk : Nat} {g : Group} (b : Mask) (hg : s.group? gk = some g) (hp : g.pending = []) :
    s.deliverPending gk b = s := by
  unfold State.deliverPending
  rw [hg]
  simp [hp]

/-- The next word of the clause: what an issue group keeps when its threads go on to it. -/
def IssueGroup.onward (ig : IssueGroup) : IssueGroup :=
  { ig with
      pos := ig.pos + 1, done := 0, raised := noFx, arr := 0, was := 0, bar := none, mons := [], block := none, traps := [],
      stepOf := none, stepRes := none }

/-- What an instruction that completes quietly leaves before its threads move on. -/
def State.committed (s : State) (e : Env) (f : Eff) : State :=
  (s.unmarkRegs e.gk (freedNames e.ops) f.regs).setGroup e.gk (s.wordDone e f e.g)

theorem valueHits_empty {s : State} {e : Env} (h : (s.core e.ck).watch = []) (ws : List RegWrite) : s.valueHits e ws = [] := by
  simp [State.valueHits, watches_empty h]
theorem formatHits_empty {s : State} {e : Env} (h : (s.core e.ck).watch = []) (fx : Lanes Fx) : s.formatHits e fx = [] := by
  simp [State.formatHits, watches_empty h]
theorem countHits_empty {s : State} {e : Env} (h : (s.core e.ck).watch = []) (m : Mask) : s.countHits e m = ([], s) := by
  simp [State.countHits, watches_empty h]
theorem landHalts_none {s : State} {e : Env} {g : Group} (hg : s.group? e.gk = some g) (h : g.halts = []) (m : Mask) :
    s.landHalts e m = (s, []) := by
  unfold State.landHalts
  rw [hg]
  simp [h]
theorem boundary_nil (s : State) (e : Env) (m : Mask) (b : Bool) : s.boundary e m [] [] b = s := rfl

/-- The end of `State.finish` once the threads have moved on to `t`, in which the group is `g`. -/
theorem finish_tail {t : State} {e : Env} {g : Group} {l : Nat} (b : Bool) (hg : t.group? e.gk = some g) (hh : g.halts = [])
    (hp : g.pending = []) (hl : l < 32) (h1 : (g.thread l).exited = false) (h2 : (g.thread l).conv = false) (m : Mask) :
    (((t.landHalts e m).1.boundary e m (t.landHalts e m).2 [] b).settle e.gk).deliverPending e.gk 0 = t.setGroup e.gk g := by
  rw [landHalts_none hg hh, boundary_nil, settle_running hg hl h1 h2]
  exact deliverPending_none 0 (State.group?_setGroup ..) hp

theorem committed_eq {s : State} {e : Env} (q : Quiet s e) (f : Eff) :
    (s.unmarkRegs e.gk (freedNames e.ops) f.regs).modGroup e.gk (s.wordDone e f) = s.committed e f := by
  obtain ⟨ms, h⟩ := unmarkRegs_eq s e.gk (freedNames e.ops) f.regs
  have hg : (s.unmarkRegs e.gk (freedNames e.ops) f.regs).group? e.gk = some e.g := by rw [h]; exact q.group
  exact modGroup_of hg _

theorem committed_fields {s : State} (e : Env) (f : Eff) :
    ∃ gs ms, s.committed e f = { s with groups := gs, marks := ms } ∧ (s.committed e f).group? e.gk = some (s.wordDone e f e.g)
      ∧ ∀ k, k ≠ e.gk → (s.committed e f).group? k = s.group? k := by
  obtain ⟨ms, h⟩ := unmarkRegs_eq s e.gk (freedNames e.ops) f.regs
  refine ⟨SMap.set s.groups e.gk (s.wordDone e f e.g), ms, ?_, State.group?_setGroup .., fun k hk => ?_⟩
  · unfold State.committed; rw [h]; rfl
  · unfold State.committed
    rw [State.group?_setGroup_other _ _ hk, h]
    rfl

/-- COMPLETION: an instruction that raises no enabled flag and completes quietly has its effects, its threads move on, and nothing
else happens. `t` is the state after they have moved, in which the group is `g`. -/
theorem finish_quiet {s t : State} {e : Env} {f : Eff} {place : Option (Nat → Thread → Thread)} {g : Group} {l : Nat}
    (q : Quiet s e) (hs : e.ig.stepFor = none) (hf : s.formatTrap e.x (s.raisedNow e f) = none) (ha : (s.committed e f).advance e place = t) (hg : t.group? e.gk = some g)
    (hh : g.halts = []) (hp : g.pending = []) (hl32 : l < 32) (h1 : (g.thread l).exited = false)
    (h2 : (g.thread l).conv = false) : s.finish e f place [] true id = t.setGroup e.gk g := by
  obtain ⟨gs, ms, hc, hcg, -⟩ := committed_fields (s := s) e f
  have hw : ((s.committed e f).core e.ck).watch = [] := by rw [hc]; exact q.watch
  have hf : ∀ fx, (s.committed e f).formatTrap e.x fx = s.formatTrap e.x fx := fun fx => by rw [hc]; rfl
  unfold State.finish
  simp only [valueHits_empty q.watch, committed_eq q, formatHits_empty hw, countHits_empty hw, List.append_nil, recordHits_nil, hf,
    ‹s.formatTrap e.x (s.raisedNow e f) = none›, hs, Option.isSome_none, Option.toList_none, ite_self, id, ha]
  have hw' : ∀ n, haltsOf n 1 [] = [] := fun _ => rfl
  simp only [hw', List.isEmpty_nil, if_true]
  exact finish_tail false hg hh hp hl32 h1 h2 e.ig.mask

/-- Not the last word of its clause: the issue group goes on to the next word. -/
theorem finish_next {s : State} {e : Env} {f : Eff} (q : Quiet s e) (hs : e.ig.stepFor = none)
    (hf : s.formatTrap e.x (s.raisedNow e f) = none) (hn : e.ig.pos + 1 < e.ig.count) :
    s.finish e f none [] true id = ((s.committed e f).setIg e.pk e.ig.onward).setGroup e.gk (s.wordDone e f e.g) := by
  obtain ⟨gs, ms, hc, hcg, -⟩ := committed_fields (s := s) e f
  obtain ⟨l, hl32, -, h1, h2⟩ := q.runs
  obtain ⟨p, hp⟩ := wordDone_thread s e f e.g l
  have hig : (s.committed e f).ig? e.pk = some e.ig := by rw [hc]; exact q.ig
  refine finish_quiet (l := l) q hs hf ?_ hcg ((wordDone_halts ..).trans q.halts) ((wordDone_pending ..).trans q.pending) hl32
    (by rw [hp]; exact h1) (by rw [hp]; exact h2)
  unfold State.advance
  rw [hig]
  simp only [Option.getD_some, Option.isSome_none, Bool.false_or, Bool.not_not, hn, decide_true, hs, Option.isNone_none,
    Bool.and_self, if_true, IssueGroup.onward]

theorem moveOn_halts (g : Group) (ig : IssueGroup) (place : Nat → Thread → Thread) : (g.moveOn ig place).halts = g.halts := by
  simp only [Group.moveOn]
theorem moveOn_pending (g : Group) (ig : IssueGroup) (place : Nat → Thread → Thread) :
    (g.moveOn ig place).pending = g.pending := by
  simp only [Group.moveOn]
theorem moveOn_thread (g : Group) (ig : IssueGroup) (place : Nat → Thread → Thread) {l : Nat} (h : l < 32) :
    (g.moveOn ig place).thread l =
      if ig.mask.getLsbD l then place l ((g.thread l).stand ig.after.1 ig.after.2 false g.opSeq) else g.thread l := by
  unfold Group.moveOn
  rw [thread_of_lanes, if_pos h]

/-- The threads of an issue group that ends stand where they go on. -/
theorem advance_end {s : State} {e : Env} {ig : IssueGroup} {place : Option (Nat → Thread → Thread)} (hig : s.ig? e.pk = some ig)
    (hn : place.isSome = true ∨ ¬ ig.pos + 1 < ig.count) :
    s.advance e place = (s.dropIg e.pk).modGroup e.gk fun g => g.moveOn ig (place.getD fun _ t => t) := by
  unfold State.advance
  rw [hig]
  have : (place.isSome || !decide (ig.pos + 1 < ig.count)) = true := by
    rcases hn with h | h <;> simp [h]
  simp only [Option.getD_some, this, Bool.not_true, Bool.false_and, Bool.false_eq_true, if_false]
  rfl

/-- The last word of its clause, or a control instruction: the issue group ends and its threads stand where they go on. -/
theorem finish_last {s : State} {e : Env} {f : Eff} {place : Option (Nat → Thread → Thread)} {l : Nat} (q : Quiet s e)
    (hs : e.ig.stepFor = none) (hf : s.formatTrap e.x (s.raisedNow e f) = none) (hn : place.isSome = true ∨ ¬ e.ig.pos + 1 < e.ig.count) (hl32 : l < 32)
    (h1 : (((s.wordDone e f e.g).moveOn e.ig (place.getD fun _ t => t)).thread l).exited = false)
    (h2 : (((s.wordDone e f e.g).moveOn e.ig (place.getD fun _ t => t)).thread l).conv = false) :
    s.finish e f place [] true id
      = ((s.committed e f).dropIg e.pk).setGroup e.gk ((s.wordDone e f e.g).moveOn e.ig (place.getD fun _ t => t)) := by
  obtain ⟨gs, ms, hc, hcg, -⟩ := committed_fields (s := s) e f
  have hig : (s.committed e f).ig? e.pk = some e.ig := by rw [hc]; exact q.ig
  have ha : (s.committed e f).advance e place
      = ((s.committed e f).dropIg e.pk).setGroup e.gk ((s.wordDone e f e.g).moveOn e.ig (place.getD fun _ t => t)) := by
    rw [advance_end hig hn, modGroup_of (g := s.wordDone e f e.g)]
    exact hcg
  have hh := (moveOn_halts (s.wordDone e f e.g) e.ig (place.getD fun _ t => t)).trans ((wordDone_halts s e f e.g).trans q.halts)
  have hp := (moveOn_pending (s.wordDone e f e.g) e.ig (place.getD fun _ t => t)).trans ((wordDone_pending s e f e.g).trans q.pending)
  have := finish_quiet (l := l) q hs hf ha (State.group?_setGroup ..) hh hp hl32 h1 h2
  rw [this, setGroup_setGroup]

end Sys2Proof.Machine
end

