-- ==== Sys2Proof/Laws/Effects.lean ====
section
/-! SUPPORT. What the effects of register-only words are, in the terms of Safety.lean: writes of one register, of a pair, of a
predicate, and words that raise no flag. -/

namespace Sys2Proof.Machine

/-- A bit of a mask built from a test of the lanes. -/
theorem maskOf_getLsbD (f : Nat → Bool) {l : Nat} (h : l < 32) : (maskOf f).getLsbD l = f l := by
  have key : ∀ (ls : List Nat) (m : Mask), (ls.foldl (fun m l => if f l then m ||| (1#32 <<< l) else m) m).getLsbD l
      = (m.getLsbD l || (ls.contains l && f l)) := by
    intro ls
    induction ls with
    | nil => intro m; simp
    | cons a r ih =>
      intro m
      rw [List.foldl_cons, ih]
      by_cases ha : a = l
      · subst ha
        cases hf : f a <;> simp [h]
      · have : (l == a) = false := by simpa using fun h => ha h.symm
        cases hf : f a <;> simp only [Bool.false_eq_true, if_true, if_false, List.contains_cons, this, Bool.false_or]
        have hb : (1#32 <<< a).getLsbD l = false := by
          simp only [BitVec.getLsbD_shiftLeft, BitVec.getLsbD_one]
          by_cases h1 : l < a
          · simp [h1]
          · have : l - a ≠ 0 := by omega
            simp [this]
        simp [hb]
  unfold maskOf
  rw [key]
  simp [laneList, h]

theorem maskLanes_lt {m : Mask} {l : Nat} (h : l ∈ maskLanes m) : l < 32 ∧ m.getLsbD l = true := by
  simp only [maskLanes, laneList, List.mem_filter, List.mem_range] at h
  exact h

theorem at_map {α β : Type} [Inhabited α] [Inhabited β] (f : α → β) (v : Lanes α) {l : Nat} (h : l < 32) :
    Lanes.at (v.map f) l = f (Lanes.at v l) := by
  simp [Lanes.at, h]

/-- The default of an effect raises no flag. -/
theorem noFlags_of {x : Eff} (h : x.fx = noFx) : NoFlags x := by
  intro l hl
  rw [h]
  simp [Lanes.at, noFx, hl]

/-- One 32-bit register written. -/
theorem writes32_of {r : BitVec 8} {m : Mask} {v v' : Nat → W32} {x : Eff} (h : x.regs = [write32 r m v])
    (hv : ∀ l, l < 32 → m.getLsbD l = true → v l = v' l) : Writes32 x r m v' :=
  ⟨lanes v, h, fun l hl hm => by rw [at_lanes _ hl]; exact hv l hl hm⟩

/-- A pair written. -/
theorem writes64_of {r : BitVec 8} {m : Mask} {v v' : Nat → Word} {x : Eff} (h : x.regs = write64 r m v)
    (hv : ∀ l, l < 32 → m.getLsbD l = true → v l = v' l) : Writes64 x r m v' := by
  unfold write64 at h
  by_cases hz : regKind r = .zero
  · exact .inl ⟨hz, by rw [h]; simp [hz]⟩
  · have hb : (regKind r == RegKind.zero) = false := by simpa using hz
    rw [hb] at h
    refine .inr ⟨hz, _, _, h, fun l hl hm => ?_⟩
    rw [at_map _ _ hl, at_map _ _ hl, at_lanes _ hl, hv l hl hm]
    exact ⟨rfl, rfl⟩

/-- One predicate written from a test of the lanes. -/
theorem writesP_of {p : BitVec 3} {m : Mask} {v v' : Nat → Bool} {x : Eff} (h : x.preds = [{ p := p, mask := m, vals := maskOf v }])
    (hv : ∀ l, l < 32 → m.getLsbD l = true → v l = v' l) : WritesP x p m v' :=
  ⟨maskOf v, h, fun l hl hm => by rw [maskOf_getLsbD _ hl]; exact hv l hl hm⟩

end Sys2Proof.Machine
end

