-- ==== Sys2Proof/Laws/Encoding.lean ====
section
/-! SUPPORT. Reading the fields of a word that has been put together from them: each format of 03_encoding R61-R66 is read back,
with the guard of R59 and the opcode of R60. -/

namespace Sys2Proof
theorem loBits {n m : Nat} (x : BitVec n) (y : BitVec m) (lo k : Nat) (h : lo + k ≤ m) :
    (x ++ y).extractLsb' lo k = y.extractLsb' lo k := by
  ext i hi
  simp [BitVec.getLsbD_append]
  omega
theorem hiBits {n m : Nat} (x : BitVec n) (y : BitVec m) (lo k : Nat) (h : m ≤ lo) :
    (x ++ y).extractLsb' lo k = x.extractLsb' (lo - m) k := by
  ext i hi
  have h2 : ¬ lo + i < m := by omega
  simp [BitVec.getLsbD_append, h2]
  congr 1; omega
theorem allBits {n : Nat} (x : BitVec n) : x.extractLsb' 0 n = x := by
  ext i hi; simp
theorem loBit {n m : Nat} (x : BitVec n) (y : BitVec m) (i : Nat) (h : i < m) :
    (x ++ y).getLsbD i = y.getLsbD i := by simp [BitVec.getLsbD_append, h]
theorem hiBit {n m : Nat} (x : BitVec n) (y : BitVec m) (i : Nat) (h : m ≤ i) :
    (x ++ y).getLsbD i = x.getLsbD (i - m) := by
  simp [BitVec.getLsbD_append, Nat.not_lt.mpr h]
theorem bit1_zero (b : Bool) : (bit1 b).getLsbD 0 = b := by cases b <;> rfl

theorem parseX_word (op : BitVec 8) (g : Guard) (f : FmtX) :
    parseX (op ++ g.p ++ bit1 g.n ++ (Fmt.x f).bits) = f :=
  (FmtX.mk.injEq ..).mpr
    ⟨(loBits _ _ _ _ (by decide)).trans ((hiBits _ _ _ _ (by decide)).trans ((hiBits _ _ _ _ (by decide)).trans ((hiBits _ _ _ _ (by decide)).trans (allBits _)))),
     (loBits _ _ _ _ (by decide)).trans ((hiBits _ _ _ _ (by decide)).trans ((hiBits _ _ _ _ (by decide)).trans ((loBits _ _ _ _ (by decide)).trans (allBits _)))),
     (loBits _ _ _ _ (by decide)).trans ((hiBits _ _ _ _ (by decide)).trans ((loBits _ _ _ _ (by decide)).trans (allBits _))),
     (loBits _ _ _ _ (by decide)).trans ((loBits _ _ _ _ (by decide)).trans (allBits _))⟩

theorem parseR_word (op : BitVec 8) (g : Guard) (f : FmtR) :
    parseR (op ++ g.p ++ bit1 g.n ++ (Fmt.r f).bits) = f :=
  (FmtR.mk.injEq ..).mpr
    ⟨(loBits _ _ _ _ (by decide)).trans ((hiBits _ _ _ _ (by decide)).trans ((hiBits _ _ _ _ (by decide)).trans ((hiBits _ _ _ _ (by decide)).trans ((hiBits _ _ _ _ (by decide)).trans ((hiBits _ _ _ _ (by decide)).trans ((hiBits _ _ _ _ (by decide)).trans ((hiBits _ _ _ _ (by decide)).trans ((hiBits _ _ _ _ (by decide)).trans ((hiBits _ _ _ _ (by decide)).trans ((hiBits _ _ _ _ (by decide)).trans ((hiBits _ _ _ _ (by decide)).trans (allBits _)))))))))))),
     (loBits _ _ _ _ (by decide)).trans ((hiBits _ _ _ _ (by decide)).trans ((hiBits _ _ _ _ (by decide)).trans ((hiBits _ _ _ _ (by decide)).trans ((hiBits _ _ _ _ (by decide)).trans ((hiBits _ _ _ _ (by decide)).trans ((hiBits _ _ _ _ (by decide)).trans ((hiBits _ _ _ _ (by decide)).trans ((hiBits _ _ _ _ (by decide)).trans ((hiBits _ _ _ _ (by decide)).trans ((hiBits _ _ _ _ (by decide)).trans ((loBits _ _ _ _ (by decide)).trans (allBits _)))))))))))),
     (loBits _ _ _ _ (by decide)).trans ((hiBits _ _ _ _ (by decide)).trans ((hiBits _ _ _ _ (by decide)).trans ((hiBits _ _ _ _ (by decide)).trans ((hiBits _ _ _ _ (by decide)).trans ((hiBits _ _ _ _ (by decide)).trans ((hiBits _ _ _ _ (by decide)).trans ((hiBits _ _ _ _ (by decide)).trans ((hiBits _ _ _ _ (by decide)).trans ((hiBits _ _ _ _ (by decide)).trans ((loBits _ _ _ _ (by decide)).trans (allBits _))))))))))),
     (loBits _ _ _ _ (by decide)).trans ((hiBits _ _ _ _ (by decide)).trans ((hiBits _ _ _ _ (by decide)).trans ((hiBits _ _ _ _ (by decide)).trans ((hiBits _ _ _ _ (by decide)).trans ((hiBits _ _ _ _ (by decide)).trans ((hiBits _ _ _ _ (by decide)).trans ((hiBits _ _ _ _ (by decide)).trans ((hiBits _ _ _ _ (by decide)).trans ((loBits _ _ _ _ (by decide)).trans (allBits _)))))))))),
     (loBit _ _ _ (by decide)).trans ((hiBit _ _ _ (by decide)).trans ((hiBit _ _ _ (by decide)).trans ((hiBit _ _ _ (by decide)).trans ((hiBit _ _ _ (by decide)).trans ((hiBit _ _ _ (by decide)).trans ((hiBit _ _ _ (by decide)).trans ((hiBit _ _ _ (by decide)).trans ((loBit _ _ _ (by decide)).trans (bit1_zero _))))))))),
     (loBit _ _ _ (by decide)).trans ((hiBit _ _ _ (by decide)).trans ((hiBit _ _ _ (by decide)).trans ((hiBit _ _ _ (by decide)).trans ((hiBit _ _ _ (by decide)).trans ((hiBit _ _ _ (by decide)).trans ((hiBit _ _ _ (by decide)).trans ((loBit _ _ _ (by decide)).trans (bit1_zero _)))))))),
     (loBit _ _ _ (by decide)).trans ((hiBit _ _ _ (by decide)).trans ((hiBit _ _ _ (by decide)).trans ((hiBit _ _ _ (by decide)).trans ((hiBit _ _ _ (by decide)).trans ((hiBit _ _ _ (by decide)).trans ((loBit _ _ _ (by decide)).trans (bit1_zero _))))))),
     (loBit _ _ _ (by decide)).trans ((hiBit _ _ _ (by decide)).trans ((hiBit _ _ _ (by decide)).trans ((hiBit _ _ _ (by decide)).trans ((hiBit _ _ _ (by decide)).trans ((loBit _ _ _ (by decide)).trans (bit1_zero _)))))),
     (loBit _ _ _ (by decide)).trans ((hiBit _ _ _ (by decide)).trans ((hiBit _ _ _ (by decide)).trans ((hiBit _ _ _ (by decide)).trans ((loBit _ _ _ (by decide)).trans (bit1_zero _))))),
     (loBit _ _ _ (by decide)).trans ((hiBit _ _ _ (by decide)).trans ((hiBit _ _ _ (by decide)).trans ((loBit _ _ _ (by decide)).trans (bit1_zero _)))),
     (loBit _ _ _ (by decide)).trans ((hiBit _ _ _ (by decide)).trans ((loBit _ _ _ (by decide)).trans (bit1_zero _))),
     (loBits _ _ _ _ (by decide)).trans ((loBits _ _ _ _ (by decide)).trans (allBits _))⟩

theorem parseI_word (op : BitVec 8) (g : Guard) (f : FmtI) :
    parseI (op ++ g.p ++ bit1 g.n ++ (Fmt.i f).bits) = f :=
  (FmtI.mk.injEq ..).mpr
    ⟨(loBits _ _ _ _ (by decide)).trans ((hiBits _ _ _ _ (by decide)).trans ((hiBits _ _ _ _ (by decide)).trans ((hiBits _ _ _ _ (by decide)).trans ((hiBits _ _ _ _ (by decide)).trans ((hiBits _ _ _ _ (by decide)).trans (allBits _)))))),
     (loBits _ _ _ _ (by decide)).trans ((hiBits _ _ _ _ (by decide)).trans ((hiBits _ _ _ _ (by decide)).trans ((hiBits _ _ _ _ (by decide)).trans ((hiBits _ _ _ _ (by decide)).trans ((loBits _ _ _ _ (by decide)).trans (allBits _)))))),
     (loBit _ _ _ (by decide)).trans ((hiBit _ _ _ (by decide)).trans ((hiBit _ _ _ (by decide)).trans ((hiBit _ _ _ (by decide)).trans ((loBit _ _ _ (by decide)).trans (bit1_zero _))))),
     (loBit _ _ _ (by decide)).trans ((hiBit _ _ _ (by decide)).trans ((hiBit _ _ _ (by decide)).trans ((loBit _ _ _ (by decide)).trans (bit1_zero _)))),
     (loBits _ _ _ _ (by decide)).trans ((hiBits _ _ _ _ (by decide)).trans ((loBits _ _ _ _ (by decide)).trans (allBits _))),
     (loBits _ _ _ _ (by decide)).trans ((loBits _ _ _ _ (by decide)).trans (allBits _))⟩

theorem parseM_word (op : BitVec 8) (g : Guard) (f : FmtM) :
    parseM (op ++ g.p ++ bit1 g.n ++ (Fmt.m f).bits) = f :=
  (FmtM.mk.injEq ..).mpr
    ⟨(loBits _ _ _ _ (by decide)).trans ((hiBits _ _ _ _ (by decide)).trans ((hiBits _ _ _ _ (by decide)).trans ((hiBits _ _ _ _ (by decide)).trans ((hiBits _ _ _ _ (by decide)).trans ((hiBits _ _ _ _ (by decide)).trans ((hiBits _ _ _ _ (by decide)).trans ((hiBits _ _ _ _ (by decide)).trans ((hiBits _ _ _ _ (by decide)).trans ((hiBits _ _ _ _ (by decide)).trans (allBits _)))))))))),
     (loBits _ _ _ _ (by decide)).trans ((hiBits _ _ _ _ (by decide)).trans ((hiBits _ _ _ _ (by decide)).trans ((hiBits _ _ _ _ (by decide)).trans ((hiBits _ _ _ _ (by decide)).trans ((hiBits _ _ _ _ (by decide)).trans ((hiBits _ _ _ _ (by decide)).trans ((hiBits _ _ _ _ (by decide)).trans ((hiBits _ _ _ _ (by decide)).trans ((loBits _ _ _ _ (by decide)).trans (allBits _)))))))))),
     (loBit _ _ _ (by decide)).trans ((hiBit _ _ _ (by decide)).trans ((hiBit _ _ _ (by decide)).trans ((hiBit _ _ _ (by decide)).trans ((hiBit _ _ _ (by decide)).trans ((hiBit _ _ _ (by decide)).trans ((hiBit _ _ _ (by decide)).trans ((hiBit _ _ _ (by decide)).trans ((loBit _ _ _ (by decide)).trans (bit1_zero _))))))))),
     (loBit _ _ _ (by decide)).trans ((hiBit _ _ _ (by decide)).trans ((hiBit _ _ _ (by decide)).trans ((hiBit _ _ _ (by decide)).trans ((hiBit _ _ _ (by decide)).trans ((hiBit _ _ _ (by decide)).trans ((hiBit _ _ _ (by decide)).trans ((loBit _ _ _ (by decide)).trans (bit1_zero _)))))))),
     (loBit _ _ _ (by decide)).trans ((hiBit _ _ _ (by decide)).trans ((hiBit _ _ _ (by decide)).trans ((hiBit _ _ _ (by decide)).trans ((hiBit _ _ _ (by decide)).trans ((hiBit _ _ _ (by decide)).trans ((loBit _ _ _ (by decide)).trans (bit1_zero _))))))),
     (loBits _ _ _ _ (by decide)).trans ((hiBits _ _ _ _ (by decide)).trans ((hiBits _ _ _ _ (by decide)).trans ((hiBits _ _ _ _ (by decide)).trans ((hiBits _ _ _ _ (by decide)).trans ((loBits _ _ _ _ (by decide)).trans (allBits _)))))),
     (loBits _ _ _ _ (by decide)).trans ((hiBits _ _ _ _ (by decide)).trans ((hiBits _ _ _ _ (by decide)).trans ((hiBits _ _ _ _ (by decide)).trans ((loBits _ _ _ _ (by decide)).trans (allBits _))))),
     (loBits _ _ _ _ (by decide)).trans ((hiBits _ _ _ _ (by decide)).trans ((hiBits _ _ _ _ (by decide)).trans ((loBits _ _ _ _ (by decide)).trans (allBits _)))),
     (loBits _ _ _ _ (by decide)).trans ((hiBits _ _ _ _ (by decide)).trans ((loBits _ _ _ _ (by decide)).trans (allBits _))),
     (loBits _ _ _ _ (by decide)).trans ((loBits _ _ _ _ (by decide)).trans (allBits _))⟩

theorem parseB_word (op : BitVec 8) (g : Guard) (f : FmtB) :
    parseB (op ++ g.p ++ bit1 g.n ++ (Fmt.b f).bits) = f :=
  (FmtB.mk.injEq ..).mpr
    ⟨(loBit _ _ _ (by decide)).trans ((hiBit _ _ _ (by decide)).trans ((hiBit _ _ _ (by decide)).trans ((hiBit _ _ _ (by decide)).trans ((hiBit _ _ _ (by decide)).trans ((hiBit _ _ _ (by decide)).trans (bit1_zero _)))))),
     (loBit _ _ _ (by decide)).trans ((hiBit _ _ _ (by decide)).trans ((hiBit _ _ _ (by decide)).trans ((hiBit _ _ _ (by decide)).trans ((hiBit _ _ _ (by decide)).trans ((loBit _ _ _ (by decide)).trans (bit1_zero _)))))),
     (loBits _ _ _ _ (by decide)).trans ((hiBits _ _ _ _ (by decide)).trans ((hiBits _ _ _ _ (by decide)).trans ((hiBits _ _ _ _ (by decide)).trans ((loBits _ _ _ _ (by decide)).trans (allBits _))))),
     (loBits _ _ _ _ (by decide)).trans ((hiBits _ _ _ _ (by decide)).trans ((hiBits _ _ _ _ (by decide)).trans ((loBits _ _ _ _ (by decide)).trans (allBits _)))),
     (loBits _ _ _ _ (by decide)).trans ((hiBits _ _ _ _ (by decide)).trans ((loBits _ _ _ _ (by decide)).trans (allBits _))),
     (loBits _ _ _ _ (by decide)).trans ((loBits _ _ _ _ (by decide)).trans (allBits _))⟩

theorem parseT_word (op : BitVec 8) (g : Guard) (f : FmtT) :
    parseT (op ++ g.p ++ bit1 g.n ++ (Fmt.t f).bits) = f :=
  (FmtT.mk.injEq ..).mpr
    ⟨(loBits _ _ _ _ (by decide)).trans ((hiBits _ _ _ _ (by decide)).trans ((hiBits _ _ _ _ (by decide)).trans ((hiBits _ _ _ _ (by decide)).trans ((hiBits _ _ _ _ (by decide)).trans ((hiBits _ _ _ _ (by decide)).trans ((hiBits _ _ _ _ (by decide)).trans ((hiBits _ _ _ _ (by decide)).trans ((hiBits _ _ _ _ (by decide)).trans ((hiBits _ _ _ _ (by decide)).trans (allBits _)))))))))),
     (loBits _ _ _ _ (by decide)).trans ((hiBits _ _ _ _ (by decide)).trans ((hiBits _ _ _ _ (by decide)).trans ((hiBits _ _ _ _ (by decide)).trans ((hiBits _ _ _ _ (by decide)).trans ((hiBits _ _ _ _ (by decide)).trans ((hiBits _ _ _ _ (by decide)).trans ((hiBits _ _ _ _ (by decide)).trans ((hiBits _ _ _ _ (by decide)).trans ((loBits _ _ _ _ (by decide)).trans (allBits _)))))))))),
     (loBits _ _ _ _ (by decide)).trans ((hiBits _ _ _ _ (by decide)).trans ((hiBits _ _ _ _ (by decide)).trans ((hiBits _ _ _ _ (by decide)).trans ((hiBits _ _ _ _ (by decide)).trans ((hiBits _ _ _ _ (by decide)).trans ((hiBits _ _ _ _ (by decide)).trans ((hiBits _ _ _ _ (by decide)).trans ((loBits _ _ _ _ (by decide)).trans (allBits _))))))))),
     (loBit _ _ _ (by decide)).trans ((hiBit _ _ _ (by decide)).trans ((hiBit _ _ _ (by decide)).trans ((hiBit _ _ _ (by decide)).trans ((hiBit _ _ _ (by decide)).trans ((hiBit _ _ _ (by decide)).trans ((hiBit _ _ _ (by decide)).trans ((loBit _ _ _ (by decide)).trans (bit1_zero _)))))))),
     (loBit _ _ _ (by decide)).trans ((hiBit _ _ _ (by decide)).trans ((hiBit _ _ _ (by decide)).trans ((hiBit _ _ _ (by decide)).trans ((hiBit _ _ _ (by decide)).trans ((hiBit _ _ _ (by decide)).trans ((loBit _ _ _ (by decide)).trans (bit1_zero _))))))),
     (loBits _ _ _ _ (by decide)).trans ((hiBits _ _ _ _ (by decide)).trans ((hiBits _ _ _ _ (by decide)).trans ((hiBits _ _ _ _ (by decide)).trans ((hiBits _ _ _ _ (by decide)).trans ((loBits _ _ _ _ (by decide)).trans (allBits _)))))),
     (loBits _ _ _ _ (by decide)).trans ((hiBits _ _ _ _ (by decide)).trans ((hiBits _ _ _ _ (by decide)).trans ((hiBits _ _ _ _ (by decide)).trans ((loBits _ _ _ _ (by decide)).trans (allBits _))))),
     (loBits _ _ _ _ (by decide)).trans ((hiBits _ _ _ _ (by decide)).trans ((hiBits _ _ _ _ (by decide)).trans ((loBits _ _ _ _ (by decide)).trans (allBits _)))),
     (loBit _ _ _ (by decide)).trans ((hiBit _ _ _ (by decide)).trans ((loBit _ _ _ (by decide)).trans (bit1_zero _))),
     (loBits _ _ _ _ (by decide)).trans ((loBits _ _ _ _ (by decide)).trans (allBits _))⟩

theorem parseGuard_word (op : BitVec 8) (g : Guard) (b : BitVec 52) :
    parseGuard (op ++ g.p ++ bit1 g.n ++ b) = g :=
  (Guard.mk.injEq ..).mpr
    ⟨(hiBits _ _ _ _ (by decide)).trans ((hiBits _ _ _ _ (by decide)).trans ((loBits _ _ _ _ (by decide)).trans (allBits _))),
     (hiBit _ _ _ (by decide)).trans ((loBit _ _ _ (by decide)).trans (bit1_zero _))⟩
theorem op_word (op : BitVec 8) (g : Guard) (b : BitVec 52) :
    (op ++ g.p ++ bit1 g.n ++ b).extractLsb' 56 8 = op :=
  (hiBits _ _ _ _ (by decide)).trans ((hiBits _ _ _ _ (by decide)).trans ((hiBits _ _ _ _ (by decide)).trans (allBits _)))

/-- A static check of a word that passes them all. -/
theorem illFormed_check {i : Instr} (h : i.illFormed = none) {k : Nat} (hk : k ∈ staticOrders) : i.staticCheck k = none := by
  unfold Instr.illFormed at h
  exact List.findSome?_eq_none_iff.mp h k hk

/-- A word whose static checks pass has no reserved field set. -/
theorem illFormed_res {i : Instr} (h : i.illFormed = none) : i.rules.res = false := by
  have h5 := illFormed_check h (k := 5) (by decide)
  cases hr : i.rules.res with
  | false => rfl
  | true => simp [Instr.staticCheck, hr] at h5

/-- Nor a type or width that its entry does not take. -/
theorem illFormed_typ {i : Instr} (h : i.illFormed = none) : i.rules.typ = false := by
  have h6 := illFormed_check h (k := 6) (by decide)
  cases hr : i.rules.typ with
  | false => rfl
  | true => simp [Instr.staticCheck, hr] at h6

end Sys2Proof
end

