-- ==== Sys2Proof/Laws/PerInstr.lean ====
section
/-! SUPPORT. The family `Roundtrip`: what `decodeRaw` reads from the word of an instruction is that instruction, with every
operand field at every value. One lemma per constructor of `Instr`. -/

namespace Sys2Proof.Laws.Roundtrip

/-- A well-formed instruction is read back from the word that its encoding gives. -/
def Statement (i : Instr) : Prop := ∀ w, i.illFormed = none → encode i = some w → decodeRaw w = some i

theorem fmtX {op : BitVec 8} {g : Guard} {f : FmtX} {i : Instr} (hw : i.word = some (op, g, .x f))
    (hr : ∀ r j m b t, i.rules.res = false → i.rules.typ = false → rowOf op.toNat g r j m b t f = some i) : Statement i := by
  intro w h he
  unfold encode at he
  rw [hw] at he
  obtain rfl := Option.some.inj he
  unfold decodeRaw
  rw [op_word, parseGuard_word, parseX_word]
  exact hr _ _ _ _ _ (illFormed_res h) (illFormed_typ h)
theorem fmtR {op : BitVec 8} {g : Guard} {f : FmtR} {i : Instr} (hw : i.word = some (op, g, .r f))
    (hr : ∀ j m b t x, i.rules.res = false → i.rules.typ = false → rowOf op.toNat g f j m b t x = some i) : Statement i := by
  intro w h he
  unfold encode at he
  rw [hw] at he
  obtain rfl := Option.some.inj he
  unfold decodeRaw
  rw [op_word, parseGuard_word, parseR_word]
  exact hr _ _ _ _ _ (illFormed_res h) (illFormed_typ h)
theorem fmtI {op : BitVec 8} {g : Guard} {f : FmtI} {i : Instr} (hw : i.word = some (op, g, .i f))
    (hr : ∀ r m b t x, rowOf op.toNat g r f m b t x = some i) : Statement i := by
  intro w _ he
  unfold encode at he
  rw [hw] at he
  obtain rfl := Option.some.inj he
  unfold decodeRaw
  rw [op_word, parseGuard_word, parseI_word]
  exact hr _ _ _ _ _
theorem fmtM {op : BitVec 8} {g : Guard} {f : FmtM} {i : Instr} (hw : i.word = some (op, g, .m f))
    (hr : ∀ r j b t x, i.rules.res = false → i.rules.typ = false → rowOf op.toNat g r j f b t x = some i) : Statement i := by
  intro w h he
  unfold encode at he
  rw [hw] at he
  obtain rfl := Option.some.inj he
  unfold decodeRaw
  rw [op_word, parseGuard_word, parseM_word]
  exact hr _ _ _ _ _ (illFormed_res h) (illFormed_typ h)
theorem fmtB {op : BitVec 8} {g : Guard} {f : FmtB} {i : Instr} (hw : i.word = some (op, g, .b f))
    (hr : ∀ r j m t x, i.rules.res = false → i.rules.typ = false → rowOf op.toNat g r j m f t x = some i) : Statement i := by
  intro w h he
  unfold encode at he
  rw [hw] at he
  obtain rfl := Option.some.inj he
  unfold decodeRaw
  rw [op_word, parseGuard_word, parseB_word]
  exact hr _ _ _ _ _ (illFormed_res h) (illFormed_typ h)
theorem fmtT {op : BitVec 8} {g : Guard} {f : FmtT} {i : Instr} (hw : i.word = some (op, g, .t f))
    (hr : ∀ r j m b x, rowOf op.toNat g r j m b f x = some i) : Statement i := by
  intro w _ he
  unfold encode at he
  rw [hw] at he
  obtain rfl := Option.some.inj he
  unfold decodeRaw
  rw [op_word, parseGuard_word, parseT_word]
  exact hr _ _ _ _ _
/-- A step that is no instruction word has no encoding. -/
theorem noWord {i : Instr} (hw : i.word = none) : Statement i := by
  intro w _ he
  unfold encode at he
  rw [hw] at he
  cases he

theorem nop (g : Guard) (f : FmtX) : Statement (.nop g f) := fmtX rfl fun _ _ _ _ _ _ _ => rfl
theorem bra (g : Guard) (f : FmtB) : Statement (.bra g f) := fmtB rfl fun _ _ _ _ _ _ _ => rfl
theorem brx (g : Guard) (f : FmtB) : Statement (.brx g f) := fmtB rfl fun _ _ _ _ _ _ _ => rfl
theorem call (g : Guard) (f : FmtB) : Statement (.call g f) :=
  fmtB rfl fun _ _ _ _ _ hr ht => by
    have hr : (f.link != true || (!false && f.u) || f.kind != 0 || f.rsv != 0 || (!(0 : BitVec 2) == 1 && f.reg != 255)
      || (!true && f.disp != 0)) = false := hr
    simp at hr
    show (if f.kind == 1#2 then some (Instr.callIndirect g f) else some (Instr.call g f) : Option Instr) = _
    simp_all
theorem callIndirect (g : Guard) (f : FmtB) : Statement (.callIndirect g f) :=
  fmtB rfl fun _ _ _ _ _ hr ht => by
    have hr : (f.link != true || (!false && f.u) || f.kind != 1 || f.rsv != 0 || (!(1 : BitVec 2) == 1 && f.reg != 255)
      || (!false && f.disp != 0)) = false := hr
    simp at hr
    show (if f.kind == 1#2 then some (Instr.callIndirect g f) else some (Instr.call g f) : Option Instr) = _
    simp_all
theorem ret (g : Guard) (f : FmtB) : Statement (.ret g f) := fmtB rfl fun _ _ _ _ _ _ _ => rfl
theorem exit (g : Guard) (f : FmtX) : Statement (.exit g f) := fmtX rfl fun _ _ _ _ _ _ _ => rfl
theorem yield (g : Guard) (f : FmtX) : Statement (.yield g f) := fmtX rfl fun _ _ _ _ _ _ _ => rfl
theorem conv (g : Guard) (f : FmtX) : Statement (.conv g f) := fmtX rfl fun _ _ _ _ _ _ _ => rfl
theorem trap (g : Guard) (f : FmtX) : Statement (.trap g f) := fmtX rfl fun _ _ _ _ _ _ _ => rfl
theorem bkpt (g : Guard) (f : FmtX) : Statement (.bkpt g f) := fmtX rfl fun _ _ _ _ _ _ _ => rfl
theorem tret (g : Guard) (f : FmtX) : Statement (.tret g f) := fmtX rfl fun _ _ _ _ _ _ _ => rfl
theorem iadd (g : Guard) (f : FmtR) : Statement (.iadd g f) := fmtR rfl fun _ _ _ _ _ _ _ => rfl
theorem iaddi (g : Guard) (f : FmtI) : Statement (.iaddi g f) := fmtI rfl fun _ _ _ _ _ => rfl
theorem isub (g : Guard) (f : FmtR) : Statement (.isub g f) := fmtR rfl fun _ _ _ _ _ _ _ => rfl
theorem iaddc (g : Guard) (f : FmtR) : Statement (.iaddc g f) := fmtR rfl fun _ _ _ _ _ _ _ => rfl
theorem imul (g : Guard) (f : FmtR) : Statement (.imul g f) := fmtR rfl fun _ _ _ _ _ _ _ => rfl
theorem imuli (g : Guard) (f : FmtI) : Statement (.imuli g f) := fmtI rfl fun _ _ _ _ _ => rfl
theorem imulh (g : Guard) (f : FmtR) : Statement (.imulh g f) := fmtR rfl fun _ _ _ _ _ _ _ => rfl
theorem imad (g : Guard) (f : FmtR) : Statement (.imad g f) := fmtR rfl fun _ _ _ _ _ _ _ => rfl
theorem imin (g : Guard) (f : FmtR) : Statement (.imin g f) := fmtR rfl fun _ _ _ _ _ _ _ => rfl
theorem imax (g : Guard) (f : FmtR) : Statement (.imax g f) := fmtR rfl fun _ _ _ _ _ _ _ => rfl
theorem iabs (g : Guard) (f : FmtR) : Statement (.iabs g f) := fmtR rfl fun _ _ _ _ _ _ _ => rfl
theorem isad (g : Guard) (f : FmtR) : Statement (.isad g f) := fmtR rfl fun _ _ _ _ _ _ _ => rfl
theorem shl (g : Guard) (f : FmtR) : Statement (.shl g f) := fmtR rfl fun _ _ _ _ _ _ _ => rfl
theorem shr (g : Guard) (f : FmtR) : Statement (.shr g f) := fmtR rfl fun _ _ _ _ _ _ _ => rfl
theorem sar (g : Guard) (f : FmtR) : Statement (.sar g f) := fmtR rfl fun _ _ _ _ _ _ _ => rfl
theorem shf (g : Guard) (f : FmtR) : Statement (.shf g f) := fmtR rfl fun _ _ _ _ _ _ _ => rfl
theorem bitf (g : Guard) (f : FmtR) : Statement (.bitf g f) := fmtR rfl fun _ _ _ _ _ _ _ => rfl
theorem bitfi (g : Guard) (f : FmtI) : Statement (.bitfi g f) := fmtI rfl fun _ _ _ _ _ => rfl
theorem popc (g : Guard) (f : FmtR) : Statement (.popc g f) := fmtR rfl fun _ _ _ _ _ _ _ => rfl
theorem clz (g : Guard) (f : FmtR) : Statement (.clz g f) := fmtR rfl fun _ _ _ _ _ _ _ => rfl
theorem brev (g : Guard) (f : FmtR) : Statement (.brev g f) := fmtR rfl fun _ _ _ _ _ _ _ => rfl
theorem bfe (g : Guard) (f : FmtR) : Statement (.bfe g f) := fmtR rfl fun _ _ _ _ _ _ _ => rfl
theorem bfi (g : Guard) (f : FmtR) : Statement (.bfi g f) := fmtR rfl fun _ _ _ _ _ _ _ => rfl
theorem bswz (g : Guard) (f : FmtR) : Statement (.bswz g f) := fmtR rfl fun _ _ _ _ _ _ _ => rfl
theorem icmp (g : Guard) (f : FmtR) : Statement (.icmp g f) := fmtR rfl fun _ _ _ _ _ _ _ => rfl
theorem icmpi (g : Guard) (f : FmtI) : Statement (.icmpi g f) := fmtI rfl fun _ _ _ _ _ => rfl
theorem sel (g : Guard) (f : FmtR) : Statement (.sel g f) := fmtR rfl fun _ _ _ _ _ _ _ => rfl
theorem mov (g : Guard) (f : FmtR) : Statement (.mov g f) := fmtR rfl fun _ _ _ _ _ _ _ => rfl
theorem movi (g : Guard) (f : FmtI) : Statement (.movi g f) := fmtI rfl fun _ _ _ _ _ => rfl
theorem lea (g : Guard) (f : FmtR) : Statement (.lea g f) := fmtR rfl fun _ _ _ _ _ _ _ => rfl
theorem plop (g : Guard) (f : FmtR) : Statement (.plop g f) := fmtR rfl fun _ _ _ _ _ _ _ => rfl
theorem pmovGet (g : Guard) (f : FmtR) : Statement (.pmovGet g f) :=
  fmtR rfl fun _ _ _ _ _ hr ht => by
    have hr : (f.unA || f.unB || f.unC || f.mods != 0) = false := hr
    simp at hr
    show (if f.sub == 1#4 then some (Instr.pmovSet g f) else some (Instr.pmovGet g f) : Option Instr) = _
    simp_all [FmtR.sub]
theorem pmovSet (g : Guard) (f : FmtR) : Statement (.pmovSet g f) :=
  fmtR rfl fun _ _ _ _ _ hr ht => by
    have hr : (f.unD || f.unB || f.unC || f.mods.extractLsb' 11 2 != 0 || f.sub != 1) = false := hr
    simp at hr
    show (if f.sub == 1#4 then some (Instr.pmovSet g f) else some (Instr.pmovGet g f) : Option Instr) = _
    simp_all
theorem fadd (g : Guard) (f : FmtR) : Statement (.fadd g f) := fmtR rfl fun _ _ _ _ _ _ _ => rfl
theorem fmul (g : Guard) (f : FmtR) : Statement (.fmul g f) := fmtR rfl fun _ _ _ _ _ _ _ => rfl
theorem ffma (g : Guard) (f : FmtR) : Statement (.ffma g f) := fmtR rfl fun _ _ _ _ _ _ _ => rfl
theorem fmin (g : Guard) (f : FmtR) : Statement (.fmin g f) := fmtR rfl fun _ _ _ _ _ _ _ => rfl
theorem fmax (g : Guard) (f : FmtR) : Statement (.fmax g f) := fmtR rfl fun _ _ _ _ _ _ _ => rfl
theorem fcmp (g : Guard) (f : FmtR) : Statement (.fcmp g f) := fmtR rfl fun _ _ _ _ _ _ _ => rfl
theorem fclamp (g : Guard) (f : FmtR) : Statement (.fclamp g f) := fmtR rfl fun _ _ _ _ _ _ _ => rfl
theorem frnd (g : Guard) (f : FmtR) : Statement (.frnd g f) := fmtR rfl fun _ _ _ _ _ _ _ => rfl
theorem faddi (g : Guard) (f : FmtI) : Statement (.faddi g f) := fmtI rfl fun _ _ _ _ _ => rfl
theorem fmuli (g : Guard) (f : FmtI) : Statement (.fmuli g f) := fmtI rfl fun _ _ _ _ _ => rfl
theorem padd2 (g : Guard) (f : FmtR) : Statement (.padd2 g f) := fmtR rfl fun _ _ _ _ _ _ _ => rfl
theorem pmul2 (g : Guard) (f : FmtR) : Statement (.pmul2 g f) := fmtR rfl fun _ _ _ _ _ _ _ => rfl
theorem pfma2 (g : Guard) (f : FmtR) : Statement (.pfma2 g f) := fmtR rfl fun _ _ _ _ _ _ _ => rfl
theorem pmnx2 (g : Guard) (f : FmtR) : Statement (.pmnx2 g f) := fmtR rfl fun _ _ _ _ _ _ _ => rfl
theorem pcmp2 (g : Guard) (f : FmtR) : Statement (.pcmp2 g f) := fmtR rfl fun _ _ _ _ _ _ _ => rfl
theorem bfma2 (g : Guard) (f : FmtR) : Statement (.bfma2 g f) := fmtR rfl fun _ _ _ _ _ _ _ => rfl
theorem cvt (g : Guard) (f : FmtR) : Statement (.cvt g f) := fmtR rfl fun _ _ _ _ _ _ _ => rfl
theorem f2i (g : Guard) (f : FmtR) : Statement (.f2i g f) := fmtR rfl fun _ _ _ _ _ _ _ => rfl
theorem i2f (g : Guard) (f : FmtR) : Statement (.i2f g f) := fmtR rfl fun _ _ _ _ _ _ _ => rfl
theorem ncvtPack (g : Guard) (f : FmtR) : Statement (.ncvtPack g f) :=
  fmtR rfl fun _ _ _ _ _ hr ht => by
    have hr : (f.sat || f.nb || f.mods.extractLsb' 0 2 != 0 || f.mods.getLsbD 3) = false := hr
    simp at hr
    show (if f.sub.getLsbD 3 then some (Instr.ncvtUnpack g f) else some (Instr.ncvtPack g f) : Option Instr) = _
    simp_all [FmtR.sub]
theorem ncvtUnpack (g : Guard) (f : FmtR) : Statement (.ncvtUnpack g f) :=
  fmtR rfl fun _ _ _ _ _ hr ht => by
    have hr : (f.sat || f.nb || f.unB || f.unC || f.mods.getLsbD 2 || f.rnd != 0 || !f.mods.getLsbD 3) = false := hr
    simp at hr
    show (if f.sub.getLsbD 3 then some (Instr.ncvtUnpack g f) else some (Instr.ncvtPack g f) : Option Instr) = _
    simp_all [FmtR.sub]
theorem qcvtPack (g : Guard) (f : FmtR) : Statement (.qcvtPack g f) :=
  fmtR rfl fun _ _ _ _ _ hr ht => by
    have hr : (f.sat || f.nb || f.mods.getLsbD 2 || f.mods.getLsbD 3) = false := hr
    simp at hr
    show (if f.sub.getLsbD 3 then some (Instr.qcvtUnpack g f) else some (Instr.qcvtPack g f) : Option Instr) = _
    simp_all [FmtR.sub]
theorem qcvtUnpack (g : Guard) (f : FmtR) : Statement (.qcvtUnpack g f) :=
  fmtR rfl fun _ _ _ _ _ hr ht => by
    have hr : (f.sat || f.nb || f.mods.getLsbD 2 || !f.mods.getLsbD 3 || f.unB || f.unC) = false := hr
    simp at hr
    show (if f.sub.getLsbD 3 then some (Instr.qcvtUnpack g f) else some (Instr.qcvtPack g f) : Option Instr) = _
    simp_all [FmtR.sub]
theorem scaleExp (g : Guard) (f : FmtR) : Statement (.scaleExp g f) :=
  fmtR rfl fun _ _ _ _ _ hr ht => by
    have hr : (f.sub != 0 || f.nb || f.unC) = false := hr
    simp at hr
    show (if f.sub == 1#4 then some (Instr.scaleWord g f) else if f.sub == 2#4 then some (Instr.scaleWordinv g f) else some (Instr.scaleExp g f) : Option Instr) = _
    simp_all
theorem scaleWord (g : Guard) (f : FmtR) : Statement (.scaleWord g f) :=
  fmtR rfl fun _ _ _ _ _ hr ht => by
    have hr : (f.sub != 1 || f.nb) = false := hr
    simp at hr
    show (if f.sub == 1#4 then some (Instr.scaleWord g f) else if f.sub == 2#4 then some (Instr.scaleWordinv g f) else some (Instr.scaleExp g f) : Option Instr) = _
    simp_all
theorem scaleWordinv (g : Guard) (f : FmtR) : Statement (.scaleWordinv g f) :=
  fmtR rfl fun _ _ _ _ _ hr ht => by
    have hr : (f.sub != 2 || f.nb) = false := hr
    simp at hr
    show (if f.sub == 1#4 then some (Instr.scaleWord g f) else if f.sub == 2#4 then some (Instr.scaleWordinv g f) else some (Instr.scaleExp g f) : Option Instr) = _
    simp_all
theorem rcp (g : Guard) (f : FmtR) : Statement (.rcp g f) := fmtR rfl fun _ _ _ _ _ _ _ => rfl
theorem rsq (g : Guard) (f : FmtR) : Statement (.rsq g f) := fmtR rfl fun _ _ _ _ _ _ _ => rfl
theorem sqrt (g : Guard) (f : FmtR) : Statement (.sqrt g f) := fmtR rfl fun _ _ _ _ _ _ _ => rfl
theorem lg2 (g : Guard) (f : FmtR) : Statement (.lg2 g f) := fmtR rfl fun _ _ _ _ _ _ _ => rfl
theorem ex2 (g : Guard) (f : FmtR) : Statement (.ex2 g f) := fmtR rfl fun _ _ _ _ _ _ _ => rfl
theorem sin (g : Guard) (f : FmtR) : Statement (.sin g f) := fmtR rfl fun _ _ _ _ _ _ _ => rfl
theorem cos (g : Guard) (f : FmtR) : Statement (.cos g f) := fmtR rfl fun _ _ _ _ _ _ _ => rfl
theorem tanh (g : Guard) (f : FmtR) : Statement (.tanh g f) := fmtR rfl fun _ _ _ _ _ _ _ => rfl
theorem shfl (g : Guard) (f : FmtR) : Statement (.shfl g f) := fmtR rfl fun _ _ _ _ _ _ _ => rfl
theorem poll (g : Guard) (f : FmtR) : Statement (.poll g f) := fmtR rfl fun _ _ _ _ _ _ _ => rfl
theorem lead (g : Guard) (f : FmtR) : Statement (.lead g f) := fmtR rfl fun _ _ _ _ _ _ _ => rfl
theorem ifold (g : Guard) (f : FmtR) : Statement (.ifold g f) := fmtR rfl fun _ _ _ _ _ _ _ => rfl
theorem ffold (g : Guard) (f : FmtR) : Statement (.ffold g f) := fmtR rfl fun _ _ _ _ _ _ _ => rfl
theorem peers (g : Guard) (f : FmtR) : Statement (.peers g f) := fmtR rfl fun _ _ _ _ _ _ _ => rfl
theorem qbcast (g : Guard) (f : FmtR) : Statement (.qbcast g f) := fmtR rfl fun _ _ _ _ _ _ _ => rfl
theorem prefixOp (g : Guard) (f : FmtR) : Statement (.prefixOp g f) := fmtR rfl fun _ _ _ _ _ _ _ => rfl
theorem smov (g : Guard) (f : FmtR) : Statement (.smov g f) :=
  fmtR rfl fun _ _ _ _ _ hr ht => by
    have hr : (f.mods != 0 || f.unB || f.unC) = false := hr
    simp at hr
    show (if f.sub == 1#4 then some (Instr.smovImm g f) else if f.sub == 2#4 then some (Instr.smovIns g f) else some (Instr.smov g f) : Option Instr) = _
    simp_all [FmtR.sub]
theorem smovImm (g : Guard) (f : FmtR) : Statement (.smovImm g f) :=
  fmtR rfl fun _ _ _ _ _ hr ht => by
    have hr : (f.mods != 1 || f.unA || f.kb || f.tb || f.kc || f.tc) = false := hr
    simp at hr
    show (if f.sub == 1#4 then some (Instr.smovImm g f) else if f.sub == 2#4 then some (Instr.smovIns g f) else some (Instr.smov g f) : Option Instr) = _
    simp_all [FmtR.sub]
theorem smovIns (g : Guard) (f : FmtR) : Statement (.smovIns g f) :=
  fmtR rfl fun _ _ _ _ _ hr ht => by
    have hr : (f.mods != 2 || f.ka || f.ta || f.kb || f.tb || f.kc || f.tc) = false := hr
    simp at hr
    show (if f.sub == 1#4 then some (Instr.smovImm g f) else if f.sub == 2#4 then some (Instr.smovIns g f) else some (Instr.smov g f) : Option Instr) = _
    simp_all [FmtR.sub]
theorem salu (g : Guard) (f : FmtR) : Statement (.salu g f) := fmtR rfl fun _ _ _ _ _ _ _ => rfl
theorem scmp (g : Guard) (f : FmtR) : Statement (.scmp g f) := fmtR rfl fun _ _ _ _ _ _ _ => rfl
theorem v2sFirst (g : Guard) (f : FmtR) : Statement (.v2sFirst g f) :=
  fmtR rfl fun _ _ _ _ _ hr ht => by
    have hr : (f.fpBits || f.sat || f.sub != 0 || f.unB || f.unC) = false := hr
    simp at hr
    show (if f.sub == 1#4 then some (Instr.v2sUni g f) else if f.sub == 2#4 then some (Instr.v2sLane g f) else some (Instr.v2sFirst g f) : Option Instr) = _
    simp_all
theorem v2sUni (g : Guard) (f : FmtR) : Statement (.v2sUni g f) :=
  fmtR rfl fun _ _ _ _ _ hr ht => by
    have hr : (f.fpBits || f.sat || f.sub != 1 || f.unB || f.unC) = false := hr
    simp at hr
    show (if f.sub == 1#4 then some (Instr.v2sUni g f) else if f.sub == 2#4 then some (Instr.v2sLane g f) else some (Instr.v2sFirst g f) : Option Instr) = _
    simp_all
theorem v2sLane (g : Guard) (f : FmtR) : Statement (.v2sLane g f) :=
  fmtR rfl fun _ _ _ _ _ hr ht => by
    have hr : (f.fpBits || f.sat || f.sub != 2 || f.unC) = false := hr
    simp at hr
    show (if f.sub == 1#4 then some (Instr.v2sUni g f) else if f.sub == 2#4 then some (Instr.v2sLane g f) else some (Instr.v2sFirst g f) : Option Instr) = _
    simp_all
theorem sload (g : Guard) (f : FmtM) : Statement (.sload g f) := fmtM rfl fun _ _ _ _ _ _ _ => rfl
theorem sbra (g : Guard) (f : FmtB) : Statement (.sbra g f) := fmtB rfl fun _ _ _ _ _ _ _ => rfl
theorem slea (g : Guard) (f : FmtR) : Statement (.slea g f) := fmtR rfl fun _ _ _ _ _ _ _ => rfl
theorem spark (g : Guard) (f : FmtX) : Statement (.spark g f) := fmtX rfl fun _ _ _ _ _ _ _ => rfl
theorem rmask (g : Guard) (f : FmtX) : Statement (.rmask g f) := fmtX rfl fun _ _ _ _ _ _ _ => rfl
theorem ld (g : Guard) (f : FmtM) : Statement (.ld g f) := fmtM rfl fun _ _ _ _ _ _ _ => rfl
theorem st (g : Guard) (f : FmtM) : Statement (.st g f) := fmtM rfl fun _ _ _ _ _ _ _ => rfl
theorem lds (g : Guard) (f : FmtM) : Statement (.lds g f) := fmtM rfl fun _ _ _ _ _ _ _ => rfl
theorem sts (g : Guard) (f : FmtM) : Statement (.sts g f) := fmtM rfl fun _ _ _ _ _ _ _ => rfl
theorem ldc (g : Guard) (f : FmtM) : Statement (.ldc g f) := fmtM rfl fun _ _ _ _ _ _ _ => rfl
theorem ldb (g : Guard) (f : FmtM) : Statement (.ldb g f) := fmtM rfl fun _ _ _ _ _ _ _ => rfl
theorem stb (g : Guard) (f : FmtM) : Statement (.stb g f) := fmtM rfl fun _ _ _ _ _ _ _ => rfl
theorem ldl (g : Guard) (f : FmtM) : Statement (.ldl g f) := fmtM rfl fun _ _ _ _ _ _ _ => rfl
theorem stl (g : Guard) (f : FmtM) : Statement (.stl g f) := fmtM rfl fun _ _ _ _ _ _ _ => rfl
theorem pref (g : Guard) (f : FmtM) : Statement (.pref g f) := fmtM rfl fun _ _ _ _ _ _ _ => rfl
theorem fence (g : Guard) (f : FmtX) : Statement (.fence g f) := fmtX rfl fun _ _ _ _ _ _ _ => rfl
theorem cinv (g : Guard) (f : FmtX) : Statement (.cinv g f) := fmtX rfl fun _ _ _ _ _ _ _ => rfl
theorem ccln (g : Guard) (f : FmtX) : Statement (.ccln g f) := fmtX rfl fun _ _ _ _ _ _ _ => rfl
theorem atom (g : Guard) (f : FmtM) : Statement (.atom g f) := fmtM rfl fun _ _ _ _ _ _ _ => rfl
theorem atomc (g : Guard) (f : FmtM) : Statement (.atomc g f) := fmtM rfl fun _ _ _ _ _ _ _ => rfl
theorem atomf (g : Guard) (f : FmtM) : Statement (.atomf g f) := fmtM rfl fun _ _ _ _ _ _ _ => rfl
theorem red (g : Guard) (f : FmtM) : Statement (.red g f) := fmtM rfl fun _ _ _ _ _ _ _ => rfl
theorem atoms (g : Guard) (f : FmtM) : Statement (.atoms g f) := fmtM rfl fun _ _ _ _ _ _ _ => rfl
theorem waitc (g : Guard) (f : FmtX) : Statement (.waitc g f) := fmtX rfl fun _ _ _ _ _ _ _ => rfl
theorem mma (g : Guard) (f : FmtT) : Statement (.mma g f) := fmtT rfl fun _ _ _ _ _ => rfl
theorem mmas (g : Guard) (f : FmtT) : Statement (.mmas g f) := fmtT rfl fun _ _ _ _ _ => rfl
theorem zclr (g : Guard) (f : FmtT) : Statement (.zclr g f) := fmtT rfl fun _ _ _ _ _ => rfl
theorem zrd (g : Guard) (f : FmtT) : Statement (.zrd g f) := fmtT rfl fun _ _ _ _ _ => rfl
theorem zst (g : Guard) (f : FmtT) : Statement (.zst g f) := fmtT rfl fun _ _ _ _ _ => rfl
theorem zld (g : Guard) (f : FmtT) : Statement (.zld g f) := fmtT rfl fun _ _ _ _ _ => rfl
theorem tld (g : Guard) (f : FmtT) : Statement (.tld g f) := fmtT rfl fun _ _ _ _ _ => rfl
theorem tst (g : Guard) (f : FmtT) : Statement (.tst g f) := fmtT rfl fun _ _ _ _ _ => rfl
theorem cpy (g : Guard) (f : FmtX) : Statement (.cpy g f) := fmtX rfl fun _ _ _ _ _ _ _ => rfl
theorem cpyo (g : Guard) (f : FmtX) : Statement (.cpyo g f) := fmtX rfl fun _ _ _ _ _ _ _ => rfl
theorem cpys (g : Guard) (f : FmtX) : Statement (.cpys g f) := fmtX rfl fun _ _ _ _ _ _ _ => rfl
theorem cpyg (g : Guard) (f : FmtX) : Statement (.cpyg g f) := fmtX rfl fun _ _ _ _ _ _ _ => rfl
theorem fesetFull (g : Guard) (f : FmtX) : Statement (.fesetFull g f) :=
  fmtX rfl fun _ _ _ _ _ hr ht => by
    have hr : (f.d != 255 || f.nz 0x3FFFFF || f.fld 26 2 != 0) = false := hr
    simp at hr
    show (if f.fld 26 2 == 1#2 then some (Instr.fesetEmpty g f) else some (Instr.fesetFull g f) : Option Instr) = _
    simp_all
theorem fesetEmpty (g : Guard) (f : FmtX) : Statement (.fesetEmpty g f) :=
  fmtX rfl fun _ _ _ _ _ hr ht => by
    have hr : (f.d != 255 || f.nz 0x3FFFFF || f.fld 26 2 != 1) = false := hr
    simp at hr
    show (if f.fld 26 2 == 1#2 then some (Instr.fesetEmpty g f) else some (Instr.fesetFull g f) : Option Instr) = _
    simp_all
theorem feqry (g : Guard) (f : FmtX) : Statement (.feqry g f) := fmtX rfl fun _ _ _ _ _ _ _ => rfl
theorem evpop (g : Guard) (f : FmtX) : Statement (.evpop g f) := fmtX rfl fun _ _ _ _ _ _ _ => rfl
theorem evpush (g : Guard) (f : FmtX) : Statement (.evpush g f) := fmtX rfl fun _ _ _ _ _ _ _ => rfl
theorem barInit (g : Guard) (f : FmtX) : Statement (.barInit g f) := fmtX rfl fun _ _ _ _ _ _ _ => rfl
theorem barArv (g : Guard) (f : FmtX) : Statement (.barArv g f) := fmtX rfl fun _ _ _ _ _ _ _ => rfl
theorem barWait (g : Guard) (f : FmtX) : Statement (.barWait g f) := fmtX rfl fun _ _ _ _ _ _ _ => rfl
theorem barSync (g : Guard) (f : FmtX) : Statement (.barSync g f) := fmtX rfl fun _ _ _ _ _ _ _ => rfl
theorem barDrop (g : Guard) (f : FmtX) : Statement (.barDrop g f) := fmtX rfl fun _ _ _ _ _ _ _ => rfl
theorem barWpar (g : Guard) (f : FmtX) : Statement (.barWpar g f) := fmtX rfl fun _ _ _ _ _ _ _ => rfl
theorem barQ (g : Guard) (f : FmtX) : Statement (.barQ g f) := fmtX rfl fun _ _ _ _ _ _ _ => rfl
theorem nprb (g : Guard) (f : FmtX) : Statement (.nprb g f) := fmtX rfl fun _ _ _ _ _ _ _ => rfl
theorem npre (g : Guard) (f : FmtX) : Statement (.npre g f) := fmtX rfl fun _ _ _ _ _ _ _ => rfl
theorem trd (g : Guard) (f : FmtX) : Statement (.trd g f) := fmtX rfl fun _ _ _ _ _ _ _ => rfl
theorem twr (g : Guard) (f : FmtX) : Statement (.twr g f) := fmtX rfl fun _ _ _ _ _ _ _ => rfl
theorem tatm (g : Guard) (f : FmtX) : Statement (.tatm g f) := fmtX rfl fun _ _ _ _ _ _ _ => rfl
theorem enq (g : Guard) (f : FmtX) : Statement (.enq g f) := fmtX rfl fun _ _ _ _ _ _ _ => rfl
theorem launch (g : Guard) (f : FmtX) : Statement (.launch g f) := fmtX rfl fun _ _ _ _ _ _ _ => rfl
theorem depdec (g : Guard) (f : FmtX) : Statement (.depdec g f) := fmtX rfl fun _ _ _ _ _ _ _ => rfl
theorem grow (g : Guard) (f : FmtX) : Statement (.grow g f) := fmtX rfl fun _ _ _ _ _ _ _ => rfl
theorem shrink (g : Guard) (f : FmtX) : Statement (.shrink g f) := fmtX rfl fun _ _ _ _ _ _ _ => rfl
theorem qpop (g : Guard) (f : FmtX) : Statement (.qpop g f) := fmtX rfl fun _ _ _ _ _ _ _ => rfl
theorem qrel (g : Guard) (f : FmtX) : Statement (.qrel g f) := fmtX rfl fun _ _ _ _ _ _ _ => rfl
theorem heat (g : Guard) (f : FmtX) : Statement (.heat g f) := fmtX rfl fun _ _ _ _ _ _ _ => rfl
theorem srec (g : Guard) (f : FmtM) : Statement (.srec g f) := fmtM rfl fun _ _ _ _ _ _ _ => rfl
theorem sld (g : Guard) (f : FmtM) : Statement (.sld g f) :=
  fmtM rfl fun _ _ _ _ _ hr ht => by
    have ht : (f.width != 4) = false := ht
    simp at ht
    show (if f.width == 3#3 then some (Instr.sldSp g f) else some (Instr.sld g f) : Option Instr) = _
    simp_all
theorem sldSp (g : Guard) (f : FmtM) : Statement (.sldSp g f) :=
  fmtM rfl fun _ _ _ _ _ hr ht => by
    have ht : (f.width != 3) = false := ht
    simp at ht
    show (if f.width == 3#3 then some (Instr.sldSp g f) else some (Instr.sld g f) : Option Instr) = _
    simp_all
theorem sbktQ (g : Guard) (f : FmtX) : Statement (.sbktQ g f) :=
  fmtX rfl fun _ _ _ _ _ hr ht => by
    have hr : (f.b != 255 || f.nz 0x39FFFFF || f.fld 26 2 != 0) = false := hr
    simp at hr
    show (if f.fld 26 2 == 1#2 then some (Instr.sbktLock g f) else if f.fld 26 2 == 2#2 then some (Instr.sbktUnlock g f) else some (Instr.sbktQ g f) : Option Instr) = _
    simp_all
theorem sbktLock (g : Guard) (f : FmtX) : Statement (.sbktLock g f) :=
  fmtX rfl fun _ _ _ _ _ hr ht => by
    have hr : (f.b != 255 || f.nz 0x1FFFFF || f.fld 26 2 != 1) = false := hr
    simp at hr
    show (if f.fld 26 2 == 1#2 then some (Instr.sbktLock g f) else if f.fld 26 2 == 2#2 then some (Instr.sbktUnlock g f) else some (Instr.sbktQ g f) : Option Instr) = _
    simp_all
theorem sbktUnlock (g : Guard) (f : FmtX) : Statement (.sbktUnlock g f) :=
  fmtX rfl fun _ _ _ _ _ hr ht => by
    have hr : (f.un true false true || f.nz 0x39FFFFF || f.fld 26 2 != 2) = false := hr
    simp at hr
    show (if f.fld 26 2 == 1#2 then some (Instr.sbktLock g f) else if f.fld 26 2 == 2#2 then some (Instr.sbktUnlock g f) else some (Instr.sbktQ g f) : Option Instr) = _
    simp_all
theorem sevtLimit (g : Guard) (f : FmtX) : Statement (.sevtLimit g f) :=
  fmtX rfl fun _ _ _ _ _ hr ht => by
    have hr : (f.d != 255 || f.nz 0x187FFFF || f.fld 26 2 != 0 || (f.bit 25 && f.a != 255)) = false := hr
    simp at hr
    show (if f.fld 26 2 == 1#2 then some (Instr.sevtAge g f) else if f.fld 26 2 == 2#2 then some (Instr.sevtDrop g f) else some (Instr.sevtLimit g f) : Option Instr) = _
    simp_all
theorem sevtAge (g : Guard) (f : FmtX) : Statement (.sevtAge g f) :=
  fmtX rfl fun _ _ _ _ _ hr ht => by
    have hr : (f.d != 255 || f.nz 0x187FFFF || f.fld 26 2 != 1 || (f.bit 25 && f.a != 255)) = false := hr
    simp at hr
    show (if f.fld 26 2 == 1#2 then some (Instr.sevtAge g f) else if f.fld 26 2 == 2#2 then some (Instr.sevtDrop g f) else some (Instr.sevtLimit g f) : Option Instr) = _
    simp_all
theorem sevtDrop (g : Guard) (f : FmtX) : Statement (.sevtDrop g f) :=
  fmtX rfl fun _ _ _ _ _ hr ht => by
    have hr : (f.d != 255 || f.nz 0x187FFFF || f.fld 26 2 != 2 || (f.bit 25 && f.a != 255)) = false := hr
    simp at hr
    show (if f.fld 26 2 == 1#2 then some (Instr.sevtAge g f) else if f.fld 26 2 == 2#2 then some (Instr.sevtDrop g f) else some (Instr.sevtLimit g f) : Option Instr) = _
    simp_all
theorem prio (g : Guard) (f : FmtX) : Statement (.prio g f) :=
  fmtX rfl fun _ _ _ _ _ hr ht => by
    have hr : (f.d != 255 || f.nz 0x7FFFF || 2 < (f.fld 25 3).toNat || f.fld 23 2 == 3 || (f.fld 25 3 == 2 && f.fld 23 2 != 0)) = false := hr
    simp at hr
    show (if f.fld 25 3 == 3#3 then some (Instr.prioW g f) else some (Instr.prio g f) : Option Instr) = _
    have hk : f.fld 25 3 ≠ 3#3 := by
      intro hk
      rw [hk] at hr
      exact absurd hr.1.1.2 (by decide)
    simp [hk]
theorem prioW (g : Guard) (f : FmtX) : Statement (.prioW g f) :=
  fmtX rfl fun _ _ _ _ _ hr ht => by
    have hr : (f.un true true false || f.fld 25 3 != 3 || f.nz 0x7FFFF || f.fld 23 2 != 0 || f.bit 22 || f.bit 21) = false := hr
    simp at hr
    show (if f.fld 25 3 == 3#3 then some (Instr.prioW g f) else some (Instr.prio g f) : Option Instr) = _
    simp_all
theorem emap (g : Guard) (f : FmtX) : Statement (.emap g f) := fmtX rfl fun _ _ _ _ _ _ _ => rfl
theorem rbox (g : Guard) (f : FmtX) : Statement (.rbox g f) := fmtX rfl fun _ _ _ _ _ _ _ => rfl
theorem rtri (g : Guard) (f : FmtX) : Statement (.rtri g f) := fmtX rfl fun _ _ _ _ _ _ _ => rfl
theorem probe (g : Guard) (f : FmtX) : Statement (.probe g f) := fmtX rfl fun _ _ _ _ _ _ _ => rfl
theorem reproj (g : Guard) (f : FmtX) : Statement (.reproj g f) := fmtX rfl fun _ _ _ _ _ _ _ => rfl
theorem xeye (g : Guard) (f : FmtX) : Statement (.xeye g f) := fmtX rfl fun _ _ _ _ _ _ _ => rfl
theorem rowq (g : Guard) (f : FmtX) : Statement (.rowq g f) := fmtX rfl fun _ _ _ _ _ _ _ => rfl
theorem roww (g : Guard) (f : FmtX) : Statement (.roww g f) := fmtX rfl fun _ _ _ _ _ _ _ => rfl
theorem stamp (g : Guard) (f : FmtX) : Statement (.stamp g f) := fmtX rfl fun _ _ _ _ _ _ _ => rfl
theorem trail (g : Guard) (f : FmtX) : Statement (.trail g f) := fmtX rfl fun _ _ _ _ _ _ _ => rfl
theorem tmark (g : Guard) (f : FmtX) : Statement (.tmark g f) := fmtX rfl fun _ _ _ _ _ _ _ => rfl
theorem perfc (g : Guard) (f : FmtX) : Statement (.perfc g f) := fmtX rfl fun _ _ _ _ _ _ _ => rfl
theorem sysrd (g : Guard) (f : FmtX) : Statement (.sysrd g f) := fmtX rfl fun _ _ _ _ _ _ _ => rfl
theorem syswr (g : Guard) (f : FmtX) : Statement (.syswr g f) := fmtX rfl fun _ _ _ _ _ _ _ => rfl
theorem wset (g : Guard) (f : FmtX) : Statement (.wset g f) := fmtX rfl fun _ _ _ _ _ _ _ => rfl
theorem wclr (g : Guard) (f : FmtX) : Statement (.wclr g f) := fmtX rfl fun _ _ _ _ _ _ _ => rfl
theorem hlist (g : Guard) (f : FmtX) : Statement (.hlist g f) := fmtX rfl fun _ _ _ _ _ _ _ => rfl
theorem hins (g : Guard) (f : FmtX) : Statement (.hins g f) := fmtX rfl fun _ _ _ _ _ _ _ => rfl
theorem hput (g : Guard) (f : FmtX) : Statement (.hput g f) := fmtX rfl fun _ _ _ _ _ _ _ => rfl
theorem hstep (g : Guard) (f : FmtX) : Statement (.hstep g f) := fmtX rfl fun _ _ _ _ _ _ _ => rfl
theorem hres (g : Guard) (f : FmtX) : Statement (.hres g f) := fmtX rfl fun _ _ _ _ _ _ _ => rfl
theorem nprOverrun (d : Nat) (c : Nat) (slot : Nat) : Statement (.nprOverrun d c slot) := noWord rfl
theorem clauseIssue (d : Nat) (c : Nat) (slot : Nat) (sel : Nat) : Statement (.clauseIssue d c slot sel) := noWord rfl
theorem longLatencyComplete (d : Nat) (c : Nat) (slot : Nat) (op : Nat) : Statement (.longLatencyComplete d c slot op) := noWord rfl
theorem allocationDeadlock (d : Nat) (c : Nat) (part : Nat) : Statement (.allocationDeadlock d c part) := noWord rfl
theorem handlerEntry (d : Nat) (c : Nat) (slot : Nat) : Statement (.handlerEntry d c slot) := noWord rfl
theorem reportRecordWrite (d : Nat) : Statement (.reportRecordWrite d) := noWord rfl
theorem faultReplay (ctx : Nat) (seq : Nat) : Statement (.faultReplay ctx seq) := noWord rfl
theorem faultDeliver (ctx : Nat) (seq : Nat) : Statement (.faultDeliver ctx seq) := noWord rfl
theorem faultEndTeam (ctx : Nat) (seq : Nat) : Statement (.faultEndTeam ctx seq) := noWord rfl
theorem teamTimeLimit (team : Nat) : Statement (.teamTimeLimit team) := noWord rfl
theorem tlbiRange (ctx : Nat) (glb : Bool) : Statement (.tlbiRange ctx glb) := noWord rfl
theorem tlbiContext (ctx : Nat) (glb : Bool) : Statement (.tlbiContext ctx glb) := noWord rfl
theorem tlbiAll (glb : Bool) : Statement (.tlbiAll glb) := noWord rfl
theorem columnWriteback (d : Nat) (c : Nat) (line : Nat) : Statement (.columnWriteback d c line) := noWord rfl
theorem copyLineFill (copy : Nat) (line : Nat) : Statement (.copyLineFill copy line) := noWord rfl
theorem copyLanded (copy : Nat) : Statement (.copyLanded copy) := noWord rfl
theorem copyPost (copy : Nat) : Statement (.copyPost copy) := noWord rfl
theorem laeServeStream (team : Nat) : Statement (.laeServeStream team) := noWord rfl
theorem monitorWake (mon : Nat) : Statement (.monitorWake mon) := noWord rfl
theorem monitorRecheck (mon : Nat) : Statement (.monitorRecheck mon) := noWord rfl
theorem monitorTimeout (mon : Nat) : Statement (.monitorTimeout mon) := noWord rfl
theorem swapOut (team : Nat) : Statement (.swapOut team) := noWord rfl
theorem dieDistributorTake (d : Nat) : Statement (.dieDistributorTake d) := noWord rfl
theorem chunkPlace (d : Nat) (cl : Nat) : Statement (.chunkPlace d cl) := noWord rfl
theorem clusterSteal (d : Nat) (cl : Nat) : Statement (.clusterSteal d cl) := noWord rfl
theorem crossDieSteal (d : Nat) : Statement (.crossDieSteal d) := noWord rfl
theorem distributorPreempt (d : Nat) : Statement (.distributorPreempt d) := noWord rfl
theorem nodeAging (d : Nat) (node : Nat) : Statement (.nodeAging d node) := noWord rfl
theorem heldNodeEnterPool (d : Nat) : Statement (.heldNodeEnterPool d) := noWord rfl
theorem teamAdmit (team : Nat) : Statement (.teamAdmit team) := noWord rfl
theorem teamRetire (team : Nat) : Statement (.teamRetire team) := noWord rfl
theorem saveRequest (team : Nat) (reason : BitVec 8) : Statement (.saveRequest team reason) := noWord rfl
theorem teamHaltForSave (team : Nat) : Statement (.teamHaltForSave team) := noWord rfl
theorem saveImageWrite (team : Nat) : Statement (.saveImageWrite team) := noWord rfl
theorem teamRestore (team : Nat) (d : Nat) (c : Nat) : Statement (.teamRestore team d c) := noWord rfl
theorem ctxCreate (x : Nat) : Statement (.ctxCreate x) := noWord rfl
theorem ctxAdmit (x : Nat) : Statement (.ctxAdmit x) := noWord rfl
theorem ctxSuspend (x : Nat) : Statement (.ctxSuspend x) := noWord rfl
theorem ctxResume (x : Nat) : Statement (.ctxResume x) := noWord rfl
theorem ctxKill (x : Nat) : Statement (.ctxKill x) := noWord rfl
theorem ctxFree (x : Nat) : Statement (.ctxFree x) := noWord rfl
theorem ctxDestroyed (x : Nat) : Statement (.ctxDestroyed x) := noWord rfl
theorem watchHaltLand (d : Nat) (c : Nat) (slot : Nat) (lane : Nat) : Statement (.watchHaltLand d c slot lane) := noWord rfl
theorem bandPeriodBoundary (d : Nat) : Statement (.bandPeriodBoundary d) := noWord rfl
theorem waveWrite (d : Nat) : Statement (.waveWrite d) := noWord rfl
theorem lowWaterMarkSend (d : Nat) : Statement (.lowWaterMarkSend d) := noWord rfl
theorem sampleInsertion (d : Nat) : Statement (.sampleInsertion d) := noWord rfl
theorem bandDeadline (d : Nat) : Statement (.bandDeadline d) := noWord rfl
theorem waitLimitExpiry (d : Nat) : Statement (.waitLimitExpiry d) := noWord rfl
theorem xeyeReceive (d : Nat) : Statement (.xeyeReceive d) := noWord rfl
theorem sensorSample (d : Nat) (c : Nat) (u : Nat) (l : Nat) : Statement (.sensorSample d c u l) := noWord rfl
theorem sensorRearm (col : Nat) : Statement (.sensorRearm col) := noWord rfl
theorem powerModelUpdate (d : Nat) (c : Nat) (mw : Nat) (est : Nat) : Statement (.powerModelUpdate d c mw est) := noWord rfl
theorem powerCapInterval (d : Nat) : Statement (.powerCapInterval d) := noWord rfl
theorem droopAlarmRise (d : Nat) (cl : Nat) : Statement (.droopAlarmRise d cl) := noWord rfl
theorem stretchEnd (d : Nat) (cl : Nat) : Statement (.stretchEnd d cl) := noWord rfl
theorem holdEnd (d : Nat) (cl : Nat) : Statement (.holdEnd d cl) := noWord rfl
theorem bermReclaim (d : Nat) (c : Nat) : Statement (.bermReclaim d c) := noWord rfl
theorem junctionTrip (d : Nat) : Statement (.junctionTrip d) := noWord rfl
theorem culvertTrainingResult (outcome : TrainOutcome) : Statement (.culvertTrainingResult outcome) := noWord rfl
theorem culvertWaitExpiry (d : Nat) (c : Nat) (slot : Nat) : Statement (.culvertWaitExpiry d c slot) := noWord rfl
theorem ptmDialog (ns : Word) : Statement (.ptmDialog ns) := noWord rfl
theorem displayEnable (d : Nat) : Statement (.displayEnable d) := noWord rfl
theorem displayDisable (d : Nat) : Statement (.displayDisable d) := noWord rfl
theorem displayRetrain (d : Nat) : Statement (.displayRetrain d) := noWord rfl
theorem displayTrainingResult (d : Nat) (ok : Bool) : Statement (.displayTrainingResult d ok) := noWord rfl
theorem displayLinkLoss (d : Nat) : Statement (.displayLinkLoss d) := noWord rfl
theorem startOfScan (d : Nat) : Statement (.startOfScan d) := noWord rfl
theorem bar2Read (off : Nat) (n : Nat) : Statement (.bar2Read off n) := noWord rfl
theorem bar2Write (off : Nat) (bytes : List Byte) : Statement (.bar2Write off bytes) := noWord rfl
theorem bar2Atomicop (off : Nat) (op : HostAtomic) (a : Word) (b : Word) : Statement (.bar2Atomicop off op a b) := noWord rfl
theorem bar4Read (off : Nat) : Statement (.bar4Read off) := noWord rfl
theorem inputCommit (seq : Word) : Statement (.inputCommit seq) := noWord rfl
theorem getQuote (nonce : List Byte) (mask : Byte) : Statement (.getQuote nonce mask) := noWord rfl
theorem getWindow (off : Nat) : Statement (.getWindow off) := noWord rfl
theorem msixUnmaskSend (vec : Nat) : Statement (.msixUnmaskSend vec) := noWord rfl
theorem tmodeWrite (v : Word) : Statement (.tmodeWrite v) := noWord rfl
theorem sceneEpochWrite (v : Word) : Statement (.sceneEpochWrite v) := noWord rfl
theorem l2QuotaWrite (slice : Nat) (v : Word) : Statement (.l2QuotaWrite slice v) := noWord rfl
theorem drpThrWrite (cl : Nat) (v : Word) : Statement (.drpThrWrite cl v) := noWord rfl
theorem registerWrite (off : Nat) (size : Nat) (v : Word) : Statement (.registerWrite off size v) := noWord rfl
theorem powerOn (hot0 : Bool) (hot1 : Bool) : Statement (.powerOn hot0 hot1) := noWord rfl
theorem bootReset (hot0 : Bool) (hot1 : Bool) : Statement (.bootReset hot0 hot1) := noWord rfl
theorem functionLevelReset (hot0 : Bool) (hot1 : Bool) : Statement (.functionLevelReset hot0 hot1) := noWord rfl
theorem bootStage1 (rails : Bool) (hot0 : Bool) (hot1 : Bool) : Statement (.bootStage1 rails hot0 hot1) := noWord rfl
theorem bootStage2 (ok : Bool) : Statement (.bootStage2 ok) := noWord rfl
theorem bootStage3 (ok0 : Bool) (ok1 : Bool) : Statement (.bootStage3 ok0 ok1) := noWord rfl
theorem bootStage5 (ok : Bool) : Statement (.bootStage5 ok) := noWord rfl
theorem bootStage6 (ok : Bool) : Statement (.bootStage6 ok) := noWord rfl
theorem lowWaterMarkArrival (d : Nat) : Statement (.lowWaterMarkArrival d) := noWord rfl
theorem droopAlarmClear (d : Nat) (cl : Nat) : Statement (.droopAlarmClear d cl) := noWord rfl
theorem softError (place : ErrPlace) (double : Bool) : Statement (.softError place double) := noWord rfl
theorem tlbiComplete : Statement (.tlbiComplete) := noWord rfl
theorem culvertTrain : Statement (.culvertTrain) := noWord rfl
theorem culvertReset : Statement (.culvertReset) := noWord rfl
theorem culvertLossOfLock : Statement (.culvertLossOfLock) := noWord rfl
theorem timeBaseCompare : Statement (.timeBaseCompare) := noWord rfl
theorem measExtend : Statement (.measExtend) := noWord rfl
theorem getCert : Statement (.getCert) := noWord rfl
theorem bootStage4 : Statement (.bootStage4) := noWord rfl
theorem quoteResponse : Statement (.quoteResponse) := noWord rfl

end Sys2Proof.Laws.Roundtrip
end

