-- ==== Sys2Proof/Laws/Regs.lean ====
section
/-! SUPPORT. System registers and dies: what is read after a write of one register or an update of one die. -/

namespace Sys2Proof.Machine

theorem sorted_put {α : Type} [DecidableEq α] {m : SMap α} {d : α} {k : Nat} {v : α} (h : SMap.sorted m = true) :
    SMap.sorted (SMap.put m d k v) = true := by
  unfold SMap.put
  split
  · exact SMap.sorted_erase h
  · exact SMap.sorted_set h

theorem raw_setRaw_same (s : State) (n : Nat) (v : Word) (h : SMap.sorted s.regs = true) : (s.setRaw n v).raw n = v := by
  simp [State.raw, State.setRaw, SMap.getD_put _ _ _ h]

theorem raw_setRaw_other (s : State) {n k : Nat} (v : Word) (h : k ≠ n) : (s.setRaw n v).raw k = s.raw k := by
  unfold State.raw State.setRaw SMap.put SMap.getD
  dsimp only
  split
  · rw [SMap.get?_erase_other _ h]
  · rw [SMap.get?_set_other _ _ h]

theorem sorted_setRaw (s : State) (n : Nat) (v : Word) (h : SMap.sorted s.regs = true) : SMap.sorted (s.setRaw n v).regs = true :=
  sorted_put h

@[simp] theorem die_modDie_same (s : State) (d : Nat) (f : Die → Die) : (s.modDie d f).die d = f (s.die d) := by
  simp [State.modDie, State.setDie, State.die, SMap.getD]

theorem die_modDie_other (s : State) {d e : Nat} (f : Die → Die) (h : e ≠ d) : (s.modDie d f).die e = s.die e := by
  simp [State.modDie, State.setDie, State.die, SMap.getD, SMap.get?_set_other _ _ h]

end Sys2Proof.Machine
end

