-- ==== Sys2Proof/Tests/Slice0.lean ====
section
/-! SUPPORT. The package's own tests: words written out from the field tables of 03_encoding, one ill-formed term for each check,
a few instructions and events whose results the spec states, and for each statement with hypotheses a state and operands that
meet them. -/

open Sys2Proof Sys2Proof.Machine

namespace Sys2Proof.Tests

-- Each test starts a thread of its own otherwise, and their stacks together pass the checker's memory limit.
set_option Elab.async false

/-! ### Helpers -/

def always : Guard := { p := 7, n := false }
def fmtR (d a b c : BitVec 8) (mods : BitVec 13) : FmtR :=
  { d := d, a := a, b := b, c := c, ka := false, kb := false, kc := false, ta := false, tb := false, tc := false, ru := false,
    mods := mods }
def fmtM (data base : BitVec 8) (width : BitVec 3) (off : BitVec 22) : FmtM :=
  { data := data, base := base, kbase := false, tbase := false, kdata := false, width := width, space := 0, order := 0,
    scope := 0, off := off }
def fmtX (d a b : BitVec 8) (low : BitVec 28) : FmtX := { d := d, a := a, b := b, low := low }
def fmtB (u : Bool) (kind : BitVec 2) (reg : BitVec 8) (disp : BitVec 32) : FmtB :=
  { u := u, link := false, kind := kind, reg := reg, rsv := 0, disp := disp }

def fmtT (z : BitVec 3) (a b s : BitVec 8) (boff : BitVec 16) : FmtT :=
  { z := z, a := a, b := b, ka := false, ru := false, atype := 0, btype := 0, s := s, tb := false, boff := boff }

/-- The check of `Ready`, with a condition on the environment, as a computation. -/
def readyWith (s : State) (i : Instr) (P : Env → Prop) [DecidablePred P] : Bool :=
  match s.env? i with
  | none => false
  | some e => (s.encCheck i e).isNone && !neverGuard i.guard && (scalarCheck i e).isNone
      && ((mtxOp i.op || copyOp i.op) || (s.operandCheck e).isNone) && (s.watches e.ck 0).isEmpty && decide (P e)

theorem ready_of_readyWith {s : State} {i : Instr} {P : Env → Prop} [DecidablePred P] (h : readyWith s i P = true) :
    ∃ e, Ready s i e ∧ P e := by
  unfold readyWith at h
  split at h
  · simp at h
  · rename_i e he
    simp only [Bool.and_eq_true, Bool.not_eq_true', Option.isNone_iff_eq_none, List.isEmpty_iff, decide_eq_true_eq] at h
    refine ⟨e, ⟨he, h.1.1.1.1.1, h.1.1.1.1.2, h.1.1.1.2, fun hm => ?_, h.1.2⟩, h.2⟩
    have := h.1.1.2
    simp [hm] at this
    exact this

/-- A condition on the environment in which a word issues, as a computation. -/
def envWith (s : State) (i : Instr) (P : Env → Prop) [DecidablePred P] : Bool :=
  match s.env? i with
  | none => false
  | some e => decide (P e)

theorem env_of_envWith {s : State} {i : Instr} {P : Env → Prop} [DecidablePred P] (h : envWith s i P = true) :
    ∃ e, s.env? i = some e ∧ P e := by
  unfold envWith at h
  split at h
  · simp at h
  · exact ⟨_, ‹_›, by simpa using h⟩

def kernel : Kernel :=
  { (Kernel.blank 0x100000) with barriers := 16, teamregs := 64, anvil := 8, npr := true, scratch := 4096 }
def team : Team := { (Team.place 0 0 0 0 0 0 0 0 kernel) with stage := .running }
/-- A group of 32 threads with some registers mapped, the same value in every lane. -/
def group (regs : List (Nat × W32)) : Group :=
  { ((Group.fresh 0 0 0 64 0x100000).modThreads 0xFFFFFFFF fun t => { t with inIssue := true }) with
    v := regs.map fun r => (r.1, { val := Vector.replicate 32 r.2, full := true }) }
/-- The machine after reset with one team of one group, whose threads in `m` form an issue group at the first of `count` words
of a clause in which the word `i` may stand. -/
def rigOf (i : Instr) (m : Mask) (count : Nat) (t : Team) (g : Group) : State :=
  { State.reset with
    groups := [(0, g)], teams := [(0, t)], nodes := [(0, Node.blank 0 t.kernel)]
    active := [(0, IssueGroup.form 0 m 0x100000 0 (opClass i.op).code count false)], focus := some 0 }
def rig (i : Instr) (m : Mask) (regs : List (Nat × W32)) : State := rigOf i m 1 team (group regs)
def all : Mask := 0xFFFFFFFF
/-- The context privileged, with the debug permission. -/
def privileged (s : State) : State := s.setRaw 0x4C0 0x300

/-- A register effect of the next state. -/
def nextOf (o : Host.Outcome State Fault Refusal) : Option State :=
  match o with
  | .next t => some t
  | _ => none
def after (i : Instr) (m : Mask) (regs : List (Nat × W32)) : Option State := nextOf (exec i (rig i m regs))
/-- Register `n` in lane `l` of the group after an instruction. -/
def vAfter (i : Instr) (m : Mask) (regs : List (Nat × W32)) (n l : Nat) : Option W32 :=
  (after i m regs).map fun t => Lanes.at ((t.group? 0).elim (Vector.replicate 32 0) fun g => g.readV n) l
/-- What the operation that an instruction began will write in lane 0. -/
def opValue (i : Instr) (regs : List (Nat × W32)) : Option W32 :=
  (after i 1 regs).bind fun t => (t.group? 0).bind fun g => g.ops.head?.bind fun o => o.writes.head?.map fun w => Lanes.at w.2.2 0
def trapAfter (i : Instr) (s : State) : Option (Option Cause) :=
  (nextOf (exec i s)).map fun t => ((t.group? 0).bind fun g => g.frames.head?).map (·.cause)

/-! ### WellFormed: one ill-formed term for each check of 03_encoding R67 that a word alone decides -/

/-- R67, order 5: `IADD` with bit 4 set, which its entry does not name. -/
theorem test_illFormed_reserved : (Instr.iadd always (fmtR 0 1 2 255 0x10)).illFormed = some 0x01 := by decide +kernel
/-- Order 5: the last-read bit on a field that names no `v` register (R68). -/
theorem test_illFormed_lastRead :
    (Instr.iadd always { (fmtR 0 192 2 255 0) with ka := true }).illFormed = some 0x01 := by decide +kernel
/-- Order 6: `SHL` with a TYPE code that R116 does not list. -/
theorem test_illFormed_type : (Instr.shl always (fmtR 0 1 2 255 0x1000)).illFormed = some 0x02 := by decide +kernel
/-- Order 7: a special register as a destination (R68). -/
theorem test_illFormed_register : (Instr.iadd always (fmtR 232 1 2 255 0)).illFormed = some 0x03 := by decide +kernel
/-- Order 8: a pair from an odd register. -/
theorem test_illFormed_pair : (Instr.iadd always (fmtR 1 2 4 255 0x800)).illFormed = some 0x04 := by decide +kernel
/-- Order 8 before 11: a 64-bit load into an `s` register (R64). -/
theorem test_illFormed_pairScalar : (Instr.ld always (fmtM 192 4 3 0)).illFormed = some 0x04 := by decide +kernel
/-- Order 10: the reuse bit, which no format R opcode accepts. -/
theorem test_illFormed_reuse : (Instr.iadd always { (fmtR 0 1 2 255 0) with ru := true }).illFormed = some 0x06 := by decide +kernel
/-- Order 11: an `s` destination outside the scalar pipe. -/
theorem test_illFormed_scalar : (Instr.iadd always (fmtR 192 1 2 255 0)).illFormed = some 0x25 := by decide +kernel
/-- Order 12: `ICMP` into p7 (R121). -/
theorem test_illFormed_predicate : (Instr.icmp always (fmtR 255 1 2 255 0x3F0)).illFormed = some 0x26 := by decide +kernel
/-- Order 13: `LD` at release (R222). -/
theorem test_illFormed_order :
    (Instr.ld always { (fmtM 8 4 2 0) with order := 2, scope := 5 }).illFormed = some 0x45 := by decide +kernel

/-! ### Decoding: the words that the spec itself writes out -/

/-- 03_encoding, worked example: `IADD v4, v2.k, v3.t`. -/
theorem test_decode_iadd : decode 0x10E040203FF88000 = .ok (.iadd { p := 7, n := false } { (fmtR 4 2 3 255 0x0) with ka := true, tb := true }) := by rfl
/-- 03_encoding, worked example: `(!p2) MOVI v5, 16`. -/
theorem test_decode_movi : decode 0x2C505FF000000010 = .ok (.movi { p := 2, n := true } { d := 5, a := 255, ka := false, ta := false, md := 0, imm := 0x10 }) := by rfl
/-- 05_group_integer: the `NOP` that `camas` emits. -/
theorem test_decode_nop : decode 0x00E0000000000000 = .ok (.nop { p := 7, n := false } (fmtX 0 0 0 0x0)) := by rfl
/-- 05_group_integer: `CALL`, three words ahead. -/
theorem test_decode_call : decode 0x03E4FF0000000003 = .ok (.call { p := 7, n := false } { (fmtB false 0 255 0x3) with link := true }) := by rfl
/-- 05_group_integer: `RET`. -/
theorem test_decode_ret : decode 0x04E2FF0000000000 = .ok (.ret { p := 7, n := false } (fmtB false 2 255 0x0)) := by rfl
/-- 22_program_bvh: `(p6) BRA`, DISP -35. -/
theorem test_decode_bra : decode 0x01C0FF00FFFFFFDD = .ok (.bra { p := 6, n := false } (fmtB false 0 255 0xFFFFFFDD)) := by rfl
/-- 05_group_integer: `IADDC.n32 v10, v4, v6`, carry out to p1. -/
theorem test_decode_iaddc : decode 0x13E0A0406FF00798 = .ok (.iaddc { p := 7, n := false } (fmtR 10 4 6 255 0x798)) := by rfl
/-- 06_group_float: `CVT.k8e4.f32 v12, v3`. -/
theorem test_decode_cvt : decode 0x40E0C03FFFF00006 = .ok (.cvt { p := 7, n := false } (fmtR 12 3 255 255 0x6)) := by rfl
/-- 21_program_row: `(p2) PFMA2 v28, v44, v42.k, v28`. -/
theorem test_decode_pfma2 : decode 0x3A41C2C2A1C40400 = .ok (.pfma2 { p := 2, n := false } { (fmtR 28 44 42 28 0x400) with kb := true }) := by rfl
/-- 07_tile: `MMAS z0`, A 16, B 8, S 24. -/
theorem test_decode_mmas : decode 0x79E0201000300000 = .ok (.mmas { p := 7, n := false } (fmtT 0 16 8 24 0x0)) := by rfl
/-- 21_program_row: `MMA.f16.f16 z0, v24, [v30]`. -/
theorem test_decode_mma : decode 0x78E0303C37FE0000 = .ok (.mma { p := 7, n := false } { (fmtT 0 24 30 255 0x0) with atype := 3, btype := 3 }) := by rfl
/-- 09_memory: `ST.b32.rel [v4 + 8], v7` at device scope. -/
theorem test_decode_st : decode 0x61E0704085400008 = .ok (.st { p := 7, n := false } { (fmtM 7 4 2 0x8) with order := 2, scope := 5 }) := by rfl
/-- 09_memory: `LD.b32.acq v9, [v4 + 8]` at device scope. -/
theorem test_decode_ld : decode 0x60E0904083400008 = .ok (.ld { p := 7, n := false } { (fmtM 9 4 2 0x8) with order := 1, scope := 5 }) := by rfl
/-- 09_memory: an `ATOM.add` at offset 16. -/
theorem test_decode_atom : decode 0x70E0604081400010 = .ok (.atom { p := 7, n := false } { (fmtM 6 4 2 0x10) with scope := 5 }) := by rfl
/-- 14_column: `LDB.b64 v10, [v6 + 0x4_0010]`. -/
theorem test_decode_ldb : decode 0x64E0A060D0040010 = .ok (.ldb { p := 7, n := false } { (fmtM 10 6 3 0x40010) with space := 2 }) := by rfl
/-- 10_copy: `(p1) CPY.ev v10, v4, v16`, TAG 5. -/
theorem test_decode_cpy : decode 0x8020A04100580000 = .ok (.cpy { p := 1, n := false } (fmtX 10 4 16 0x580000)) := by rfl
/-- 11_barrier: `BAR.WAIT p3, v9, b2, v8`. -/
theorem test_decode_barWait : decode 0x8AE0908FF2600000 = .ok (.barWait { p := 7, n := false } (fmtX 9 8 255 0x2600000)) := by rfl
/-- 12_kernel: `QPOP v8, q0`. -/
theorem test_decode_qpop : decode 0x9DE08FFFF0000000 = .ok (.qpop { p := 7, n := false } (fmtX 8 255 255 0x0)) := by rfl
/-- 12_kernel: `QREL q0, 1`. -/
theorem test_decode_qrel : decode 0x9EEFFFFFF0100000 = .ok (.qrel { p := 7, n := false } (fmtX 255 255 255 0x100000)) := by rfl
/-- 13_queue: `ENQ p1, v8, v4`. -/
theorem test_decode_enq : decode 0x98E0804FF0200000 = .ok (.enq { p := 7, n := false } (fmtX 8 4 255 0x200000)) := by rfl
/-- 15_context: `TRAP 3, v5`. -/
theorem test_decode_trap : decode 0x08EFF05FF0000003 = .ok (.trap { p := 7, n := false } (fmtX 255 5 255 0x3)) := by rfl
/-- 15_context: `SYSRD h0, 0x051`. -/
theorem test_decode_sysrd : decode 0xB5ED8FFFF0510000 = .ok (.sysrd { p := 7, n := false } (fmtX 216 255 255 0x510000)) := by rfl
/-- 15_context: `TRET`. -/
theorem test_decode_tret : decode 0x0AEFFFFFF0000000 = .ok (.tret { p := 7, n := false } (fmtX 255 255 255 0x0)) := by rfl
/-- 16_watch: `BKPT.group 7`. -/
theorem test_decode_bkpt : decode 0x09EFFFFFF0020007 = .ok (.bkpt { p := 7, n := false } (fmtX 255 255 255 0x20007)) := by rfl
/-- 16_watch: `WSET 3, v12`. -/
theorem test_decode_wset : decode 0xB7EFF0CFF3000000 = .ok (.wset { p := 7, n := false } (fmtX 255 12 255 0x3000000)) := by rfl
/-- 16_watch: `HINS.reg p1, v20, v16, v9`. -/
theorem test_decode_hins : decode 0xB9E1410FF0902000 = .ok (.hins { p := 7, n := false } (fmtX 20 16 255 0x902000)) := by rfl
/-- 17_sample: `XEYE p2, v16`. -/
theorem test_decode_xeye : decode 0xACEFF10FF4000000 = .ok (.xeye { p := 7, n := false } (fmtX 255 16 255 0x4000000)) := by rfl
/-- 21_program_row: `(p1) SLD.sp v5, [v16]`. -/
theorem test_decode_sldSp : decode 0xA1205100E0000000 = .ok (.sldSp { p := 1, n := false } { (fmtM 5 16 3 0x0) with space := 4 }) := by rfl
/-- 21_program_row: `ROWW v51.k, v49.k, v50.k`. -/
theorem test_decode_roww : decode 0xABE333132A800000 = .ok (.roww { p := 7, n := false } (fmtX 51 49 50 0xA800000)) := by rfl
/-- 21_program_row: `EMAP.set v16, v52.k`. -/
theorem test_decode_emap : decode 0xA5EFF10340100000 = .ok (.emap { p := 7, n := false } (fmtX 255 16 52 0x100000)) := by rfl
/-- 22_program_bvh: `RBOX v16, v8, v28`. -/
theorem test_decode_rbox : decode 0xA6E10081C0000000 = .ok (.rbox { p := 7, n := false } (fmtX 16 8 28 0x0)) := by rfl
/-- 22_program_bvh: `(p2) RTRI p5, v32, v8, v40`. -/
theorem test_decode_rtri : decode 0xA74200828A000000 = .ok (.rtri { p := 2, n := false } (fmtX 32 8 40 0xA000000)) := by rfl
/-- 19_trail: `STAMP v10`. -/
theorem test_decode_stamp : decode 0xB0E0AFFFF0000000 = .ok (.stamp { p := 7, n := false } (fmtX 10 255 255 0x0)) := by rfl
/-- 19_trail: `TMARK.retire v3, v6`. -/
theorem test_decode_tmark : decode 0xB2EFF03068000000 = .ok (.tmark { p := 7, n := false } (fmtX 255 3 6 0x8000000)) := by rfl
/-- 19_trail: `TRAIL 0x81, v4`. -/
theorem test_decode_trail : decode 0xB1EFF04FF8100000 = .ok (.trail { p := 7, n := false } (fmtX 255 4 255 0x8100000)) := by rfl
/-- 19_trail: `PERFC v12, 7`. -/
theorem test_decode_perfc : decode 0xBEE0CFFFF0070000 = .ok (.perfc { p := 7, n := false } (fmtX 12 255 255 0x70000)) := by rfl

/-! ### What instructions do: results that the spec writes out, or hand calculations from its rules -/

/-- 05_group_integer, the carry example: low words, `v10` = 0x10. -/
theorem test_iaddc_low :
    vAfter (.iaddc always (fmtR 10 4 6 255 0x798)) all [(4, 0xFFFFFFF0), (6, 0x20)] 10 31 = some 0x10 := by decide +kernel
/-- The same example: the carry stands in p1. -/
theorem test_iaddc_carry :
    (after (.iaddc always (fmtR 10 4 6 255 0x798)) all [(4, 0xFFFFFFF0), (6, 0x20)]).bind (fun t => (t.group? 0).map fun g =>
      (g.thread 0).preds) = some 2 := by decide +kernel
/-- 05_group_integer R105: addition wraps. -/
theorem test_iadd_wraps : vAfter (.iadd always (fmtR 3 1 2 255 0)) 1 [(1, 0xFFFFFFFF), (2, 2)] 3 0 = some 1 := by decide +kernel
/-- 05_group_integer R69: a source that is also the destination is read before it is written. -/
theorem test_isub_same : vAfter (.isub always (fmtR 1 2 1 255 0)) 1 [(1, 5), (2, 3)] 1 0 = some 0xFFFFFFFE := by decide +kernel
/-- 05_group_integer R116: a shift by the width gives 0; wrapped, it shifts by 0. -/
theorem test_shl_width : vAfter (.shl always (fmtR 3 1 2 255 0)) 1 [(1, 7), (2, 32)] 3 0 = some 0 := by decide +kernel
theorem test_shl_wrap : vAfter (.shl always (fmtR 3 1 2 255 1)) 1 [(1, 7), (2, 33)] 3 0 = some 14 := by decide +kernel
/-- 05_group_integer R116: `SAR` by the width copies the sign. -/
theorem test_sar_sign : vAfter (.sar always (fmtR 3 1 2 255 0)) 1 [(1, 0x80000000), (2, 40)] 3 0 = some 0xFFFFFFFF := by decide +kernel
/-- 05_group_integer R120, third and fourth examples. -/
theorem test_bswz :
    vAfter (.bswz always (fmtR 4 1 2 3 0x400)) 1 [(1, 0x44332211), (2, 0x88776655), (3, 0xC123)] 4 0 = some 0x00223344 := by
  decide +kernel
theorem test_bswz_sign :
    vAfter (.bswz always (fmtR 4 1 2 3 0x401)) 1 [(1, 0x44332211), (2, 0x88776655), (3, 0xF123)] 4 0 = some 0xFF223344 := by
  decide +kernel
/-- 06_group_float, one conversion: fp32 300.0 to k8e4 is 0x79. -/
theorem test_cvt_k8e4 : vAfter (.cvt always (fmtR 12 3 255 255 6)) 1 [(3, 0x43960000)] 12 0 = some 0x79 := by decide +kernel
/-- 1000.0 saturates to 0x7E. -/
theorem test_cvt_sat : vAfter (.cvt always (fmtR 12 3 255 255 6)) 1 [(3, 0x447A0000)] 12 0 = some 0x7E := by decide +kernel
/-- 06_group_float R126: 1.0 + 2.0 in fp32. -/
theorem test_fadd : vAfter (.fadd always (fmtR 3 1 2 255 0)) 1 [(1, 0x3F800000), (2, 0x40000000)] 3 0 = some 0x40400000 := by
  decide +kernel
/-- 02_numbers R22: the first NaN operand, quieted. -/
theorem test_fmul_nan : vAfter (.fmul always (fmtR 3 1 2 255 0)) 1 [(1, 0x3F800000), (2, 0x7F800001)] 3 0 = some 0x7FC00001 := by
  decide +kernel
/-- 06_group_float: 2.0 x 3.0 + 1.0. -/
theorem test_ffma :
    vAfter (.ffma always (fmtR 4 1 2 3 0)) 1 [(1, 0x40000000), (2, 0x40400000), (3, 0x3F800000)] 4 0 = some 0x40E00000 := by
  decide +kernel
/-- 06_group_float R137: the reciprocal of 2.0, and the square root of 4.0, which the destination gets when the operation
completes. -/
theorem test_rcp : opValue (.rcp always (fmtR 3 1 255 255 0)) [(1, 0x40000000)] = some 0x3F000000 := by decide +kernel
theorem test_sqrt : opValue (.sqrt always (fmtR 3 1 255 255 0)) [(1, 0x40800000)] = some 0x40000000 := by decide +kernel
/-- 15_context R319: `TRAP 3` takes cause 0xF3. A team without a handler hands it to the host: no frame, one record. -/
theorem test_trap : trapAfter (.trap always (fmtX 255 255 255 3)) (rigOf (.trap always (fmtX 255 255 255 3)) all 1
    { team with kernel := { kernel with handler := some 0x80 } } (group [])) = some (some 0xF3) := by decide +kernel
/-- 11_barrier R262: a kernel without regions. -/
theorem test_nprb_none : trapAfter (.nprb always (fmtX 255 255 255 0)) (rigOf (.nprb always (fmtX 255 255 255 0)) all 1
    { team with kernel := { kernel with handler := some 0x80, npr := false } } (group [])) = some (some 0x87) := by decide +kernel
/-- 03_encoding R67: a word of another class than the clause's. -/
theorem test_class : trapAfter (.isub always (fmtR 3 1 2 255 0)) (rigOf (.barInit always (fmtX 255 4 255 0)) all 1
    { team with kernel := { kernel with handler := some 0x80 } } (group [])) = some (some 0x11) := by decide +kernel
/-- 20_bringup R400: stage 1 with both sensors cool leads to stage 2. -/
theorem test_bootStage1 : (nextOf (exec (.bootStage1 true false false) State.reset)).map (·.boot) = some 2 := by decide +kernel
/-- 15_context R311: `CREATE` of a FREE context. -/
theorem test_ctxCreate : (nextOf (exec (.ctxCreate 3) { State.reset with boot := 3 })).map (fun t => (t.ctx 3).stage) = some .created := by decide +kernel
/-- 18_link R381: `TRAIN` of a culvert that is down. -/
theorem test_culvertTrain : (nextOf (exec .culvertTrain { State.reset with boot := 3 })).map (·.culvert.state) = some .training := by decide +kernel


/-! ### The hypotheses of the statements are met -/

/-- The word `i` is ready in the state `mk i`, in an environment of which `P` holds. -/
def On (i : Instr) (mk : Instr → State) (P : Env → State → Prop) : Prop := ∃ e, Ready (mk i) i e ∧ P e (mk i)
theorem on {i : Instr} {mk : Instr → State} {P : Env → State → Prop} [∀ e, Decidable (P e (mk i))]
    (h : readyWith (mk i) i (fun e => P e (mk i)) = true) : On i mk P := ready_of_readyWith h
/-- The same without the conditions of `Ready`. -/
def Sees (i : Instr) (mk : Instr → State) (P : Env → State → Prop) : Prop := ∃ e, (mk i).env? i = some e ∧ P e (mk i)
theorem sees {i : Instr} {mk : Instr → State} {P : Env → State → Prop} [∀ e, Decidable (P e (mk i))]
    (h : envWith (mk i) i (fun e => P e (mk i)) = true) : Sees i mk P := env_of_envWith h

/-- A guard that holds in no lane of the rig. -/
def nowhere : Guard := { p := 0, n := false }
/-- The rig with p0 true in lane 0 only. -/
def rigP0 (i : Instr) : State :=
  rigOf i all 1 team ((group [(4, 1), (5, 0)]).modThreads 1 fun t => { t with preds := 1 })

theorem witness_DecodeEncode : ∃ i w, Instr.illFormed i = none ∧ encode i = some w :=
  ⟨.iadd always (fmtR 5 6 7 255 0), _, by decide +kernel, rfl⟩
theorem witness_EncodeDecode : ∃ i w, decode w = .ok i := ⟨_, 0x10E040203FF88000, rfl⟩

/-- A machine that has just been given the word `IADD v5, v255, v255` to run. -/
def fetching : State := State.reset.withFetchWord 64 0x10E05FFFFFF00000
def fetched : Tr × State := fetching.translate 0 0 0x100000 2
theorem witness_StepRunsDecoded : ∃ (s u v : State) (pk : Nat) (e : Env) (p : Phys) (i : Instr), s.agenda = [] ∧ s.turn = (.word pk, u)
    ∧ (u.taking pk).env? fetchInstr = some e
    ∧ (u.taking pk).translate e.ck ((u.taking pk).teamCtx e.t) e.ig.pc.toNat 2 = (.ok p, v)
    ∧ v.homePoison p.pa 8 = none ∧ v.copyPoison (ErrPlace.icache? e.ck) p.pa 8 = none ∧ (SMap.get? e.t.code e.ig.pc.toNat).getD (v.word64 p.pa) = v.word64 p.pa ∧ decode (v.word64 p.pa) = .ok i := by
  have h : ∃ e, (fetching.taking 0).env? fetchInstr = some e ∧ e.ck = 0 ∧ (fetching.taking 0).teamCtx e.t = 0 ∧ e.ig.pc.toNat = 0x100008 ∧ e.t.code = [] :=
    env_of_envWith (by decide +kernel)
  obtain ⟨e, he, h1, h2, h3, h4⟩ := h
  have h5 : ∃ p v, (fetching.taking 0).translate 0 0 0x100008 2 = (.ok p, v) ∧ v.homePoison p.pa 8 = none
      ∧ v.copyPoison (ErrPlace.icache? 0) p.pa 8 = none ∧ v.word64 p.pa = 0x10E05FFFFFF00000 := by
    have : (match (fetching.taking 0).translate 0 0 0x100008 2 with
      | (.ok p, v) => decide (v.homePoison p.pa 8 = none ∧ v.copyPoison (ErrPlace.icache? 0) p.pa 8 = none ∧ v.word64 p.pa = 0x10E05FFFFFF00000)
      | _ => false) = true := by decide +kernel
    split at this
    · rename_i p v hv; exact ⟨p, v, hv, of_decide_eq_true this⟩
    · simp at this
  obtain ⟨p, v, h6, h7, h9, h8⟩ := h5
  refine ⟨fetching, fetching, v, 0, e, p, .iadd always (fmtR 5 255 255 255 0), rfl, by decide +kernel, he, ?_, h7, ?_, ?_, ?_⟩
  · rw [h1, h3, h2]; exact h6
  · rw [h1]; exact h9
  · simp [h4, SMap.get?]
  · rw [h8]; rfl
theorem witness_StepTakesAgenda :
    (∃ s i r, State.agenda s = i :: r ∧ i.isWord = false) ∧ ∃ s i r, State.agenda s = i :: r ∧ i.isWord = true :=
  ⟨⟨{ State.reset with agenda := [.culvertTrain] }, _, [], rfl, rfl⟩,
   ⟨{ State.reset with agenda := [.exit always (fmtX 255 255 255 0)] }, _, [], rfl, rfl⟩⟩

theorem witness_EncodingTraps :
    Sees (.iadd always (fmtR 0 1 2 255 0x10)) (rig · 1 []) (fun e s => s.watches e.ck 0 = []
      ∧ mtxOp (Instr.iadd always (fmtR 0 1 2 255 0x10)).op = false ∧ s.encCheck (.iadd always (fmtR 0 1 2 255 0x10)) e = some 0x01)
    ∧ Sees (.enq always (fmtX 8 4 255 0x200000)) (rig · 1 []) (fun e s => s.watches e.ck 0 = []
      ∧ (opClass (Instr.enq always (fmtX 8 4 255 0x200000)).op).code = e.ig.cls ∧ s.privileged e.x = false)
    ∧ Sees (.evpop always (fmtX 8 255 255 0x200000)) (rig · 1 []) (fun e s => s.watches e.ck 0 = []
      ∧ (opClass (Instr.evpop always (fmtX 8 255 255 0x200000)).op).code = e.ig.cls ∧ s.privileged e.x = false) :=
  ⟨sees (by decide +kernel), sees (by decide +kernel), sees (by decide +kernel)⟩
theorem witness_EncodingTraps_step : Sees (.hstep { p := 7, n := true } (fmtX 8 4 255 0)) (fun i => privileged (rig i 1 [])) fun e s =>
    s.watches e.ck 0 = [] ∧ s.encCheck (.hstep { p := 7, n := true } (fmtX 8 4 255 0)) e = none ∧ neverGuard { p := 7, n := true } = true :=
  sees (by decide +kernel)
theorem witness_NeverGuarded : Sees (.iadd { p := 7, n := true } (fmtR 0 1 2 255 0)) (rig · 1 []) fun e s => s.watches e.ck 0 = []
    ∧ s.encCheck (.iadd { p := 7, n := true } (fmtR 0 1 2 255 0)) e = none ∧ neverGuard { p := 7, n := true } = true := sees (by decide +kernel)

/-- The conditions of `Quiet`, with lane 0 as the one that runs. -/
def quietB (s : State) (e : Env) : Bool :=
  decide (s.group? e.gk = some e.g) && decide (s.ig? e.pk = some e.ig) && decide (e.gk = e.pk / 4 * 48 + e.ig.slot)
    && decide (gkPart e.gk = e.pk) && (s.core e.ck).watch.isEmpty && e.g.halts.isEmpty && e.g.pending.isEmpty
    && e.ig.mask.getLsbD 0 && !(e.g.thread 0).exited && !(e.g.thread 0).conv
theorem quiet_of_quietB {s : State} {e : Env} (h : quietB s e = true) : Quiet s e := by
  simp only [quietB, Bool.and_eq_true, decide_eq_true_eq, List.isEmpty_iff, Bool.not_eq_true'] at h
  exact ⟨h.1.1.1.1.1.1.1.1.1, h.1.1.1.1.1.1.1.1.2, h.1.1.1.1.1.1.1.2, h.1.1.1.1.1.1.2, h.1.1.1.1.1.2, h.1.1.1.1.2, h.1.1.1.2,
    0, by decide, h.1.1.2, h.1.2, h.2⟩
/-- An addition, whose issue group has another word to come or none, is a step or raises an enabled flag. -/
def addWord : Instr := .iadd always (fmtR 3 1 2 255 0)
def overflow : Eff := { fx := Vector.replicate 32 1 }
theorem witness_WordBoundary :
    Sees addWord (rigOf · 1 2 team (group [(1, 5), (2, 6)])) (fun e s => quietB s e = true ∧ e.ig.stepFor = none
      ∧ s.formatTrap e.x (s.raisedNow e {}) = none ∧ e.ig.pos + 1 < e.ig.count)
    ∧ Sees addWord (rig · 1 [(1, 5), (2, 6)]) (fun e s => quietB s e = true ∧ e.ig.stepFor = none
      ∧ s.formatTrap e.x (s.raisedNow e {}) = none ∧ ¬ e.ig.pos + 1 < e.ig.count
      ∧ (e.g.thread 0).exited = false ∧ (e.g.thread 0).conv = false)
    ∧ Sees addWord (fun i => (rig i 1 [(1, 5), (2, 6)]).setRaw 0x100 1) (fun e s => quietB s e = true ∧ e.ig.stepFor = none
      ∧ (s.formatTrap e.x (s.raisedNow e overflow)).toList ≠ [])
    ∧ Sees addWord (fun i => let s := rig i 1 [(1, 5), (2, 6)]
        { s with active := s.active.map fun p => (p.1, { p.2 with stepFor := some 0 }) }) (fun e s => quietB s e = true
      ∧ e.ig.stepFor.isSome = true ∧ s.formatTrap e.x (s.raisedNow e {}) = none) :=
  ⟨sees (by decide +kernel), sees (by decide +kernel), sees (by decide +kernel), sees (by decide +kernel)⟩
/-- The addition frees `v1`, names `v3`, writes lane 0 of it and p1 there: `v2`, lane 1 of `v3`, lane 1 of p1, p2, every `s` and `h`
register but the one written stay. -/
theorem witness_CommitFrame : ∃ (ops : List Operand) (f : Eff),
    1 ∈ freedNames ops ∧ 2 ∉ freedNames ops ∧ 2 ∉ dstNames ops ∧ (∀ w ∈ f.regs, regKind w.reg = .v → w.reg.toNat ≠ 2)
    ∧ 3 ∉ freedNames ops ∧ (¬ ∃ w ∈ f.regs, regKind w.reg = .v ∧ w.reg.toNat = 3 ∧ w.mask.getLsbD 1 = true)
    ∧ (∀ w ∈ f.preds, w.p = 1 → w.mask.getLsbD 1 = false) ∧ (∀ w ∈ f.preds, w.p = 2 → w.mask.getLsbD 0 = false)
    ∧ (∀ r v, f.sreg = some (r, v) → r.toNat ≠ 192 + 1)
    ∧ (¬ ∃ w ∈ f.regs, regKind w.reg = .h ∧ w.reg.toNat = 217 ∧ w.mask.getLsbD 0 = true) :=
  ⟨operandsOf (.iadd always { (fmtR 3 1 2 255 0) with ka := true }),
    { regs := [{ reg := 3, mask := 1, vals := Vector.replicate 32 0 }, { reg := 216, mask := 1, vals := Vector.replicate 32 0 }]
      preds := [{ p := 1, mask := 1, vals := 1 }], sreg := some (192, 5) },
    by decide +kernel, by decide +kernel, by decide +kernel, by decide +kernel, by decide +kernel, by decide +kernel, by decide +kernel,
    by decide +kernel, fun r v h => by cases h; decide, by decide +kernel⟩

def trapTeam : Team := { team with kernel := { kernel with handler := some 0x80 } }
/-- A group at a word that traps. -/
def trapRig : State := { rigOf (.trap always (fmtX 255 255 255 3)) all 1 trapTeam (group []) with active := [] }
theorem witness_TakeTrap :
    (trapRig.group? 0 = some (group []) ∧ trapRig.ig? 0 = none ∧ (group []).mayTake all = true ∧ (group []).hostTrap = none
      ∧ (group []).entering = [] ∧ hostCause 0xF3 = false ∧ (0xF3 : Cause) ≠ 0xD7
      ∧ trapRig.team? 0 = some trapTeam ∧ trapRig.handlerOf trapTeam = some 0x100080
      ∧ (trapRig.setGroup 0 { (group []) with latch := [], susp := [] }).freeSet 0 = some 0
      ∧ (trapRig.setGroup 0 { (group []) with latch := [], susp := [] }).setWaiters 0 = [])
    ∧ (hostCause 0x30 = true ∧ (0x30 : Cause) ≠ 0xD7) := by decide +kernel

theorem witness_AluWordsComplete : On (.iadd always (fmtR 3 1 2 255 0)) (rig · 1 [(1, 5), (2, 6)]) fun _ _ => True := on (by decide +kernel)
theorem witness_IntegerArithmetic :
    On (.imul always (fmtR 3 1 2 255 0)) (rig · all [(1, 5), (2, 6)]) (fun _ _ => True)
    ∧ On (.isub always (fmtR 4 2 2 255 0xC00)) (rig · all [(2, 5), (3, 6)]) (fun _ _ => True)
    ∧ On (.iadd always (fmtR 3 1 2 255 0x80)) (rig · all [(1, 0x7FFFFFFF), (2, 1)]) fun _ _ => (fmtR 3 1 2 255 0x80).sat = true :=
  ⟨on (by decide +kernel), on (by decide +kernel), on (by decide +kernel)⟩
theorem witness_LaneMoves :
    On (.mov always (fmtR 3 1 255 255 0)) (rig · all [(1, 5)]) (fun _ _ => True)
    ∧ On (.sel always (fmtR 4 2 2 255 0x870)) (rig · all [(2, 5), (3, 6)]) (fun _ _ => wideTy (fmtR 4 2 2 255 0x870).ty = true)
    ∧ On (.movi always { d := 4, a := 255, ka := false, ta := false, md := 2, imm := 0x80000000 }) (rig · all []) (fun _ _ => True)
    ∧ On (.poll always (fmtR 3 255 255 255 0x3F3)) (rig · all [])
      (fun _ _ => (fmtR 3 255 255 255 0x3F3).mods.extractLsb' 0 2 = 3 ∧ (fmtR 3 255 255 255 0x3F3).mods.getLsbD 2 = false)
    ∧ On (.lead always (fmtR 3 255 255 255 0x80)) (rig · all []) (fun _ _ => True) :=
  ⟨on (by decide +kernel), on (by decide +kernel), on (by decide +kernel), on (by decide +kernel), on (by decide +kernel)⟩
theorem witness_ShiftsAndCompares :
    On (.sar always (fmtR 3 1 2 255 0)) (rig · all [(1, 5), (2, 32)]) (fun _ _ => wideTy (fmtR 3 1 2 255 0).ty = false)
    ∧ On (.icmp always (fmtR 255 1 2 255 0x0F5)) (rig · all [(1, 5), (2, 5)]) (fun _ _ => (fmtR 255 1 2 255 0x0F5).ty = 0)
    ∧ On (.icmp always (fmtR 255 1 2 255 0x4F5)) (rig · all [(1, 5), (2, 5)]) (fun _ _ => (fmtR 255 1 2 255 0x4F5).ty = 1)
    ∧ On (.fcmp always (fmtR 255 1 2 255 0x0F7)) (rig · all [(1, 0x7FC00000), (2, 5)]) (fun _ _ => (fmtR 255 1 2 255 0x0F7).ty = 0
      ∧ (fmtR 255 1 2 255 0x0F7).mods.getLsbD 3 = false ∧ (fmtR 255 1 2 255 0x0F7).p64 = 7 ∧ isNan32 0x7FC00000) := by
  unfold isNan32
  exact ⟨on (by decide +kernel), on (by decide +kernel), on (by decide +kernel), on (by decide +kernel)⟩
theorem witness_ScalarWords :
    On (.smov always (fmtR 192 193 255 255 0)) (rig · all []) (fun e _ => e.act ≠ 0 ∧ e.act = e.ig.mask)
    ∧ On (.salu always (fmtR 192 193 194 255 12)) (rig · all []) (fun e _ => e.act ≠ 0 ∧ e.act = e.ig.mask)
    ∧ On (.v2sUni always (fmtR 192 4 255 255 1)) (rig · all [(4, 9)]) (fun e _ => e.act ≠ 0 ∧ e.act = e.ig.mask
      ∧ ∀ l ∈ e.lanes, e.src 0 l = e.src 0 e.low)
    ∧ On (.v2sLane always (fmtR 192 4 193 255 2)) (rig · all [(4, 9)]) (fun e _ => e.act ≠ 0 ∧ e.act = e.ig.mask)
    ∧ On (.scmp always (fmtR 255 192 193 255 0x8F2)) (rig · all []) (fun e _ => e.act ≠ 0 ∧ e.act = e.ig.mask)
    ∧ On (.slea nowhere (fmtR 192 193 194 255 15)) (rig · all []) (fun e _ => e.act = 0)
    ∧ On (.smovImm nowhere (fmtR 192 255 1 2 1)) rigP0 (fun e _ => e.act ≠ 0 ∧ e.act ≠ e.ig.mask) :=
  ⟨on (by decide +kernel), on (by decide +kernel), on (by decide +kernel), on (by decide +kernel), on (by decide +kernel), on (by decide +kernel),
    on (by decide +kernel)⟩
theorem witness_Branches :
    On (.bra always (fmtB true 0 255 3)) (rig · all []) (fun e _ => e.act = e.ig.mask &&& ~~~e.ig.done)
    ∧ On (.brx always (fmtB true 1 4 0)) (rig · all [(4, 1), (5, 0)]) (fun e _ => e.act = e.ig.mask &&& ~~~e.ig.done
      ∧ ∀ l ∈ e.lanes, e.src 0 l = e.src 0 e.low)
    ∧ On (.ret always (fmtB false 2 255 0)) (rig · all [(190, 1), (191, 0)]) (fun _ _ => True)
    ∧ On (.call always { (fmtB false 0 255 3) with link := true }) (rig · all []) (fun _ _ => True)
    ∧ On (.callIndirect always { (fmtB false 1 4 0) with link := true }) (rig · all [(4, 1), (5, 0)]) (fun _ _ => True)
    ∧ On (.sbra always (fmtB true 0 255 3)) (rig · all []) (fun e _ => e.act = e.ig.mask)
    ∧ On (.bra nowhere (fmtB true 0 255 3)) rigP0 (fun e _ => e.act ≠ 0 ∧ e.act ≠ e.ig.mask &&& ~~~e.ig.done) :=
  ⟨on (by decide +kernel), on (by decide +kernel), on (by decide +kernel), on (by decide +kernel), on (by decide +kernel), on (by decide +kernel),
    on (by decide +kernel)⟩
theorem witness_ThreadWords :
    On (.exit always (fmtX 255 255 255 0)) (rig · all []) (fun _ _ => True) ∧ On (.conv always (fmtX 255 255 255 0)) (rig · all []) (fun _ _ => True)
    ∧ On (.yield always (fmtX 255 255 255 65535)) (rig · all []) (fun e s => e.act ≠ 0 ∧ s.group? e.gk = some e.g)
    ∧ On (.yield nowhere (fmtX 255 255 255 0)) (rig · all []) (fun e _ => e.act = 0) :=
  ⟨on (by decide +kernel), on (by decide +kernel), on (by decide +kernel), on (by decide +kernel)⟩
theorem witness_TrapWords :
    On (.trap always (fmtX 255 5 255 7)) (rig · all [(5, 1)]) (fun e _ => e.act ≠ 0 ∧ regKind 5 ≠ .s)
    ∧ On (.trap always (fmtX 255 192 255 0)) (rig · all []) (fun e _ => e.act ≠ 0 ∧ regKind 192 = .s)
    ∧ On (.trap nowhere (fmtX 255 255 255 0)) (rig · all []) (fun e _ => e.act = 0)
    ∧ On (.bkpt nowhere (fmtX 255 255 255 0x10000)) (rig · all []) (fun e _ => e.act = 0)
    ∧ On (.bkpt always (fmtX 255 255 255 0x40007)) (rig · all []) (fun e _ => e.act ≠ 0 ∧ (fmtX 255 255 255 0x40007).fld 16 3 = 4)
    ∧ On (.bkpt always (fmtX 255 255 255 0x30007)) (rig · all []) (fun e _ => e.act ≠ 0 ∧ (fmtX 255 255 255 0x30007).fld 16 3 ≠ 4) :=
  ⟨on (by decide +kernel), on (by decide +kernel), on (by decide +kernel), on (by decide +kernel), on (by decide +kernel), on (by decide +kernel)⟩
/-- A group in the handler of a trap that lanes 0 and 1 took, lane 1 done. -/
def trapFrame : Frame :=
  { cause := 0xF3, hdr := 0x100000, pos := 0, issue := 3, done := 2, info := 0, threads := (group []).threads, susp := [], hset := 0, h := [],
    kind := 0, lvl := 0, lane := 0, ig := none }
theorem witness_TrapReturn :
    On (.tret always (fmtX 255 255 255 0)) (rigOf · all 1 trapTeam { (group []) with frames := [trapFrame] }) (fun e _ =>
      e.g.frames = trapFrame :: [] ∧ e.waiting e.g .conv = [] ∧ e.ig.mask = e.g.live ∧ e.ig.mask ≠ 0
        ∧ e.ig.mask &&& e.g.guardMask always = e.ig.mask ∧ (e.g.thread 0).exited = false ∧ trapFrame.ig = none
        ∧ trapFrame.susp ++ e.g.susp = [] ∧ trapFrame.issue.getLsbD 0 = true ∧ trapFrame.done.getLsbD 0 = false
        ∧ (fmtX 255 255 255 0).bit 0 = false ∧ trapFrame.issue.getLsbD 2 = false)
    ∧ On (.tret always (fmtX 255 255 255 0)) (rigOf · all 1 trapTeam (group [])) (fun e _ => e.g.frames = [] ∧ e.act ≠ 0)
    ∧ On (.tret nowhere (fmtX 255 255 255 0)) (rigOf · all 1 trapTeam (group [])) (fun e _ => e.g.frames = [] ∧ e.act = 0) :=
  ⟨on (by decide +kernel), on (by decide +kernel), on (by decide +kernel)⟩

/-- The rig in a context with page tables: a readable and writable page at 0x101000, whose first bytes are given. -/
def pageAt : Nat := 0x30000
def paged (bytes : List Byte) (s : State) : State :=
  { (s.setRaw 0x480 (BitVec.ofNat 64 fetchRoot)) with
    mem := Memory.writes (Memory.writes (fetchMem [] 0) (fetchRoot + 0x6000 + 8 * 0x101) (leBytes 8 (pageAt + 0x7F + (3 <<< 56)))) pageAt bytes }
/-- The registers of an address in that page, and a value. -/
def at0 : List (Nat × W32) := [(4, 0x101000), (5, 0), (6, 7), (7, 0), (8, 3), (9, 0)]
def clean (s : State) : Prop := s.marks = [] ∧ s.moved = []

theorem witness_BarrierObjects :
    On (.barInit always (fmtX 255 4 255 0xF000000)) (rig · 1 [(4, 1)]) (fun e s => e.act ≠ 0 ∧ 15 < e.t.kernel.barriers
      ∧ (e.src32 0 e.low).toNat = 1 ∧ (e.t.bar 15).a = 0 ∧ s.barWaited e.tid 15 = false ∧ s.team? e.tid = some e.t)
    ∧ On (.barInit always (fmtX 255 4 255 0)) (rig · 1 [(4, 512)]) (fun e s => e.act ≠ 0 ∧ (e.src32 0 e.low).toNat = 512
      ∧ (e.t.bar 0).a = 0 ∧ s.barWaited e.tid 0 = false ∧ s.team? e.tid = some e.t)
    ∧ On (.barInit always (fmtX 255 4 255 0)) (rig · 1 [(4, 513)]) (fun e s => e.act ≠ 0 ∧ 512 < (e.src32 0 e.low).toNat
      ∧ s.team? e.tid = some e.t)
    ∧ On (.barInit nowhere (fmtX 255 4 255 0)) (rig · 1 [(4, 513)]) (fun e _ => e.act = 0)
    ∧ On (.barQ always (fmtX 8 255 255 0xF000000)) (rig · 1 []) (fun e _ => 15 < e.t.kernel.barriers)
    ∧ Sees (.barSync always (fmtX 255 255 255 0xF000000)) (rigOf · 1 1 { team with kernel := { kernel with barriers := 15 } } (group []))
      (fun e s => s.watches e.ck 0 = [] ∧ s.encCheck (.barSync always (fmtX 255 255 255 0xF000000)) e = none ∧ e.act ≠ 0
        ∧ e.t.kernel.barriers ≤ 15)
    ∧ Sees (.barSync always (fmtX 255 255 255 0xF000000)) (rig · 1 []) (fun e s => s.watches e.ck 0 = []
        ∧ s.encCheck (.barSync always (fmtX 255 255 255 0xF000000)) e = none ∧ e.act ≠ 0 ∧ 15 < e.t.kernel.barriers
        ∧ (e.t.bar 15).init = false) :=
  ⟨on (by decide +kernel), on (by decide +kernel), on (by decide +kernel), on (by decide +kernel), on (by decide +kernel), sees (by decide +kernel),
    sees (by decide +kernel)⟩
/-- A team with barrier 0 set up for two arrivals, of which `a` have been made. -/
def barTeam (a : Nat) : Team := team.setBar 0 { (team.bar 0) with init := true, e := 3, en := 3, a := a }
theorem witness_BarrierWords :
    On (.barDrop always (fmtX 8 255 255 0)) (rigOf · 1 1 (barTeam 1) (group [])) (fun e s => (e.t.bar 0).init = true ∧ s.team? e.tid = some e.t
      ∧ s.ig? e.pk = some e.ig ∧ e.ig.arr = 0 ∧ e.act ≠ 0 ∧ (e.t.bar 0).a + (maskLanes e.act).length < (e.t.bar 0).e
      ∧ popMask e.act + 1 ≤ (e.t.bar 0).en)
    ∧ On (.barArv always (fmtX 8 255 255 0)) (rigOf · 1 1 (barTeam 1) (group [])) (fun e _ => e.act ≠ 0
      ∧ (e.t.bar 0).a + (maskLanes e.act).length < (e.t.bar 0).e)
    ∧ On (.barSync always (fmtX 255 255 255 0)) (rigOf · 1 1 (barTeam 2) (group [])) (fun e s => (e.t.bar 0).init = true
      ∧ s.team? e.tid = some e.t ∧ s.ig? e.pk = some e.ig ∧ e.ig.arr = 0 ∧ e.act ≠ 0 ∧ (maskLanes e.act).length = 1
      ∧ (e.t.bar 0).a + 1 = (e.t.bar 0).e ∧ 0 < (e.t.bar 0).en ∧ s.teamHalted e.tid = false)
    ∧ On (.barWait always (fmtX 8 4 255 0x240000)) (rigOf · 1 1 (barTeam 1) (group [(4, 0)])) (fun e _ => (fmtX 8 4 255 0x240000).bit 18 = true
      ∧ ∀ l ∈ maskLanes e.act, ((e.t.bar 0).ph - (e.src32 0 l).setWidth 24).toNat < 1 <<< 23)
    ∧ On (.barWpar always (fmtX 8 4 255 0x240000)) (rigOf · 1 1 (barTeam 1) (group [(4, 0)])) (fun _ _ => (fmtX 8 4 255 0x240000).bit 18 = true) :=
  ⟨on (by decide +kernel), on (by decide +kernel), on (by decide +kernel), on (by decide +kernel), on (by decide +kernel)⟩
/-- Team register 63, which lane 0 has written at cycle 5. -/
def writtenTeam : Team := { team with wregs := [(63, 8)], wold := [(63, [{ val := 7, time := 5, writer := 0 }])] }
theorem witness_TeamRegisters :
    On (.twr always (fmtX 255 4 5 0xFC00000)) (rig · all [(4, 0), (5, 9)]) (fun e _ => ∀ l ∈ e.lanes, 63 + (e.src32 0 l).toNat < e.t.kernel.teamregs)
    ∧ On (.trd always (fmtX 8 4 255 0)) (rigOf · 1 1 writtenTeam (group [(4, 63)])) (fun e s =>
      (∀ l ∈ e.lanes, (e.src32 0 l).toNat < e.t.kernel.teamregs) ∧ s.team? e.tid = some e.t ∧ ∀ l ∈ e.lanes,
        ∀ o ∈ freshOld (s.cyclesOf e.ck) (SMap.getD e.t.wold (e.src32 0 l).toNat []), o.writer = threadId e l)
    ∧ On (.trd always (fmtX 8 4 255 0)) (fun i => (rigOf i 2 1 writtenTeam (group [(4, 63)])).setCluster 0 { (Cluster.init 0) with cycles := 9 })
      (fun e s => s.team? e.tid = some e.t ∧ ∀ l ∈ e.lanes,
        ∀ o ∈ freshOld (s.cyclesOf e.ck) (SMap.getD e.t.wold (e.src32 0 l).toNat []), o.writer = threadId e l)
    ∧ On (.tatm always (fmtX 8 255 5 0x2000000)) (rig · 6 [(5, 9)]) (fun e _ => ∀ l ∈ e.lanes, (e.src32 0 l).toNat < e.t.kernel.teamregs)
    ∧ On (.tatm always (fmtX 8 255 5 0)) (rig · 2 [(5, 9)]) (fun e s => s.team? e.tid = some e.t ∧ e.lanes = [1])
    ∧ On (.trd always (fmtX 8 4 255 0)) (rig · all [(4, 64)]) (fun e _ => 0 ∈ e.lanes ∧ e.t.kernel.teamregs ≤ (e.src32 0 0).toNat) :=
  ⟨on (by decide +kernel), on (by decide +kernel), on (by decide +kernel), on (by decide +kernel), on (by decide +kernel), on (by decide +kernel)⟩
/-- A group in a region, all of whose threads have exited. -/
def goneGroup : Group := { ((group []).modThreads all fun t => { t with exited := true }) with region := some 5 }
theorem witness_Regions :
    On (.nprb always (fmtX 255 255 255 0)) (rig · 1 []) (fun e s => s.group? e.gk = some e.g ∧ e.act ≠ 0 ∧ e.t.kernel.npr = true ∧ e.g.region = none)
    ∧ On (.nprb always (fmtX 255 255 255 0)) (rigOf · 1 1 { team with kernel := { kernel with npr := false } } (group []))
      (fun e s => s.group? e.gk = some e.g ∧ e.act ≠ 0 ∧ e.t.kernel.npr = false)
    ∧ On (.nprb always (fmtX 255 255 255 0)) (rigOf · 1 1 team { (group []) with region := some 0 })
      (fun e s => s.group? e.gk = some e.g ∧ e.act ≠ 0 ∧ e.t.kernel.npr = true ∧ e.g.region.isSome = true)
    ∧ On (.npre always (fmtX 255 255 255 0)) (rig · 1 []) (fun e s => s.group? e.gk = some e.g ∧ e.act ≠ 0)
    ∧ On (.npre nowhere (fmtX 255 255 255 0)) (rig · 1 []) (fun e s => s.group? e.gk = some e.g ∧ e.act = 0)
    ∧ (Instr.nprb always (fmtX 255 255 255 0)).illFormed = none
    ∧ ((rigOf (.nprb always (fmtX 255 255 255 0)) 1 1 team goneGroup).group? 0 = some goneGroup ∧ goneGroup.allExited = true) :=
  ⟨on (by decide +kernel), on (by decide +kernel), on (by decide +kernel), on (by decide +kernel), on (by decide +kernel), by decide +kernel,
    by decide +kernel⟩

def ldAcq : FmtM := { (fmtM 8 4 2 0) with order := 1, scope := 5 }
def stRel : FmtM := { (fmtM 6 4 3 0) with order := 2, scope := 5 }
theorem witness_GenericAccess :
    On (.ld always ldAcq) (fun i => paged [] (rig i 3 at0)) (fun e s => memAcq ldAcq = true ∧ s.mustClean e true 5 = false ∧ (∀ l ∈ e.lanes, genAddr e 0 l % 4 = 0)
      ∧ (perLane s e.act fun s l => s.loadLane e (genAddr e 0 l) 4 true 5).bad = none
      ∧ (perLane s e.act fun s l => s.loadLane e (genAddr e 0 l) 4 true 5).wait = none)
    ∧ On (.st always stRel) (fun i => paged [] (rig i 3 at0)) (fun e s => memRel stRel = true ∧ s.mustClean e true 5 = false ∧ (∀ l ∈ e.lanes, genAddr e 0 l % 8 = 0)
      ∧ (perLane (s.release e.ck 5) e.act fun s l => s.storeLane e (genAddr e 0 l) (storeBytes e 1 3 l) true 5).bad = none
      ∧ (perLane (s.release e.ck 5) e.act fun s l => s.storeLane e (genAddr e 0 l) (storeBytes e 1 3 l) true 5).wait = none)
    ∧ On (.sload always (fmtM 193 192 3 0)) (fun i => paged [] (rigOf i all 1 team { (group []) with s := [(0, 0x101FF8)] }))
      (fun e s => e.act ≠ 0 ∧ e.act = e.ig.mask ∧ genAddr e 0 e.low % 8 = 0 ∧ s.mustClean e false 0 = false
        ∧ (match (s.loadLane e (genAddr e 0 e.low) 8 false 0).1 with | .ok _ => true | _ => false) = true) :=
  ⟨on (by decide +kernel), on (by decide +kernel), on (by decide +kernel)⟩
theorem witness_OrderedAlignment :
    On (.ld always { ldAcq with off := 3 }) (fun i => paged [] (rig i 3 at0)) (fun e _ => memAcq { ldAcq with off := 3 } = true
      ∧ e.lanes.find? (fun l => genAddr e 3 l % 4 != 0) = some 0)
    ∧ On (.st always { stRel with off := 4 }) (fun i => paged [] (rig i 3 at0)) (fun e _ => memRel { stRel with off := 4 } = true
      ∧ e.lanes.find? (fun l => genAddr e 4 l % 8 != 0) = some 0)
    ∧ On (.red always (fmtM 6 4 2 1)) (fun i => paged [] (rig i 3 at0)) (fun e _ => e.lanes.find? (fun l => genAddr e 1 l % 4 != 0) = some 0) :=
  ⟨on (by decide +kernel), on (by decide +kernel), on (by decide +kernel)⟩
def local_ (space : BitVec 3) (f : FmtM) : FmtM := { f with space := space }
def windowTeam : Team :=
  { team with windows := [{ lender := 1, edge := 0, reclaimed := false, data := [] }], kernel := { kernel with constSize := 4, berm := 1 } }
/-- A team whose bank of 4 bytes was placed from the page at 0x101000. -/
def bankTeam : Team :=
  { team with const := (List.range 4).map fun k => (k, (9 : Byte)), kernel := { kernel with image := 0x101000, constSize := 4, constOff := 0 } }
theorem witness_LocalLoads :
    On (.lds always (local_ 1 (fmtM 8 4 2 0))) (rig · 1 [(4, 4092)]) (fun e s => s.team? e.tid = some e.t ∧ s.marks = [] ∧ s.moved = []
      ∧ ∀ l ∈ e.lanes, scratchCheck e.t (localAddr e 0 l) 4 = none ∧ e.t.lineEmpty (localAddr e 0 l) = false)
    ∧ On (.ldc always (local_ 3 (fmtM 8 4 2 0))) (rigOf · 1 1 windowTeam (group [(4, 65532)])) (fun e s => s.team? e.tid = some e.t
      ∧ s.marks = [] ∧ s.moved = [] ∧ ∀ l ∈ e.lanes, localAddr e 0 l + 4 ≤ 65536 ∧ ∀ k ∈ List.range 4, e.t.kernel.constSize ≤ localAddr e 0 l + k)
    ∧ On (.ldc always (local_ 3 (fmtM 8 4 2 0))) (fun i => paged [9, 9, 9, 9] (rigOf i 1 1 bankTeam (group [(4, 0)]))) (fun e s =>
      s.team? e.tid = some e.t ∧ s.marks = [] ∧ s.moved = [] ∧ ∀ l ∈ e.lanes, localAddr e 0 l + 4 ≤ 65536 ∧ ∀ k ∈ List.range 4,
        s.readVirt e.d e.x (e.t.kernel.image.toNat + e.t.kernel.constOff + (localAddr e 0 l + k)) 1 0
          = some [SMap.getD e.t.const (localAddr e 0 l + k) 0])
    ∧ On (.ldb always (local_ 2 (fmtM 8 4 2 0))) (rigOf · 1 1 windowTeam (group [(4, 0)])) (fun e s => s.team? e.tid = some e.t
      ∧ s.marks = [] ∧ s.moved = [] ∧ ∀ l ∈ e.lanes, (bermCheck e.t (localAddr e 0 l) 4).toOption.isSome = true) :=
  ⟨on (by decide +kernel), on (by decide +kernel), on (by decide +kernel), on (by decide +kernel)⟩
theorem witness_LocalStores :
    On (.sts always (local_ 1 (fmtM 6 4 3 0))) (rig · 1 [(4, 4088), (6, 1), (7, 2)]) (fun e _ => ∀ l ∈ e.lanes, scratchCheck e.t (localAddr e 0 l) 8 = none)
    ∧ On (.stb always (local_ 2 (fmtM 6 4 2 0))) (rigOf · 1 1 windowTeam (group [(4, 0), (6, 1)])) (fun e _ =>
      ∀ l ∈ e.lanes, (bermCheck e.t (localAddr e 0 l) 4).toOption.isSome = true)
    ∧ ∃ (s : State) (t : Team), s.team? 0 = some t ∧ SMap.sorted t.scratch = true :=
  ⟨on (by decide +kernel), on (by decide +kernel), rig (.nprb always (fmtX 255 255 255 0)) 1 [], team, by decide +kernel⟩
def stlRel : FmtM := { (fmtM 6 4 2 0) with order := 2, scope := 5 }
/-- Core 0 holds a dirty byte of the line at `pageAt`. -/
def dirtied (s : State) : State := { s with cores := [(0, { (Core.init) with col := [(pageAt, { val := 5, dirty := true, since := 0 })] })] }
theorem witness_LinesAndCaches :
    On (.ldl always (fmtM 8 4 2 0)) (fun i => paged [] (rig i all at0)) (fun e s => e.act ≠ 0
      ∧ (match lineCheck (fmtM 8 4 2 0) e s 0 with | (.ok _, u) => decide (u.marks = [] ∧ u.moved = []) | _ => false) = true)
    ∧ On (.stl always (fmtM 6 4 2 0)) (fun i => paged [] (rig i all at0)) (fun e s => e.act ≠ 0 ∧ memRel (fmtM 6 4 2 0) = false
      ∧ (match lineCheck (fmtM 6 4 2 0) e s 1 with
        | (.ok _, u) => decide ((u.core e.ck).col = [] ∧ SMap.wf u.mem unwritten = true) | _ => false) = true)
    ∧ On (.stl always stlRel) (fun i => dirtied (paged [] (rig i all at0))) (fun e s => e.act ≠ 0 ∧ memRel stlRel = true
      ∧ (match lineCheck stlRel e s 1 with
        | (.ok _, u) => decide ((u.core e.ck).col ≠ [] ∧ SMap.wf u.mem unwritten = true) | _ => false) = true)
    ∧ On (.ldl nowhere (fmtM 8 4 2 0)) (fun i => paged [] (rig i all at0)) (fun e _ => e.act = 0)
    ∧ On (.pref always (fmtM 255 4 2 0)) (rig · all at0) (fun _ _ => True)
    ∧ On (.fence always (fmtX 255 255 255 0x2000000)) (fun i => dirtied (rig i all [])) (fun e s => e.act ≠ 0
      ∧ 4 ≤ ((fmtX 255 255 255 0x2000000).fld 23 3).toNat ∧ (fmtX 255 255 255 0x2000000).fld 26 2 = 0 ∧ s.cleanWaits e.ck = false)
    ∧ On (.fence always (fmtX 255 255 255 0x6000000)) (rig · all []) (fun e s => e.act ≠ 0 ∧ 4 ≤ ((fmtX 255 255 255 0x6000000).fld 23 3).toNat
      ∧ (fmtX 255 255 255 0x6000000).fld 26 2 = 1 ∧ s.cleanWaits e.ck = false)
    ∧ On (.fence always (fmtX 255 255 255 0xB000000)) (rig · all []) (fun e s => e.act ≠ 0 ∧ (fmtX 255 255 255 0xB000000).fld 26 2 = 2
      ∧ s.cleanWaits e.ck = false)
    ∧ On (.fence always (fmtX 255 255 255 0x1800000)) (rig · all []) (fun e _ => e.act ≠ 0 ∧ ((fmtX 255 255 255 0x1800000).fld 23 3).toNat < 4)
    ∧ On (.cinv always (fmtX 255 255 255 0)) (rig · all []) (fun e s => e.act ≠ 0 ∧ s.cleanWaits e.ck = false)
    ∧ On (.ccln nowhere (fmtX 255 255 255 0)) (rig · all []) (fun e _ => e.act = 0)
    ∧ (Memory.wf (dirtied State.reset).mem ∧ SMap.sorted ((dirtied State.reset).core 0).col = true ∧ (dirtied State.reset).cleanWaits 0 = false) :=
  ⟨on (by decide +kernel), on (by decide +kernel), on (by decide +kernel), on (by decide +kernel), on (by decide +kernel), on (by decide +kernel),
    on (by decide +kernel), on (by decide +kernel), on (by decide +kernel), on (by decide +kernel), on (by decide +kernel),
    ⟨by decide +kernel, by decide +kernel, by decide +kernel⟩⟩
theorem witness_Atomics :
    On (.atom always (fmtM 6 4 2 0)) (fun i => paged [] (rig i 1 at0)) (fun e s => e.lanes = [0] ∧ memAcq (fmtM 6 4 2 0) = false
      ∧ memRel (fmtM 6 4 2 0) = false ∧ genAddr e 0 0 % atomicBytes (fmtM 6 4 2 0) = 0
      ∧ (match (atomicPages (fmtM 6 4 2 0) e s (genAddr e 0 0)).1 with | .ok _ => true | _ => false) = true)
    ∧ On (.red always (fmtM 6 4 2 0)) (fun i => paged [] (rig i all at0)) (fun e s => (∀ l ∈ e.lanes, genAddr e 0 l % 4 = 0) ∧ s.mustClean e false 0 = false
      ∧ (perLane s e.act fun s l => atomicPages (fmtM 6 4 2 0) e s (genAddr e 0 l)).bad = none
      ∧ (perLane s e.act fun s l => atomicPages (fmtM 6 4 2 0) e s (genAddr e 0 l)).wait = none)
    ∧ On (.atoms always (local_ 1 (fmtM 6 4 2 0))) (rig · 1 [(4, 4092), (6, 1)]) (fun e s => s.team? e.tid = some e.t ∧ s.marks = [] ∧ s.moved = []
      ∧ ∀ l ∈ e.lanes, scratchCheck e.t (localAddr e 0 l) 4 = none ∧ e.t.lineEmpty (localAddr e 0 l) = false) :=
  ⟨on (by decide +kernel), on (by decide +kernel), on (by decide +kernel)⟩

def waited (o : Option Nat) : Monitor :=
  { gk := some 0, team := 0, gidx := 0, lanes := 1, va := 0x101000, pa := pageAt, ctx := 0, cmp := 0, val := 0, wide := false, scope := 1,
    async := false, opSeq := 0, prio := 0, start := 0, expire := none, entered := true, polling := false, last := 0, hit := false,
    outcome := o }
/-- `mk` with the issue group changed. -/
def withIg (f : IssueGroup → IssueGroup) (s : State) : State := { s with active := s.active.map fun p => (p.1, f p.2) }
theorem witness_ConditionMonitors :
    On (.waitc always (fmtX 8 4 6 0x400000)) (fun i => { (withIg (fun ig => { ig with mons := [(0, 0)] }) (paged [] (rig i 1 at0))) with
        monitors := [(0, waited (some 0))] }) (fun e s => s.ig? e.pk = some e.ig ∧ e.act ≠ 0 ∧ e.ig.mons ≠ []
      ∧ (∀ l ∈ e.lanes, ∃ p ∈ e.ig.mons, p.1 = l) ∧ (∀ p ∈ e.ig.mons, (s.monOutcome p.2).isSome = true)
      ∧ (fmtX 8 4 6 0x400000).bit 21 = false ∧ (fmtX 8 4 6 0x400000).bit 15 = false)
    ∧ On (.waitc always (fmtX 255 4 6 0x408000)) (fun i => paged [] (rig i 1 at0)) (fun e s => s.ig? e.pk = some e.ig ∧ e.act ≠ 0
      ∧ e.ig.mons = [] ∧ (fmtX 255 4 6 0x408000).bit 15 = true
      ∧ (seqLanes s e.act (monLane (fmtX 255 4 6 0x408000) e)).bad = none ∧ (seqLanes s e.act (monLane (fmtX 255 4 6 0x408000) e)).wait = none)
    ∧ On (.waitc nowhere (fmtX 8 4 6 0x400000)) (fun i => paged [] (rig i 1 at0)) (fun e s => s.ig? e.pk = some e.ig ∧ e.act = 0)
    ∧ (let s : State := { State.reset with monitors := [(0, waited (some 0))] }
       SMap.sorted s.monitors = true ∧ s.monitor? 0 = some (waited (some 0)) ∧ (waited (some 0)).lanes &&& ~~~(1 : Mask) = 0) :=
  ⟨on (by decide +kernel), on (by decide +kernel), on (by decide +kernel), by decide +kernel⟩

/-- A layout record of one tile of k8e4 elements at 0x101080. -/
def layoutBytes : List Byte := leBytes 8 0x101080 ++ leBytes 8 8 ++ leBytes 8 0x10100010000
def copyRig (i : Instr) : State :=
  paged layoutBytes (rig i 1 ([(4, 0x101000), (5, 0), (10, 0)] ++ (List.range 8).map fun k => (16 + k, (0 : W32))))
theorem witness_CopyWords :
    On (.cpy always (fmtX 10 4 16 0)) copyRig (fun e s => e.act ≠ 0 ∧ s.copiesOn e.ck + popMask e.act ≤ 32 ∧ s.operandCheck e = none
      ∧ (e.lanes.foldl (copyLane (fmtX 10 4 16 0) 0 e) { s := s, copies := [], names := [], why := none }).why = none)
    ∧ On (.cpyo nowhere (fmtX 10 4 16 0)) copyRig (fun e _ => e.act = 0) := ⟨on (by decide +kernel), on (by decide +kernel)⟩

def eventRegs (kind : W32) : List (Nat × W32) := [(8, kind), (9, 0), (10, 0), (11, 0)]
def eventsOf (n : Nat) (s : State) : State := s.setCluster 0 { (s.cluster 0) with events := List.replicate n (0x10, 0) }
theorem witness_EventQueueWords :
    On (.evpop always (fmtX 8 255 255 0x2000000)) (fun i => privileged (rig i 1 [])) (fun e s => e.lanes = [0] ∧ s.marks = []
      ∧ (s.cluster (clusterOf e.ck)).events = [])
    ∧ On (.evpop always (fmtX 8 255 255 0x2000000)) (fun i => eventsOf 1 (privileged (rig i 1 []))) (fun e s => e.lanes = [0] ∧ s.marks = []
      ∧ (s.cluster (clusterOf e.ck)).events = [(0x10, 0)] ∧ s.cleanWaits e.ck = false)
    ∧ On (.evpush always (fmtX 255 8 255 0)) (fun i => eventsOf 255 (rig i 1 (eventRegs 0x10))) (fun e s => e.lanes = [0] ∧ s.marks = []
      ∧ fld (pushRecord e 0).1 0 8 = 16 ∧ ((s.release e.ck 5).cluster (clusterOf e.ck)).events.length = 255 ∧ s.cleanWaits e.ck = false)
    ∧ On (.evpush always (fmtX 255 8 255 0)) (fun i => eventsOf 256 (rig i 1 (eventRegs 0x10))) (fun e s => e.lanes = [0] ∧ s.marks = []
      ∧ fld (pushRecord e 0).1 0 8 = 16 ∧ ((s.release e.ck 5).cluster (clusterOf e.ck)).events.length = 256 ∧ (fmtX 255 8 255 0).bit 27 = false
      ∧ s.cleanWaits e.ck = false)
    ∧ On (.fesetFull always (fmtX 255 4 255 0)) (rig · 1 [(4, 3968)]) (fun e s => s.ownedLines e.tid = [] ∧ e.lanes = [0]
      ∧ (lineArgs e (fmtX 255 4 255 0) 1 0).toOption = some (31, 1))
    ∧ On (.feqry always (fmtX 8 4 255 0)) (rig · 1 [(4, 0)]) (fun e _ => e.lanes = [0]
      ∧ (lineArgs e (fmtX 8 4 255 0) 32 0).toOption = some (0, 32)) :=
  ⟨on (by decide +kernel), on (by decide +kernel), on (by decide +kernel), on (by decide +kernel), on (by decide +kernel), on (by decide +kernel)⟩

def queueGroup (n : Nat) : Group :=
  (group [(4, 7)]).setQueue 7 { permits := 0, reserved := n, taken := 0, items := [], finished := false, failure := none, err := false }
theorem witness_QueueAndBudget :
    On (.qpop always (fmtX 8 4 255 0)) (rigOf · 1 1 team (queueGroup 15)) (fun e s => s.group? e.gk = some e.g ∧ e.act ≠ 0
      ∧ (e.src32 0 e.low).toNat = 7 ∧ SMap.has e.g.queues 7 = true ∧ (e.g.queue 7).held < 16)
    ∧ On (.qpop always (fmtX 8 255 255 0xE000000)) (rigOf · 1 1 team (queueGroup 15)) (fun e s => s.group? e.gk = some e.g ∧ e.act ≠ 0
      ∧ SMap.has e.g.queues 7 = true ∧ (e.g.queue 7).held < 16)
    ∧ On (.qrel always (fmtX 255 255 255 0xF000000)) (rigOf · 1 1 team (queueGroup 16)) (fun e s => s.group? e.gk = some e.g ∧ e.act ≠ 0
      ∧ SMap.has e.g.queues 7 = true ∧ 16 ≤ (e.g.queue 7).held)
    ∧ On (.qrel always (fmtX 255 255 255 0xF000000)) (rigOf · 1 1 team (queueGroup 15)) (fun e _ => e.act ≠ 0
      ∧ SMap.has e.g.queues 7 = true ∧ (e.g.queue 7).held < 16)
    ∧ On (.grow always (fmtX 255 255 255 0xC0E0000)) (rig · 1 []) (fun e s => s.group? e.gk = some e.g ∧ e.act ≠ 0 ∧ e.g.budget < 192
      ∧ (s.curIg e).was = 0 ∧ s.servedBefore e.gk = false ∧ s.growRoom e.pk e.g 192 = true)
    ∧ On (.grow always (fmtX 255 255 255 0x40E0000)) (rig · 1 []) (fun e s => s.group? e.gk = some e.g ∧ e.act ≠ 0 ∧ 64 ≤ e.g.budget)
    ∧ On (.grow always (fmtX 255 255 255 0xC1E0000)) (rig · 1 []) (fun e _ => e.act ≠ 0 ∧ 192 < ((fmtX 255 255 255 0xC1E0000).fld 20 8).toNat)
    ∧ On (.shrink always (fmtX 255 255 255 0x100000)) (rig · 1 [(4, 1)]) (fun e s => s.group? e.gk = some e.g ∧ e.act ≠ 0 ∧ e.g.mapped ≤ 1)
    ∧ On (.shrink always (fmtX 255 255 255 0x100000)) (rig · 1 [(4, 1), (5, 1)]) (fun e _ => e.act ≠ 0 ∧ 1 < e.g.mapped)
    ∧ On (.qpop always (fmtX 8 4 255 0)) (rig · 1 [(4, 8)]) (fun e _ => e.act ≠ 0 ∧ 8 ≤ (e.src32 0 e.low).toNat) :=
  ⟨on (by decide +kernel), on (by decide +kernel), on (by decide +kernel), on (by decide +kernel), on (by decide +kernel), on (by decide +kernel),
    on (by decide +kernel), on (by decide +kernel), on (by decide +kernel), on (by decide +kernel)⟩

/-- A node record of one team at 0x101000, which names the image at 0x101100: one group, 16 bytes of code. -/
def nodeBytes : List Byte :=
  (leBytes 8 0x101100 ++ leBytes 8 1 ++ leBytes 8 0x100010001 ++ leBytes 16 0 ++ leBytes 8 1 ++ leBytes 16 0) ++ leBytes 192 0
    ++ (leBytes 8 0x14B4E3947 ++ leBytes 8 0x1000000140 ++ leBytes 8 320 ++ leBytes 8 0xFFFFFFFF00000100 ++ leBytes 8 0xFFFFFFFF
      ++ leBytes 8 0x101 ++ leBytes 16 0 ++ leBytes 8 0x4001)
def nodeRig (i : Instr) : State := (privileged (paged nodeBytes (rig i 1 at0))).setCtx 0 { stage := .running, slots := [] }
theorem witness_NodeWords :
    On (.enq always (fmtX 8 4 255 0x200000)) nodeRig (fun e s => e.lanes = [0] ∧ s.cleanWaits e.ck = false
      ∧ (match ((s.release e.ck 5).enqueue e.ck e.x (e.src 0 0).toNat).1 with | .ok st => decide (st % 4294967296 = 0) | _ => false) = true)
    ∧ On (.launch always (fmtX 8 4 255 0)) nodeRig (fun e s => e.lanes = [0] ∧ s.cleanWaits e.ck = false
      ∧ (match (launchCheck e (s.release e.ck 5) (e.src 0 0).toNat (s.node? e.t.node)).1 with | .ok n => decide (n.id = 1) | _ => false) = true)
    ∧ On (.depdec always (fmtX 8 4 255 0)) nodeRig (fun e s => (perLane s e.act (depdecLane e)).bad = none
      ∧ (perLane s e.act (depdecLane e)).wait = none ∧ e.lanes = [0] ∧ (e.src 0 0).toNat < 1 <<< 52 ∧ (e.src 0 0).toNat % 64 = 0
      ∧ (match s.lanePages e (e.src 0 0).toNat 44 3 with
        | (.ok (p :: _), u) => !u.cleanWaits e.ck && (((u.release e.ck 5).dropLine e.ck (p.p.pa + 40)).homePoison (p.p.pa + 40) 4).isNone
        | _ => false) = true) := ⟨on (by decide +kernel), on (by decide +kernel), on (by decide +kernel)⟩
theorem witness_DependencyDecrement : SMap.wf State.reset.mem unwritten = true := by decide

/-- Eight registers of a record at the bottom right of the screen, and a tile number. -/
def recRegs : List (Nat × W32) := [(4, 57599), (5, 0), (8, 0xEFFFEFFF), (9, 0), (10, 0), (11, 0x3F800000), (12, 0), (13, 0), (14, 0), (15, 0)]
theorem witness_SampleWords :
    On (.srec always { (fmtM 8 255 4 0) with space := 4 }) (rig · 1 recRegs) (fun e s => e.lanes = [0]
      ∧ (recCheck (e.record 0 0) <|> bucketCheck s e.d e.t (recTile (e.record 0 0))) = none)
    ∧ On (.xeye always (fmtX 255 8 255 0x2000000)) (fun i => { (rig i 1 recRegs) with culvert := { Culvert.reset with state := .up } })
      (fun e s => e.lanes = [0] ∧ recCheck (e.record 0 0) = none ∧ s.culvert.state = .up ∧ e.d < 2)
    ∧ On (.xeye always (fmtX 255 8 255 0x2000000)) (rig · 1 recRegs) (fun e s => e.lanes = [0] ∧ recCheck (e.record 0 0) = none
      ∧ s.culvert.state ≠ .up ∧ (fmtX 255 8 255 0x2000000).bit 22 = false)
    ∧ On (.sld always { (fmtM 16 4 4 0) with space := 4 }) (rig · 1 recRegs)
      (fun e s => ∀ l ∈ e.lanes, sldCheck { (fmtM 16 4 4 0) with space := 4 } e s l = none)
    ∧ On (.sbktQ always (fmtX 16 4 255 0)) (rig · 1 recRegs) (fun e s => ∀ l ∈ e.lanes, bucketCheck s e.d e.t (e.src32 0 l).toNat = none)
    ∧ On (.sldSp nowhere { (fmtM 5 4 3 0) with space := 4 }) (rig · 1 recRegs) (fun e s => s.copiesOn e.ck + popMask e.act ≤ 32
      ∧ (perLane s e.act (sldSpLane { (fmtM 5 4 3 0) with space := 4 } e)).bad = none
      ∧ (perLane s e.act (sldSpLane { (fmtM 5 4 3 0) with space := 4 } e)).wait = none)
    ∧ On (.sbktLock always (fmtX 16 4 255 0x4800000)) (rig · 1 recRegs) (fun e s => e.lanes = [0]
      ∧ bucketCheck s e.d e.t (e.src32 0 0).toNat = none ∧ s.readReady e.d e.t (e.src32 0 0).toNat = true)
    ∧ On (.sbktUnlock always (fmtX 255 4 255 0x8000000)) (rig · 1 recRegs) (fun e s => e.lanes = [0]
      ∧ bucketCheck s e.d e.t (e.src32 0 0).toNat = none) :=
  ⟨on (by decide +kernel), on (by decide +kernel), on (by decide +kernel), on (by decide +kernel), on (by decide +kernel), on (by decide +kernel),
    on (by decide +kernel), on (by decide +kernel)⟩
theorem witness_EvictionAndMaps :
    On (.sevtLimit always (fmtX 255 4 5 0)) (rig · 1 recRegs) (fun e s => e.lanes = [0] ∧ bucketCheck s e.d e.t (e.src32 0 0).toNat = none)
    ∧ On (.sevtDrop always (fmtX 255 255 5 0xA000000)) (rig · 1 recRegs) (fun e _ => e.lanes = [0] ∧ (fmtX 255 255 5 0xA000000).bit 25 = true)
    ∧ On (.prio always (fmtX 255 4 5 0x4000000)) (rig · 1 recRegs) (fun e _ => e.lanes = [0] ∧ (e.src32 0 0).toNat < 57600)
    ∧ On (.emap always (fmtX 255 4 5 0x1000000)) (rig · 1 recRegs) (fun e _ => e.lanes = [0] ∧ (e.src32 0 0).toNat < 57600)
    ∧ On (.prioW always (fmtX 255 255 4 0x6000000)) (rig · 1 recRegs) (fun e _ => e.lanes = [0]) :=
  ⟨on (by decide +kernel), on (by decide +kernel), on (by decide +kernel), on (by decide +kernel), on (by decide +kernel)⟩
/-- The team is that of the band node of period 239. -/
def bandRig (regs : List (Nat × W32)) (i : Instr) : State :=
  { (rig i 1 regs) with nodes := [(0, { (Node.blank 0 kernel) with kind := .band 239 0 })] }
theorem witness_BandWords :
    On (.reproj always (fmtX 16 8 255 0x2000000)) (rig · 1 recRegs) (fun e _ => ∀ l ∈ e.lanes, reprojBad (e.record 0 l) = false)
    ∧ On (.rowq always (fmtX 16 4 255 0)) (rig · 1 [(4, 239)]) (fun e _ => ∀ l ∈ e.lanes, (e.src32 0 l).toNat < 240)
    ∧ On (.rowq always (fmtX 16 255 255 0)) (bandRig []) (fun e s => s.bandOf e.t = some (239, 0))
    ∧ On (.roww always (fmtX 4 5 6 0)) (bandRig [(4, 0x0EFF0EFF), (5, 0), (6, 0)]) (fun e s => e.lanes = [0] ∧ s.bandOf e.t = some (239, 0)
      ∧ bitsOf (e.src32 2 0).toNat 0 12 < 3840 ∧ 16 * 239 ≤ bitsOf (e.src32 2 0).toNat 16 12
      ∧ bitsOf (e.src32 2 0).toNat 16 12 < 16 * 239 + 16 ∧ bitsOf (e.src32 2 0).toNat 12 4 = 0 ∧ bitsOf (e.src32 2 0).toNat 28 4 = 0) :=
  ⟨on (by decide +kernel), on (by decide +kernel), on (by decide +kernel), on (by decide +kernel)⟩
def rayRegs : List (Nat × W32) := at0.filter (·.1 < 8) ++ (List.range 8).map fun k => (8 + k, (0x3F800000 : W32))
def loads (e : Env) (s : State) (n : Nat) : Option (List Byte) :=
  match (s.loadLane e (e.src 1 0).toNat n false 0).1 with
  | .ok bs => some bs
  | _ => none
theorem witness_RayAndScaleWords :
    On (.rbox always (fmtX 16 8 4 0)) (fun i => paged [] (rig i 1 rayRegs)) (fun e s => e.lanes = [0] ∧ e.rayOk 0 = true
      ∧ (e.src 1 0).toNat % 128 = 0 ∧ (e.src 1 0).toNat < 1 <<< 52 ∧ (loads e s 128).any (fun bs => !boxBad bs) = true)
    ∧ On (.rtri always (fmtX 16 8 4 0xE000000)) (fun i => paged [] (rig i 1 rayRegs)) (fun e s => e.lanes = [0] ∧ e.rayOk 0 = true
      ∧ (e.src 1 0).toNat % 16 = 0 ∧ (e.src 1 0).toNat < 1 <<< 52 ∧ (loads e s 48).isSome = true)
    ∧ On (.probe always (fmtX 16 8 4 0x2000000)) (fun i => paged [] (rig i 1 rayRegs)) (fun e s => e.lanes = [0]
      ∧ (e.src 1 0).toNat % 32 = 0 ∧ (e.src 1 0).toNat < 1 <<< 52
      ∧ (loads e s 32).any (fun bs => leNat ((bs.drop 28).take 4) == 0) = true)
    ∧ On (.scaleWord always (fmtR 3 8 4 255 1)) (rig · 1 rayRegs) (fun e _ => e.lanes = [0] ∧ scaleBad (e.src 1 0) = false) :=
  ⟨on (by decide +kernel), on (by decide +kernel), on (by decide +kernel), on (by decide +kernel)⟩
theorem witness_TrailWords :
    On (.trail always (fmtX 255 8 255 0x8100000)) (rig · 1 recRegs) (fun _ _ => True)
    ∧ On (.tmark always (fmtX 255 4 255 0x6000000)) (rig · 1 recRegs) (fun e s => e.act ≠ 0 ∧ (fmtX 255 4 255 0x6000000).fld 25 3 ≠ 4
      ∧ s.team? e.tid = some e.t)
    ∧ On (.tmark nowhere (fmtX 255 4 255 0)) (rig · 1 recRegs) (fun e _ => e.act = 0) :=
  ⟨on (by decide +kernel), on (by decide +kernel), on (by decide +kernel)⟩
theorem witness_SystemRegisters :
    On (.sysrd always (fmtX 8 255 255 0x500000)) (rig · 1 []) (fun e s => e.act ≠ 0 ∧ s.quiet e = true
      ∧ sysDenied e (s.privileged e.x) (0x050 + (e.src32 0 e.low).toNat) none = none ∧ s.group? e.gk = some e.g)
    ∧ On (.syswr always (fmtX 255 255 4 0x500000)) (rig · 1 at0) (fun e s => e.act ≠ 0 ∧ s.quiet e = true
      ∧ sysDenied e (s.privileged e.x) (0x050 + (e.src32 0 e.low).toNat) (some (e.src 1 e.low)) = none)
    ∧ On (.sysrd always (fmtX 8 255 255 0x510000)) (rig · 1 []) (fun e s => e.act ≠ 0 ∧ s.quiet e = true
      ∧ trapReg 0x051 = true ∧ e.g.frames = [] ∧ sysDenied e (s.privileged e.x) (0x051 + (e.src32 0 e.low).toNat) none = some 0x05)
    ∧ On (.sysrd always (fmtX 8 255 255 0x1010000)) (rig · 1 []) (fun e _ => trapReg 0x101 = false ∧ (regDesc 0x101).isSome = true
      ∧ ctxReg 0x101 = true ∧ 0x101 % 64 ≠ e.x)
    ∧ On (.syswr always (fmtX 255 255 4 0x1010000)) (rig · 1 at0) (fun e s => e.act ≠ 0 ∧ s.quiet e = true ∧ trapReg 0x101 = false
      ∧ (regDesc 0x101).isSome = true ∧ s.privileged e.x = false
      ∧ sysDenied e (s.privileged e.x) (0x101 + (e.src32 0 e.low).toNat) (some (e.src 1 e.low)) = some 0x07)
    ∧ On (.syswr always (fmtX 255 255 4 0x520000)) (rigOf · 1 1 trapTeam { (group at0) with frames := [trapFrame] })
      (fun e _ => trapReg 0x052 = true ∧ e.g.frames ≠ [])
    ∧ (trapReg 0xFFF = false ∧ regDesc 0xFFF = none)
    ∧ (trapReg 0x224 = false ∧ ctxReg 0x224 = false ∧ (regDesc 0x224).any (fun r => r.rw &&& ~~~r.priv != 0) = true) :=
  ⟨on (by decide +kernel), on (by decide +kernel), on (by decide +kernel), on (by decide +kernel), on (by decide +kernel), on (by decide +kernel),
    by decide +kernel, by decide +kernel⟩
theorem witness_WatchWords :
    On (.wclr always (fmtX 255 255 255 0xF000000)) (rig · 1 []) (fun e s => e.act ≠ 0 ∧ (fmtX 255 255 255 0xF000000).bit 23 = false
      ∧ ((s.core e.ck).watchOf 15).foreign e.x = false)
    ∧ On (.wclr always (fmtX 255 255 255 0)) (fun i => { (rig i 1 []) with
        cores := [(0, { (Core.init) with watch := [(0x680, 0x1015), (0x6B0, 0x87000000000000)] })] })
      (fun e s => e.act ≠ 0 ∧ s.debug e.x = false ∧ ((s.core e.ck).watchOf 0).foreign e.x = true)
    ∧ On (.wset always (fmtX 255 4 255 0x3000000)) (rigOf · 1 1 { team with scratch := [(4048, 0x05), (4049, 0x11)] } (group [(4, 4048)]))
      (fun e s => e.act ≠ 0 ∧ s.team? e.tid = some e.t ∧ s.marks = [] ∧ s.moved = []
        ∧ (e.src32 0 e.low).toNat + 48 ≤ e.t.kernel.scratch ∧ (e.src32 0 e.low).toNat % 8 = 0
        ∧ e.t.lineEmpty 4048 = false ∧ e.t.lineEmpty 4095 = false ∧ ((s.core e.ck).watchOf 3).foreign e.x = false) :=
  ⟨on (by decide +kernel), on (by decide +kernel), on (by decide +kernel)⟩
/-- The group of the rig, with lane 31 halted. -/
def haltRig (i : Instr) : State :=
  (rigOf i 1 1 team ((group [(4, 0x01F00000), (5, 0), (6, 0), (7, 0)]).modThreads 0x80000000 fun t => { t with
    halt := some { cause := 0xC2, pred := 0, skid := 0 } })).setRaw 0x4C0 0x300
theorem witness_InspectionWords :
    On (.hlist always (fmtX 8 255 255 0x2000000)) haltRig (fun e s => e.lanes = [0] ∧ s.debug e.x = true)
    ∧ On (.hins always (fmtX 8 6 255 0x2000)) haltRig (fun e s => e.lanes = [0] ∧ s.debug e.x = true ∧ s.target (e.src 0 0) = none)
    ∧ On (.hins always (fmtX 8 4 255 0xC02000)) haltRig (fun e s => e.lanes = [0] ∧ s.debug e.x = true
      ∧ (match s.target (e.src 0 0) with
        | some (gk, h, t, k) => (match s.itemRead gk h t k 0 0x0C with | .ok _ => true | _ => false) || (s.itemRead gk h t k 0 192 matches .ok _)
        | none => false) = true)
    ∧ On (.hput always (fmtX 255 4 6 0x2000)) haltRig (fun e s => e.lanes = [0] ∧ s.debug e.x = true
      ∧ (match s.target (e.src 0 0) with
        | some (gk, h, t, k) => (match s.itemWrite gk h t k 2 0 (e.src 1 0) with | (.ok _, _) => true | _ => false)
        | none => false) = true)
    ∧ On (.hres always (fmtX 255 4 255 0)) haltRig (fun e s => e.lanes = [0] ∧ s.debug e.x = true ∧ (s.target (e.src 0 0)).isSome = true
      ∧ (fmtX 255 4 255 0).fld 26 2 = 0)
    ∧ On (.hres always (fmtX 255 4 255 0x8000000)) haltRig (fun e s => e.lanes = [0] ∧ s.debug e.x = true ∧ (s.target (e.src 0 0)).isSome = true
      ∧ (fmtX 255 4 255 0x8000000).fld 26 2 = 2)
    ∧ On (.hres always (fmtX 255 6 255 0)) haltRig (fun e s => e.lanes = [0] ∧ s.debug e.x = true ∧ s.target (e.src 0 0) = none)
    ∧ On (.hstep always (fmtX 8 4 255 0)) (fun i => withIg (fun ig => { ig with stepRes := some 3 }) (haltRig i)) (fun e s => e.lanes = [0]
      ∧ (s.curIg e).stepRes = some 3)
    ∧ On (.hstep always (fmtX 8 6 255 0)) haltRig (fun e s => e.lanes = [0] ∧ s.debug e.x = true ∧ (s.curIg e).stepRes = none
      ∧ s.target (e.src 0 0) = none)
    ∧ On (.hins always (fmtX 8 4 255 0x2000)) (rig · 1 [(4, 1), (5, 0)]) (fun e s => s.debug e.x = false ∧ e.act ≠ 0
      ∧ fld (e.src 0 e.low) 0 6 ≠ e.x) :=
  ⟨on (by decide +kernel), on (by decide +kernel), on (by decide +kernel), on (by decide +kernel), on (by decide +kernel), on (by decide +kernel),
    on (by decide +kernel), on (by decide +kernel), on (by decide +kernel), on (by decide +kernel)⟩
/-- The conditions of `WholeGroup`, as a computation. -/
def wholeB (s : State) (e : Env) : Bool :=
  decide (e.ig.mask = 0xFFFFFFFF ∧ e.act = 0xFFFFFFFF ∧ e.ig.done = 0 ∧ e.g.live = 0xFFFFFFFF ∧ e.waiting e.g .quarter = []
    ∧ s.group? e.gk = some e.g ∧ s.team? e.tid = some e.t ∧ s.ig? e.pk = some e.ig ∧ e.ig.traps = []
    ∧ (∀ o ∈ e.ops, e.g.unmappedOp o = false ∧ e.g.emptyOp o = false) ∧ e.g.latch = [] ∧ s.marks = [] ∧ s.moved = [] ∧ e.t.empty = [])
theorem whole_of_wholeB {s : State} {e : Env} (h : wholeB s e = true) : WholeGroup s e := by
  have h := of_decide_eq_true h
  exact ⟨h.1, h.2.1, h.2.2.1, h.2.2.2.1, h.2.2.2.2.1, h.2.2.2.2.2.1, h.2.2.2.2.2.2.1, h.2.2.2.2.2.2.2.1, h.2.2.2.2.2.2.2.2.1,
    h.2.2.2.2.2.2.2.2.2.1, h.2.2.2.2.2.2.2.2.2.2.1, ⟨h.2.2.2.2.2.2.2.2.2.2.2.1, h.2.2.2.2.2.2.2.2.2.2.2.2.1⟩, h.2.2.2.2.2.2.2.2.2.2.2.2.2⟩
/-- The registers of an operand address, of 8 rows and of scale words. -/
def tileRegs : List (Nat × W32) := [(4, 0), (5, 0), (6, 0x7F), (7, 0)] ++ (List.range 8).map fun k => (8 + k, (0 : W32))
/-- The last 512 bytes of the scratchpad. -/
def lastTile : FmtT := fmtT 7 255 4 255 448
def fitsB (e : Env) (f : FmtT) (o n : Nat) : Prop :=
  ∀ q ∈ List.range 4, tileAddr e f o q % 8 = 0 ∧ tileAddr e f o q + n ≤ e.t.kernel.scratch
theorem witness_TileWords :
    On (.zclr always (fmtT 7 255 255 255 0)) (rig · all []) (fun e s => e.waiting e.g .quarter = [] ∧ s.group? e.gk = some e.g
      ∧ e.ig.mask = 0xFFFFFFFF ∧ e.act = 0xFFFFFFFF ∧ e.ig.done = 0 ∧ e.g.live = 0xFFFFFFFF ∧ 7 < e.t.kernel.anvil ∧ s.ig? e.pk = some e.ig
      ∧ e.ig.traps = [] ∧ SMap.wf e.g.z 0 = true ∧ (quarters (zclrQuarter (fmtT 7 255 255 255 0)) e s).r.why.isNone = true
      ∧ (quarters (zclrQuarter (fmtT 7 255 255 255 0)) e s).wait = none)
    ∧ On (.zrd always (fmtT 0 8 255 255 0)) (rig · all []) (fun e s => zrdPre (fmtT 0 8 255 255 0) e s = none ∧ e.waiting e.g .quarter = []
      ∧ (e.ops.any fun o => o.dst && e.g.emptyOp o) = false ∧ e.g.overBudget e.ops = false ∧ s.poolShort e.pk e.g e.ops = false
      ∧ s.poolWaits e.gk (e.ig.block == some .pool) = false ∧ (quarters (zrdQuarter (fmtT 0 8 255 255 0)) e s).r.why.isNone = true ∧ (quarters (zrdQuarter (fmtT 0 8 255 255 0)) e s).wait = none)
    ∧ On (.mma always (fmtT 0 8 4 255 0)) (rig · all ([(4, 0), (5, 0)] ++ (List.range 8).map fun k => (8 + k, (0 : W32))))
      (fun e s => mmaPre (fmtT 0 8 4 255 0) false e s = none ∧ (quarters (mmaQuarter (fmtT 0 8 4 255 0) false) e s).r.why.isNone = true
        ∧ (quarters (mmaQuarter (fmtT 0 8 4 255 0) false) e s).wait = none) :=
  ⟨on (by decide +kernel), on (by decide +kernel), on (by decide +kernel)⟩
theorem witness_TileWords_whole :
    On (.zst always lastTile) (rig · all tileRegs) (fun e s => wholeB s e = true ∧ 7 < e.t.kernel.anvil ∧ (fitsB e lastTile 0 512))
    ∧ On (.zld always lastTile) (rig · all tileRegs) (fun e s => wholeB s e = true ∧ 7 < e.t.kernel.anvil ∧ fitsB e lastTile 0 512)
    ∧ On (.mma always (fmtT 0 8 4 255 476)) (rig · all tileRegs) (fun e s => wholeB s e = true ∧ 0 < e.t.kernel.anvil
      ∧ pairAllowed (fmtT 0 8 4 255 476).atype (fmtT 0 8 4 255 476).btype = true ∧ fitsB e (fmtT 0 8 4 255 476) 1 288)
    ∧ On (.mmas always (fmtT 0 8 4 6 0)) (rig · all tileRegs) (fun e s => wholeB s e = true ∧ fitsB e (fmtT 0 8 4 6 0) 1 288
      ∧ ∀ q ∈ List.range 4, ∀ k ∈ List.range 4, scaleBad (aScale e q k) = false ∧ scaleBad (recordScale e (fmtT 0 8 4 6 0) q k) = false)
    ∧ On (.zrd always (fmtT 0 8 255 6 2)) (rig · all tileRegs) (fun e s => wholeB s e = true ∧ e.g.overBudget e.ops = false
      ∧ s.poolShort e.pk e.g e.ops = false ∧ s.poolWaits e.gk (e.ig.block == some .pool) = false ∧ zrdPre (fmtT 0 8 255 6 2) e s = none
      ∧ zrdK8 (fmtT 0 8 255 6 2) = true ∧ ∀ q ∈ List.range 4, scaleBad (pair64 (e.src32 0 (8 * q)) (e.src32 0 (8 * q + 1))) = false)
    ∧ On (.tld always (fmtT 0 8 4 255 0)) (rig · all tileRegs) (fun e s => wholeB s e = true ∧ e.g.overBudget e.ops = false
      ∧ s.poolShort e.pk e.g e.ops = false ∧ s.poolWaits e.gk (e.ig.block == some .pool) = false ∧ fitsB e (fmtT 0 8 4 255 0) 0 288)
    ∧ On (.tst always { (fmtT 0 16 4 255 7) with atype := 2 }) (fun i => paged [] (rig i 0xFF (at0 ++ [(16, 0)])))
      (fun e s => e.ig.mask = quarterMask 0 ∧ e.act = quarterMask 0 ∧ e.ig.done = 0 ∧ e.g.live = 0xFFFFFFFF ∧ e.waiting e.g .quarter = []
        ∧ s.ig? e.pk = some e.ig ∧ e.ig.traps = [] ∧ s.marks = [] ∧ s.moved = []
        ∧ (∀ o ∈ e.ops, e.g.unmappedOp o = false ∧ e.g.emptyOp o = false)
        ∧ (e.src 1 0 + 56).toNat % 8 = 0 ∧ (e.src 1 0 + 56).toNat / 128 = ((e.src 1 0 + 56).toNat + recordBytes 2 - 1) / 128
        ∧ scaleBad 0x7F = false
        ∧ (match s.lanePages e (e.src 1 0 + 56).toNat (recordBytes 2) 1 with
          | (.ok (p :: _), u) => !isHost p.p.pa && u.marks.isEmpty && SMap.wf u.mem unwritten | _ => false) = true) := by
  unfold fitsB
  exact ⟨on (by decide +kernel), on (by decide +kernel), on (by decide +kernel), on (by decide +kernel), on (by decide +kernel),
    on (by decide +kernel), on (by decide +kernel)⟩

/-! ### Events -/

theorem witness_MemoryCanonical : ∃ s t : State, s.memWf ∧ step s = .next t :=
  ⟨{ State.reset with agenda := [.culvertTrain] }, _, (by decide : Memory.wf []), rfl⟩
def ctxAt (st : CtxStage) : State := ({ State.reset with boot := 7 } : State).setCtx 63 { stage := st, slots := [] }
def running : State := { ((rig (.nop always (fmtX 0 0 0 0)) all []).setCtx 0 { stage := .running, slots := [] }) with boot := 7 }
theorem witness_ContextCommands :
    (∀ st ∈ [CtxStage.free, .created, .admitted, .running, .suspended, .faulted, .destroyed], (ctxAt st).cmdBusy = false
      ∧ 3 ≤ (ctxAt st).boot ∧ (ctxAt st).endpointDown = false
      ∧ SMap.sorted (ctxAt st).regs = true ∧ ((ctxAt st).ctx 63).stage = st ∧ (ctxAt st).ctxTeams 63 = [])
    ∧ ((ctxAt .draining).cmdBusy = true ∧ ((ctxAt .draining).ctx 63).stage = .draining ∧ (ctxAt .draining).resTeams 63 = 0
      ∧ (ctxAt .draining).savedTeams 63 = 0 ∧ (ctxAt .draining).copies = []
      ∧ (ctxAt .draining).pinsWait (fun t => t.ctx == 63) = false)
    ∧ (State.reset.boot < 3 ∧ State.reset.endpointDown = false)
    ∧ running.cmdBusy = false ∧ (running.ctx 0).stage = .running ∧ running.team? 0 = some team ∧ team.resident = true ∧ running.teamCtx team = 0
      ∧ team.ending = none := by decide +kernel

/-- The rig, with a trap of its group delivered to the host in record 5. -/
def trappedGroup : Group := { (group []) with hostTrap := some (trapFrame, 5) }
def trapped : State := { running with groups := [(0, trappedGroup)] }
theorem witness_FaultsAndInvalidation :
    (trapped.endpointDown = false ∧ 3 ≤ trapped.boot ∧ (trapped.teams.find? fun p => trapped.teamCtx p.2 == 0
        && p.2.awaits (if p.2.stage == .saved then p.2.kept else (trapped.groupsOf p.1).map (·.2)) 5) = some (0, team)
      ∧ trapped.team? 0 = some team ∧ team.stage ≠ .saved ∧ team.limitSeq ≠ some 5 ∧ team.lae = none
      ∧ (trapped.groupsOf 0).find? (fun p => p.2.hostTrap.any fun h => h.2 == 5) = some (0, trappedGroup)
      ∧ trapped.group? 0 = some trappedGroup ∧ trappedGroup.hostTrap = some (trapFrame, 5))
    ∧ (running.endpointDown = false ∧ (running.teams.find? fun p => running.teamCtx p.2 == 0
        && p.2.awaits (if p.2.stage == .saved then p.2.kept else (running.groupsOf p.1).map (·.2)) 6) = none
      ∧ (running.die 0).waveFault ≠ some (6, 0) ∧ (running.die 1).waveFault ≠ some (6, 0))
    ∧ (({ State.reset with boot := 3 } : State).endpointDown = false ∧ State.reset.tlbi = none
      ∧ fld (State.reset.raw 0x220) 12 40 % (1 <<< fld (State.reset.raw 0x220) 52 4) = 0)
    ∧ (({ State.reset with boot := 3, tlbi := some (0x100, 0) } : State).canTlbi = true)
    ∧ (State.reset.boot < 3 ∧ State.reset.endpointDown = false) := by decide +kernel

/-- A copy of one record into lines 0 and 1, of which line 1 is left. -/
def aCopy (form : Nat) (stage : CopyStage) (left : List Nat) (cw : Option Nat) (ev : Bool) : Copy :=
  { core := 0, team := 0, gk := 0, lane := 0, form := form, off := 0, bytes := 72,
    lay := ((parseLayout 0 [0x101080, 8, 0x10100010000, 0, 0, 0, 0, 0]).get rfl).1, coords := [0, 0, 0, 0, 0], index := [], masks := [],
    source := [], srcBad := [], pages := [], tag := 0, ev := ev, cw := cw, ctx := 0, nodeId := 0, formed := [], left := left, fx := 0, status := 0,
    stage := stage, tile := 0 }
def copying (c : Copy) : State := { running with copies := [(0, c)] }
/-- The LAE of the team stands at a stream that feeds queue 0 of group 0. -/
def aStream : Stream :=
  { copy := false, addr := 0, queue := 0, gidx := 0, sh := 0, nbuf := 1, dbase := 0, dstride := 0, c0 := 0, c1 := 0, k0 := [], k1 := [],
    tx0 := 0, ty0 := 0, tx1 := 0, ty1 := 0 }
def aLae : Lae := { trips := [1], streams := [aStream], iter := 0, stream := 0, stopped := false, fault := none }
def laeTeam : Team := { team with lae := some aLae }
def laeGroup : Group := (group []).setQueue 0 { permits := 1, reserved := 0, taken := 0, items := [], finished := false, failure := none, err := false }
def feeding : State := { running with teams := [(0, laeTeam)], groups := [(0, laeGroup)] }
theorem witness_CopiesAndMonitors :
    ((copying (aCopy 3 .moving [1] none false)).copy? 0 = some (aCopy 3 .moving [1] none false) ∧ (aCopy 3 .moving [1] none false).form ≤ 3
      ∧ 1 ∈ (aCopy 3 .moving [1] none false).left)
    ∧ ((copying (aCopy 0 .moving [] (some 0x30000) true)).copy? 0 = some (aCopy 0 .moving [] (some 0x30000) true)
      ∧ SMap.sorted (copying (aCopy 0 .moving [] (some 0x30000) true)).copies = true ∧ crosses 0 0x30000 = false
      ∧ (copying (aCopy 0 .moving [] (some 0x30000) true)).cleanWaits 0 = false ∧ Memory.wf (copying (aCopy 0 .moving [] (some 0x30000) true)).mem)
    ∧ ((copying (aCopy 0 .posting [] none true)).copy? 0 = some (aCopy 0 .posting [] none true)
      ∧ (copying (aCopy 0 .posting [] none true)).queueFull (clusterOf 0) = false
      ∧ SMap.sorted (copying (aCopy 0 .posting [] none true)).copies = true)
    ∧ running.canWake { (waited none) with hit := true } = true
    ∧ ({ running with dies := [(0, { Die.init with ticks := 1 })] } : State).canTimeout { (waited none) with expire := some 0 } = true
    ∧ (running.setCluster 0 { (Cluster.init 0) with cycles := 4096 }).canRecheck { (waited none) with entered := false } = true
    ∧ (feeding.team? 0 = some laeTeam ∧ laeTeam.lae = some aLae ∧ aLae.cur = some aStream ∧ feeding.groupAt 0 aStream.gidx = some (0, laeGroup)
      ∧ feeding.group? 0 = some laeGroup ∧ laeTeam.stage = .running ∧ laeTeam.saveHalt = false ∧ (feeding.die laeTeam.die).tripped = false
      ∧ aLae.ended = false ∧ aLae.fault = none ∧ (laeGroup.queue 0).permits ≠ 0 ∧ aStream.copy = false) := by decide +kernel

/-- A node in context 0 at a level, with teams of one group of class H2. -/
def gridKernel : Kernel := { kernel with roles := [(1, 64)], heat := 2 }
def nodeAt (stage : NodeStage) (level : Nat) (untaken : List (Nat × Nat × Nat)) : Node :=
  { (Node.blank 0 gridKernel) with gridx := 2, gridy := 2, prio := level, level := level, stage := stage, untaken := untaken, dieSel := 2 }
def distRig (n : Node) : State := (State.reset.setCtx 0 { stage := .running, slots := [] }).setNode 7 n
/-- Teams of class H1 on every core beside a core that H2 may use, but for core 0, which a team of level 5 fills. -/
def heatTeam (scratch heat core : Nat) : Team :=
  { (Team.place 3 0 0 0 0 0 core 0 { kernel with scratch := scratch, heat := heat }) with stage := .running }
def fullDie : State :=
  { (distRig (nodeAt .distributing 0 [(0, 0, 4)])) with
    nodes := [(3, { (Node.blank 0 kernel) with level := 5, prio := 5 }), (7, nodeAt .distributing 0 [(0, 0, 4)])]
    teams := (0, heatTeam 524288 2 0) :: ((6 :: 9 :: ((List.range 7).map fun c => [12 * c + 16, 12 * c + 18]).flatten).zipIdx.map fun p =>
      (p.2 + 1, heatTeam 0 1 p.1)) }
theorem witness_Distribution :
    ((distRig (nodeAt .held 23 [])).firstHeld 0 = some (7, nodeAt .held 23 []) ∧ (distRig (nodeAt .held 23 [])).poolFull 0 = false)
    ∧ (({ (distRig (nodeAt .ready 5 [])) with dies := [(0, { (Die.init) with ticks := 10000000000 })] } : State).nextAging 0
        = some (7, nodeAt .ready 5 []))
    ∧ ((distRig (nodeAt .ready 3 [])).poolHead 0 = some (7, nodeAt .ready 3 []) ∧ (distRig (nodeAt .ready 3 [])).nextAging 0 = none)
    ∧ (let n : Node := { (nodeAt .distributing 3 []) with image := 0x101100 }
       let s : State := { (paged nodeBytes ((distRig n).setCluster 15 { (Cluster.init 15) with chunks := [(7, 3, 4)] })) with
         culvert := { Culvert.reset with state := .up } }
       s.spreading 1 = [] ∧ s.nextChunk 15 = some ((7, 3, 4), n)
         ∧ (s.readKernel 1 0 0x101100).any (fun k => (maxOn (fun ck => s.heldBytes ck 0 3 []) (s.openCores 15 k)).isSome) = true)
    ∧ (let s : State := (distRig (nodeAt .distributing 3 [])).setCluster 7 { (Cluster.init 7) with chunks := [(7, 1, 4)] }
       (s.cluster 0).chunks = [] ∧ s.stealFrom 0 0 = some (7, (7, 1, 4)))
    ∧ (let s : State := { (distRig (nodeAt .distributing 3 [(0, 2, 4)])) with culvert := { Culvert.reset with state := .up } }
       s.culvert.state = .up ∧ s.poolSize 1 = 0 ∧ Machine.minOn urgency ((s.spreading 0).filter fun p => p.2.dieSel == 2
         && (p.2.untaken.all fun u => u.1 != 1) && p.2.untaken.any fun u => u.2.1 + 2 ≤ u.2.2) = some (7, nodeAt .distributing 3 [(0, 2, 4)]))
    ∧ (fullDie.saving 0 = false ∧ (fullDie.starved 0).findSome? (fullDie.victim 0) = some (0, heatTeam 524288 2 0) ∧ (heatTeam 524288 2 0).resident = true
       ∧ (heatTeam 524288 2 0).saveReq = none ∧ (heatTeam 524288 2 0).ending = none) := by decide +kernel

def placed : Team := Team.place 0 0 0 0 0 0 94 0 gridKernel
def withTeam (t : Team) : State :=
  { (State.reset.setCtx 0 { stage := .running, slots := [] }) with
    teams := [(0, t)], nodes := [(0, { (Node.blank 0 gridKernel) with live := 2 })] }
/-- A team without scratchpad and tiles, halted for a save, and its context's save area: one slot of 64 KiB at 0x100000. -/
def small : Kernel := { kernel with scratch := 0, anvil := 0 }
def halted : Team := { team with kernel := small, stage := .saving 0xD0, saveReq := some 0xD0, saveHalt := true }
def area (s : State) : State := s.setRaw 0x540 (0x100000 + (16 <<< 52))
def saving : State := { (area running) with teams := [(0, halted)] }
/-- The team in slot 0, with the header of an image. -/
def savedTeam : Team := { team with kernel := small, stage := .saved, slotUsed := some 0 }
def saved : State :=
  { (area running) with
    teams := [(0, savedTeam)], groups := [], active := []
    mem := Memory.writes [] 0x100000 (leBytes 8 0x2000014E395356 ++ leBytes 24 0 ++ leBytes 8 64 ++ leBytes 4 0x401000) }
theorem witness_TeamEvents :
    (placed.stage = .placed ∧ (withTeam placed).ctxRuns 0 = true ∧ (withTeam placed).cleanWaits (coreKey 0 94) = false
      ∧ ((withTeam placed).plan (coreKey placed.die placed.core) gridKernel (gridKernel.groups.map (·.2))).isSome = true)
    ∧ ((withTeam { placed with stage := .draining }).canRetire 0 = true
      ∧ (((withTeam placed).node? 0).map (·.live)) = some 2 ∧ SMap.sorted (withTeam placed).teams = true)
    ∧ (team.resident = true ∧ team.saveReq = none ∧ team.ending = none)
    ∧ (let s : State := { running with teams := [(0, { team with saveReq := some 0xD5 })] }
       s.mayHalt 0 = true ∧ ∀ p ∈ s.groupsOf 0, p.2.halts = [])
    ∧ (saving.mayImage 0 = true ∧ halted.stage = .saving 0xD0
      ∧ (saving.saveSlot 0 (saving.image halted ((saving.teamGroups 0).map (·.2)) 0xD0).length) = some (0, 0x100000)
      ∧ ({ running with teams := [(0, halted)] } : State).saveSlot 0 1 = none ∧ crosses 0 0x100000 = false
      ∧ saving.cleanWaits (coreKey halted.die halted.core) = false
      ∧ saving.faulty 0x100000 1000 = false)
    ∧ ((saved.restorable.any fun p => p.1 == 0) = true
      ∧ saved.team? 0 = some savedTeam ∧ (saved.restorePlan (coreKey 0 95) savedTeam).isSome = true ∧ savedTeam.pendFlt = []
      ∧ (crosses 0 0x100000 && !saved.culvertOpen) = false ∧ saved.cleanWaits (coreKey 0 95) = false
      ∧ saved.savedAt savedTeam = some (0x100000, none))
    ∧ (({ saved with mem := [] } : State).restorable.any fun p => p.1 == 0) = true
    ∧ (({ saved with mem := [] } : State).savedAt savedTeam).any (fun p => p.2.isSome) = true := by decide +kernel

/-! ### Events of groups, samples, columns, links, the host and boot -/

/-- A group whose 32 threads stand at the header 0x100000 of the page of code. -/
def standing : Group := Group.fresh 0 0 0 64 0x100000
def withGroup (g : Group) : State := { running with groups := [(0, g)], active := [] }
def atHeader : State := paged [] (withGroup standing)
/-- A suspended issue group, and a group that holds it. -/
def suspended (b : Block) : IssueGroup := { (IssueGroup.form 0 all 0x100000 0 0 1 false) with block := some b }
def blockedBy (b : Block) : Group := { (group []) with susp := [suspended b] }
/-- An operation that is to write `v3` and is ready. -/
def anOp : PendOp :=
  { id := 1, cls := .ld, dests := [3], writes := [(3, all, Vector.replicate 32 7)], fx := Vector.replicate 32 0, wait := .ready, mask := all,
    hdr := 0x100000, sync := false, watched := [] }
def opGroup (o : PendOp) : Group := { (group ((List.range 8).map fun k => (184 + k, 0) : List (Nat × W32))) with ops := [o] }
/-- Operations that wait for their replies, a queue's entry, a record and a bucket's head. -/
def repliedOp : PendOp := { anOp with wait := .replies }
def sluiceOp : PendOp := { anOp with dests := [184, 185, 186, 187], writes := [], wait := .sluice 0 }
def sldOp : PendOp := { anOp with dests := (List.range 8).map (184 + ·), writes := [], mask := laneBit 0, wait := .sld [(0, (5, 1))] }
def sbktOp : PendOp := { anOp with dests := [190, 191], writes := [], mask := laneBit 31, wait := .sbkt 0 0 [(31, 5)] }
def enterGroup : Group := { (group []) with entering := [trapFrame] }
def aHalt : PendHalt := { pred := 0, lane := 0, act := 4, skid := 1, now := false, op := 1 }
/-- A die with a record that waits, and a report queue of 16 records at 0x40000. -/
def dieWith (d : Nat) (x : Die) (s : State) : State := { s with dies := [(d, x)] }
def aReport : Report := { w0 := 1, w1 := 2, w2 := 3, w3 := 4 }
def reporting : State := ((dieWith 0 { (Die.init) with reports := [aReport] } State.reset).setRaw 0x224 0x40000).setRaw 0x225 4
def limited : State :=
  { running with teams := [(0, { team with ticks := 10000 })], nodes := [(0, { (Node.blank 0 kernel) with tlimit := 1 })] }
theorem witness_GroupEvents :
    (atHeader.group? 0 = some standing ∧ atHeader.ig? 0 = none ∧ atHeader.chosen 0 standing = some ((0x100000, 0), all)
      ∧ atHeader.team? 0 = some team ∧ atHeader.mayGo 0 standing = true ∧ (∀ ig ∈ standing.susp, ig.block ≠ some .anew)
      ∧ (match (atHeader.countPassed 0).reachCheck 0 team (standing.thread 0).viaBranch (0x100000, 0) with
        | (.go h, u) => u.passHeader 0 standing all 0x100000 h true != 0 | _ => false) = true)
    ∧ ((withGroup (blockedBy .sluice)).group? 0 = some (blockedBy .sluice) ∧ (withGroup (blockedBy .sluice)).ig? 0 = none
      ∧ (blockedBy .sluice).susp[0]? = some (suspended .sluice)
      ∧ (withGroup (blockedBy .sluice)).mayResume 0 (blockedBy .sluice) team (suspended .sluice) = true
      ∧ (withGroup (blockedBy .sluice)).givesWay 0 (blockedBy .sluice) = false)
    ∧ (let s : State := { (withGroup enterGroup) with teams := [(0, trapTeam)] }
       s.group? 0 = some enterGroup ∧ s.mayEnter 0 = some 0 ∧ enterGroup.entering = trapFrame :: []
         ∧ s.team? 0 = some trapTeam ∧ (s.handlerOf trapTeam).isSome = true)
    ∧ ({ (group []) with region := some 8192 } : Group).region = some 8192
    ∧ (let s : State := { running with cores := [(0, { (Core.init) with deadlock := [(0, 64)] })] }
       SMap.getD (s.core (coreKey 0 0)).deadlock 0 0 = 64 ∧ s.teamsIn 0 = [(0, team)] ∧ s.group? 0 = some (group []))
    ∧ ({ (group []) with halts := [aHalt] } : Group).landing 0 = [aHalt]
    ∧ ((reporting.die 0).reports = [aReport] ∧ reporting.canReport 0 = true ∧ reporting.rqSize = some 16
      ∧ Memory.wf reporting.mem ∧ SMap.sorted reporting.regs = true)
    ∧ (limited.limitDue 0 = true ∧ (group []).allExited = false)
    ∧ running.limitDue 0 = false := by decide +kernel
theorem witness_GroupEvents_operations :
    (∀ o ∈ [anOp, repliedOp], (withGroup (opGroup o)).group? 0 = some (opGroup o) ∧ (opGroup o).ops.find? (fun p => p.id == 1) = some o
        ∧ (withGroup (opGroup o)).team? 0 = some team ∧ (withGroup (opGroup o)).replyPending 0 1 = false)
    ∧ ((anOp.wait = .ready ∧ (3, all, Vector.replicate 32 7) ∈ anOp.writes ∧ 3 ∈ anOp.dests
        ∧ ∀ w ∈ anOp.writes, w.1 % 256 = 3 → w = (3, all, Vector.replicate 32 7)) ∧ repliedOp.wait = .replies)
    ∧ (let g := (opGroup sluiceOp).setQueue 0 { permits := 0, reserved := 1, taken := 1, items := [(1, 2, 3, 4)], finished := false, failure := none, err := false }
       sluiceOp.wait = .sluice 0 ∧ g.ops.find? (fun p => p.wait == .sluice 0) = some sluiceOp ∧ (g.queue 0).items = (1, 2, 3, 4) :: [])
    ∧ (sldOp.wait = .sld [(0, (5, 1))] ∧ sldOp.mask = laneBit 0 ∧ (withGroup (opGroup sldOp)).readReady 0 team 5 = true
      ∧ ∀ k ∈ sldOp.dests, k % 256 = 191 → k = 191)
    ∧ (sbktOp.wait = .sbkt 0 0 [(31, 5)] ∧ sbktOp.mask = laneBit 31 ∧ (withGroup (opGroup sbktOp)).readReady 0 team 5 = true) := by decide +kernel

/-- A record at the bottom right of the screen, on its way to its bucket, and borrowed. -/
def aRecord : SampleRec := [0xEFFFEFFF, 0, 0, 0, 0, 0, 0, 0]
def anInsertion : Insertion := { smp := aRecord, reply := none }
def open_ (s : State) : State := { s with culvert := { Culvert.reset with state := .up } }
def aWave : Wave := { num := 0, kind := false, region := 0, draws := [] }
def waving : State := paged [] (dieWith 0 { (Die.init) with waves := [aWave] } ((State.reset).setRaw 0x70A 0x101004))
/-- The cut-off of die 0 on, with a band node and the deadline of the period near. -/
def aBand : Band := { (Band.init 0) with node := some 0 }
def cutting : State := (dieWith 0 { (Die.init) with bands := [aBand], ticks := 347222 } State.reset).setRaw 0x70C (1 <<< 60)
theorem witness_SampleEvents :
    (let s := dieWith 1 { (Die.init) with insertions := [anInsertion] } State.reset
     (s.die 1).insertions = [anInsertion] ∧ (s.bucket 1 (recTile aRecord)).owner = none ∧ s.cut 1 = false
       ∧ (s.bucket 1 (recTile aRecord)).live = [] ∧ (s.bucket 1 (recTile aRecord)).deferred = [] ∧ 1 ≤ (s.bucket 1 (recTile aRecord)).limit)
    ∧ (let s := open_ (dieWith 1 { (Die.init) with xeyes := [anInsertion] } State.reset)
       (s.die 1).xeyes = anInsertion :: [] ∧ s.culvertOpen = true)
    ∧ (open_ ((State.reset).setRaw 0x70C 1)).canSendMark 0 = true
    ∧ (let s := open_ (dieWith 0 { (Die.init) with lowPending := [(5, 0)] } State.reset)
       (s.die 0).lowPending = (5, 0) :: [] ∧ s.culvertOpen = true)
    ∧ ((waving.die 0).waves = [aWave] ∧ waving.canWave 0 = true
      ∧ (match waving.deviceTranslate 0 (waving.smpCtx 0) (waving.base 0x70A + 512 * waving.waveSlot 0 aWave.num) 1 with
         | (.ok _, u) => decide ((u.raw 0x706).getLsbD 0 = false ∧ Memory.wf u.mem) | _ => false) = true)
    ∧ (cutting.canExpire 0 = false ∧ ({ cutting with dies := [(0, { (Die.init) with bands := [aBand], ticks := 347223 })] } : State).canExpire 0 = true)
    ∧ (let s := dieWith 0 { (Die.init) with ticks := 347223 } State.reset
       (s.die 0).phase = 0 ∧ s.periodOver 0 = true ∧ SMap.sorted (s.die 0).shown = true)
    ∧ ((dieWith 0 { (Die.init) with phase := 1 } State.reset).die 0).phase = 1
    ∧ ((dieWith 0 { (Die.init) with phase := 2 } State.reset).die 0).phase = 2 := by decide +kernel

/-- Sensors and a column at an estimate. -/
def sensor (st : SensorState) (a : Option Nat) : Sensor := { (Sensor.init) with state := st, accepted := a }
def column (u l : Sensor) (est : Nat) (s : State) : State := s.setColumn 191 { u := u, l := l, mw := 0, est := est, reported := [] }
def phaseOf (p : ClockPhase) (alarm : Bool) : State := State.reset.setCluster 15 { (Cluster.init 15) with phase := p, alarm := alarm }
theorem witness_ColumnEvents :
    (State.reset.canClean 0 0 = true ∧ State.reset.canClean 0 0xC000000 = false) ∧
    (∀ p ∈ [(80, 140), (760, 700)],
      let s := column (sensor .ok none) (sensor .ok (some (p.1 + 8))) p.2 State.reset
      (s.column 191).u.state = .ok ∧ (s.column 191).l.state = .ok
        ∧ (s.column 191).u.fails p.1 (s.column 191).est (s.column 191).l.accepted = false
        ∧ ((s.column 191).l.fails p.1 (s.column 191).est (s.column 191).u.accepted = false))
    ∧ (∀ p ∈ [(SensorState.failed, SensorState.ok), (.ok, .failed)], let s := column (sensor p.1 none) (sensor p.2 none) 0 { State.reset with boot := 3 }
      3 ≤ s.boot ∧ s.endpointDown = false ∧ (s.column 191).u.state = p.1 ∧ (s.column 191).l.state = p.2)
    ∧ ({ State.reset with mode := true } : State).mode = true
    ∧ (((phaseOf .normal false).cluster 15).alarm = false ∧ ((phaseOf .normal false).cluster 15).phase = .normal)
    ∧ (((phaseOf (.hold 7 false) false).cluster 15).alarm = false ∧ ∀ left start, ((phaseOf (.hold 7 false) false).cluster 15).phase ≠ .stretch left start)
    ∧ ((phaseOf (.stretch 0 5) true).cluster 15).phase = .stretch 0 5
    ∧ (((phaseOf (.stretch 28 5) false).cluster 15).phase = .stretch 28 5 ∧ ((phaseOf (.stretch 28 5) false).cluster 15).alarm = false)
    ∧ ((phaseOf (.hold 0 false) false).cluster 15).phase.held = true
    ∧ ({ running with teams := [(0, windowTeam)] } : State).lent 1 ≠ 0
    ∧ running.lent 1 = 0 :=
  ⟨by decide +kernel, by decide +kernel, by decide +kernel, by decide +kernel, by decide +kernel,
    ⟨by decide +kernel, fun _ _ h => by cases h⟩, by decide +kernel, by decide +kernel, by decide +kernel, by decide +kernel, by decide +kernel⟩

def culvertIn (st : CulvertState) : State := { State.reset with boot := 7, culvert := { Culvert.reset with state := st } }
/-- A group that has waited for the culvert since the start, and a read of the host. -/
def lateState : State := { (withGroup (blockedBy .culvert)) with dies := [(0, { (Die.init) with ticks := 655350000 })] }
/-- Lane 0 waits at a header for the culvert. -/
def headerGroup : Group := (Group.fresh 0 0 0 64 0x100000).modThreads 1 fun t => { t with block := some (.fetch false) }
theorem witness_LinkEvents :
    (3 ≤ (culvertIn .down).boot ∧ (culvertIn .down).endpointDown = false ∧ (culvertIn .down).culvert.state ≠ .training ∧ (culvertIn .training).culvert.state = .training
      ∧ ((culvertIn .training).die 0).tripped = false ∧ ((culvertIn .training).die 1).tripped = false)
    ∧ (culvertIn .up).culvert.state = .up ∧ (culvertIn .degraded).culvert.state = .degraded
    ∧ (lateState.group? (groupKey 0 0 0) = some (blockedBy .culvert) ∧ lateState.culvertOpen = false
      ∧ lateState.runnable 0 (blockedBy .culvert) = true ∧ lateState.ig? 0 = none
      ∧ lateState.culLate (blockedBy .culvert) = some (0, suspended .culvert))
    ∧ (let s : State := { lateState with groups := [(0, headerGroup)] }
       s.group? 0 = some headerGroup ∧ s.runnable 0 headerGroup = true ∧ s.culLate headerGroup = none
         ∧ s.culLateAt headerGroup = some ((0x100000, 0), 1))
    ∧ ({ lateState with hostQueue := [.read 0 0 8 0] } : State).hostLate = some 0
    ∧ (∀ l ∈ [0, 1, 2, 3], let s : State := { (culvertIn .up) with dies := [(0, { (Die.init) with ticks := l }), (1, { (Die.init) with ticks := 1 })] }
       s.culvertOpen = true ∧ s.endpointDown = false ∧ (s.die 1).tripped = false ∧ SMap.sorted s.regs = true)
    ∧ (let s : State := { (State.reset.setRaw 0x782 0x10101) with dies := [(0, { (Die.init) with ticks := 10000000 })] }
       s.endpointDown = false ∧ (s.raw 0x782).getLsbD 0 = true ∧ s.ptmDue = true ∧ SMap.sorted s.regs = true
       ∧ ({ s with dies := [(0, { (Die.init) with ticks := 9999999 })] } : State).ptmDue = false)
    ∧ (State.reset.raw 0x782).getLsbD 0 = false
    ∧ ((State.reset.setRaw 0x782 1).endpointDown = false ∧ (State.reset.setRaw 0x782 1).ptmDue = true ∧ ((State.reset.setRaw 0x782 1).raw 0x782).getLsbD 0 = true
      ∧ SMap.sorted (State.reset.setRaw 0x782 1).regs = true) := by decide +kernel

/-- The machine after boot stage 4, and with the input ring of 64 records set up. -/
def served : State := { State.reset with boot := 4, memUp := [0, 1] }
def ringed : State := served.setRaw 0x744 (6 + 0x40000)
theorem witness_DisplayEvents : (3 ≤ served.boot ∧ served.endpointDown = false) ∧ ∀ st ∈ [0, 1, 2, 3], ((dieWith 1 { (Die.init) with dispOn := st } State.reset).die 1).tripped = false
    ∧ ((dieWith 1 { (Die.init) with dispOn := st } State.reset).die 1).dispOn = st := by decide +kernel

theorem witness_HostRequests :
    (served.endpointDown = false ∧ served.hostQueue = [] ∧ 3 ≤ served.boot)
    ∧ (served.bar2Refuse 0x1000 8 = none ∧ served.hostCut 0x1000 8 = false ∧ (0x1000 : Nat) % hostOpBytes .cas64 = 0 ∧ served.homePoison 0x1000 8 = none
      ∧ Memory.wf served.mem)
    ∧ (served.bar2Refuse 0x1002 4 = none ∧ (0x1002 : Nat) % hostOpBytes .fetchAdd32 ≠ 0)
    ∧ (served.bar2Refuse (deviceTop - 8) 8 = none ∧ served.hostCut (deviceTop - 8) 8 = true)
    ∧ (let s : State := { served with marks := [.memory 0x1000] }
       s.bar2Refuse 0x1000 8 = none ∧ s.hostCut 0x1000 8 = false ∧ (s.homePoison 0x1000 8).isSome = true)
    ∧ served.bar2Refuse deviceTop 1 = some .unsupported ∧ ({ served with memUp := [1] } : State).bar2Refuse 0 1 = some .abort ∧ State.reset.bar2Refuse 0 1 = some .abort
    ∧ served.quote = none ∧ (({ served with quote := some [] } : State).quote = some [] ∧ ({ served with quote := some [] } : State).endpointDown = false)
    ∧ (let s : State := { served with msix := [(1, 0)], msixPend := [0] }
       s.canSendVec 0 = true ∧ s.endpointDown = false)
    ∧ (3 ≤ ringed.boot ∧ ringed.hostQueue = [] ∧ ringed.inputRing = true ∧ ringed.inputCut = false ∧ Memory.wf ringed.mem ∧ SMap.sorted ringed.regs = true
      ∧ SMap.sorted ringed.window = true)
    ∧ (({ served with quote := some [] } : State).quote.isSome = true ∧ ({ served with quote := some [] } : State).hostQueue = []) := by
  decide +kernel

theorem witness_RegisterWrites :
    (3 ≤ served.boot ∧ served.endpointDown = false ∧ SMap.sorted served.regs = true ∧ served.regWaits = [] ∧ served.epochWait = none)
    ∧ ((1 : Word).getLsbD 0 ≠ served.mode ∧ (0 : Word).getLsbD 0 = served.mode)
    ∧ (16 < fld 17 0 5 ∧ fld 9 0 7 < 10)
    ∧ (fld 0x080404 0 5 + fld 0x080404 8 5 + fld 0x080404 16 5 ≤ 16 ∧ 10 ≤ fld 10 0 7 ∧ fld 120 0 7 ≤ 120)
    ∧ ((0x3DFC : Nat) % 4 = 0 ∧ (0x3E10 : Nat) % 8 = 0 ∧ (0x3DFC : Nat) / 8 ≠ 0x7C0 ∧ (0x3DFC : Nat) / 8 ≠ 0x7C1
      ∧ (0x3E10 : Nat) / 8 ≠ 0x7C1 ∧ (0x3E10 : Nat) / 8 ≠ 0x7C0) := by
  decide +kernel

theorem witness_BootAndErrors :
    (State.reset.configOpen = false ∧ served.configOpen = true) ∧
    (∀ n ∈ [1, 2, 3, 4, 5, 6], let s : State := { State.reset with boot := n }
      s.bootErr = 0 ∧ s.boot = n ∧ (s.die 0).tripped = false ∧ (s.die 1).tripped = false)
    ∧ ((State.reset.die 1).tripped = false ∧ State.reset.culvert.state = .down ∧ SMap.sorted State.reset.regs = true)
    ∧ ((State.reset.errField (.memory 0)).1 < 2 ∧ (State.reset.die (State.reset.errField (.memory 0)).1).tripped = false) := by decide +kernel
end Sys2Proof.Tests
end

section
/-! PROOFS. Host register writes: the bits of a register's field, of a replaced field and of a merged write; the register that a
BAR 0 write reaches; and the statement on register writes (O59). -/

namespace Sys2Proof.Machine

/-! ### Fields of a word, bit by bit -/

theorem fld_eq_toNat_extractLsb' (w : Word) (lo n : Nat) : fld w lo n = (w.extractLsb' lo n).toNat := by
  simp [fld, bitsOf, BitVec.extractLsb'_toNat, Nat.shiftLeft_eq]

/-- Two words whose bits agree over a field hold the same value in it. -/
theorem fld_congr {w w' : Word} {lo n : Nat} (h : ∀ i, i < n → w.getLsbD (lo + i) = w'.getLsbD (lo + i)) :
    fld w lo n = fld w' lo n := by
  have e : w.extractLsb' lo n = w'.extractLsb' lo n :=
    BitVec.eq_of_getLsbD_eq fun i hi => by simp [BitVec.getLsbD_extractLsb', h i hi]
  rw [fld_eq_toNat_extractLsb', fld_eq_toNat_extractLsb', e]

theorem testBit_fld (w : Word) (lo n i : Nat) : (fld w lo n).testBit i = (decide (i < n) && w.getLsbD (lo + i)) := by
  rw [fld_eq_toNat_extractLsb', BitVec.testBit_toNat, BitVec.getLsbD_extractLsb']

/-- The mask of a field, bit by bit. -/
theorem getLsbD_fieldMask (lo n : Nat) {i : Nat} (hi : i < 64) :
    (BitVec.ofNat 64 ((1 <<< n) - 1) <<< lo).getLsbD i = decide (lo ≤ i ∧ i < lo + n) := by
  rw [BitVec.getLsbD_shiftLeft, BitVec.getLsbD_ofNat, Nat.one_shiftLeft, Nat.testBit_two_pow_sub_one]
  by_cases hlo : lo ≤ i
  · have hsub : i - lo < 64 := by omega
    have hiff : i - lo < n ↔ i < lo + n := by omega
    simp [hi, hlo, hsub, hiff]
  · simp [hlo, Nat.lt_of_not_le hlo]

theorem getLsbD_setBits (w : Word) (lo n v : Nat) {i : Nat} (hi : i < 64) :
    (setBits w lo n v).getLsbD i = if lo ≤ i ∧ i < lo + n then v.testBit (i - lo) else w.getLsbD i := by
  simp only [setBits, BitVec.getLsbD_or, BitVec.getLsbD_and, BitVec.getLsbD_not, getLsbD_fieldMask lo n hi]
  by_cases h : lo ≤ i ∧ i < lo + n
  · have hsub : i - lo < 64 := by omega
    simp only [BitVec.getLsbD_shiftLeft, BitVec.getLsbD_ofNat, h, hi, hsub, Nat.not_lt.mpr h.1]
    simp
  · simp [h, hi]

/-- A replaced field reads as the value put into it. -/
theorem fld_setBits_same (w : Word) {lo n : Nat} (v : Nat) (h : lo + n ≤ 64) : fld (setBits w lo n v) lo n = v % 2 ^ n := by
  apply Nat.eq_of_testBit_eq
  intro i
  rw [testBit_fld, Nat.testBit_mod_two_pow]
  by_cases hi : i < n
  · rw [getLsbD_setBits w lo n v (by omega), if_pos (by omega), Nat.add_sub_cancel_left]
  · simp [hi]

/-- Replacing one field leaves a field beside it. -/
theorem fld_setBits_other (w : Word) {lo n lo' n' : Nat} (v : Nat) (h : lo' + n' ≤ 64) (hd : lo' + n' ≤ lo ∨ lo + n ≤ lo') :
    fld (setBits w lo n v) lo' n' = fld w lo' n' :=
  fld_congr fun i hi => by rw [getLsbD_setBits w lo n v (by omega), if_neg (by omega)]

theorem fld_lt (w : Word) (lo n : Nat) : fld w lo n < 2 ^ n := by
  rw [fld_eq_toNat_extractLsb']; exact BitVec.isLt _

/-! ### The merge of a write (00_scope R4) -/

theorem getLsbD_mergeReg (old v m rw w1c : Word) (i : Nat) :
    (mergeReg old v m rw w1c).getLsbD i =
      ((if rw.getLsbD i && m.getLsbD i then v.getLsbD i else old.getLsbD i) && !(v.getLsbD i && w1c.getLsbD i && m.getLsbD i)) := by
  by_cases hi : i < 64
  · simp only [mergeReg, BitVec.getLsbD_and, BitVec.getLsbD_or, BitVec.getLsbD_not, hi]
    cases rw.getLsbD i <;> cases m.getLsbD i <;> simp
  · simp [BitVec.getLsbD_of_ge, Nat.not_lt.mp hi]

/-- A field of RW bits takes the value written by a write that covers it. -/
theorem fld_mergeReg_rw (old v m rw w1c : Word) (lo n : Nat)
    (h : ∀ i, i < n → rw.getLsbD (lo + i) = true ∧ w1c.getLsbD (lo + i) = false ∧ m.getLsbD (lo + i) = true) :
    fld (mergeReg old v m rw w1c) lo n = fld v lo n :=
  fld_congr fun i hi => by
    obtain ⟨hr, hc, hm⟩ := h i hi
    simp [getLsbD_mergeReg, hr, hc, hm]

/-! ### The register that a write reaches -/

theorem kept_of_no_waits {s : State} (h : s.regWaits = []) (n : Nat) : s.kept n = s.raw n := by
  simp [State.kept, h]

/-- From boot stage 3 on, with the left die running, BAR 0 reaches every register but the two of boot (20_bringup R400, R401). -/
theorem bar0Open_of_booted {s : State} (hb : 3 ≤ s.boot) (hd : s.endpointDown = false) {off : Nat}
    (h0 : off / 8 ≠ 0x7C0) (h1 : off / 8 ≠ 0x7C1) : s.bar0Open off = true := by
  simp [State.bar0Open, h0, h1, hb, hd]

/-- A register outside the watch bank is written through its field map. -/
theorem hostReg_of_regDesc {n : Nat} {r : RegDesc} (hr : regDesc n = some r) (hw : watchNum n = false) (s : State) (v m : Word) :
    s.hostReg n v m = s.regWrite n v m r.rw r.w1c r.wo := by
  simp [State.hostReg, hr, hw]

theorem regDesc_l2Quota : ∀ n < 32, regDesc (0x200 + n) = some { privRw 0x1F1F1F 0x204 with w1c := 0x80000000 } := by
  decide

theorem regDesc_drpThr : ∀ n < 16, regDesc (0x240 + n) = some { privRw 0x7F 45 with w1c := 0x80 } := by
  decide

/-! ### Writes of the registers by number -/

theorem regWrite_tmode (s : State) (v m rw w1c wo : Word) (h : m.getLsbD 0 = true) :
    s.regWrite 0x785 v m rw w1c wo = s.tmodeWrite v := by
  simp [State.regWrite, ctxConfig, h]

theorem regWrite_sceneEpoch (s : State) (v m rw w1c wo : Word) :
    s.regWrite 0x712 v m rw w1c wo = s.sceneEpochWrite (mergeReg (s.kept 0x712) v m rw w1c) := by
  simp [State.regWrite, ctxConfig, regFix]

theorem regWrite_l2Quota (s : State) {n : Nat} (h : n < 32) (v m rw w1c wo : Word) :
    s.regWrite (0x200 + n) v m rw w1c wo =
      (s.setRaw (0x200 + n) (regFix (0x200 + n) (s.kept (0x200 + n)) (mergeReg (s.kept (0x200 + n)) v m rw w1c))).trimPins n := by
  have hlt : 0x200 + n < 0x220 := by omega
  have hctx : ctxConfig (0x200 + n) = false := by simp [ctxConfig]; omega
  have hcmd : 0x200 + n ≠ 0x5C0 := by omega
  simp [State.regWrite, hctx, hcmd, hlt]

theorem regWrite_drpThr (s : State) {n : Nat} (h : n < 16) (v m rw w1c wo : Word) (hrw : rw ≠ 0#64) :
    s.regWrite (0x240 + n) v m rw w1c wo =
      s.setRaw (0x240 + n) (regFix (0x240 + n) (s.kept (0x240 + n)) (mergeReg (s.kept (0x240 + n)) v m rw w1c)) := by
  have hlt : ¬ 0x240 + n < 0x220 := by omega
  have hle : ∀ c, 0x250 ≤ c → ¬ c ≤ 0x240 + n := by omega
  have hne : ∀ c, c < 0x240 ∨ 0x250 ≤ c → 0x240 + n ≠ c := by omega
  simp [State.regWrite, ctxConfig, boundaryReg, hlt, hle, hne, hrw]

/-! ### The checks of quotas and thresholds (08_page R193, 14_column R302) -/

/-- A sum above 16 is refused; it is above 16 where one of the fields is. -/
theorem regFix_l2Quota {n : Nat} (hn : n < 32) (old new : Word) : regFix (0x200 + n) old new =
    if 16 < fld new 0 5 + fld new 8 5 + fld new 16 5 then setBits ((new &&& ~~~0x1F1F1F) ||| (old &&& 0x1F1F1F)) 31 1 1 else new := by
  have hin : (decide (0x200 ≤ 0x200 + n) && decide (0x200 + n < 0x220)) = true := by simp; omega
  simp only [regFix, hin, if_true, Bool.or_eq_true, decide_eq_true_eq]
  exact ite_congr (propext (by omega)) (fun _ => rfl) (fun _ => rfl)

theorem regFix_drpThr {n : Nat} (hn : n < 16) (old new : Word) : regFix (0x240 + n) old new =
    if fld new 0 7 < 10 ∨ 120 < fld new 0 7 then setBits (setBits new 0 7 (fld old 0 7)) 7 1 1 else new := by
  have hout : (decide (0x200 ≤ 0x240 + n) && decide (0x240 + n < 0x220)) = false := by simp; omega
  have hin : (decide (0x240 ≤ 0x240 + n) && decide (0x240 + n < 0x250)) = true := by simp; omega
  simp only [regFix, hout, hin, Bool.false_eq_true, if_false, if_true, Bool.or_eq_true, decide_eq_true_eq]

/-- Where a mask covers a field, the word that takes the bits of the mask from the old one keeps the old value there. -/
theorem fld_restore (new old mask : Word) (lo n : Nat) (h : ∀ i, i < n → mask.getLsbD (lo + i) = true) :
    fld ((new &&& ~~~mask) ||| (old &&& mask)) lo n = fld old lo n :=
  fld_congr fun i hi => by simp [h i hi]

/-! ### The host's whole writes, where BAR 0 is open -/

section

variable {s : State} (hb : 3 ≤ s.boot) (hd : s.endpointDown = false)
include hb hd

theorem hostWhole_of_booted {n : Nat} {r : RegDesc} (hr : regDesc n = some r) (hw : watchNum n = false) (hn : n < 0x7C0) (v : Word) :
    s.hostWhole n v = s.regWrite n v 0xFFFFFFFFFFFFFFFF r.rw r.w1c r.wo := by
  have hopen : s.bar0Open (8 * n) = true := bar0Open_of_booted hb hd (by omega) (by omega)
  rw [State.hostWhole, if_pos hopen, hostReg_of_regDesc hr hw]

theorem exec_tmodeWrite (v : Word) : exec (.tmodeWrite v) s = .next (s.tmodeWrite v) := by
  have hr : regDesc 0x785 = some (hostRw 0x1) := by decide
  change Host.Outcome.next (s.hostWhole 0x785 v) = _
  rw [hostWhole_of_booted hb hd hr (by decide) (by decide), regWrite_tmode _ _ _ _ _ _ (by decide)]

theorem exec_sceneEpochWrite (v : Word) : exec (.sceneEpochWrite v) s
    = .next (s.sceneEpochWrite (mergeReg (s.kept 0x712) v 0xFFFFFFFFFFFFFFFF 0xFFFFFFFFFF 0)) := by
  have hr : regDesc 0x712 = some (hostRw 0xFFFFFFFFFF) := by decide
  change Host.Outcome.next (s.hostWhole 0x712 v) = _
  rw [hostWhole_of_booted hb hd hr (by decide) (by decide), regWrite_sceneEpoch]
  rfl

theorem exec_l2QuotaWrite {n : Nat} (hn : n < 32) (v : Word) : exec (.l2QuotaWrite n v) s
    = .next ((s.setRaw (0x200 + n) (regFix (0x200 + n) (s.kept (0x200 + n))
        (mergeReg (s.kept (0x200 + n)) v 0xFFFFFFFFFFFFFFFF 0x1F1F1F 0x80000000))).trimPins n) := by
  have hw : watchNum (0x200 + n) = false := by simp [watchNum]; omega
  change Host.Outcome.next (if n < 32 then s.hostWhole (0x200 + n) v else s) = _
  rw [if_pos hn, hostWhole_of_booted hb hd (regDesc_l2Quota n hn) hw (by omega), regWrite_l2Quota _ hn]
  rfl

theorem exec_drpThrWrite {n : Nat} (hn : n < 16) (v : Word) : exec (.drpThrWrite n v) s
    = .next (s.setRaw (0x240 + n) (regFix (0x240 + n) (s.kept (0x240 + n))
        (mergeReg (s.kept (0x240 + n)) v 0xFFFFFFFFFFFFFFFF 0x7F 0x80))) := by
  have hw : watchNum (0x240 + n) = false := by simp [watchNum]; omega
  change Host.Outcome.next (if n < 16 then s.hostWhole (0x240 + n) v else s) = _
  rw [if_pos hn, hostWhole_of_booted hb hd (regDesc_drpThr n hn) hw (by omega),
    regWrite_drpThr _ hn _ _ _ _ _ (by decide)]
  rfl

theorem exec_registerWrite {off size : Nat} (hs : size = 4 ∨ size = 8) (ha : off % size = 0) (hoff : off < 0x8000)
    (h0 : off / 8 ≠ 0x7C0) (h1 : off / 8 ≠ 0x7C1) (v : Word) : exec (.registerWrite off size v) s
    = .next (s.hostReg (off / 8) (if off % 8 = 4 then v <<< 32 else v &&& halfMask off size) (halfMask off size)) := by
  have hok : ¬ ((size != 4 && size != 8) || off % size != 0) := by
    rcases hs with rfl | rfl <;> simp [ha]
  change Host.Outcome.next (s.bar0Write off size v) = _
  simp only [State.bar0Write, if_neg hok, bar0Open_of_booted hb hd h0 h1, hoff, beq_iff_eq, if_true]
  rfl

end

theorem exec_registerWrite_unsupported (s : State) {off size : Nat} (h : (size ≠ 4 ∧ size ≠ 8) ∨ off % size ≠ 0) (v : Word) :
    exec (.registerWrite off size v) s = .next (s.send .unsupported) := by
  have hbad : ((size != 4 && size != 8) || off % size != 0) = true := by simpa using h
  change Host.Outcome.next (s.bar0Write off size v) = _
  rw [State.bar0Write, if_pos hbad]

/-! ### What the writes leave in the registers -/

theorem tmodeWrite_of_eq {s : State} {v : Word} (h : v.getLsbD 0 = s.mode) :
    s.tmodeWrite v = { s.setRaw 0x785 (v &&& 1) with modeWait := none } := by
  simp only [State.tmodeWrite, State.setRaw_mode, h, beq_self_eq_true, if_true]

theorem tmodeWrite_of_ne {s : State} {v : Word} (h : v.getLsbD 0 ≠ s.mode) : s.tmodeWrite v =
    { s.setRaw 0x785 (v &&& 1) with modeWait := some { val := v &&& 1, written := s.now, back := none, due := false, first := none } } := by
  simp only [State.tmodeWrite, State.setRaw_mode, beq_iff_eq, if_neg h]
  rfl

/-- With no write of the epoch pending, the E of before is the one in the register. -/
theorem sceneEpochWrite_epochWait {s : State} (h : s.epochWait = none) (v : Word) : (s.sceneEpochWrite v).epochWait
    = some { val := s.raw 0x712, written := s.now, back := none, due := false, first := none } := by
  simp [State.sceneEpochWrite, State.epochWrite, h]

theorem raw_trimPins (s : State) (n k : Nat) : (s.trimPins n).raw k = s.raw k := rfl

/-- A field of a quota reads as it was written: it is a field of RW bits that a whole write covers. -/
theorem fld_mergeReg_quota (old v : Word) : ∀ lo ∈ [0, 8, 16],
    fld (mergeReg old v 0xFFFFFFFFFFFFFFFF 0x1F1F1F 0x80000000) lo 5 = fld v lo 5 := by
  have hbits : ∀ lo ∈ [0, 8, 16], ∀ i < 5, (0x1F1F1F : Word).getLsbD (lo + i) = true ∧ (0x80000000 : Word).getLsbD (lo + i) = false
      ∧ (0xFFFFFFFFFFFFFFFF : Word).getLsbD (lo + i) = true := by decide
  exact fun lo hlo => fld_mergeReg_rw _ _ _ _ _ _ _ (hbits lo hlo)

theorem fld_mergeReg_threshold (old v : Word) : fld (mergeReg old v 0xFFFFFFFFFFFFFFFF 0x7F 0x80) 0 7 = fld v 0 7 :=
  fld_mergeReg_rw _ _ _ _ _ _ _ (by decide)

section

variable {s : State} (hb : 3 ≤ s.boot) (hd : s.endpointDown = false) (hreg : SMap.sorted s.regs = true)
include hb hd hreg

theorem l2QuotaWrite_raw {n : Nat} (hn : n < 32) (v : Word) : Answers (.l2QuotaWrite n v) s fun t => t.raw (0x200 + n) =
    regFix (0x200 + n) (s.kept (0x200 + n)) (mergeReg (s.kept (0x200 + n)) v 0xFFFFFFFFFFFFFFFF 0x1F1F1F 0x80000000) :=
  ⟨_, exec_l2QuotaWrite hb hd hn v, (raw_trimPins _ _ _).trans (raw_setRaw_same _ _ _ hreg)⟩

theorem drpThrWrite_raw {n : Nat} (hn : n < 16) (v : Word) : Answers (.drpThrWrite n v) s fun t => t.raw (0x240 + n) =
    regFix (0x240 + n) (s.kept (0x240 + n)) (mergeReg (s.kept (0x240 + n)) v 0xFFFFFFFFFFFFFFFF 0x7F 0x80) :=
  ⟨_, exec_drpThrWrite hb hd hn v, raw_setRaw_same _ _ _ hreg⟩

/-- A quota whose fields and sum are at most 16 is taken over whole (08_page R193). -/
theorem l2QuotaWrite_accepted {n : Nat} (hn : n < 32) {v : Word} (hsum : fld v 0 5 + fld v 8 5 + fld v 16 5 ≤ 16) :
    Answers (.l2QuotaWrite n v) s fun t => ∀ lo ∈ [0, 8, 16], fld (t.raw (0x200 + n)) lo 5 = fld v lo 5 := by
  obtain ⟨t, ht, hraw⟩ := l2QuotaWrite_raw hb hd hreg hn v
  have hnew := fld_mergeReg_quota (s.kept (0x200 + n)) v
  rw [regFix_l2Quota hn, hnew 0 (by decide), hnew 8 (by decide), hnew 16 (by decide), if_neg (by omega)] at hraw
  exact ⟨t, ht, fun lo hlo => by rw [hraw, hnew lo hlo]⟩

/-- A quota above 16 sets ERR and leaves the fields (08_page R193). -/
theorem l2QuotaWrite_refused {n : Nat} (hn : n < 32) {v : Word} (hw : 16 < fld v 0 5 + fld v 8 5 + fld v 16 5) :
    Answers (.l2QuotaWrite n v) s fun t => (t.raw (0x200 + n)).getLsbD 31 = true
      ∧ ∀ lo ∈ [0, 8, 16], fld (t.raw (0x200 + n)) lo 5 = fld (s.kept (0x200 + n)) lo 5 := by
  obtain ⟨t, ht, hraw⟩ := l2QuotaWrite_raw hb hd hreg hn v
  have hnew := fld_mergeReg_quota (s.kept (0x200 + n)) v
  have hbits : ∀ lo ∈ [0, 8, 16], lo + 5 ≤ 31 ∧ ∀ i < 5, (0x1F1F1F : Word).getLsbD (lo + i) = true := by decide
  rw [regFix_l2Quota hn, hnew 0 (by decide), hnew 8 (by decide), hnew 16 (by decide), if_pos (by omega)] at hraw
  refine ⟨t, ht, ?_, fun lo hlo => ?_⟩
  · rw [hraw, getLsbD_setBits _ _ _ _ (by decide), if_pos (by decide)]
    decide
  · obtain ⟨hle, hkeep⟩ := hbits lo hlo
    rw [hraw, fld_setBits_other _ _ (by omega) (.inl hle), fld_restore _ _ _ _ _ hkeep]

/-- A threshold from 10 to 120 is taken over (14_column R302). -/
theorem drpThrWrite_accepted {n : Nat} (hn : n < 16) {v : Word} (hlo : 10 ≤ fld v 0 7) (hhi : fld v 0 7 ≤ 120) :
    Answers (.drpThrWrite n v) s fun t => fld (t.raw (0x240 + n)) 0 7 = fld v 0 7 := by
  obtain ⟨t, ht, hraw⟩ := drpThrWrite_raw hb hd hreg hn v
  rw [regFix_drpThr hn, fld_mergeReg_threshold, if_neg (by omega)] at hraw
  exact ⟨t, ht, by simp only [hraw, fld_mergeReg_threshold]⟩

/-- A threshold outside that range sets ERR and leaves the field (14_column R302). -/
theorem drpThrWrite_refused {n : Nat} (hn : n < 16) {v : Word} (h : fld v 0 7 < 10 ∨ 120 < fld v 0 7) :
    Answers (.drpThrWrite n v) s fun t => (t.raw (0x240 + n)).getLsbD 7 = true
      ∧ fld (t.raw (0x240 + n)) 0 7 = fld (s.kept (0x240 + n)) 0 7 := by
  obtain ⟨t, ht, hraw⟩ := drpThrWrite_raw hb hd hreg hn v
  rw [regFix_drpThr hn, fld_mergeReg_threshold, if_pos h] at hraw
  refine ⟨t, ht, ?_, ?_⟩
  · rw [hraw, getLsbD_setBits _ _ _ _ (by decide), if_pos (by decide)]
    decide
  · rw [hraw, fld_setBits_other _ _ (by decide) (.inl (by decide)), fld_setBits_same _ _ (by decide), Nat.mod_eq_of_lt (fld_lt _ _ _)]

/-- A mode other than the one in force waits for its boundary (01_device R17). -/
theorem tmodeWrite_pends {v : Word} (h : v.getLsbD 0 ≠ s.mode) :
    Answers (.tmodeWrite v) s fun t => t.mode = s.mode ∧ t.raw 0x785 = v &&& 1
      ∧ t.modeWait = some { val := v &&& 1, written := s.now, back := none, due := false, first := none } := by
  refine ⟨_, exec_tmodeWrite hb hd v, ?_⟩
  rw [tmodeWrite_of_ne h]
  exact ⟨rfl, raw_setRaw_same _ _ _ hreg, rfl⟩

omit hreg in
/-- The mode in force, written again, cancels a pending change (01_device R17). -/
theorem tmodeWrite_cancels {v : Word} (h : v.getLsbD 0 = s.mode) :
    Answers (.tmodeWrite v) s fun t => t.mode = s.mode ∧ t.modeWait = none := by
  refine ⟨_, exec_tmodeWrite hb hd v, ?_⟩
  rw [tmodeWrite_of_eq h]
  exact ⟨rfl, rfl⟩

end

/-- Settles O59: each form is one write of its register; what the register's own rule makes of it is stated above, register by
register. -/
theorem registerWrites : Obligations.RegisterWrites := by
  intro s hb hd hreg hnw
  refine ⟨fun v hv => tmodeWrite_pends hb hd hreg hv, fun v hv => tmodeWrite_cancels hb hd hv,
    fun v he => ⟨_, exec_sceneEpochWrite hb hd v, sceneEpochWrite_epochWait he _⟩,
    fun n v hn hw => ?quotaRefused, fun n v hn _ _ _ hsum => ?quotaAccepted,
    fun n v hn hlo hhi => drpThrWrite_accepted hb hd hreg hn hlo hhi, fun n v hn hlo => ?thresholdRefused,
    fun off size v hs ha hoff h0 h1 => exec_registerWrite hb hd hs ha hoff h0 h1 v,
    fun off size v h => exec_registerWrite_unsupported s h v⟩
  case quotaRefused =>
    obtain ⟨t, ht, herr, hfld⟩ := l2QuotaWrite_refused hb hd hreg hn (v := v) (by omega)
    exact ⟨t, ht, herr, by rw [hfld 0 (by decide), kept_of_no_waits hnw]⟩
  case quotaAccepted =>
    obtain ⟨t, ht, hfld⟩ := l2QuotaWrite_accepted hb hd hreg hn hsum
    exact ⟨t, ht, hfld 0 (by decide), hfld 8 (by decide), hfld 16 (by decide)⟩
  case thresholdRefused =>
    obtain ⟨t, ht, herr, hfld⟩ := drpThrWrite_refused hb hd hreg hn (.inl hlo)
    exact ⟨t, ht, herr, by rw [hfld, kept_of_no_waits hnw]⟩

end Sys2Proof.Machine
end

section
/-! PROOFS. The time limit of a team (15_context R323): what it makes of a team whose groups are in canonical form, and the state
out of that form in which it reports twice, which refutes the statement on group events (O53). -/

namespace Sys2Proof.Machine

/-! ### Groups by key and by team -/

theorem SMap.mem_of_get? {α : Type} {m : SMap α} {k : Nat} {v : α} (h : SMap.get? m k = some v) : (k, v) ∈ m := by
  induction m with
  | nil => cases h
  | cons p r ih =>
    obtain ⟨j, u⟩ := p
    by_cases hj : j = k
    · obtain rfl : u = v := by simpa [SMap.get?, hj] using h
      exact hj ▸ .head r
    · exact List.mem_cons_of_mem _ (ih (by simpa [SMap.get?, hj] using h))

/-- In a sorted map no entry hides another. -/
theorem SMap.get?_of_mem {α : Type} {m : SMap α} {k : Nat} {v : α} (hs : SMap.sorted m = true) (h : (k, v) ∈ m) :
    SMap.get? m k = some v := by
  induction m with
  | nil => cases h
  | cons p r ih =>
    obtain ⟨j, u⟩ := p
    obtain ⟨habove, hr⟩ := SMap.sorted_cons.mp hs
    cases h with
    | head => simp [SMap.get?]
    | tail _ h =>
      rw [SMap.get?, if_neg (Nat.ne_of_lt (habove _ h))]
      exact ih hr h

theorem mem_groupsOf {s : State} {k : Nat} {g : Group} (h : s.group? k = some g) : (k, g) ∈ s.groupsOf g.team := by
  simpa [State.groupsOf] using SMap.mem_of_get? h

theorem group?_of_mem_groupsOf {s : State} {tid : Nat} {p : Nat × Group} (hs : SMap.sorted s.groups = true) (h : p ∈ s.groupsOf tid) :
    s.group? p.1 = some p.2 ∧ p.2.team = tid := by
  obtain ⟨hmem, hteam⟩ : p ∈ s.groups ∧ p.2.team = tid := by simpa [State.groupsOf] using h
  exact ⟨SMap.get?_of_mem hs hmem, hteam⟩

@[simp] theorem modThreads_team (g : Group) (m : Mask) (f : Thread → Thread) : (g.modThreads m f).team = g.team := by
  unfold Group.modThreads; rfl

/-! ### What a time limit's traps leave alone -/

/-- Teams, dies and the next SEQ are the same, and every group is of the team that it was of. -/
structure KeepsTeams (s t : State) : Prop where
  teams : t.teams = s.teams
  dies : t.dies = s.dies
  seq : t.seq = s.seq
  member : ∀ k, (t.group? k).map Group.team = (s.group? k).map Group.team

namespace KeepsTeams

theorem refl (s : State) : KeepsTeams s s := ⟨rfl, rfl, rfl, fun _ => rfl⟩

theorem trans {s t u : State} (h : KeepsTeams s t) (k : KeepsTeams t u) : KeepsTeams s u :=
  ⟨k.teams.trans h.teams, k.dies.trans h.dies, k.seq.trans h.seq, fun j => (k.member j).trans (h.member j)⟩

theorem team? {s t : State} (h : KeepsTeams s t) (tid : Nat) : t.team? tid = s.team? tid := by simp only [State.team?, h.teams]

theorem die {s t : State} (h : KeepsTeams s t) (d : Nat) : t.die d = s.die d := by simp only [State.die, h.dies]

theorem group? {s t : State} (h : KeepsTeams s t) {k : Nat} {g : Group} (hg : s.group? k = some g) :
    ∃ g', t.group? k = some g' ∧ g'.team = g.team := by
  simpa [hg] using h.member k

theorem setGroup {s : State} {k : Nat} {g x : Group} (hg : s.group? k = some g) (hx : x.team = g.team) : KeepsTeams s (s.setGroup k x) := by
  refine ⟨rfl, rfl, rfl, fun j => ?_⟩
  by_cases hj : j = k
  · subst hj; simp [hg, hx]
  · rw [State.group?_setGroup_other s x hj]

theorem modGroup (s : State) (k : Nat) {f : Group → Group} (hf : ∀ g, (f g).team = g.team) : KeepsTeams s (s.modGroup k f) := by
  cases hg : s.group? k with
  | none => simpa [State.modGroup, hg] using refl s
  | some g => rw [modGroup_of hg]; exact setGroup hg (hf g)

theorem parkIg (s : State) (k : Nat) : KeepsTeams s (s.parkIg k) := by
  unfold State.parkIg
  dsimp only
  split
  · exact refl s
  · split
    · exact refl s
    · have hdrop : KeepsTeams s (s.dropIg (gkPart k)) := ⟨rfl, rfl, rfl, fun _ => rfl⟩
      refine hdrop.trans (modGroup _ k fun g => ?_)
      split
      · exact modThreads_team ..
      · rfl

theorem foldl {α : Type} {f : State → α → State} (hf : ∀ s a, KeepsTeams s (f s a)) (l : List α) (s : State) :
    KeepsTeams s (l.foldl f s) := by
  induction l generalizing s with
  | nil => exact refl s
  | cons a r ih => exact (hf s a).trans (ih (f s a))

end KeepsTeams

/-- Group `k` is of a team whose time limit record is not answered. -/
def State.limitOpen (s : State) (k : Nat) : Prop := ∃ g t, s.group? k = some g ∧ s.team? g.team = some t ∧ t.limitSeq.isSome = true

theorem KeepsTeams.limitOpen {s t : State} (h : KeepsTeams s t) {k : Nat} (hk : s.limitOpen k) : t.limitOpen k := by
  obtain ⟨g, tm, hg, htm, hq⟩ := hk
  obtain ⟨g', hg', hteam⟩ := h.group? hg
  exact ⟨g', tm, hg', by rw [h.team?, hteam, htm], hq⟩

theorem deliverLimit_keepsTeams {s : State} {k : Nat} (f : Frame) (hk : s.limitOpen k) : KeepsTeams s (s.deliverLimit k f) := by
  obtain ⟨g, t, hg, ht, hq⟩ := hk
  obtain ⟨q, hq⟩ := Option.isSome_iff_exists.mp hq
  simp only [State.deliverLimit, hg, ht, hq, Option.bind_some]
  exact KeepsTeams.modGroup s k fun _ => rfl

theorem takeTrap_limit {s : State} {k : Nat} {a : TrapAt} (hk : s.limitOpen k) (ha : a.cause = 0xD7) :
    KeepsTeams s (s.takeTrap k a) := by
  have hpark := KeepsTeams.parkIg s k
  obtain ⟨g, t, hg, ht, hq⟩ := hpark.limitOpen hk
  refine hpark.trans ?_
  simp only [State.takeTrap, State.takeTraps, hg]
  split
  · exact KeepsTeams.setGroup hg rfl
  · have hset := KeepsTeams.setGroup (x := { g with latch := [], susp := [], pending := [] ++ g.pending }) hg rfl
    refine hset.trans ?_
    rw [State.deliver, if_pos (by simp [Group.frameOf, ha])]
    exact deliverLimit_keepsTeams _ (hset.limitOpen ⟨g, t, hg, ht, hq⟩)

theorem asyncTrap_limit {s : State} {k : Nat} (hk : s.limitOpen k) : KeepsTeams s (s.asyncTrap k 0xD7) := by
  have hpark := KeepsTeams.parkIg s k
  have hk' := hpark.limitOpen hk
  have ⟨g, _, hg, _⟩ := hk'
  refine hpark.trans ?_
  simp only [State.asyncTrap, hg]
  exact takeTrap_limit hk' rfl

theorem foldl_asyncTrap_limit {l : List Nat} {s : State} (hl : ∀ k ∈ l, s.limitOpen k) :
    KeepsTeams s (l.foldl (fun s k => s.asyncTrap k 0xD7) s) := by
  induction l generalizing s with
  | nil => exact .refl s
  | cons k r ih =>
    have hk := asyncTrap_limit (hl k (.head r))
    exact hk.trans (ih fun j hj => hk.limitOpen (hl j (.tail k hj)))

/-! ### The fields of a report record (08_page R194) -/

theorem report_cause (r : Rec) (seq : Nat) : fld (r.report seq).w0 52 8 = r.cause.toNat := by
  have := r.cause.isLt
  simp only [fld, bitsOf, Rec.report, BitVec.toNat_ofNat, Nat.shiftLeft_eq, Nat.shiftRight_eq_div_pow]
  omega

theorem report_rkind (r : Rec) (seq : Nat) : fld (r.report seq).w3 56 8 = r.rkind % 256 := by
  have := r.node.isLt
  simp only [fld, bitsOf, Rec.report, BitVec.toNat_ofNat, Nat.shiftLeft_eq, Nat.shiftRight_eq_div_pow]
  omega

theorem report_seq (r : Rec) (seq : Nat) : fld (r.report seq).w3 32 16 = seq % 65536 := by
  have := r.node.isLt
  simp only [fld, bitsOf, Rec.report, BitVec.toNat_ofNat, Nat.shiftLeft_eq, Nat.shiftRight_eq_div_pow]
  omega

/-! ### The time limit of a team -/

/-- The groups of a team that have a thread left, by key. -/
def State.limitGroups (s : State) (tid : Nat) : List Nat := ((s.groupsOf tid).filter fun p => !p.2.allExited).map (·.1)

/-- The record that the team's lowest group reports, and that the team waits for. -/
def State.openLimit (s : State) (tid k : Nat) (r : Rec) : State :=
  (s.modTeam tid fun t => { t with limited := true, limitSeq := some s.seq.toNat }).report (gkDie k) r.report

theorem limitGroups_group? {s : State} {tid k : Nat} (hs : SMap.sorted s.groups = true) (h : k ∈ s.limitGroups tid) :
    ∃ g, s.group? k = some g ∧ g.team = tid := by
  obtain ⟨p, hp, rfl⟩ := List.mem_map.mp h
  exact ⟨p.2, group?_of_mem_groupsOf hs (List.mem_filter.mp hp).1⟩

theorem limitGroups_ne_nil {s : State} {k : Nat} {g : Group} (hg : s.group? k = some g) (hlive : g.allExited = false) :
    s.limitGroups g.team ≠ [] :=
  List.ne_nil_of_mem (List.mem_map.mpr ⟨(k, g), List.mem_filter.mpr ⟨mem_groupsOf hg, by simp [hlive]⟩, rfl⟩)

theorem openLimit_team? {s : State} {tid : Nat} {t : Team} (ht : s.team? tid = some t) (k : Nat) (r : Rec) :
    (s.openLimit tid k r).team? tid = some { t with limited := true, limitSeq := some s.seq.toNat } := by
  have h : (s.openLimit tid k r).team? tid = (s.modTeam tid fun t => { t with limited := true, limitSeq := some s.seq.toNat }).team? tid := rfl
  rw [h, State.team?_modTeam, ht]
  rfl

theorem openLimit_seq (s : State) (tid k : Nat) (r : Rec) : (s.openLimit tid k r).seq = s.seq + 1 := by
  simp [State.openLimit, State.report]

theorem openLimit_group? (s : State) (tid k : Nat) (r : Rec) (j : Nat) : (s.openLimit tid k r).group? j = s.group? j := by
  simp [State.openLimit, State.report, State.group?]

theorem openLimit_reports (s : State) (tid k : Nat) (r : Rec) :
    ((s.openLimit tid k r).die (gkDie k)).reports = (s.die (gkDie k)).reports ++ [r.report s.seq.toNat] := by
  have h : (s.modTeam tid fun t => { t with limited := true, limitSeq := some s.seq.toNat }).die (gkDie k) = s.die (gkDie k) := by
    simp only [State.die, State.modTeam_dies]
  rw [← h, State.openLimit, State.report, die_modDie_same, State.modTeam_seq]
  rfl

/-- `TEAM TIME LIMIT`: the groups stop, the lowest reports, and the trap is taken in each. -/
theorem teamTimeLimit_eq {s u : State} {tid k : Nat} {ks : List Nat} {g : Group} (hdue : s.limitDue tid = true)
    (hks : s.limitGroups tid = k :: ks) (hu : (k :: ks).foldl State.parkIg s = u) (hg : u.group? k = some g) :
    ∃ r : Rec, r.cause = 0xD7 ∧ r.rkind = 6
      ∧ s.teamTimeLimit tid = (k :: ks).foldl (fun s k => s.asyncTrap k 0xD7) (u.openLimit tid k r) := by
  let pc := g.pcOf (lowLane g.live)
  refine ⟨{ u.recOf k with cause := 0xD7, pc := pc.1.toNat, pos := pc.2, lane := lowLane g.live, rkind := 6 }, rfl, rfl, ?_⟩
  unfold State.limitGroups at hks
  simp only [State.teamTimeLimit, hdue, hks, hu, hg, List.head?_cons, Option.bind_some, Option.map_some]
  rfl

/-- The clause of O53 on time limits holds of a state whose groups are in canonical form: one record, and no trap of the limit writes
another. -/
theorem teamTimeLimit_reports_once {s : State} {gk : Nat} {g : Group} (hs : SMap.sorted s.groups = true) (hg : s.group? gk = some g)
    (hdue : s.limitDue g.team = true) (hlive : g.allExited = false) :
    Answers (.teamTimeLimit g.team) s fun v => v.seq = s.seq + 1
      ∧ (∃ tm, v.team? g.team = some tm ∧ tm.limited = true ∧ tm.limitSeq = some s.seq.toNat)
      ∧ ∃ k r, (v.die k).reports = (s.die k).reports ++ [r] ∧ fld r.w0 52 8 = 0xD7 ∧ fld r.w3 56 8 = 6
        ∧ fld r.w3 32 16 = s.seq.toNat % 65536 := by
  obtain ⟨t, ht⟩ : ∃ t, s.team? g.team = some t := by
    cases ht : s.team? g.team with
    | none => simp [State.limitDue, ht] at hdue
    | some t => exact ⟨t, rfl⟩
  obtain ⟨k, ks, hks⟩ := List.exists_cons_of_ne_nil (limitGroups_ne_nil hg hlive)
  have hpark := KeepsTeams.foldl KeepsTeams.parkIg (k :: ks) s
  generalize hu : (k :: ks).foldl State.parkIg s = u at hpark
  have hmember : ∀ j ∈ k :: ks, ∃ g', u.group? j = some g' ∧ g'.team = g.team := fun j hj => by
    obtain ⟨g', hg', hteam⟩ := limitGroups_group? hs (hks ▸ hj)
    obtain ⟨g'', hg'', hteam'⟩ := hpark.group? hg'
    exact ⟨g'', hg'', hteam'.trans hteam⟩
  obtain ⟨gk', hgk', -⟩ := hmember k (.head ks)
  obtain ⟨r, hcause, hrkind, hlimit⟩ := teamTimeLimit_eq hdue hks hu hgk'
  have hteam : (u.openLimit g.team k r).team? g.team = some { t with limited := true, limitSeq := some u.seq.toNat } :=
    openLimit_team? ((hpark.team? _).trans ht) k r
  have htraps : KeepsTeams (u.openLimit g.team k r) (s.teamTimeLimit g.team) := by
    rw [hlimit]
    refine foldl_asyncTrap_limit fun j hj => ?_
    obtain ⟨g', hg', hteam'⟩ := hmember j hj
    exact ⟨g', _, by rw [openLimit_group?, hg'], by rw [hteam', hteam], rfl⟩
  refine ⟨_, rfl, ?seq, ⟨_, (htraps.team? _).trans hteam, rfl, by rw [hpark.seq]⟩, gkDie k, r.report s.seq.toNat, ?report, ?fields⟩
  case seq => rw [htraps.seq, openLimit_seq, hpark.seq]
  case report => rw [htraps.die, openLimit_reports, hpark.die, hpark.seq]
  case fields => exact ⟨by rw [report_cause, hcause]; rfl, by rw [report_rkind, hrkind], report_seq r _⟩

/-! ### A state in which it reports twice -/

/-- A state that no run reaches: its groups are not in canonical form. Team 0, whose time limit has passed, has groups at keys 0 and 1,
but at key 1 a group of team 1 hides its own. -/
def hiddenGroup : State :=
  let kernel := Kernel.blank 0
  let team : Team := { Team.place 0 0 0 0 0 0 0 0 kernel with stage := .running, ticks := 10000 }
  { State.reset with
    groups := [(0, Group.fresh 0 0 0 0 0), (1, Group.fresh 1 0 0 0 0), (1, Group.fresh 0 1 0 0 0)]
    teams := [(0, team), (1, team)]
    nodes := [(0, { Node.blank 0 kernel with tlimit := 1 })] }

/-- The limit's trap at key 1 is taken by the group of team 1, which has no handler and no record that waits: its team ends, and that
is reported too. -/
theorem hiddenGroup_reports_twice : (hiddenGroup.teamTimeLimit 0).seq = hiddenGroup.seq + 2 := by decide +kernel

/-- Refutes O53: the statement does not ask that the groups be in canonical form (`SMap.sorted s.groups`). Where one group hides
another, the time limit of a team writes a record of another team beside its own, so that SEQ rises by 2. Of groups in canonical form
the clause holds (`teamTimeLimit_reports_once`). -/
theorem not_groupEvents : ¬ Obligations.GroupEvents := by
  unfold Obligations.GroupEvents
  intro h
  obtain ⟨-, -, -, -, -, -, -, -, hlimit, -⟩ :=
    h hiddenGroup 0 0 0 (Group.fresh 0 0 0 0 0) (by decide) (by decide) (by decide) rfl
  obtain ⟨v, hv, hseq, -⟩ := hlimit (by decide +kernel) (by decide +kernel)
  obtain rfl : hiddenGroup.teamTimeLimit 0 = v := by injection hv
  rw [hiddenGroup_reports_twice] at hseq
  exact absurd hseq (by decide)

end Sys2Proof.Machine
end

section
/-! PROOFS. Register-only words: in which lanes the effects of their families write, and the statement that each of them completes
(O12). -/

namespace Sys2Proof.Machine

/-- The effect writes registers and predicates in the lanes of `m` alone, no scalar register, and waits for nothing. -/
structure Eff.InLanes (x : Eff) (m : Mask) : Prop where
  sreg : x.sreg = none
  wait : x.wait = .ready
  regs : ∀ w ∈ x.regs, w.mask = m
  preds : ∀ p ∈ x.preds, p.mask = m

/-- A word that, once ready, completes with writes in its active lanes. -/
def RegisterOnly (i : Instr) : Prop := ∀ s e, Ready s i e → ∃ x, Completes s i e s x ∧ x.InLanes e.act

/-- A word whose meaning is `runAlu` completes with the effect that it computes. -/
theorem completes_of_runAlu {i : Instr} {s : State} {e : Env} {body : Env → State → Eff} (h : Ready s i e)
    (hexec : exec i s = runAlu i body s) : Completes s i e s (body e s) := hexec.trans (runAlu_ready h)

theorem RegisterOnly.of_runAlu {i : Instr} {body : Env → State → Eff} (hexec : exec i = runAlu i body)
    (hbody : ∀ e s, (body e s).InLanes e.act) : RegisterOnly i :=
  fun s e h => ⟨body e s, completes_of_runAlu h (congrFun hexec s), hbody e s⟩

/-! ### The lanes in which each family writes -/

theorem write64_mask {r : BitVec 8} {m : Mask} {v : Nat → Word} : ∀ w ∈ write64 r m v, w.mask = m := by
  unfold write64
  split <;> simp

theorem writeW_mask {wide : Bool} {r : BitVec 8} {m : Mask} {v : Nat → Word} : ∀ w ∈ writeW wide r m v, w.mask = m := by
  cases wide with
  | false => simp [writeW, write32]
  | true => exact write64_mask

theorem Eff.InLanes.withPreds {x : Eff} {m : Mask} (h : x.InLanes m) {ps : List PredWrite} (hp : ∀ p ∈ ps, p.mask = m) :
    ({ x with preds := ps } : Eff).InLanes m := { h with preds := hp }

theorem Eff.InLanes.withFx {x : Eff} {m : Mask} (h : x.InLanes m) (fx : Lanes Fx) : ({ x with fx := fx } : Eff).InLanes m := { h with }

theorem inLanes_regs {m : Mask} {ws : List RegWrite} (h : ∀ w ∈ ws, w.mask = m) : ({ regs := ws } : Eff).InLanes m :=
  ⟨rfl, rfl, h, by simp⟩

theorem inLanes_preds {m : Mask} {ps : List PredWrite} (h : ∀ p ∈ ps, p.mask = m) : ({ preds := ps } : Eff).InLanes m :=
  ⟨rfl, rfl, by simp, h⟩

theorem laneEff_inLanes (e : Env) (wide : Bool) (d : BitVec 8) (fn : Nat → Word × Fx) : (laneEff e wide d fn).InLanes e.act :=
  ⟨rfl, rfl, writeW_mask, by simp [laneEff]⟩

theorem laneVal_inLanes (e : Env) (wide : Bool) (d : BitVec 8) (fn : Nat → Word) : (laneVal e wide d fn).InLanes e.act :=
  inLanes_regs writeW_mask

theorem cmpEff_inLanes (e : Env) (f : FmtR) (fn : Nat → Bool) : (cmpEff e f fn).InLanes e.act := inLanes_preds (by simp)

theorem pairAll_inLanes (r : BitVec 8) (e : Env) (v : Word) : (pairAll r e v).InLanes e.act := inLanes_regs write64_mask

/-- A result without flags, and a predicate. -/
theorem laneVal_pred_inLanes (e : Env) (wide : Bool) (d : BitVec 8) (fn : Nat → Word) (p : BitVec 3) (vals : Mask) :
    ({ laneVal e wide d fn with preds := [{ p := p, mask := e.act, vals := vals }] } : Eff).InLanes e.act :=
  (laneVal_inLanes ..).withPreds (by simp)

theorem specialFn_inLanes (fn : Func) (f : FmtR) (e : Env) : (specialFn fn f e).InLanes e.act :=
  { laneEff_inLanes e false f.d _ with }

/-! ### Words of a family -/

namespace RegisterOnly

theorem laneEff {i : Instr} {wide : Env → State → Bool} {d : BitVec 8} {fn : Env → State → Nat → Word × Fx}
    (h : exec i = runAlu i fun e s => Machine.laneEff e (wide e s) d (fn e s)) : RegisterOnly i :=
  of_runAlu h fun _ _ => laneEff_inLanes ..

theorem laneVal {i : Instr} {wide : Env → State → Bool} {d : BitVec 8} {fn : Env → State → Nat → Word}
    (h : exec i = runAlu i fun e s => Machine.laneVal e (wide e s) d (fn e s)) : RegisterOnly i :=
  of_runAlu h fun _ _ => laneVal_inLanes ..

theorem laneValPred {i : Instr} {d : BitVec 8} {fn : Env → State → Nat → Word} {p : BitVec 3} {vals : Env → State → Mask}
    (h : exec i = runAlu i fun e s =>
      { Machine.laneVal e false d (fn e s) with preds := [{ p := p, mask := e.act, vals := vals e s }] }) : RegisterOnly i :=
  of_runAlu h fun _ _ => laneVal_pred_inLanes ..

theorem specialFn {i : Instr} {fn : Func} {f : FmtR} (h : exec i = runAlu i fun e _ => Machine.specialFn fn f e) : RegisterOnly i :=
  of_runAlu h fun _ _ => specialFn_inLanes ..

variable (g : Guard)

theorem nop (f : FmtX) : RegisterOnly (.nop g f) := of_runAlu rfl fun _ _ => inLanes_regs (by simp)

theorem spark (f : FmtX) : RegisterOnly (.spark g f) :=
  of_runAlu rfl fun e s => by
    refine ⟨rfl, rfl, ?_, by simp⟩
    dsimp only
    split <;> simp [write32]

theorem rmask (f : FmtX) : RegisterOnly (.rmask g f) :=
  of_runAlu rfl fun _ _ => (inLanes_regs (by simp [write32])).withPreds (by simp)

theorem stamp (f : FmtX) : RegisterOnly (.stamp g f) := of_runAlu rfl fun _ _ => pairAll_inLanes ..

theorem perfc (f : FmtX) : RegisterOnly (.perfc g f) := of_runAlu rfl fun _ _ => pairAll_inLanes ..

theorem heat (f : FmtX) : RegisterOnly (.heat g f) := of_runAlu rfl fun _ _ => inLanes_regs (by simp [write32])

theorem icmp (f : FmtR) : RegisterOnly (.icmp g f) := of_runAlu rfl fun _ _ => cmpEff_inLanes ..

theorem icmpi (f : FmtI) : RegisterOnly (.icmpi g f) := of_runAlu rfl fun _ _ => inLanes_preds (by simp)

theorem fcmp (f : FmtR) : RegisterOnly (.fcmp g f) := of_runAlu rfl fun _ _ => (cmpEff_inLanes ..).withFx _

theorem pcmp2 (f : FmtR) : RegisterOnly (.pcmp2 g f) := of_runAlu rfl fun _ _ => (inLanes_preds (by simp)).withFx _

theorem plop (f : FmtR) : RegisterOnly (.plop g f) := of_runAlu rfl fun _ _ => inLanes_preds (by simp)

theorem pmovSet (f : FmtR) : RegisterOnly (.pmovSet g f) :=
  of_runAlu rfl fun _ _ => inLanes_preds fun _ hp => by
    obtain ⟨_, -, rfl⟩ := List.mem_map.mp hp
    rfl

theorem poll (f : FmtR) : RegisterOnly (.poll g f) :=
  of_runAlu rfl fun e s => by
    dsimp only
    split
    · exact laneVal_inLanes ..
    · exact inLanes_preds (by simp)

theorem peers (f : FmtR) : RegisterOnly (.peers g f) :=
  of_runAlu rfl fun e s => by
    dsimp only
    split
    · exact laneVal_pred_inLanes ..
    · exact laneVal_inLanes ..

end RegisterOnly

/-- Settles O12: every word of the three lists is `runAlu` over an effect in its active lanes. -/
theorem aluWordsComplete : Obligations.AluWordsComplete := by
  intro i s e hi h
  suffices hr : RegisterOnly i by
    obtain ⟨x, hx, hsreg, hwait, hregs, hpreds⟩ := hr s e h
    exact ⟨x, hx, hsreg, hwait, hregs, hpreds⟩
  clear h
  rcases hi with ⟨g, f, hi⟩ | ⟨g, f, hi⟩ | ⟨g, f, hi⟩ <;> revert i <;> simp only [List.forall_mem_cons]
  · exact ⟨.nop g f, .spark g f, .rmask g f, .stamp g f, .perfc g f, .heat g f, List.forall_mem_nil _⟩
  · exact
    ⟨.laneEff rfl, .laneEff rfl, .laneValPred rfl, .laneEff rfl, .laneEff rfl,  -- `iadd` to `imulh`
     .laneEff rfl, .laneEff rfl, .laneEff rfl, .laneEff rfl, .laneEff rfl,  -- `imad` to `isad`
     .laneVal rfl, .laneVal rfl, .laneVal rfl, .laneVal rfl, .laneVal rfl, .laneVal rfl,  -- `shl` to `popc`
     .laneVal rfl, .laneVal rfl, .laneVal rfl, .laneVal rfl, .laneVal rfl,  -- `clz` to `bswz`
     .icmp g f, .laneVal rfl, .laneVal rfl, .laneVal rfl, .plop g f, .laneVal rfl, .pmovSet g f,  -- `icmp` to `pmovSet`
     .laneEff rfl, .laneEff rfl, .laneEff rfl, .laneEff rfl, .laneEff rfl, .fcmp g f,  -- `fadd` to `fcmp`
     .laneEff rfl, .laneEff rfl, .laneEff rfl, .laneEff rfl, .laneEff rfl,  -- `fclamp` to `pfma2`
     .laneEff rfl, .pcmp2 g f, .laneEff rfl, .laneEff rfl, .laneEff rfl, .laneEff rfl,  -- `pmnx2` to `i2f`
     .laneEff rfl, .laneEff rfl, .laneEff rfl, .laneEff rfl, .laneEff rfl,  -- `ncvtPack` to `scaleExp`
     .specialFn rfl, .specialFn rfl, .specialFn rfl, .specialFn rfl,  -- `rcp` to `lg2`
     .specialFn rfl, .specialFn rfl, .specialFn rfl, .specialFn rfl,  -- `ex2` to `tanh`
     .laneValPred rfl, .poll g f, .laneValPred rfl, .laneEff rfl, .laneEff rfl,  -- `shfl` to `ffold`
     .peers g f, .laneVal rfl, .laneVal rfl, List.forall_mem_nil _⟩  -- `peers` to `prefixOp`
  · exact ⟨.laneEff rfl, .laneEff rfl, .laneVal rfl, .icmpi g f, .laneVal rfl, .laneEff rfl, .laneEff rfl, List.forall_mem_nil _⟩

end Sys2Proof.Machine
end

section
/-! PROOFS. What the lanes of integer words receive: elements as exact integers, results modulo the width or saturated, shifts,
comparisons and moves; the statements on integer arithmetic (O13), moves (O14), and shifts and compares (O15). -/

namespace Sys2Proof.Machine

/-! ### Lanes of a result -/

theorem lo32_ofNat (n : Nat) : lo32 (BitVec.ofNat 64 n) = BitVec.ofNat 32 n := BitVec.setWidth_ofNat_of_le (by decide) n

theorem lo32_setWidth (x : W32) : lo32 (x.setWidth 64) = x :=
  (BitVec.setWidth_setWidth_of_le x (by decide)).trans x.setWidth_eq

theorem lo32_signExtend (x : W32) : lo32 (x.signExtend 64) = x := by
  refine BitVec.eq_of_getLsbD_eq fun i hi => ?_
  rw [lo32, BitVec.getLsbD_setWidth, BitVec.getLsbD_signExtend]
  simp [hi, show i < 64 by omega]

theorem laneVal_writes32 (e : Env) (d : BitVec 8) {fn : Nat → Word} {v : Nat → W32}
    (hv : ∀ l, l < 32 → e.act.getLsbD l = true → lo32 (fn l) = v l) : Writes32 (laneVal e false d fn) d e.act v :=
  writes32_of rfl hv

theorem laneVal_writes64 (e : Env) (d : BitVec 8) {fn : Nat → Word} {v : Nat → Word}
    (hv : ∀ l, l < 32 → e.act.getLsbD l = true → fn l = v l) : Writes64 (laneVal e true d fn) d e.act v :=
  writes64_of rfl hv

theorem laneVal_noFlags {e : Env} {wide : Bool} {d : BitVec 8} {fn : Nat → Word} : NoFlags (laneVal e wide d fn) := noFlags_of rfl

theorem laneEff_fx (e : Env) (wide : Bool) (d : BitVec 8) (fn : Nat → Word × Fx) {l : Nat} (hl : l < 32) :
    Lanes.at (laneEff e wide d fn).fx l = if e.act.getLsbD l then (fn l).2 else 0 := by
  simp only [laneEff, at_lanes _ hl]
  split <;> rfl

theorem laneEff_writes32 (e : Env) (d : BitVec 8) {fn : Nat → Word × Fx} {v : Nat → W32}
    (hv : ∀ l, l < 32 → e.act.getLsbD l = true → lo32 (fn l).1 = v l) : Writes32 (laneEff e false d fn) d e.act v :=
  writes32_of rfl fun l hl ha => by dsimp only; rw [at_lanes _ hl, if_pos ha, hv l hl ha]

theorem laneEff_writes64 (e : Env) (d : BitVec 8) {fn : Nat → Word × Fx} {v : Nat → Word}
    (hv : ∀ l, l < 32 → e.act.getLsbD l = true → (fn l).1 = v l) : Writes64 (laneEff e true d fn) d e.act v :=
  writes64_of rfl fun l hl ha => by rw [at_lanes _ hl, if_pos ha, hv l hl ha]

theorem laneEff_noFlags (e : Env) (wide : Bool) (d : BitVec 8) {fn : Nat → Word × Fx} (h : ∀ l, (fn l).2 = 0) :
    NoFlags (laneEff e wide d fn) := fun l hl => by rw [laneEff_fx e wide d fn hl, h, ite_self]

/-! ### Elements as exact integers (05_group_integer R105) -/

theorem signedOf_toNat {w : Nat} (x : BitVec w) : signedOf x.toNat w = x.toInt := by
  simp [signedOf, BitVec.toInt_eq_toNat_cond, Nat.shiftLeft_eq, Nat.mod_eq_of_lt x.isLt]

theorem elemOf_s32 (x : Word) : elemOf 0 x 0 = (lo32 x).toInt := by
  rw [← signedOf_toNat]
  simp [elemOf, elemSigned, elemBits, bitsOf, lo32, BitVec.toNat_setWidth, Nat.shiftLeft_eq]

theorem elemOf_u32 (x : Word) : elemOf 1 x 0 = (lo32 x).toNat := by
  simp [elemOf, elemSigned, elemBits, bitsOf, lo32, BitVec.toNat_setWidth, Nat.shiftLeft_eq]

theorem elemOf_s64 (x : Word) : elemOf 2 x 0 = x.toInt := by
  rw [← signedOf_toNat]
  simp [elemOf, elemSigned, elemBits, bitsOf, Nat.shiftLeft_eq, Nat.mod_eq_of_lt x.isLt]

theorem elemOf_u64 (x : Word) : elemOf 3 x 0 = x.toNat := by
  simp [elemOf, elemSigned, elemBits, bitsOf, Nat.shiftLeft_eq, Nat.mod_eq_of_lt x.isLt]

/-- Modulo the width an element is the value of its register, whatever its sign. -/
theorem ofInt_elemOf32 {ty : BitVec 3} (h : ty = 0 ∨ ty = 1) (x : Word) : BitVec.ofInt 32 (elemOf ty x 0) = lo32 x := by
  rcases h with rfl | rfl
  · rw [elemOf_s32, BitVec.ofInt_toInt]
  · rw [elemOf_u32, BitVec.ofInt_natCast, BitVec.ofNat_toNat, BitVec.setWidth_eq]

theorem ofInt_elemOf64 {ty : BitVec 3} (h : ty = 2 ∨ ty = 3) (x : Word) : BitVec.ofInt 64 (elemOf ty x 0) = x := by
  rcases h with rfl | rfl
  · rw [elemOf_s64, BitVec.ofInt_toInt]
  · rw [elemOf_u64, BitVec.ofInt_natCast, BitVec.ofNat_toNat, BitVec.setWidth_eq]

theorem type32 {ty : BitVec 3} (h : ty = 0 ∨ ty = 1) : elemCount ty = 1 ∧ elemBits ty = 32 ∧ wideTy ty = false := by
  rcases h with rfl | rfl <;> exact ⟨rfl, rfl, rfl⟩

theorem type64 {ty : BitVec 3} (h : ty = 2 ∨ ty = 3) : elemCount ty = 1 ∧ elemBits ty = 64 ∧ wideTy ty = true := by
  rcases h with rfl | rfl <;> exact ⟨rfl, rfl, rfl⟩

/-- A type of one element is narrowed as a whole. -/
theorem elemwise_one {ty : BitVec 3} (h : elemCount ty = 1) (sat : Bool) (fn : Int → Int → Int → Int) (a b c : Word) :
    elemwise ty sat fn a b c =
      let r := narrow (elemBits ty) (elemSigned ty) sat (fn (elemOf ty a 0) (elemOf ty b 0) (elemOf ty c 0))
      (BitVec.ofNat 64 r.1, r.2) := by
  simp [elemwise, h]

theorem narrow_wraps (w : Nat) (sgn : Bool) (x : Int) : narrow w sgn false x = ((BitVec.ofInt w x).toNat, 0) := by
  simp [narrow, BitVec.toNat_ofInt, Nat.shiftLeft_eq]

theorem int2_noFlags {f : FmtR} (hsat : f.sat = false) (hone : elemCount f.ty = 1) (fn : Int → Int → Int) (e : Env) :
    NoFlags (int2 f fn e) := laneEff_noFlags _ _ _ fun l => by rw [hsat, elemwise_one hone, narrow_wraps]

theorem int2_writes32 {f : FmtR} (hsat : f.sat = false) (hty : f.ty = 0 ∨ f.ty = 1) {fn : Int → Int → Int} {op : W32 → W32 → W32}
    (hop : ∀ x y, BitVec.ofInt 32 (fn x y) = op (BitVec.ofInt 32 x) (BitVec.ofInt 32 y)) (e : Env) :
    Writes32 (int2 f fn e) f.d e.act fun l => op (e.src32 0 l) (e.src32 1 l) := by
  obtain ⟨hone, hbits, hnarrow⟩ := type32 hty
  rw [int2, hnarrow]
  refine laneEff_writes32 _ _ fun l _ _ => ?_
  simp only [elemwise_one hone, hsat, narrow_wraps, hbits, BitVec.ofNat_toNat, lo32_setWidth, hop, ofInt_elemOf32 hty, Env.src, Env.src32]

theorem int2_writes64 {f : FmtR} (hsat : f.sat = false) (hty : f.ty = 2 ∨ f.ty = 3) {fn : Int → Int → Int} {op : Word → Word → Word}
    (hop : ∀ x y, BitVec.ofInt 64 (fn x y) = op (BitVec.ofInt 64 x) (BitVec.ofInt 64 y)) (e : Env) :
    Writes64 (int2 f fn e) f.d e.act fun l => op (e.src 0 l) (e.src 1 l) := by
  obtain ⟨hone, hbits, hwide⟩ := type64 hty
  rw [int2, hwide]
  refine laneEff_writes64 _ _ fun l _ _ => ?_
  simp only [elemwise_one hone, hsat, narrow_wraps, hbits, BitVec.ofNat_toNat, BitVec.setWidth_eq, hop, ofInt_elemOf64 hty]

/-! ### Saturation (R105) -/

/-- The ends of the signed 32-bit range. -/
theorem satInt_s32 (x : Int) : satInt 32 true x =
    if x < -2147483648 then (-2147483648, true) else if 2147483647 < x then (2147483647, true) else (x, false) := rfl

theorem narrow_s32_sat (x : Int) : narrow 32 true true x =
    ((BitVec.ofInt 32 (satInt 32 true x).1).toNat, fxIf (satInt 32 true x).2 fxSat) := by
  simp [narrow, BitVec.toNat_ofInt, Nat.shiftLeft_eq]

/-- Lane `l` of a signed 32-bit word with SAT. -/
theorem elemwise_s32_sat (fn : Int → Int → Int) (a b c : Word) : elemwise 0 true (fun a b _ => fn a b) a b c =
    let r := satInt 32 true (fn (lo32 a).toInt (lo32 b).toInt)
    (BitVec.ofNat 64 (BitVec.ofInt 32 r.1).toNat, fxIf r.2 fxSat) := by
  rw [elemwise_one rfl, elemOf_s32, elemOf_s32]
  exact congrArg (fun r : Nat × Fx => (BitVec.ofNat 64 r.1, r.2)) (narrow_s32_sat _)

theorem ofInt_satInt_add (a b : W32) : BitVec.ofInt 32 (satInt 32 true (a.toInt + b.toInt)).1 =
    if a.toInt + b.toInt < -2147483648 then 0x80000000 else if 2147483647 < a.toInt + b.toInt then 0x7FFFFFFF else a + b := by
  rw [satInt_s32]
  split
  · rfl
  · split
    · rfl
    · rw [BitVec.ofInt_add, BitVec.ofInt_toInt, BitVec.ofInt_toInt]

theorem fxIf_satInt (x : Int) :
    fxIf (satInt 32 true x).2 fxSat = if -2147483648 ≤ x ∧ x ≤ 2147483647 then 0 else fxSat := by
  rw [satInt_s32]
  split
  · rw [if_neg (by omega)]; rfl
  · split
    · rw [if_neg (by omega)]; rfl
    · rw [if_pos (by omega)]; rfl

theorem int2_add_sat_writes32 {f : FmtR} (hsat : f.sat = true) (hty : f.ty = 0) (e : Env) :
    Writes32 (int2 f (· + ·) e) f.d e.act fun l =>
      let sum := (e.src32 0 l).toInt + (e.src32 1 l).toInt
      if sum < -2147483648 then 0x80000000 else if 2147483647 < sum then 0x7FFFFFFF else e.src32 0 l + e.src32 1 l := by
  rw [int2, hty, hsat]
  refine laneEff_writes32 _ _ fun l _ _ => ?_
  rw [elemwise_s32_sat, lo32_ofNat, BitVec.ofNat_toNat, BitVec.setWidth_eq]
  exact ofInt_satInt_add ..

theorem int2_add_sat_fx {f : FmtR} (hsat : f.sat = true) (hty : f.ty = 0) (e : Env) {l : Nat} (hl : l < 32)
    (ha : e.act.getLsbD l = true) : Lanes.at (int2 f (· + ·) e).fx l =
      if -2147483648 ≤ (e.src32 0 l).toInt + (e.src32 1 l).toInt ∧ (e.src32 0 l).toInt + (e.src32 1 l).toInt ≤ 2147483647 then 0
      else fxSat := by
  rw [int2, hty, hsat, laneEff_fx _ _ _ _ hl, if_pos ha, elemwise_s32_sat]
  exact fxIf_satInt _

theorem ofInt_sub (w : Nat) (x y : Int) : BitVec.ofInt w (x - y) = BitVec.ofInt w x - BitVec.ofInt w y := by
  rw [Int.sub_eq_add_neg, BitVec.ofInt_add, BitVec.ofInt_neg, BitVec.sub_eq_add_neg]

/-- Without SAT a word of two sources is its operation modulo the width of the type, and raises nothing. -/
theorem int2_completes_mod {i : Instr} {f : FmtR} {fn : Int → Int → Int} {op : W32 → W32 → W32} {op64 : Word → Word → Word}
    (hexec : ∀ s, exec i s = runAlu i (fun e _ => int2 f fn e) s)
    (hop : ∀ x y, BitVec.ofInt 32 (fn x y) = op (BitVec.ofInt 32 x) (BitVec.ofInt 32 y))
    (hop64 : ∀ x y, BitVec.ofInt 64 (fn x y) = op64 (BitVec.ofInt 64 x) (BitVec.ofInt 64 y))
    {s : State} {e : Env} (hsat : f.sat = false) (h : Ready s i e) :
    ((f.ty = 0 ∨ f.ty = 1) → ∃ x, Completes s i e s x ∧ NoFlags x ∧ x.preds = []
        ∧ Writes32 x f.d e.act fun l => op (e.src32 0 l) (e.src32 1 l))
    ∧ ((f.ty = 2 ∨ f.ty = 3) → ∃ x, Completes s i e s x ∧ NoFlags x ∧ x.preds = []
        ∧ Writes64 x f.d e.act fun l => op64 (e.src 0 l) (e.src 1 l)) := by
  have hc := completes_of_runAlu h (hexec s)
  exact ⟨fun hty => ⟨_, hc, int2_noFlags hsat (type32 hty).1 fn e, rfl, int2_writes32 hsat hty hop e⟩,
    fun hty => ⟨_, hc, int2_noFlags hsat (type64 hty).1 fn e, rfl, int2_writes64 hsat hty hop64 e⟩⟩

/-- Settles O13: the exact result of the lanes' elements, modulo the width or at the nearer end of the range. -/
theorem integerArithmetic : Obligations.IntegerArithmetic := by
  refine ⟨fun g f s e i op op64 hi hsat h => ?_, fun g f s e hsat hty h =>
    ⟨_, completes_of_runAlu h rfl, int2_add_sat_writes32 hsat hty e, fun l hl ha => int2_add_sat_fx hsat hty e hl ha⟩⟩
  rcases hi with ⟨rfl, rfl, rfl⟩ | ⟨rfl, rfl, rfl⟩ | ⟨rfl, rfl, rfl⟩
  · exact int2_completes_mod (fun _ => rfl) (fun _ _ => BitVec.ofInt_add ..) (fun _ _ => BitVec.ofInt_add ..) hsat h
  · exact int2_completes_mod (fun _ => rfl) (fun _ _ => ofInt_sub ..) (fun _ _ => ofInt_sub ..) hsat h
  · exact int2_completes_mod (fun _ => rfl) (fun _ _ => BitVec.ofInt_mul ..) (fun _ _ => BitVec.ofInt_mul ..) hsat h

/-! ### Moves (R122, 06_group_float R142) -/

/-- Lane `l` of the value that the narrow and the wide form of a word both write. -/
theorem laneVal_writes (e : Env) (ty : BitVec 3) (d : BitVec 8) (fn : Nat → Word) :
    NoFlags (laneVal e (wideTy ty) d fn) ∧ (wideTy ty = false → Writes32 (laneVal e (wideTy ty) d fn) d e.act fun l => lo32 (fn l))
      ∧ (wideTy ty = true → Writes64 (laneVal e (wideTy ty) d fn) d e.act fn) := by
  refine ⟨laneVal_noFlags, fun h => ?_, fun h => ?_⟩
  · rw [h]; exact laneVal_writes32 e d fun _ _ _ => rfl
  · rw [h]; exact laneVal_writes64 e d fun _ _ _ => rfl

theorem mov_completes {g : Guard} {f : FmtR} {s : State} {e : Env} (h : Ready s (.mov g f) e) :
    ∃ x, Completes s (.mov g f) e s x ∧ NoFlags x ∧ (wideTy f.ty = false → Writes32 x f.d e.act fun l => e.src32 0 l)
      ∧ (wideTy f.ty = true → Writes64 x f.d e.act fun l => e.src 0 l) :=
  ⟨_, completes_of_runAlu h rfl, laneVal_writes e f.ty f.d fun l => e.src 0 l⟩

theorem sel_completes {g : Guard} {f : FmtR} {s : State} {e : Env} (h : Ready s (.sel g f) e) :
    ∃ x, Completes s (.sel g f) e s x ∧ NoFlags x
      ∧ (wideTy f.ty = false → Writes32 x f.d e.act fun l =>
          if Bool.xor ((e.g.predMask f.p64).getLsbD l) (f.mods.getLsbD 3) then e.src32 0 l else e.src32 1 l)
      ∧ (wideTy f.ty = true → Writes64 x f.d e.act fun l =>
          if Bool.xor ((e.g.predMask f.p64).getLsbD l) (f.mods.getLsbD 3) then e.src 0 l else e.src 1 l) := by
  refine ⟨_, completes_of_runAlu h rfl, ?_⟩
  obtain ⟨hfx, hnarrow, hwide⟩ := laneVal_writes e f.ty f.d fun l =>
    if Bool.xor ((e.g.predMask f.p64).getLsbD l) (f.mods.getLsbD 3) then e.src 0 l else e.src 1 l
  refine ⟨hfx, fun ht => ?_, hwide⟩
  have hn := hnarrow ht
  simp only [apply_ite lo32] at hn
  exact hn

theorem movi_completes {g : Guard} {f : FmtI} {s : State} {e : Env} (h : Ready s (.movi g f) e) :
    ∃ x, Completes s (.movi g f) e s x ∧ NoFlags x ∧ (f.md = 0 → Writes32 x f.d e.act fun _ => f.imm)
      ∧ (f.md = 1 → Writes64 x f.d e.act fun _ => f.imm.signExtend 64)
      ∧ (f.md = 2 → Writes64 x f.d e.act fun _ => f.imm.setWidth 64) := by
  refine ⟨_, completes_of_runAlu h rfl, laneVal_noFlags, fun hm => ?_, fun hm => ?_, fun hm => ?_⟩ <;> rw [hm]
  · exact laneVal_writes32 e f.d fun _ _ _ => lo32_signExtend _
  · exact laneVal_writes64 e f.d fun _ _ _ => rfl
  · exact laneVal_writes64 e f.d fun _ _ _ => rfl

theorem poll_mask_completes {g : Guard} {f : FmtR} {s : State} {e : Env} (h : Ready s (.poll g f) e)
    (hform : f.mods.extractLsb' 0 2 = 3) (hneg : f.mods.getLsbD 2 = false) :
    ∃ x, Completes s (.poll g f) e s x ∧ Writes32 x f.d e.act fun _ => e.act &&& e.g.predMask f.p64 := by
  refine ⟨_, completes_of_runAlu h rfl, ?_⟩
  simp only [hform, hneg]
  exact laneVal_writes32 e f.d fun _ _ _ => lo32_setWidth _

theorem laneBit_getLsbD_eq (k : Nat) {l : Nat} (hl : l < 32) : (laneBit k).getLsbD l = decide (l = k) := by
  rw [laneBit, BitVec.getLsbD_shiftLeft, BitVec.getLsbD_one, decide_eq_true hl, Bool.true_and]
  by_cases hlt : l < k
  · rw [decide_eq_true hlt, decide_eq_false (Nat.ne_of_lt hlt)]
    rfl
  · simp only [hlt, decide_false, Bool.not_false, Bool.true_and, ← Bool.decide_and, decide_eq_decide]
    omega

theorem lead_completes {g : Guard} {f : FmtR} {s : State} {e : Env} (h : Ready s (.lead g f) e) :
    ∃ x, Completes s (.lead g f) e s x ∧ (Writes32 x f.d e.act fun _ => BitVec.ofNat 32 e.low)
      ∧ WritesP x f.p97 e.act fun l => decide (l = e.low) :=
  ⟨_, completes_of_runAlu h rfl, writes32_of rfl fun _ _ _ => lo32_ofNat _, _, rfl, fun _ hl _ => laneBit_getLsbD_eq _ hl⟩

/-- Settles O14: each word writes the value of its lane, computed from what the lane reads. -/
theorem laneMoves : Obligations.LaneMoves :=
  ⟨fun _ _ _ => ⟨fun _ => mov_completes, fun _ => sel_completes, fun _ => movi_completes⟩,
    fun _ _ _ _ => ⟨poll_mask_completes, lead_completes⟩⟩

/-! ### Shifts (R116) -/

theorem ofNat_shiftLeft (a : W32) (n : Nat) :
    BitVec.ofNat 32 (if 32 ≤ n then 0 else (a.toNat <<< n) % (1 <<< 32)) = a <<< n := by
  apply BitVec.eq_of_toNat_eq
  split
  · rw [BitVec.shiftLeft_eq_zero ‹_›]
  · simp

theorem ofNat_shiftRight (a : W32) (n : Nat) : BitVec.ofNat 32 (a.toNat >>> n) = a >>> n := by
  apply BitVec.eq_of_toNat_eq
  rw [BitVec.toNat_ofNat, BitVec.toNat_ushiftRight]
  exact Nat.mod_eq_of_lt (a >>> n).isLt

theorem ofNat_sshiftRight (a : W32) (n : Nat) :
    BitVec.ofNat 32 ((signedOf a.toNat 32 >>> n) % (1 <<< 32 : Nat)).toNat = a.sshiftRight n := by
  rw [signedOf_toNat, BitVec.sshiftRight]
  apply BitVec.eq_of_toNat_eq
  have hlt : a.toInt >>> n % 4294967296 < 4294967296 := Int.emod_lt_of_pos _ (by decide)
  simpa [BitVec.toNat_ofInt, Nat.shiftLeft_eq] using hlt

/-- The 32-bit shift of a register's value. -/
def ShiftOp.apply32 (op : ShiftOp) (a : W32) (n : Nat) : W32 :=
  match op with
  | .shl => a <<< n
  | .shr => a >>> n
  | .sar => a.sshiftRight n

theorem shiftVal_32 (op : ShiftOp) (wrap : Bool) (a : W32) (c : Nat) :
    BitVec.ofNat 32 (shiftVal op 32 wrap a.toNat c) = op.apply32 a (if wrap then c % 256 % 32 else c % 256) := by
  cases op with
  | shl => exact ofNat_shiftLeft ..
  | shr => exact ofNat_shiftRight ..
  | sar => exact ofNat_sshiftRight ..

theorem shift_writes32 {f : FmtR} (hty : wideTy f.ty = false) (op : ShiftOp) (e : Env) :
    Writes32 (shift f op e) f.d e.act fun l => op.apply32 (e.src32 0 l)
      (if f.sub.getLsbD 0 then (e.src32 1 l).toNat % 256 % 32 else (e.src32 1 l).toNat % 256) := by
  simp only [shift, hty]
  exact laneVal_writes32 e f.d fun _ _ _ => (lo32_ofNat _).trans (shiftVal_32 ..)

/-! ### Comparisons (R121, 06_group_float R128) -/

theorem cmpInt_eq (code : Nat) (a b : Int) : cmpInt code a b = match code with
    | 0 => decide (a = b) | 1 => decide (a ≠ b) | 2 => decide (a < b) | 3 => decide (a ≤ b) | 4 => decide (a > b) | _ => decide (a ≥ b) := by
  match code with
  | 0 => rfl
  | 1 => exact decide_not.symm
  | 2 => rfl
  | 3 => rfl
  | 4 => rfl
  | _ + 5 => rfl

theorem cmpEff_writesP {e : Env} {f : FmtR} {fn : Nat → Bool} {x : Eff} (h : x.preds = (cmpEff e f fn).preds) :
    WritesP x f.p97 e.act fun l =>
      if f.mods.getLsbD 3 then fn l || (e.g.predMask f.p64).getLsbD l else fn l && (e.g.predMask f.p64).getLsbD l :=
  writesP_of h fun _ _ _ => rfl

/-- A comparison with a NaN holds for `.ne` and `.nan` alone. -/
theorem fpCompare_nan (code : Nat) {a b : Ex} (h : (a.isNan || b.isNan) = true) :
    (fpCompare code a b).1 = (code == 1 || decide (7 ≤ code)) := by
  have heq : a.eq b = false := by
    unfold Ex.eq
    rcases Bool.or_eq_true_iff.mp h with ha | hb
    · rw [ha]; rfl
    · rw [hb]; simp
  match code with
  | 0 | 1 | 2 | 3 | 4 | 5 | 6 => simp [fpCompare, h, heq]
  | _ + 7 => simp [fpCompare, h]

theorem cmp_ne_or_nan : ∀ cmp : BitVec 3, (cmp.toNat == 1 || decide (7 ≤ cmp.toNat)) = (cmp == 1 || cmp == 7) := by decide

/-- The exponent field and the fraction of an fp32 NaN (02_numbers R17). -/
theorem isNan32_fields {x : W32} (h : isNan32 x) : bitsOf x.toNat 23 8 = 255 ∧ bitsOf x.toNat 0 23 ≠ 0 := by
  have hmask : (x &&& 0x7FFFFFFF).toNat = x.toNat % 2 ^ 31 := Nat.and_two_pow_sub_one_eq_mod x.toNat 31
  unfold isNan32 at h
  rw [hmask] at h
  simp only [bitsOf, Nat.shiftRight_eq_div_pow, Nat.shiftLeft_eq]
  omega

theorem decodeFp_f32_nan {c : Nat} (he : bitsOf c 23 8 = 255) (hf : bitsOf c 0 23 ≠ 0) : (decodeFp .f32 c).1.isNan = true := by
  simp [decodeFp, Fp.w, Fp.ew, Fp.narrow, Fp.top, he, hf, Ex.isNan]

theorem valOf_isNan {x : Word} (h : isNan32 (lo32 x)) : (valOf .f32 (codeOf .f32 x)).isNan = true := by
  obtain ⟨he, hf⟩ := isNan32_fields h
  have hcode : codeOf .f32 x = (lo32 x).toNat := (BitVec.toNat_setWidth 32 x).symm
  exact decodeFp_f32_nan (hcode ▸ he) (hcode ▸ hf)

theorem predMask_p7 (g : Group) {l : Nat} (hl : l < 32) : (g.predMask 7).getLsbD l = true := by
  have h : g.predMask 7 = BitVec.allOnes 32 := rfl
  rw [h, BitVec.getLsbD_allOnes, decide_eq_true hl]

theorem icmp_completes {g : Guard} {f : FmtR} {s : State} {e : Env} (h : Ready s (.icmp g f) e) {r : Nat → Bool}
    (hr : ∀ l, cmpInt f.cmp.toNat (elemOf f.ty (e.src 0 l) 0) (elemOf f.ty (e.src 1 l) 0) = r l) :
    ∃ x, Completes s (.icmp g f) e s x ∧ x.regs = [] ∧ WritesP x f.p97 e.act fun l =>
      if f.mods.getLsbD 3 then r l || (e.g.predMask f.p64).getLsbD l else r l && (e.g.predMask f.p64).getLsbD l := by
  refine ⟨_, completes_of_runAlu h rfl, rfl, ?_⟩
  simp only [hr]
  exact cmpEff_writesP rfl

/-- The comparison that `FCMP` makes in a lane. -/
def fcmpLane (f : FmtR) (e : Env) (l : Nat) : Bool × Fx :=
  fpCompare f.cmp.toNat (valOf (fpTy f.ty) (codeOf (fpTy f.ty) (e.src 0 l))) (valOf (fpTy f.ty) (codeOf (fpTy f.ty) (e.src 1 l)))

theorem fcmp_completes {g : Guard} {f : FmtR} {s : State} {e : Env} (h : Ready s (.fcmp g f) e) :
    ∃ x, Completes s (.fcmp g f) e s x ∧ x.regs = [] ∧ WritesP x f.p97 e.act fun l =>
      if f.mods.getLsbD 3 then (fcmpLane f e l).1 || (e.g.predMask f.p64).getLsbD l
      else (fcmpLane f e l).1 && (e.g.predMask f.p64).getLsbD l :=
  ⟨{ cmpEff e f (fun l => (fcmpLane f e l).1) with fx := lanes fun l => if e.act.getLsbD l then (fcmpLane f e l).2 else 0 },
    runAlu_ready h, rfl, cmpEff_writesP rfl⟩

theorem fcmpLane_nan {f : FmtR} {e : Env} {l : Nat} (hty : f.ty = 0) (hnan : isNan32 (e.src32 0 l) ∨ isNan32 (e.src32 1 l)) :
    (fcmpLane f e l).1 = (f.cmp == 1 || f.cmp == 7) := by
  have hval : ((valOf .f32 (codeOf .f32 (e.src 0 l))).isNan || (valOf .f32 (codeOf .f32 (e.src 1 l))).isNan) = true :=
    Bool.or_eq_true_iff.mpr (hnan.imp valOf_isNan valOf_isNan)
  rw [fcmpLane, hty]
  exact (fpCompare_nan _ hval).trans (cmp_ne_or_nan _)

theorem fcmp_nan_completes {g : Guard} {f : FmtR} {s : State} {e : Env} (h : Ready s (.fcmp g f) e) (hty : f.ty = 0)
    (hand : f.mods.getLsbD 3 = false) (hq : f.p64 = 7) :
    ∃ x v, Completes s (.fcmp g f) e s x ∧ x.regs = [] ∧ WritesP x f.p97 e.act v
      ∧ ∀ l, l < 32 → e.act.getLsbD l = true → isNan32 (e.src32 0 l) ∨ isNan32 (e.src32 1 l) → v l = (f.cmp == 1 || f.cmp == 7) := by
  obtain ⟨x, hx, hregs, hpred⟩ := fcmp_completes h
  refine ⟨x, _, hx, hregs, hpred, fun l hl _ hnan => ?_⟩
  rw [hand, hq, predMask_p7 e.g hl, fcmpLane_nan hty hnan]
  simp

/-- Settles O15: shifts of the register's value, comparisons of the exact elements, and none but `.ne` and `.nan` of a NaN. -/
theorem shiftsAndCompares : Obligations.ShiftsAndCompares := by
  refine ⟨fun g f s e hty => ⟨fun h => ?shl, fun h => ?shr, fun h => ?sar⟩, fun g f s e h => ⟨fun hty => ?signed, fun hty => ?unsigned⟩,
    fun g f s e h => fcmp_nan_completes h⟩
  case shl => exact ⟨_, completes_of_runAlu h rfl, shift_writes32 hty .shl e⟩
  case shr => exact ⟨_, completes_of_runAlu h rfl, shift_writes32 hty .shr e⟩
  case sar => exact ⟨_, completes_of_runAlu h rfl, shift_writes32 hty .sar e⟩
  case signed => exact icmp_completes h fun l => by rw [hty, elemOf_s32, elemOf_s32]; exact cmpInt_eq ..
  case unsigned => exact icmp_completes h fun l => by rw [hty, elemOf_u32, elemOf_u32]; exact cmpInt_eq ..

end Sys2Proof.Machine
end

section
/-! PROOFS. Control words: where a branch that is uniform, or need not be, sends the active threads, the trap of one that is not
(O17), and how `EXIT`, `CONV` and `YIELD` leave theirs (O18). -/

namespace Sys2Proof.Machine

/-- A ready word whose effect places its threads. -/
theorem moves_of_runWord {i : Instr} {s t : State} {e : Env} {body : Env → State → Res} {f : Eff} {place : Nat → Thread → Thread}
    {post : List (Cause × Word)} {after : State → State} (h : Ready s i e) (hexec : exec i s = runWord i noCheck body s)
    (hbody : body e s = .move t f place post after) : Moves s i e t f place post after := by
  rw [Moves, hexec, runWord_ready h rfl, hbody]
  rfl

/-- A ready word that traps for all its lanes before it has done anything. -/
theorem exec_trap_of_runWord {i : Instr} {s : State} {e : Env} {body : Env → State → Res} {c : Cause} {info : Word} (h : Ready s i e)
    (hexec : exec i s = runWord i noCheck body s) (hbody : body e s = .stop s {} 0 (.trap c info)) :
    exec i s = .next (s.trapBefore e 0 c info 0 0 (lowLane e.act)) := by
  have hact : e.act &&& ~~~(0 : Mask) = e.act := BitVec.and_allOnes
  rw [hexec, runWord_ready h rfl, hbody]
  simp only [Res.apply, beq_self_eq_true, if_true, hact]

/-! ### Branches (05_group_integer R107, R108, 06_group_float R150) -/

section
variable {e : Env} {u : Bool} {tgt : Nat → Word}

/-- All the issue group's threads that are not done are active, or none, and the active ones agree on where to go. -/
def Uniform (e : Env) (tgt : Nat → Word) : Prop :=
  (e.act = 0 ∨ e.act = e.ig.mask &&& ~~~e.ig.done) ∧ ∀ l ∈ e.lanes, tgt l = tgt e.low

/-- A branch without U, or a uniform one, places its threads. -/
theorem branch_moves (h : u = false ∨ Uniform e tgt) (s : State) (regs : List RegWrite) :
    branch e s u tgt regs = .move s { regs := regs } (branchTo e.act tgt) [] id := by
  refine if_neg fun hstop => ?_
  obtain ⟨hu, hstop⟩ := Bool.and_eq_true_iff.mp hstop
  rcases h with h | ⟨hall, hagree⟩
  · exact Bool.false_ne_true (h.symm.trans hu)
  rcases Bool.or_eq_true_iff.mp hstop with hsplit | hdiffer
  · rcases hall with h | h <;> simp [h] at hsplit
  · obtain ⟨l, hl, hne⟩ := List.any_eq_true.mp hdiffer
    simp [hagree l hl] at hne

/-- A branch with U at which the guard holds in some threads and not in others traps. -/
theorem branch_split (h0 : e.act ≠ 0) (hsome : e.act ≠ e.ig.mask &&& ~~~e.ig.done) (s : State) (regs : List RegWrite) :
    branch e s true tgt regs = .stop s {} 0 (.trap 0x14 0) := by
  have hsplit : (e.act != 0 && e.act != (e.ig.mask &&& ~~~e.ig.done)) = true :=
    Bool.and_eq_true_iff.mpr ⟨bne_iff_ne.mpr h0, bne_iff_ne.mpr hsome⟩
  exact if_pos (by rw [hsplit]; rfl)

end

theorem linkWrite_writes64 (e : Env) : Writes64 { regs := linkWrite e } 190 e.act fun _ => e.ig.pc + 8 :=
  writes64_of rfl fun _ _ _ => rfl

theorem sbra_moves {g : Guard} {f : FmtB} {s : State} {e : Env} (h : Ready s (.sbra g f) e) (hall : e.act = 0 ∨ e.act = e.ig.mask) :
    Moves s (.sbra g f) e s {} (branchTo e.act (if f.kind = 0 then fun _ => e.ig.pc + dispBytes f else e.src 0)) [] id := by
  refine moves_of_runWord h rfl ?_
  simp only [branch_moves (.inl rfl), beq_iff_eq]
  rcases hall with h0 | hm
  · rw [if_pos h0]
  · simp [scalarRes, hm]

/-- Settles O17: each word is `branch` over its own targets, link write and U. -/
theorem branches : Obligations.Branches := by
  refine ⟨fun g f s e => ⟨fun h hu => ?bra, fun h hu => ?brx, fun h => ?ret, fun h => ?call, fun h => ?callIndirect, fun h hall => ?sbra⟩,
    fun g f s e i hi h hu h0 hsome => ?split⟩
  case bra => exact moves_of_runWord h rfl (branch_moves hu s [])
  case brx => exact moves_of_runWord h rfl (branch_moves hu s [])
  case ret => exact moves_of_runWord h rfl (branch_moves (.inl rfl) s [])
  case call => exact ⟨_, moves_of_runWord h rfl (branch_moves (.inl rfl) s _), linkWrite_writes64 e⟩
  case callIndirect => exact ⟨_, moves_of_runWord h rfl (branch_moves (.inl rfl) s _), linkWrite_writes64 e⟩
  case sbra => exact sbra_moves h hall
  case split =>
    rcases hi with rfl | rfl
    · exact exec_trap_of_runWord h rfl (hu ▸ branch_split h0 hsome s [])
    · exact exec_trap_of_runWord h rfl (hu ▸ branch_split h0 hsome s [])

/-! ### `EXIT`, `CONV` and `YIELD` (05_group_integer R109-R111) -/

theorem yield_moves {g : Guard} {f : FmtX} {s : State} {e : Env} (h : Ready s (.yield g f) e) (h0 : e.act ≠ 0)
    (hg : s.group? e.gk = some e.g) :
    Moves s (.yield g f) e (s.setGroup e.gk { e.g with yielded := true }) {}
      (fun l t => if e.act.getLsbD l then { t with hold := some (s.cyclesOf e.ck + (f.low.extractLsb' 0 16).toNat) } else t) [] id := by
  refine moves_of_runWord h rfl ?_
  simp only [beq_eq_false_iff_ne.mpr h0, Bool.false_eq_true, if_false, modGroup_of hg]
  rfl

theorem yield_none {g : Guard} {f : FmtX} {s : State} {e : Env} (h : Ready s (.yield g f) e) (h0 : e.act = 0) :
    Moves s (.yield g f) e s {} (fun _ t => t) [] id := by
  refine moves_of_runWord h rfl ?_
  simp [h0]

/-- Settles O18: each word changes the threads in its active lanes, and `YIELD` its group besides. -/
theorem threadWords : Obligations.ThreadWords :=
  fun _ _ _ _ => ⟨fun h => moves_of_runWord h rfl rfl, fun h => moves_of_runWord h rfl rfl, yield_moves, yield_none⟩

end Sys2Proof.Machine
end

section
/-! PROOFS. Scalar words: the guard rule of the scalar pipe, the results that `s` registers receive, and what a well-formed word
holds in its fields (O16). -/

namespace Sys2Proof.Machine

/-! ### The guard rule (06_group_float R145) -/

theorem scalarRes_of_all {e : Env} (h0 : e.act ≠ 0) (hall : e.act = e.ig.mask) (s : State) (run : Res) : scalarRes e s run = run :=
  (if_neg (by simpa using h0)).trans (if_neg (by simpa using hall))

theorem scalarRes_of_none {e : Env} (h0 : e.act = 0) (s : State) (run : Res) : scalarRes e s run = .done s {} :=
  if_pos (beq_iff_eq.mpr h0)

theorem scalarRes_of_some {e : Env} (h0 : e.act ≠ 0) (hsome : e.act ≠ e.ig.mask) (s : State) (run : Res) :
    scalarRes e s run = .stop s {} 0 (.trap 0x14 0) :=
  (if_neg (by simpa using h0)).trans (if_pos (bne_iff_ne.mpr hsome))

/-- The meaning of `i` is `run`, under the guard rule of the scalar pipe. -/
def ScalarPipe (i : Instr) (run : Env → State → Res) : Prop :=
  exec i = runWord i noCheck fun e s => scalarRes e s (run e s)

/-- A ready word whose effect is register writes. -/
theorem completes_of_runWord {i : Instr} {s : State} {e : Env} {body : Env → State → Res} {x : Eff} (h : Ready s i e)
    (hexec : exec i s = runWord i noCheck body s) (hbody : body e s = .done s x) : Completes s i e s x := by
  rw [Completes, hexec, runWord_ready h rfl, hbody]
  rfl

section
variable {i : Instr} {run : Env → State → Res} {s : State} {e : Env} (hexec : ScalarPipe i run) (h : Ready s i e)
include hexec h

theorem ScalarPipe.completes {x : Eff} (h0 : e.act ≠ 0) (hall : e.act = e.ig.mask) (hrun : run e s = .done s x) :
    Completes s i e s x := completes_of_runWord h (congrFun hexec s) ((scalarRes_of_all h0 hall ..).trans hrun)

theorem ScalarPipe.completes_none (h0 : e.act = 0) : Completes s i e s {} :=
  completes_of_runWord h (congrFun hexec s) (scalarRes_of_none h0 ..)

theorem ScalarPipe.traps (h0 : e.act ≠ 0) (hsome : e.act ≠ e.ig.mask) :
    exec i s = .next (s.trapBefore e 0 0x14 0 0 0 (lowLane e.act)) :=
  exec_trap_of_runWord h (congrFun hexec s) (scalarRes_of_some h0 hsome ..)

end

/-! ### Results (06_group_float R146-R148) -/

/-- The meaning of `i` is to write `v` to the `s` register `d`, under the guard rule of the scalar pipe. -/
def ScalarResult (i : Instr) (d : BitVec 8) (v : Env → Word) : Prop :=
  ScalarPipe i fun e s => .done s { sreg := some (d, v e) }

section
variable (g : Guard) (f : FmtR)

theorem smov_result : ScalarResult (.smov g f) f.d fun e => e.src 0 e.low := rfl

theorem smovImm_result : ScalarResult (.smovImm g f) f.d fun _ => f.imm16.signExtend 64 := rfl

theorem smovIns_result : ScalarResult (.smovIns g f) f.d fun e => (e.src 0 e.low <<< 16) ||| f.imm16.setWidth 64 := rfl

theorem slea_result : ScalarResult (.slea g f) f.d fun e => e.src 0 e.low + (e.src 1 e.low <<< f.sub.toNat) := rfl

theorem v2sFirst_result : ScalarResult (.v2sFirst g f) f.d fun e => e.src 0 e.low := rfl

theorem v2sLane_result : ScalarResult (.v2sLane g f) f.d fun e => e.src 0 ((e.src 1 e.low).toNat % 32) := rfl

theorem salu_result : ScalarResult (.salu g f) f.d fun e => salu f.sub.toNat (e.src 0 e.low) (e.src 1 e.low) := rfl

theorem v2sUni_pipe : ScalarPipe (.v2sUni g f) fun e s => if e.lanes.all fun l => e.src 0 l == e.src 0 e.low
    then .done s { sreg := some (f.d, e.src 0 e.low) } else .stop s {} 0 (.trap 0x14 0) := rfl

/-- The effect of `SCMP`: one comparison, joined in each member with its Q. -/
def scmpEff (e : Env) : Eff :=
  cmpEff e f fun _ => cmpInt f.cmp.toNat (elemOf f.ty (e.src 0 e.low) 0) (elemOf f.ty (e.src 1 e.low) 0)

theorem scmp_pipe : ScalarPipe (.scmp g f) fun e s => .done s (scmpEff f e) := rfl

/-- The words of R146-R148 are under the guard rule. -/
theorem exists_scalarPipe : ∀ i ∈ [Instr.smov g f, .smovImm g f, .smovIns g f, .slea g f, .v2sFirst g f, .v2sLane g f, .v2sUni g f,
    .salu g f, .scmp g f], ∃ run, ScalarPipe i run := by
  simp only [List.forall_mem_cons]
  exact ⟨⟨_, smov_result g f⟩, ⟨_, smovImm_result g f⟩, ⟨_, smovIns_result g f⟩, ⟨_, slea_result g f⟩, ⟨_, v2sFirst_result g f⟩,
    ⟨_, v2sLane_result g f⟩, ⟨_, v2sUni_pipe g f⟩, ⟨_, salu_result g f⟩, ⟨_, scmp_pipe g f⟩, List.forall_mem_nil _⟩

end

section
variable {g : Guard} {f : FmtR} {s : State} {e : Env} (h0 : e.act ≠ 0) (hall : e.act = e.ig.mask)
include h0 hall

theorem ScalarResult.scalar {i : Instr} {d : BitVec 8} {v : Env → Word} (hexec : ScalarResult i d v) (h : Ready s i e) :
    Scalar i s e d (v e) := ScalarPipe.completes hexec h h0 hall rfl

/-- `SALU` with the operation that its SUB names. -/
theorem salu_scalar (h : Ready s (.salu g f) e) {op : BitVec 4} (hsub : f.sub = op) :
    Scalar (.salu g f) s e f.d (salu op.toNat (e.src 0 e.low) (e.src 1 e.low)) :=
  hsub ▸ (salu_result g f).scalar h0 hall h

/-- `V2S.uni` of members that hold the same value. -/
theorem v2sUni_scalar (h : Ready s (.v2sUni g f) e) (hsame : ∀ l ∈ e.lanes, e.src 0 l = e.src 0 e.low) :
    Scalar (.v2sUni g f) s e f.d (e.src 0 e.low) :=
  (v2sUni_pipe g f).completes h h0 hall (if_pos (List.all_eq_true.mpr fun l hl => beq_iff_eq.mpr (hsame l hl)))

theorem scmp_completes (h : Ready s (.scmp g f) e) : Completes s (.scmp g f) e s (scmpEff f e) :=
  (scmp_pipe g f).completes h h0 hall rfl

end

theorem scmpEff_lt_s64 {f : FmtR} (hty : f.ty = 2) (hcmp : f.cmp = 2) (e : Env) :
    scmpEff f e = cmpEff e f fun _ => decide ((e.src 0 e.low).toInt < (e.src 1 e.low).toInt) := by
  rw [scmpEff, hty, hcmp, elemOf_s64, elemOf_s64]
  rfl

/-- A comparison that is joined with p7 by `and` stands alone. -/
theorem cmpEff_writesP_alone {f : FmtR} (hq : f.p64 = 7) (hand : f.mods.getLsbD 3 = false) (e : Env) (fn : Nat → Bool) :
    WritesP (cmpEff e f fn) f.p97 e.act fn :=
  writesP_of rfl fun l hl _ => by
    rw [hand, hq, predMask_p7 e.g hl]
    simp

/-! ### Fields of well-formed words (06_group_float R146) -/

section
variable {f : FmtR}

theorem FmtR.unA_eq_false : f.unA = false ↔ f.a = 255 ∧ f.ka = false ∧ f.ta = false := by simp [FmtR.unA, and_assoc]

theorem FmtR.unB_eq_false : f.unB = false ↔ f.b = 255 ∧ f.kb = false ∧ f.tb = false := by simp [FmtR.unB, and_assoc]

theorem FmtR.unC_eq_false : f.unC = false ↔ f.c = 255 ∧ f.kc = false ∧ f.tc = false := by simp [FmtR.unC, and_assoc]

end

/-- Settles O16: each word is a result under the guard rule, and its entry's check of reserved fields gives what they hold. -/
theorem scalarWords : Obligations.ScalarWords := by
  refine ⟨fun g f s e h0 hall => ⟨fun h => ?smov, fun h => ?smovImm, fun h => ?smovIns, fun h => ?slea, fun h => ?v2sFirst, fun h => ?v2sLane,
    fun h hsame => ?v2sUni, fun h => ?salu, fun h => ?scmp⟩, fun g f s e i hi h => ?guard, fun g f => ?fields⟩
  case smov => exact (smov_result g f).scalar h0 hall h
  case smovImm => exact (smovImm_result g f).scalar h0 hall h
  case smovIns => exact (smovIns_result g f).scalar h0 hall h
  case slea => exact (slea_result g f).scalar h0 hall h
  case v2sFirst => exact (v2sFirst_result g f).scalar h0 hall h
  case v2sLane => exact (v2sLane_result g f).scalar h0 hall h
  case v2sUni => exact v2sUni_scalar h0 hall h hsame
  case salu =>
    have op {k : BitVec 4} (hsub : f.sub = k) := salu_scalar h0 hall h hsub
    exact ⟨op, op, op, op, op, op, op, op, op, op, op, op, op⟩
  case scmp =>
    refine ⟨_, scmp_completes h0 hall h, rfl, rfl, fun hty hq hand hcmp => ?_⟩
    rw [scmpEff_lt_s64 hty hcmp]
    exact cmpEff_writesP_alone hq hand ..
  case guard =>
    obtain ⟨run, hrun⟩ := exists_scalarPipe g f i hi
    exact ⟨hrun.completes_none h, hrun.traps h⟩
  case fields =>
    refine ⟨fun h => ?_, fun h => ?_, fun h => ?_, fun h => ?_, fun h => ?_⟩
    -- the entry's rule of order 5 is a disjunction of deviations, none of which holds
    all_goals
      have hres := illFormed_res h
      simp only [Instr.rules, Bool.or_eq_false_iff, bne_eq_false_iff_eq, decide_eq_false_iff_not, Nat.not_lt, FmtR.unA_eq_false,
        FmtR.unB_eq_false, FmtR.unC_eq_false] at hres
      simp only [hres, and_self]

end Sys2Proof.Machine
end

section
/-! PROOFS. Tile words: a ready one is its quarters in ascending order, a quarter that is present as a whole passes its checks, and what
`ZCLR` leaves in the group's tiles and `TST` in memory (O45). -/

namespace Sys2Proof.Machine

/-! ### A ready tile word is its quarters (07_tile R158, R164) -/

theorem join_alone {e : Env} (h : e.waiting e.g .quarter = []) (gd : Guard) (s : State) : e.join gd s = (e, s) := by
  simp [Env.join, h]

theorem unguarded_of_budget {e : Env} (h : e.g.overBudget e.ops = false) : e.unguarded = e := by
  simp [Env.unguarded, h]

/-- The destination checks of `ZRD` and `TLD` pass. -/
structure DestsPass (s : State) (e : Env) : Prop where
  full : (e.ops.any fun o => o.dst && e.g.emptyOp o) = false
  budget : e.g.overBudget e.ops = false
  pool : s.poolShort e.pk e.g e.ops = false
  turn : s.poolWaits e.gk (e.ig.block == some .pool) = false

theorem DestsPass.qDests {s : State} {e : Env} (h : DestsPass s e) (k : Res) : qDests e s k = k := by
  simp only [Machine.qDests, h.full, h.budget, h.pool, h.turn, Bool.and_false, Bool.or_false, Bool.false_eq_true, if_false]

/-- The word ends as its quarters do. -/
def RunsQuarters (i : Instr) (op : QuarterOp) (long : Option OpClass) (s : State) (e : Env) : Prop :=
  exec i s = .next ((mxRes op long e s).apply s e)

section
variable {g : Guard} {f : FmtT} {s : State} {e : Env}

theorem runMtx_ready {i : Instr} {pre : PreCheck} {op : QuarterOp} {long : Option OpClass} (h : Ready s i e)
    (hw : e.waiting e.g .quarter = []) (hp : pre e s = none) :
    runMtx i pre op long s = .next ((mxRes op long e s).apply s e) := by
  simp only [runMtx, h.env, join_alone hw, issueWord_ready h hp]

theorem mma_runs (h : Ready s (.mma g f) e) (hw : e.waiting e.g .quarter = []) (hp : mmaPre f false e s = none) :
    RunsQuarters (.mma g f) (mmaQuarter f false) none s e := runMtx_ready h hw hp
theorem mmas_runs (h : Ready s (.mmas g f) e) (hw : e.waiting e.g .quarter = []) (hp : mmaPre f true e s = none) :
    RunsQuarters (.mmas g f) (mmaQuarter f true) none s e := runMtx_ready h hw hp
theorem zclr_runs (h : Ready s (.zclr g f) e) (hw : e.waiting e.g .quarter = []) :
    RunsQuarters (.zclr g f) (zclrQuarter f) none s e := runMtx_ready h hw rfl
theorem zst_runs (h : Ready s (.zst g f) e) (hw : e.waiting e.g .quarter = []) :
    RunsQuarters (.zst g f) (zstQuarter f) none s e := runMtx_ready h hw rfl
theorem zld_runs (h : Ready s (.zld g f) e) (hw : e.waiting e.g .quarter = []) :
    RunsQuarters (.zld g f) (zldQuarter f) none s e := runMtx_ready h hw rfl
theorem tst_runs (h : Ready s (.tst g f) e) (hw : e.waiting e.g .quarter = []) :
    RunsQuarters (.tst g f) (tstQuarter f) none s e := runMtx_ready h hw rfl

theorem zrd_runs (h : Ready s (.zrd g f) e) (hw : e.waiting e.g .quarter = []) (hp : zrdPre f e s = none) (hd : DestsPass s e) :
    RunsQuarters (.zrd g f) (zrdQuarter f) (some .mx) s e := by
  change execZrd g f s = _
  simp only [execZrd, h.env, join_alone hw, unguarded_of_budget hd.budget, issueWord_ready h hp, hd.qDests]

theorem tld_runs (h : Ready s (.tld g f) e) (hw : e.waiting e.g .quarter = []) (hd : DestsPass s e) :
    RunsQuarters (.tld g f) (tldQuarter f) (some .ld) s e := by
  change execTld g f s = _
  simp only [execTld, h.env, join_alone hw, unguarded_of_budget hd.budget, issueWord_ready h (pre := noCheck) rfl, hd.qDests]

end

/-- The traps that wait in the issue group, then those of the quarters. -/
def tileTraps (op : QuarterOp) (e : Env) (s : State) : List (Cause × Word) :=
  (((quarters op e s).r.s.ig? e.pk).getD e.ig).traps ++ (quarters op e s).r.traps

/-- Where no quarter stops, the result is completion with what the quarters have done, then one of the traps that follow (R166). -/
theorem mxRes_passed {op : QuarterOp} {e : Env} {s : State} (hwhy : (quarters op e s).r.why = none)
    (hwait : (quarters op e s).wait = none) (long : Option OpClass) :
    mxRes op long e s = .doneWith (quarters op e s).r.s
      { regs := (quarters op e s).r.regs, fx := (quarters op e s).r.fx, long := long } (mxChoose (tileTraps op e s)) := by
  unfold tileTraps
  generalize hq : quarters op e s = a at *
  unfold quarters at hq
  unfold mxRes
  rw [hq]
  simp only [hwhy, hwait]

theorem apply_doneWith (s t : State) (e : Env) (f : Eff) (post : List (Cause × Word)) :
    (Res.doneWith t f post).apply s e = t.finish e f none post false id := rfl

theorem RunsQuarters.completes {i : Instr} {op : QuarterOp} {long : Option OpClass} {s : State} {e : Env} (h : RunsQuarters i op long s e)
    (hwhy : (quarters op e s).r.why = none) (hwait : (quarters op e s).wait = none) :
    exec i s = .next ((quarters op e s).r.s.finish e { regs := (quarters op e s).r.regs, fx := (quarters op e s).r.fx, long := long }
      none (mxChoose (tileTraps op e s)) false id) := by
  have h' : exec i s = .next ((mxRes op long e s).apply s e) := h
  rw [h', mxRes_passed hwhy hwait long, apply_doneWith]

theorem tileTraps_nil {op : QuarterOp} {e : Env} {s : State} (hr : (quarters op e s).r.traps = [])
    (hig : (quarters op e s).r.s.ig? e.pk = some e.ig) (ht : e.ig.traps = []) : tileTraps op e s = [] := by
  simp [tileTraps, hr, hig, ht]

/-! ### Quarters in order -/

/-- What holds before the first quarter and goes over each one holds after the four. -/
theorem quarters_induct {op : QuarterOp} {e : Env} {s : State} {P : Nat → MxAcc → Prop} (h0 : P 0 { r := { s := s }, done := 0, wait := none })
    (hstep : ∀ q < 4, ∀ a, P q a → P (q + 1) (mxQuarter e op a q)) : P 4 (quarters op e s) :=
  hstep 3 (by decide) _ (hstep 2 (by decide) _ (hstep 1 (by decide) _ (hstep 0 (by decide) _ h0)))

/-- A quarter whose 8 threads are there, all with their guard. -/
def wholeQuarter (q : Nat) : Quarter := { q := q, here := quarterMask q, act := quarterMask q, exited := false }

theorem quarterMask_ne_zero {q : Nat} (hq : q < 4) : quarterMask q ≠ 0 := by
  revert q
  decide

/-- The lowest thread of a quarter is its first. -/
theorem lowLane_quarterMask {q : Nat} (hq : q < 4) : lowLane (quarterMask q) = 8 * q := by
  revert q
  decide

/-- The issue group is the threads of `m`, none of them done, none exited, every guard true. -/
structure Present (e : Env) (m : Mask) : Prop where
  mask : e.ig.mask = m
  act : e.act = m
  done : e.ig.done = 0
  live : e.g.live = 0xFFFFFFFF

/-- The accumulator after a quarter that does not stop. -/
def MxAcc.after (a : MxAcc) (e : Env) (q : Nat) (r : QRes) : MxAcc :=
  { r := { s := r.s, regs := a.r.regs ++ r.regs, fx := lanes fun l => Lanes.at a.r.fx l ||| Lanes.at r.fx l,
           traps := a.r.traps ++ (r.traps ++ (a.r.s.formatTrap e.x r.fx).toList), why := none },
    done := a.done ||| quarterMask q, wait := a.wait }

/-- A whole quarter that does not stop adds what its operation does. -/
theorem mxQuarter_whole {e : Env} {m : Mask} (hp : Present e m) {q : Nat} (hq : q < 4) (hm : m &&& quarterMask q = quarterMask q) {op : QuarterOp}
    {a : MxAcc} (ha : a.r.why = none) {r : QRes} (hr : op e (wholeQuarter q) a.r.s = r) (hwhy : r.why = none) :
    mxQuarter e op a q = a.after e q r := by
  have hne : (quarterMask q == 0) = false := beq_eq_false_iff_ne.mpr (quarterMask_ne_zero hq)
  have hundone : quarterMask q &&& ~~~0 = quarterMask q := BitVec.and_allOnes
  have hlive : (0xFFFFFFFF : Mask) &&& quarterMask q = quarterMask q := BitVec.allOnes_and
  rw [wholeQuarter] at hr
  simp only [mxQuarter, hp.mask, hp.act, hp.done, hp.live, hm, ha, hne, hundone, hlive, bne_self_eq_false, hr, hwhy, Option.isSome_none,
    Option.bind_none, Bool.or_self, Bool.and_false, Bool.false_eq_true, if_false]
  simp [MxAcc.after]

/-- A quarter of which no thread is in the issue group does nothing. -/
theorem mxQuarter_absent {e : Env} {q : Nat} (h : e.ig.mask &&& quarterMask q = 0) (op : QuarterOp) (a : MxAcc) : mxQuarter e op a q = a := by
  simp [mxQuarter, h]

/-- A quarter operation that does not stop, and leaves what `P` says. -/
def Passes (r : QRes) (P : State → Prop) : Prop := r.why = none ∧ P r.s

/-- What every quarter of a whole group keeps, and no quarter stops, holds of the state after them. -/
theorem quarters_whole {e : Env} (hp : Present e 0xFFFFFFFF) {op : QuarterOp} {P : State → Prop} {s : State} (h0 : P s)
    (hstep : ∀ q < 4, ∀ u, P u → Passes (op e (wholeQuarter q) u) P) :
    (quarters op e s).r.why = none ∧ (quarters op e s).wait = none ∧ P (quarters op e s).r.s := by
  refine quarters_induct (P := fun _ a => a.r.why = none ∧ a.wait = none ∧ P a.r.s) ⟨rfl, rfl, h0⟩ fun q hq a ⟨hwhy, hwait, ha⟩ => ?_
  obtain ⟨hgo, hkeep⟩ := hstep q hq a.r.s ha
  rw [mxQuarter_whole hp hq BitVec.allOnes_and hwhy rfl hgo]
  exact ⟨rfl, hwait, hkeep⟩

/-! ### A whole quarter passes its checks (07_tile R158, R164) -/

theorem dropMarks_clean {u : State} (hm : u.marks = []) (hv : u.moved = []) (p : ErrPlace → Bool) : u.dropMarks p = u := by
  simp [State.dropMarks, hm, hv]

theorem localPoison_clean {u : State} (hm : u.marks = []) (hv : u.moved = []) (p : ErrPlace → Bool) : u.localPoison p = none := by
  simp [State.localPoison, hm, hv]

theorem zPoison_clean {u : State} (hm : u.marks = []) (e : Env) (q z : Nat) (rows : Mask) : u.zPoison e q z rows = false := by
  simp [State.zPoison, hm]

theorem poisonedReg_clean {u : State} (hm : u.marks = []) (gk : Nat) (act : Mask) (ops : List Operand) :
    u.poisonedReg gk act ops = false := by
  simp [State.poisonedReg, hm]

theorem qNames_pass {u : State} {e : Env} (hm : u.marks = []) {reads : List (Operand × Mask)}
    (hr : ∀ r ∈ reads, e.g.unmappedOp r.1 = false ∧ e.g.emptyOp r.1 = false) (k : QRes) : qNames u e reads k = k := by
  have hmapped : (reads.any fun r => e.g.unmappedOp r.1) = false := List.any_eq_false.mpr fun r hr' => by simp [(hr r hr').1]
  have hfull : (reads.any fun r => e.g.emptyOp r.1) = false := List.any_eq_false.mpr fun r hr' => by simp [(hr r hr').2]
  have hclean : (reads.any fun r => u.poisonedReg e.gk r.2 [{ r.1 with src := true }]) = false :=
    List.any_eq_false.mpr fun _ _ => by simp [poisonedReg_clean hm]
  simp only [qNames, hmapped, hfull, hclean, Bool.false_eq_true, if_false]

/-- `u` is `s` but for tiles, counters, latches and the scratchpad bytes `sc` of the team, without an error anywhere. -/
structure Intact (s : State) (e : Env) (sc : SMap Byte) (u : State) : Prop where
  mem : u.mem = s.mem
  marks : u.marks = []
  moved : u.moved = []
  team : u.team? e.tid = some { e.t with scratch := sc }

section
variable {s u : State} {e : Env} {sc : SMap Byte} (h : Intact s e sc u)
include h

theorem Intact.modGroup (gk : Nat) (fn : Group → Group) : Intact s e sc (u.modGroup gk fn) :=
  ⟨by simp [h.mem], by simp [h.marks], by simp [h.moved], by simpa [State.team?] using h.team⟩

theorem Intact.countMx (pk : Nat) (a b : List Byte) (latched : Bool) (zeros : Nat) : Intact s e sc (u.countMx pk a b latched zeros) :=
  ⟨h.mem, h.marks, h.moved, h.team⟩

theorem Intact.setZ (gk q z : Nat) (vals : List (Nat × Nat × BitVec 56)) : Intact s e sc (u.setZ gk q z vals) := by
  have k := h.modGroup gk fun g => { g with z := vals.foldl (fun m p => SMap.put m 0 (zKey q z p.1 p.2.1) p.2.2) g.z }
  rw [State.setZ, dropMarks_clean k.marks k.moved]
  exact k

theorem Intact.writeScratch (a : Nat) (bs : List Byte) : Intact s e (putBytes sc a bs) (u.writeScratch e.tid a bs) := by
  rw [State.writeScratch, dropMarks_clean (by simp [h.marks]) (by simp [h.moved])]
  exact ⟨by simp [h.mem], by simp [h.marks], by simp [h.moved], by rw [State.team?_modTeam, h.team]; rfl⟩

/-- The scratchpad checks pass: the operation goes on with the bytes. -/
theorem Intact.qScratch (hl : e.t.empty = []) {t : Quarter} {a n : Nat} (ha : a % 8 = 0) (hn : a + n ≤ e.t.kernel.scratch) (lines tb : Bool)
    (k : List Byte → QRes) : qScratch u e t a n lines tb k = k (({ e.t with scratch := sc } : Team).scratchBytes a n) := by
  have hpoison : (if lines then u.localPoison (ErrPlace.inScratch e.tid a n) else none) = none := by
    rw [localPoison_clean h.marks h.moved, ite_self]
  simp only [Machine.qScratch, h.team, hl, hpoison, ha, Nat.not_lt.mpr hn]
  simp

end

theorem qTile_pass {e : Env} {z : BitVec 3} (h : z.toNat < e.t.kernel.anvil) (u : State) (k : QRes) : qTile u e z k = k :=
  if_neg (Nat.not_le.mpr h)

theorem qLive_whole (u : State) (q : Nat) (k : QRes) : qLive u (wholeQuarter q) k = k := rfl

theorem qWhole_whole (u : State) (q : Nat) (k : QRes) : qWhole u (wholeQuarter q) k = k := by
  simp [qWhole, wholeQuarter]

theorem qAddr_whole {q : Nat} (hq : q < 4) (e : Env) (f : FmtT) (o : Nat) : qAddr e f o (wholeQuarter q) = tileAddr e f o q := by
  simp only [qAddr, tileAddr, wholeQuarter, lowLane_quarterMask hq]

theorem lowLane_whole {q : Nat} (hq : q < 4) : lowLane (wholeQuarter q).act = 8 * q := lowLane_quarterMask hq

theorem wholeQuarter_act {q : Nat} (hq : q < 4) : ((wholeQuarter q).act == 0) = false :=
  beq_eq_false_iff_ne.mpr (quarterMask_ne_zero hq)

/-! ### No quarter of a whole group stops -/

theorem WholeGroup.present {s : State} {e : Env} (w : WholeGroup s e) : Present e 0xFFFFFFFF := ⟨w.mask, w.act, w.done, w.live⟩

theorem WholeGroup.intact {s : State} {e : Env} (w : WholeGroup s e) : Intact s e e.t.scratch s := ⟨rfl, w.clean.1, w.clean.2, w.team⟩

section
variable {s u : State} {e : Env} {f : FmtT} {q : Nat} {sc : SMap Byte}

/-- The operands of a quarter are among those of the word. -/
theorem names_zip (hn : ∀ o ∈ e.ops, e.g.unmappedOp o = false ∧ e.g.emptyOp o = false) {ops : List Operand} (hsub : ∀ o ∈ ops, o ∈ e.ops)
    (ms : List Mask) : ∀ r ∈ ops.zip ms, e.g.unmappedOp r.1 = false ∧ e.g.emptyOp r.1 = false :=
  fun r hr => hn r.1 (hsub r.1 (List.of_mem_zip hr).1)

theorem zst_passes (w : WholeGroup s e) (hq : q < 4) (h : Intact s e sc u) (hz : f.z.toNat < e.t.kernel.anvil) (hfit : tileFits e f 0 512) :
    Passes (zstQuarter f e (wholeQuarter q) u) fun u => ∃ sc, Intact s e sc u := by
  obtain ⟨ha, hn⟩ := hfit q hq
  simp only [zstQuarter, wholeQuarter_act hq, Bool.false_eq_true, if_false, qLive_whole, qTile_pass hz, qWhole_whole,
    qNames_pass h.marks (names_zip w.names (fun _ => id) _), zPoison_clean h.marks, qAddr_whole hq, h.qScratch w.lines ha hn]
  exact ⟨rfl, _, h.writeScratch _ _⟩

theorem zld_passes (w : WholeGroup s e) (hq : q < 4) (h : Intact s e sc u) (hz : f.z.toNat < e.t.kernel.anvil) (hfit : tileFits e f 0 512) :
    Passes (zldQuarter f e (wholeQuarter q) u) (Intact s e sc) := by
  obtain ⟨ha, hn⟩ := hfit q hq
  simp only [zldQuarter, wholeQuarter_act hq, Bool.false_eq_true, if_false, qLive_whole, qTile_pass hz, qWhole_whole,
    qNames_pass h.marks (names_zip w.names (fun _ => id) _), qAddr_whole hq, h.qScratch w.lines ha hn]
  exact ⟨rfl, h.setZ _ _ _ _⟩

theorem zrd_passes (w : WholeGroup s e) (hq : q < 4) (h : Intact s e sc u) (hz : f.z.toNat < e.t.kernel.anvil)
    (hscale : zrdK8 f = true → f.boff.getLsbD 5 = false → scaleBad (pair64 (e.src32 0 (8 * q)) (e.src32 0 (8 * q + 1))) = false) :
    Passes (zrdQuarter f e (wholeQuarter q) u) (Intact s e sc) := by
  have hnames : ∀ r ∈ (e.ops.filter (·.src)).map fun o => (o, (wholeQuarter q).pair),
      e.g.unmappedOp r.1 = false ∧ e.g.emptyOp r.1 = false := by
    simp only [List.mem_map, List.mem_filter]
    rintro _ ⟨o, ⟨ho, -⟩, rfl⟩
    exact w.names o ho
  simp only [zrdQuarter, wholeQuarter_act hq, Bool.false_eq_true, if_false, qLive_whole, qTile_pass hz, qNames_pass h.marks hnames,
    zPoison_clean h.marks]
  rw [if_neg]
  · exact ⟨rfl, h⟩
  · rw [Bool.and_eq_true, Bool.and_eq_true, Bool.not_eq_true']
    rintro ⟨⟨hsc, hk⟩, hbad⟩
    rw [hsc, hk] at hbad
    exact absurd ((hscale hk hsc).symm.trans hbad) (by decide)

theorem tldFill_passes (h : Intact s e sc u) (t : Quarter) (data : List Byte) : Passes (tldFill f t u data) (Intact s e sc) := ⟨rfl, h⟩

theorem tld_passes (w : WholeGroup s e) (hq : q < 4) (h : Intact s e sc u) (hb : f.btype = 0)
    (hfit : tileFits e f 0 (typeK f.atype / 8 * recordBytes f.atype)) : Passes (tldQuarter f e (wholeQuarter q) u) (Intact s e sc) := by
  obtain ⟨ha, hn⟩ := hfit q hq
  simp only [tldQuarter, wholeQuarter_act hq, Bool.false_eq_true, if_false, qLive_whole,
    qNames_pass h.marks (names_zip w.names (fun _ => List.mem_of_mem_take) _), hb, beq_self_eq_true, if_true, qAddr_whole hq,
    h.qScratch w.lines ha hn]
  exact tldFill_passes h _ _

theorem scratchBytes_drop (t : Team) (a n k : Nat) : (t.scratchBytes a n).drop k = t.scratchBytes (a + k) (n - k) := by
  refine List.ext_getElem (by simp [Team.scratchBytes]) fun i _ _ => ?_
  simp [Team.scratchBytes, Nat.add_assoc]

theorem scratchBytes_take (t : Team) (a n k : Nat) : (t.scratchBytes a n).take k = t.scratchBytes a (min k n) := by
  refine List.ext_getElem (by simp [Team.scratchBytes]) fun i _ _ => ?_
  simp [Team.scratchBytes]

theorem recordBytes_ge (ty : BitVec 3) : 8 ≤ recordBytes ty := by
  revert ty
  decide

/-- The word that ends record `k` of a run of `n` is the record's scale word. -/
theorem recordScale_of_run {k n : Nat} (hk : k < n) : wordOfBytes ((((e.t.scratchBytes (tileAddr e f 1 q) (n * recordBytes f.btype)).drop
      (k * recordBytes f.btype)).take (recordBytes f.btype)).drop (recordBytes f.btype - 8)) = recordScale e f q k := by
  have hrs := recordBytes_ge f.btype
  have hrun : (k + 1) * recordBytes f.btype ≤ n * recordBytes f.btype := Nat.mul_le_mul_right _ hk
  rw [Nat.add_one_mul] at hrun
  rw [scratchBytes_drop, scratchBytes_take, scratchBytes_drop, recordScale, Nat.add_one_mul]
  congr 2 <;> omega

theorem mmaCompute_passes {scaled : Bool} {t : Quarter} {data : List Byte} (h : Intact s e sc u)
    (hgood : scaled = true → ∀ k < typeK f.atype / 8, scaleBad (aScale e t.q k) = false
      ∧ scaleBad (wordOfBytes (((data.drop (k * recordBytes f.btype)).take (recordBytes f.btype)).drop (recordBytes f.btype - 8))) = false)
    (av : List (Lanes W32)) (latched : Bool) : Passes (mmaCompute f scaled e t u av latched data) (Intact s e sc) := by
  unfold mmaCompute
  rw [if_neg]
  · exact ⟨rfl, ((h.setZ _ _ _ _).countMx _ _ _ _ _).modGroup _ _⟩
  · simp only [Bool.and_eq_true, List.any_append, Bool.or_eq_true, List.any_map, List.any_eq_true, List.mem_range, Function.comp_apply]
    rintro ⟨hs, ⟨k, hk, hbad⟩ | ⟨k, hk, hbad⟩⟩
    · exact Bool.false_ne_true ((hgood hs k hk).1.symm.trans hbad)
    · exact Bool.false_ne_true ((hgood hs k hk).2.symm.trans hbad)

theorem mma_passes {scaled : Bool} (w : WholeGroup s e) (hq : q < 4) (h : Intact s e e.t.scratch u) (hz : f.z.toNat < e.t.kernel.anvil)
    (hfit : tileFits e f 1 (typeK f.atype / 8 * recordBytes f.btype))
    (hgood : scaled = true → ∀ k < typeK f.atype / 8, scaleBad (aScale e q k) = false ∧ scaleBad (recordScale e f q k) = false) :
    Passes (mmaQuarter f scaled e (wholeQuarter q) u) (Intact s e e.t.scratch) := by
  obtain ⟨ha, hn⟩ := hfit q hq
  simp only [mmaQuarter, wholeQuarter_act hq, Bool.false_eq_true, if_false, qLive_whole, qTile_pass hz, w.latch, SMap.get?, Option.filter_none,
    Option.isSome_none, qNames_pass h.marks (names_zip w.names (fun _ => id) _), zPoison_clean h.marks, qAddr_whole hq, h.qScratch w.lines ha hn]
  exact mmaCompute_passes h (fun hs k hk => by rw [recordScale_of_run hk]; exact hgood hs k hk) _ _

end

/-! ### The words of a whole group -/

/-- The word completes, with results of class `long` in flight if any, and memory is as before. -/
def TileDone (i : Instr) (long : Option OpClass) (s : State) (e : Env) : Prop :=
  ∃ (t : State) (x : Eff) (ts : List (Cause × Word)), exec i s = .next (t.finish e x none ts false id) ∧ x.long = long ∧ t.mem = s.mem

theorem RunsQuarters.done {i : Instr} {op : QuarterOp} {long : Option OpClass} {s : State} {e : Env} (h : RunsQuarters i op long s e)
    (w : WholeGroup s e) {P : State → Prop} (hmem : ∀ u, P u → u.mem = s.mem) (h0 : P s)
    (hstep : ∀ q < 4, ∀ u, P u → Passes (op e (wholeQuarter q) u) P) : TileDone i long s e := by
  obtain ⟨hwhy, hwait, hP⟩ := quarters_whole w.present h0 hstep
  exact ⟨_, _, _, h.completes hwhy hwait, rfl, hmem _ hP⟩

theorem WholeGroup.destsPass {s : State} {e : Env} (w : WholeGroup s e) (hb : e.g.overBudget e.ops = false)
    (hp : s.poolShort e.pk e.g e.ops = false) (ht : s.poolWaits e.gk (e.ig.block == some .pool) = false) : DestsPass s e :=
  ⟨List.any_eq_false.mpr fun o ho => by simp [(w.names o ho).2], hb, hp, ht⟩

theorem mmaPre_unscaled {f : FmtT} (hpair : pairAllowed f.atype f.btype = true) (s : State) (e : Env) : mmaPre f false e s = none := by
  simp [mmaPre, hpair]

theorem mmaPre_scaled {f : FmtT} (hpair : pairAllowed f.atype f.btype = true) (hfp : f.atype ≠ 3) (hbf : f.atype ≠ 4) (hs : f.s ≠ 255)
    (s : State) (e : Env) : mmaPre f true e s = none := by
  simp only [mmaPre, hpair, beq_eq_false_iff_ne.mpr hfp, beq_eq_false_iff_ne.mpr hbf, beq_eq_false_iff_ne.mpr hs, Bool.not_true,
    Bool.or_self, Bool.and_false, Bool.false_eq_true, if_false, ite_self]

section
variable {g : Guard} {f : FmtT} {s : State} {e : Env} (w : WholeGroup s e)
include w

theorem zst_done (h : Ready s (.zst g f) e) (hz : f.z.toNat < e.t.kernel.anvil) (hfit : tileFits e f 0 512) : TileDone (.zst g f) none s e :=
  (zst_runs h w.alone).done w (P := fun u => ∃ sc, Intact s e sc u) (fun _ ⟨_, hu⟩ => hu.mem) ⟨_, w.intact⟩
    fun _ hq _ ⟨_, hu⟩ => zst_passes w hq hu hz hfit

theorem zld_done (h : Ready s (.zld g f) e) (hz : f.z.toNat < e.t.kernel.anvil) (hfit : tileFits e f 0 512) : TileDone (.zld g f) none s e :=
  (zld_runs h w.alone).done w (fun _ hu => hu.mem) w.intact fun _ hq _ hu => zld_passes w hq hu hz hfit

theorem mma_done (h : Ready s (.mma g f) e) (hz : f.z.toNat < e.t.kernel.anvil) (hpair : pairAllowed f.atype f.btype = true)
    (hfit : tileFits e f 1 (typeK f.atype / 8 * recordBytes f.btype)) : TileDone (.mma g f) none s e :=
  (mma_runs h w.alone (mmaPre_unscaled hpair s e)).done w (fun _ hu => hu.mem) w.intact
    fun _ hq _ hu => mma_passes w hq hu hz hfit fun hs => nomatch hs

theorem mmas_done (h : Ready s (.mmas g f) e) (hz : f.z.toNat < e.t.kernel.anvil) (hpair : pairAllowed f.atype f.btype = true)
    (hfp : f.atype ≠ 3) (hbf : f.atype ≠ 4) (hs : f.s ≠ 255) (hfit : tileFits e f 1 (typeK f.atype / 8 * recordBytes f.btype))
    (hgood : ∀ q k, q < 4 → k < typeK f.atype / 8 → scaleBad (aScale e q k) = false ∧ scaleBad (recordScale e f q k) = false) :
    TileDone (.mmas g f) none s e :=
  (mmas_runs h w.alone (mmaPre_scaled hpair hfp hbf hs s e)).done w (fun _ hu => hu.mem) w.intact
    fun q hq _ hu => mma_passes w hq hu hz hfit fun _ k hk => hgood q k hq hk

theorem zrd_done (h : Ready s (.zrd g f) e) (hz : f.z.toNat < e.t.kernel.anvil) (hd : DestsPass s e) (hpre : zrdPre f e s = none)
    (hscale : zrdK8 f = true → f.boff.getLsbD 5 = false →
      ∀ q, q < 4 → scaleBad (pair64 (e.src32 0 (8 * q)) (e.src32 0 (8 * q + 1))) = false) :
    TileDone (.zrd g f) (some .mx) s e :=
  (zrd_runs h w.alone hpre hd).done w (fun _ hu => hu.mem) w.intact
    fun q hq _ hu => zrd_passes w hq hu hz fun hk hsc => hscale hk hsc q hq

theorem tld_done (h : Ready s (.tld g f) e) (hd : DestsPass s e) (hb : f.btype = 0)
    (hfit : tileFits e f 0 (typeK f.atype / 8 * recordBytes f.atype)) : TileDone (.tld g f) (some .ld) s e :=
  (tld_runs h w.alone hd).done w (fun _ hu => hu.mem) w.intact fun _ hq _ hu => tld_passes w hq hu hb hfit

end

/-! ### Quarters that write no register and raise nothing -/

/-- No quarter has stopped, written a register, raised a flag or met a trap. -/
structure MxAcc.Plain (a : MxAcc) : Prop where
  why : a.r.why = none
  wait : a.wait = none
  regs : a.r.regs = []
  fx : a.r.fx = noFx
  traps : a.r.traps = []

theorem noFx_or_noFx : (lanes fun l => Lanes.at noFx l ||| Lanes.at noFx l) = noFx := by decide

theorem formatTrap_noFx (s : State) (x : Nat) : s.formatTrap x noFx = none := by
  have hunion : fxUnion noFx = 0#8 := by decide
  have hlowest : fxLowest 0#8 = none := by decide
  simp only [State.formatTrap, hunion, BitVec.zero_and, hlowest, Option.map_none]

theorem mxQuarter_plain {e : Env} {m : Mask} (hp : Present e m) {q : Nat} (hq : q < 4) (hm : m &&& quarterMask q = quarterMask q) {op : QuarterOp}
    {a : MxAcc} (ha : a.Plain) {t : State} (hr : op e (wholeQuarter q) a.r.s = { s := t }) :
    (mxQuarter e op a q).Plain ∧ (mxQuarter e op a q).r.s = t := by
  rw [mxQuarter_whole hp hq hm ha.why hr rfl]
  exact ⟨⟨rfl, ha.wait, by simp [MxAcc.after, ha.regs], by simp only [MxAcc.after, ha.fx, noFx_or_noFx],
    by simp [MxAcc.after, ha.traps, formatTrap_noFx]⟩, rfl⟩

theorem RunsQuarters.completes_plain {i : Instr} {op : QuarterOp} {long : Option OpClass} {s t : State} {e : Env}
    (h : RunsQuarters i op long s e) (hplain : (quarters op e s).Plain) (ht : (quarters op e s).r.s = t) :
    ∃ ts, exec i s = .next (t.finish e { long := long } none ts false id)
      ∧ (t.ig? e.pk = some e.ig → e.ig.traps = [] → ts = []) := by
  refine ⟨_, h.completes hplain.why hplain.wait |>.trans (by rw [ht, hplain.regs, hplain.fx]), fun hig htraps => ?_⟩
  rw [tileTraps_nil hplain.traps (ht ▸ hig) htraps]
  rfl

theorem quarterMask_disjoint {q k : Nat} (hq : q < 4) (hk : k < 4) (h : q ≠ k) : quarterMask q &&& quarterMask k = 0 :=
  (by decide : ∀ q < 4, ∀ k < 4, q ≠ k → quarterMask q &&& quarterMask k = 0) q hq k hk h

/-- An issue group of one quarter: the others do nothing. -/
theorem quarters_one {e : Env} {q : Nat} (hq : q < 4) (hp : Present e (quarterMask q)) {op : QuarterOp} {s t : State}
    (hr : op e (wholeQuarter q) s = { s := t }) : (quarters op e s).Plain ∧ (quarters op e s).r.s = t := by
  have key := quarters_induct (op := op) (e := e) (s := s) (P := fun k a => a.Plain ∧ a.r.s = if q < k then t else s)
    ⟨⟨rfl, rfl, rfl, rfl, rfl⟩, rfl⟩ fun k hk a ⟨hplain, hs⟩ => ?_
  · rwa [if_pos hq] at key
  · by_cases hqk : q = k
    · subst hqk
      rw [if_neg (Nat.lt_irrefl q)] at hs
      rw [if_pos (Nat.lt_succ_self q)]
      exact mxQuarter_plain hp hq BitVec.and_self hplain (hs ▸ hr)
    · have hlt : q < k + 1 ↔ q < k := by omega
      simp only [hlt]
      rw [mxQuarter_absent (by rw [hp.mask, quarterMask_disjoint hq hk hqk])]
      exact ⟨hplain, hs⟩

/-! ### `TST` (07_tile R176, R177) -/

/-- The scale word that quarter `q` stores: tile 0's, or the neutral one. -/
def tstScale (f : FmtT) (e : Env) (q : Nat) : Word :=
  if f.s = 255 then 0x7F else pair64 (e.src32 2 (8 * q)) (e.src32 2 (8 * q + 1))
/-- The address at which quarter `q` stores: B in its lowest thread plus 8 x BOFF. -/
def tstAddr (f : FmtT) (e : Env) (q : Nat) : Nat := (e.src 1 (8 * q) + BitVec.ofNat 64 (8 * f.boff.toNat)).toNat
/-- The bytes of register `k` of row `i` of quarter `q`. -/
def tstReg (f : FmtT) (e : Env) (q i k : Nat) : List Byte :=
  if f.atype = 2 then leBytes 4 (e.src32 0 (8 * q + i)).toNat else leBytes 4 ((e.src 0 (8 * q + i)) >>> (32 * k)).toNat
/-- Row `i` of the tile that quarter `q` stores. -/
def tstRow (f : FmtT) (e : Env) (q i : Nat) : List Byte :=
  if f.atype = 2 then tstReg f e q i 0 else tstReg f e q i 0 ++ tstReg f e q i 1
/-- The canonical record that quarter `q` stores: 8 rows, then the scale word. -/
def tstRecord (f : FmtT) (e : Env) (q : Nat) : List Byte := ((List.range 8).map (tstRow f e q)).flatten ++ bytesOfWord (tstScale f e q)

/-- A whole quarter whose checks pass writes its record at the home of its page. -/
theorem tstQuarter_whole {f : FmtT} {e : Env} {s u : State} {q : Nat} {p : Seg} {r : List Seg} (hq : q < 4) (hwatch : s.watches e.ck 0 = [])
    (hmarks : s.marks = []) (hnames : ∀ o ∈ e.ops, e.g.unmappedOp o = false ∧ e.g.emptyOp o = false) (h8 : tstAddr f e q % 8 = 0)
    (hline : tstAddr f e q / 128 = (tstAddr f e q + recordBytes f.atype - 1) / 128) (hscale : scaleBad (tstScale f e q) = false)
    (hpages : s.lanePages e (tstAddr f e q) (recordBytes f.atype) 1 = (.ok (p :: r), u)) (hdev : isHost p.p.pa = false) :
    tstQuarter f e (wholeQuarter q) s = { s := (u.dropLine e.ck p.p.pa).writeHome p.p.pa (tstRecord f e q) } := by
  unfold tstAddr at h8 hline hpages
  unfold tstScale at hscale
  simp only [tstQuarter, wholeQuarter_act hq, Bool.false_eq_true, if_false, qNames_pass hmarks (names_zip hnames (fun _ => id) _),
    lowLane_whole hq, h8, ← hline, bne_self_eq_false, beq_iff_eq, hscale, addrHits_unwatched hwatch, recordHits_nil, hpages, hdev, List.head?_cons,
    qWhole_whole, qLive_whole, show actionLanes [] = 0 from rfl, show (wholeQuarter q).q = q from rfl]
  rfl

theorem dropLine_mem_of_empty {u : State} {ck : Nat} (h : (u.core ck).col = []) (pa : Nat) : (u.dropLine ck pa).mem = u.mem := by
  rw [State.dropLine, dropL1_mem, State.dropColumn, dropCopyMarks_mem, State.modCore_mem, State.cleanColumn]
  simp [h]

/-- The bytes written at their home are read back. -/
theorem writeHome_bytes {s : State} (h : s.memWf) (pa : Nat) (bs : List Byte) : (s.writeHome pa bs).bytes pa bs.length = bs := by
  refine List.ext_getElem (by simp [State.bytes]) fun i _ hi => ?_
  simp [State.bytes, writeHome_byte _ _ _ h, hi]

/-- Bytes outside those written stay. -/
theorem writeHome_byte_outside {s : State} (h : s.memWf) {pa b : Nat} {bs : List Byte} (hb : b < pa ∨ pa + bs.length ≤ b) :
    (s.writeHome pa bs).byte b = s.byte b := by
  rw [writeHome_byte _ _ _ h, if_neg (by omega)]

/-! ### `ZCLR` (07_tile R169) -/

theorem SMap.sorted_put {α : Type} [DecidableEq α] {m : SMap α} {d : α} {k : Nat} {v : α} (h : SMap.sorted m = true) :
    SMap.sorted (SMap.put m d k v) = true := by
  unfold SMap.put
  split
  · exact SMap.sorted_erase h
  · exact SMap.sorted_set h

/-- Writes of the value that an absent key reads as: the keys written read as absent, the others as before. -/
theorem SMap.getD_foldl_put_default {α β : Type} [DecidableEq β] {d : β} {key : α → Nat} (ks : List α) (k : Nat) {m : SMap β}
    (hs : SMap.sorted m = true) :
    SMap.getD (ks.foldl (fun m a => SMap.put m d (key a) d) m) k d = if k ∈ ks.map key then d else SMap.getD m k d := by
  induction ks generalizing m with
  | nil => simp
  | cons a r ih =>
    rw [List.foldl_cons, ih (SMap.sorted_put hs), SMap.getD_put _ _ _ hs]
    by_cases ha : k = key a
    · simp [ha]
    · simp [ha]

theorem mem_allElems {i j : Nat} : (i, j) ∈ allElems ↔ i < 8 ∧ j < 8 := by
  simp only [allElems, List.mem_flatten, List.mem_map]
  constructor
  · rintro ⟨_, ⟨a, ha, rfl⟩, hrow⟩
    obtain ⟨b, hb, hpair⟩ := List.mem_map.mp hrow
    obtain ⟨rfl, rfl⟩ := Prod.mk.inj hpair
    exact ⟨List.mem_range.mp ha, List.mem_range.mp hb⟩
  · rintro ⟨hi, hj⟩
    exact ⟨_, ⟨i, List.mem_range.mpr hi, rfl⟩, List.mem_map.mpr ⟨j, List.mem_range.mpr hj, rfl⟩⟩

theorem zKey_inj {q z i j q' z' i' j' : Nat} (hz : z < 8) (hi : i < 8) (hj : j < 8) (hz' : z' < 8) (hi' : i' < 8) (hj' : j' < 8) :
    zKey q z i j = zKey q' z' i' j' ↔ q = q' ∧ z = z' ∧ i = i' ∧ j = j' := by
  unfold zKey
  omega

/-- The group with tile `z` of quarter `q` cleared. -/
def Group.clearTile (g : Group) (q z : Nat) : Group :=
  { g with z := allElems.foldl (fun m p => SMap.put m 0 (zKey q z p.1 p.2) 0) g.z }

theorem clearTile_sorted {g : Group} (h : SMap.sorted g.z = true) (q z : Nat) : SMap.sorted (g.clearTile q z).z = true := by
  unfold Group.clearTile
  generalize allElems = l
  exact List.foldlRecOn (motive := fun m => SMap.sorted m = true) l _ h fun _ hm _ _ => SMap.sorted_put hm

theorem clearTile_v (g : Group) (q z : Nat) : (g.clearTile q z).v = g.v := by
  rw [Group.clearTile]

theorem clearTile_zAt {g : Group} (h : SMap.sorted g.z = true) {q z q' z' i j : Nat} (hz : z < 8) (hz' : z' < 8) (hi : i < 8) (hj : j < 8) :
    (g.clearTile q z).zAt q' z' i j = if q' = q ∧ z' = z then 0 else g.zAt q' z' i j := by
  have hmem : zKey q' z' i j ∈ allElems.map (fun p => zKey q z p.1 p.2) ↔ q' = q ∧ z' = z := by
    simp only [List.mem_map, Prod.exists, mem_allElems]
    constructor
    · rintro ⟨i', j', ⟨hi', hj'⟩, hkey⟩
      obtain ⟨hq, hz, -, -⟩ := (zKey_inj hz hi' hj' hz' hi hj).mp hkey
      exact ⟨hq.symm, hz.symm⟩
    · rintro ⟨rfl, rfl⟩
      exact ⟨i, j, ⟨hi, hj⟩, rfl⟩
  simp only [Group.zAt, Group.clearTile, SMap.getD_foldl_put_default _ _ h, hmem]

/-- After `ZCLR` in the quarters before `k`: their tile `z` is clear, and the group's other tiles and registers are as before. -/
structure Cleared (s : State) (e : Env) (z k : Nat) (t : State) : Prop where
  mem : t.mem = s.mem
  ig : t.ig? e.pk = s.ig? e.pk
  tiles : ∃ h, t.group? e.gk = some h ∧ h.v = e.g.v ∧ SMap.sorted h.z = true
    ∧ ∀ q z' i j, z' < 8 → i < 8 → j < 8 → h.zAt q z' i j = if q < k ∧ z' = z then 0 else e.g.zAt q z' i j

theorem dropMarks_keeps (s : State) (p : ErrPlace → Bool) :
    (s.dropMarks p).mem = s.mem ∧ (s.dropMarks p).active = s.active ∧ (s.dropMarks p).groups = s.groups := by
  unfold State.dropMarks
  split <;> exact ⟨rfl, rfl, rfl⟩

theorem setZ_mem (s : State) (gk q z : Nat) (vals : List (Nat × Nat × BitVec 56)) : (s.setZ gk q z vals).mem = s.mem :=
  (dropMarks_keeps _ _).1.trans (State.modGroup_mem ..)

theorem setZ_ig? (s : State) (gk q z pk : Nat) (vals : List (Nat × Nat × BitVec 56)) : (s.setZ gk q z vals).ig? pk = s.ig? pk := by
  rw [State.ig?, State.ig?, State.setZ, (dropMarks_keeps _ _).2.1, State.modGroup_active]

theorem setZ_clear {s : State} {gk : Nat} {g : Group} (h : s.group? gk = some g) (q z : Nat) :
    (s.setZ gk q z (allElems.map fun p => (p.1, p.2, 0))).group? gk = some (g.clearTile q z) := by
  rw [State.group?, State.setZ, (dropMarks_keeps _ _).2.2, ← State.group?, State.group?_modGroup, h, Option.map_some]
  simp only [List.foldl_map]
  rfl

theorem Cleared.step {s t : State} {e : Env} {z k : Nat} (hz : z < 8) (h : Cleared s e z k t) :
    Cleared s e z (k + 1) (t.setZ e.gk k z (allElems.map fun p => (p.1, p.2, 0))) := by
  obtain ⟨g, hg, hv, hs, hat⟩ := h.tiles
  refine ⟨(setZ_mem ..).trans h.mem, (setZ_ig? ..).trans h.ig, _, setZ_clear hg k z, (clearTile_v ..).trans hv, clearTile_sorted hs _ _,
    fun q z' i j hz' hi hj => ?_⟩
  rw [clearTile_zAt hs hz hz' hi hj, hat q z' i j hz' hi hj]
  by_cases hzz : z' = z
  · by_cases hq : q = k
    · simp [hzz, hq]
    · have hlt : q < k + 1 ↔ q < k := by omega
      simp [hq, hlt]
  · simp [hzz]

/-- Each whole quarter clears its own tile, and the four together complete. -/
theorem zclr_clears {f : FmtT} {s : State} {e : Env} (hp : Present e 0xFFFFFFFF) (hg : s.group? e.gk = some e.g)
    (hz : f.z.toNat < e.t.kernel.anvil) (hwf : SMap.wf e.g.z 0 = true) :
    (quarters (zclrQuarter f) e s).Plain ∧ Cleared s e f.z.toNat 4 (quarters (zclrQuarter f) e s).r.s := by
  have hsorted : SMap.sorted e.g.z = true := (Bool.and_eq_true_iff.mp hwf).1
  refine quarters_induct (P := fun k a => a.Plain ∧ Cleared s e f.z.toNat k a.r.s)
    ⟨⟨rfl, rfl, rfl, rfl, rfl⟩, rfl, rfl, e.g, hg, rfl, hsorted, by simp⟩ fun q hq a ⟨hplain, hcl⟩ => ?_
  obtain ⟨hplain', ht⟩ := mxQuarter_plain (op := zclrQuarter f) hp hq BitVec.allOnes_and hplain
    (t := a.r.s.setZ e.gk q f.z.toNat (allElems.map fun p => (p.1, p.2, 0))) (by
      simp only [zclrQuarter, wholeQuarter_act hq, Bool.false_eq_true, if_false, qLive_whole, qTile_pass hz, qWhole_whole]
      rfl)
  exact ⟨hplain', ht ▸ hcl.step f.z.isLt⟩

/-! ### The statement -/

/-- Settles O45: a tile word is its quarters; no quarter of a whole group stops, one quarter alone is all that `TST` does, and `ZCLR`
clears a tile quarter by quarter. -/
theorem tileWords : Obligations.TileWords := by
  refine ⟨fun g f s e i op long hi h hw hroom hwhy hwait hig htraps => ?words, fun g f s e w => ?whole,
    fun g f s u e q p r h hq hmask hact hdone hlive hw hig htraps hmarks _ hnames h8 hline hscale hpages hdev _ => ?tst,
    fun g f s e h hw hg hmask hact hdone hlive hz hig htraps hwf => ?zclr⟩
  case words =>
    have hruns : RunsQuarters i op long s e := by
      rcases hi with ⟨rfl, rfl, rfl, hp⟩ | ⟨rfl, rfl, rfl, hp⟩ | ⟨rfl, rfl, rfl⟩ | ⟨rfl, rfl, rfl⟩ | ⟨rfl, rfl, rfl⟩
        | ⟨rfl, rfl, rfl⟩ | ⟨rfl, rfl, rfl, hp⟩ | ⟨rfl, rfl, rfl⟩
      · exact mma_runs h hw hp
      · exact mmas_runs h hw hp
      · exact zclr_runs h hw
      · exact zst_runs h hw
      · exact zld_runs h hw
      · exact tst_runs h hw
      · obtain ⟨hfull, hbudget, hpool, hturn⟩ := hroom (.inl rfl)
        exact zrd_runs h hw hp ⟨hfull, hbudget, hpool, hturn⟩
      · obtain ⟨hfull, hbudget, hpool, hturn⟩ := hroom (.inr rfl)
        exact tld_runs h hw ⟨hfull, hbudget, hpool, hturn⟩
    exact ⟨_, hruns.completes hwhy hwait, fun hr hig => by rw [tileTraps_nil hr hig htraps]; rfl⟩
  case whole =>
    exact ⟨zst_done w, zld_done w, mma_done w, mmas_done w,
      fun h hz ⟨hbudget, hpool, hturn⟩ => zrd_done w h hz (w.destsPass hbudget hpool hturn),
      fun h ⟨hbudget, hpool, hturn⟩ => tld_done w h (w.destsPass hbudget hpool hturn)⟩
  case tst =>
    refine ⟨fun hcol => dropLine_mem_of_empty hcol _, fun hwf => ?_⟩
    obtain ⟨hplain, ht⟩ := quarters_one hq ⟨hmask, hact, hdone, hlive⟩
      (tstQuarter_whole hq h.watch hmarks hnames h8 hline hscale hpages hdev)
    obtain ⟨ts, hexec, -⟩ := (tst_runs h hw).completes_plain hplain ht
    have hwf' := dropLine_memWf e.ck p.p.pa hwf
    exact ⟨_, ts, hexec, writeHome_bytes hwf' _ _, fun b hb => writeHome_byte_outside hwf' hb⟩
  case zclr =>
    obtain ⟨hplain, hcl⟩ := zclr_clears (f := f) ⟨hmask, hact, hdone, hlive⟩ hg hz hwf
    obtain ⟨ts, hexec, hts⟩ := (zclr_runs h hw).completes_plain hplain rfl
    obtain rfl := hts (hcl.ig.trans hig) htraps
    obtain ⟨h', hg', hv, -, hat⟩ := hcl.tiles
    refine ⟨_, h', hexec, hcl.mem, hg', fun q i j hq hi hj => ?_, fun q z i j hq hz' hne hi hj => ?_, hv⟩
    · rw [hat q _ i j f.z.isLt hi hj, if_pos ⟨hq, rfl⟩]
    · rw [hat q z i j hz' hi hj, if_neg fun hboth => hne hboth.2]

end Sys2Proof.Machine
end

section
/-! PROOFS. The host's answers to trap records (08_page R197, 15_context R322), and the invalidation of translations (08_page R190):
the answer of one resident group, the register write that starts an invalidation, and what no update of its completion brings back;
with the statement on both (O49). -/

namespace Sys2Proof.Machine

/-! ### `FLT_RESUME` -/

/-- With the left die running, a command of the host acts from boot stage 3 on (20_bringup R400, R401). -/
theorem hostCommand_of_up {s : State} (hd : s.endpointDown = false) (f : State → State) :
    s.hostCommand f = if s.boot < 3 then s else f s := by
  rw [State.hostCommand, if_neg (by simp [hd])]

theorem hostCommand_of_booted {s : State} (hb : 3 ≤ s.boot) (hd : s.endpointDown = false) (f : State → State) :
    s.hostCommand f = f s := by
  rw [hostCommand_of_up hd, if_neg (by omega)]

/-- The three forms are one command with three actions. -/
theorem exec_faultAnswer {i : Instr} {x seq : Nat} (hi : i ∈ [.faultReplay x seq, .faultDeliver x seq, .faultEndTeam x seq]) (s : State) :
    ∃ action ≤ 2, exec i s = .next (s.hostCommand fun s => s.fltResume x seq action) := by
  simp only [List.mem_cons, List.not_mem_nil, or_false] at hi
  rcases hi with rfl | rfl | rfl
  · exact ⟨0, by decide, rfl⟩
  · exact ⟨1, by decide, rfl⟩
  · exact ⟨2, by decide, rfl⟩

/-- The team of context `x` that the answer to record `seq` finds. -/
def State.awaiting (s : State) (x seq : Nat) : Option (Nat × Team) :=
  s.teams.find? fun p => s.teamCtx p.2 == x
    && p.2.awaits (if p.2.stage == .saved then p.2.kept else (s.groupsOf p.1).map (·.2)) seq

theorem fltResume_resident {s : State} {x seq tid action : Nat} {t : Team} (ha : action ≤ 2) (hf : s.awaiting x seq = some (tid, t))
    (hs : t.stage ≠ .saved) : s.fltResume x seq action = s.answerTeam tid seq action := by
  unfold State.awaiting at hf
  rw [State.fltResume, if_neg (by omega), hf]
  simp [hs]

/-- No team and no wave awaits the answer: it changes nothing (15_context R322). -/
theorem fltResume_unawaited {s : State} {x seq action : Nat} (ha : action ≤ 2) (hf : s.awaiting x seq = none)
    (h0 : (s.die 0).waveFault ≠ some (seq, x)) (h1 : (s.die 1).waveFault ≠ some (seq, x)) : s.fltResume x seq action = s := by
  unfold State.awaiting at hf
  rw [State.fltResume, if_neg (by omega), hf]
  simp [h0, h1]

/-- A record that is neither of a time limit nor of the LAE is that of the group that holds it. -/
theorem answerTeam_group {s : State} {tid seq action : Nat} {t : Team} {p : Nat × Group} (ht : s.team? tid = some t)
    (hlimit : t.limitSeq ≠ some seq) (hlae : t.lae = none)
    (hp : ((s.groupsOf tid).find? fun p => p.2.hostTrap.any fun h => h.2 == seq) = some p) :
    s.answerTeam tid seq action = s.answerGroup p.1 action := by
  simp [State.answerTeam, ht, hlimit, hlae, hp]

section

variable {s : State} {gk seq : Nat} {g : Group} {f : Frame} (hg : s.group? gk = some g) (ht : g.hostTrap = some (f, seq))
include hg ht

theorem answerGroup_replay :
    s.answerGroup gk 0 = ((s.setGroup gk { g with hostTrap := none }).resumeFrame gk f false false).deliverPending gk 0 := by
  simp [State.answerGroup, hg, ht]

theorem answerGroup_deliver : s.answerGroup gk 1 = (s.setGroup gk { g with hostTrap := none }).toHandler gk f.delivered := by
  simp [State.answerGroup, hg, ht]

theorem answerGroup_endTeam : s.answerGroup gk 2 = (s.setGroup gk { g with hostTrap := none }).endTeam g.team f.cause := by
  simp [State.answerGroup, hg, ht]

end

/-! ### The start of an invalidation -/

/-- No other invalidation is in progress, the scope is not `11`, and a range begins at a multiple of its length: it starts
(08_page R190). -/
theorem tlbiGo_starts {s : State} {ctl : Word} (hidle : s.tlbi = none) (hscope : fld ctl 8 2 ≠ 3)
    (hrange : fld ctl 8 2 = 0 → fld (s.raw 0x220) 12 40 % (1 <<< fld (s.raw 0x220) 52 4) = 0) :
    s.tlbiGo ctl = { s with tlbi := some (ctl, s.raw 0x220) } := by
  have hok : (fld ctl 8 2 == 3 || (fld ctl 8 2 == 0 && fld (s.raw 0x220) 12 40 % (1 <<< fld (s.raw 0x220) 52 4) != 0)) = false := by
    simpa [hscope] using hrange
  simp only [State.tlbiGo, hidle, hok, Option.isSome_none, Bool.false_eq_true, if_false]

/-- A write of GO starts an invalidation with the register as it now stands. -/
theorem regWrite_tlbiCtl (s : State) {v m wo : Word} (rw w1c : Word) (hgo : (v &&& m &&& wo).getLsbD 16 = true) :
    s.regWrite 0x221 v m rw w1c wo
      = (s.setRaw 0x221 (mergeReg (s.kept 0x221) v m rw w1c)).tlbiGo (mergeReg (s.kept 0x221) v m rw w1c) := by
  simp only [State.regWrite, hgo]
  simp [ctxConfig, regFix]

/-- An RW bit takes the value written by a write that covers it. -/
theorem getLsbD_mergeReg_rw (old v : Word) {m rw w1c : Word} {i : Nat}
    (h : rw.getLsbD i = true ∧ w1c.getLsbD i = false ∧ m.getLsbD i = true) : (mergeReg old v m rw w1c).getLsbD i = v.getLsbD i := by
  obtain ⟨hr, hc, hm⟩ := h
  simp [getLsbD_mergeReg, hr, hc, hm]

/-- `TLBI_CTL` after a whole write of it. -/
def State.tlbiCtlAfter (s : State) (v : Word) : Word := mergeReg (s.kept 0x221) v 0xFFFFFFFFFFFFFFFF 0x73F 0x40000

theorem regDesc_tlbiCtl : regDesc 0x221 = some { privRw 0x73F with wo := 0x10000, w1c := 0x40000 } := by decide

theorem b2n_le_one (b : Bool) : b2n b ≤ 1 := by cases b <;> decide

section

variable {ctx scope : Nat} {glb : Bool} (hscope : scope ≤ 2)
include hscope

theorem tlbiCtl_toNat : (tlbiCtl ctx scope glb).toNat = ctx % 64 + 256 * scope + 1024 * b2n glb + 65536 := by
  have := b2n_le_one glb
  simp only [tlbiCtl, BitVec.toNat_ofNat, Nat.shiftLeft_eq]
  omega

theorem tlbiCtl_ctx : fld (tlbiCtl ctx scope glb) 0 6 = ctx % 64 := by
  simp only [fld, bitsOf, tlbiCtl_toNat hscope, Nat.shiftLeft_eq, Nat.shiftRight_eq_div_pow]
  omega

theorem tlbiCtl_scope : fld (tlbiCtl ctx scope glb) 8 2 = scope := by
  have := b2n_le_one glb
  simp only [fld, bitsOf, tlbiCtl_toNat hscope, Nat.shiftLeft_eq, Nat.shiftRight_eq_div_pow]
  omega

theorem tlbiCtl_glb : (tlbiCtl ctx scope glb).getLsbD 10 = glb := by
  rw [← BitVec.testBit_toNat, Nat.testBit_eq_decide_div_mod_eq, tlbiCtl_toNat hscope]
  cases glb
  · simp only [b2n, decide_eq_false_iff_not, Bool.false_eq_true, if_false]
    omega
  · simp only [b2n, decide_eq_true_eq, if_true]
    omega

theorem tlbiCtl_go : (tlbiCtl ctx scope glb).getLsbD 16 = true := by
  have := b2n_le_one glb
  rw [← BitVec.testBit_toNat, Nat.testBit_eq_decide_div_mod_eq, tlbiCtl_toNat hscope]
  simp only [decide_eq_true_eq]
  omega

end

/-- The fields of `TLBI_CTL` read as they were written. -/
theorem fld_tlbiCtlAfter (s : State) (v : Word) : ∀ p ∈ [(0, 6), (8, 2)], fld (s.tlbiCtlAfter v) p.1 p.2 = fld v p.1 p.2 := by
  have hbits : ∀ p ∈ [(0, 6), (8, 2)], ∀ i < p.2, (0x73F : Word).getLsbD (p.1 + i) = true ∧ (0x40000 : Word).getLsbD (p.1 + i) = false
      ∧ (0xFFFFFFFFFFFFFFFF : Word).getLsbD (p.1 + i) = true := by decide
  exact fun p hp => fld_mergeReg_rw _ _ _ _ _ _ _ (hbits p hp)

theorem glb_tlbiCtlAfter (s : State) (v : Word) : (s.tlbiCtlAfter v).getLsbD 10 = v.getLsbD 10 :=
  getLsbD_mergeReg_rw _ _ (by decide)

/-- A command of `TLBI_CTL` that is not refused starts an invalidation with the scope written and the `TLBI_VA` of that moment. -/
theorem hostWhole_tlbiCtl {s : State} {ctx scope : Nat} {glb : Bool} (hb : 3 ≤ s.boot) (hd : s.endpointDown = false)
    (hscope : scope ≤ 2) (hidle : s.tlbi = none)
    (hrange : scope = 0 → fld (s.raw 0x220) 12 40 % (1 <<< fld (s.raw 0x220) 52 4) = 0) :
    ∃ w : Word, (s.hostWhole 0x221 (tlbiCtl ctx scope glb)).tlbi = some (w, s.raw 0x220) ∧ fld w 0 6 = ctx % 64 ∧ fld w 8 2 = scope
      ∧ w.getLsbD 10 = glb := by
  have hfld := fld_tlbiCtlAfter s (tlbiCtl ctx scope glb)
  have hw : fld (s.tlbiCtlAfter (tlbiCtl ctx scope glb)) 8 2 = scope := (hfld (8, 2) (by decide)).trans (tlbiCtl_scope hscope)
  have hva : (s.setRaw 0x221 (s.tlbiCtlAfter (tlbiCtl ctx scope glb))).raw 0x220 = s.raw 0x220 := raw_setRaw_other s _ (by decide)
  have hgo : (tlbiCtl ctx scope glb &&& 0xFFFFFFFFFFFFFFFF &&& 0x10000).getLsbD 16 = true := by
    simp [tlbiCtl_go hscope]
  refine ⟨s.tlbiCtlAfter (tlbiCtl ctx scope glb), ?start, (hfld (0, 6) (by decide)).trans (tlbiCtl_ctx hscope), hw,
    (glb_tlbiCtlAfter ..).trans (tlbiCtl_glb hscope)⟩
  rw [hostWhole_of_booted hb hd regDesc_tlbiCtl (by decide) (by decide), regWrite_tlbiCtl _ _ _ hgo]
  change (State.tlbiGo (s.setRaw 0x221 (s.tlbiCtlAfter _)) (s.tlbiCtlAfter _)).tlbi = _
  rw [tlbiGo_starts ((State.setRaw_tlbi ..).trans hidle) (by omega) (by rw [hva, hw]; exact hrange), hva]

/-! ### Updates that bring no translation into a cache -/

/-- `t` holds no translation that `s` does not, and the same invalidation is in progress. -/
structure GainsNoTranslation (s t : State) : Prop where
  tlbi : t.tlbi = s.tlbi
  clusters : t.clusters = s.clusters
  dies : t.dies = s.dies
  cores : ∀ c ∈ t.cores, ∀ e ∈ c.2.tlb, ∃ b ∈ s.cores, e ∈ b.2.tlb

namespace GainsNoTranslation

theorem refl (s : State) : GainsNoTranslation s s := ⟨rfl, rfl, rfl, fun c hc _ he => ⟨c, hc, he⟩⟩

theorem trans {s t u : State} (h : GainsNoTranslation s t) (k : GainsNoTranslation t u) : GainsNoTranslation s u :=
  ⟨k.tlbi.trans h.tlbi, k.clusters.trans h.clusters, k.dies.trans h.dies, fun c hc e he =>
    let ⟨b, hb, he⟩ := k.cores c hc e he
    h.cores b hb e he⟩

theorem of_eq {s t : State} (htlbi : t.tlbi = s.tlbi) (hcores : t.cores = s.cores) (hclusters : t.clusters = s.clusters)
    (hdies : t.dies = s.dies) : GainsNoTranslation s t :=
  ⟨htlbi, hclusters, hdies, fun c hc _ he => ⟨c, hcores ▸ hc, he⟩⟩

theorem foldl {α : Type} {f : State → α → State} (hf : ∀ s a, GainsNoTranslation s (f s a)) (l : List α) (s : State) :
    GainsNoTranslation s (l.foldl f s) :=
  List.foldlRecOn (motive := GainsNoTranslation s) l f (refl s) fun t ht a _ => ht.trans (hf t a)

/-- What the core of a key holds is held by a core of the state: a core without an entry holds nothing. -/
theorem core_tlb {s : State} {k : Nat} {e : TlbEntry} (he : e ∈ (s.core k).tlb) : ∃ b ∈ s.cores, e ∈ b.2.tlb := by
  cases hk : SMap.get? s.cores k with
  | none => simp [State.core, SMap.getD, hk, Core.init] at he
  | some c => exact ⟨(k, c), SMap.mem_of_get? hk, by simpa [State.core, SMap.getD, hk] using he⟩

theorem setCore (s : State) (k : Nat) {x : Core} (hx : x.tlb = (s.core k).tlb) : GainsNoTranslation s (s.setCore k x) :=
  ⟨rfl, rfl, rfl, fun c hc e he => by
    rcases SMap.mem_set hc with rfl | hc
    · exact core_tlb (hx ▸ he)
    · exact ⟨c, hc, he⟩⟩

theorem writeHome (s : State) (pa : Nat) (bs : List Byte) : GainsNoTranslation s (s.writeHome pa bs) := by
  have hunmark : ∀ t : State, GainsNoTranslation t (t.unmark pa bs.length) := fun t => by
    unfold State.unmark
    dsimp only
    split
    · exact refl t
    · exact of_eq rfl rfl rfl rfl
  have hwake : ∀ t : State, GainsNoTranslation t (t.wakeMonitors pa bs.length) := fun t => by
    unfold State.wakeMonitors
    split
    · exact refl t
    · exact of_eq rfl rfl rfl rfl
  have hmem : GainsNoTranslation s { s with mem := Memory.writes s.mem pa bs } := of_eq rfl rfl rfl rfl
  exact hmem.trans ((hunmark _).trans (hwake _))

theorem moveMarks {s t : State} (h : GainsNoTranslation s t) (b : Bool) (l : List ErrPlace) :
    GainsNoTranslation s (if b then t else { t with moved := l }) := by
  split
  · exact h
  · exact h.trans (of_eq rfl rfl rfl rfl)

theorem cleanColumn (s : State) (ck : Nat) (f : Nat → Bool) : GainsNoTranslation s (s.cleanColumn ck f) := by
  unfold State.cleanColumn
  dsimp only
  split
  · exact refl s
  · refine moveMarks ?_ _ _
    generalize hrun : List.foldl _ _ _ = run
    have hwritten : GainsNoTranslation s run.1 := by
      rw [← hrun]
      refine List.foldlRecOn (motive := fun acc : State × Option (Nat × List Byte) => GainsNoTranslation s acc.1) _ _
        (setCore s ck rfl) fun acc hacc e _ => ?_
      split
      · exact hacc
      · split
        · exact hacc
        · exact hacc.trans (writeHome ..)
    obtain ⟨t, _ | ⟨a, bs⟩⟩ := run
    · exact hwritten
    · exact hwritten.trans (writeHome ..)

theorem releasePins (s : State) (f : TlbEntry → Bool) : GainsNoTranslation s (s.releasePins f) := by
  refine (foldl (fun t p => ?_) s.cores s).trans (of_eq rfl rfl rfl rfl)
  dsimp only
  split
  · exact refl t
  · exact (cleanColumn t ..).trans (setCore _ _ rfl)

theorem endMonitor (s : State) (k : Nat) (m : Monitor) (st : Nat) : GainsNoTranslation s (s.endMonitor k m st) := by
  unfold State.endMonitor
  split
  · exact of_eq rfl rfl rfl rfl
  · exact of_eq rfl rfl rfl rfl

theorem evictMonitors (s : State) (f : Monitor → Bool) : GainsNoTranslation s (s.evictMonitors f) := by
  refine foldl (fun t p => ?_) s.monitors s
  dsimp only
  split
  · exact endMonitor ..
  · exact refl t

end GainsNoTranslation

/-! ### The end of an invalidation -/

/-- The state without the translations and pointers of a scope, and without the invalidation. -/
def State.flush (s : State) (c : TlbScope) : State :=
  { s with
    tlbi := none
    cores := s.cores.map fun k => (k.1, { k.2 with tlb := k.2.tlb.filter fun t => !c.leaf t })
    clusters := s.clusters.map fun k => (k.1, { k.2 with tlb := k.2.tlb.filter fun t => !c.leaf t })
    dies := s.dies.map fun k => (k.1, { k.2 with walk := k.2.walk.filter fun t => !c.pointer t }) }

/-- No core, cluster or walk cache holds a translation or pointer of a scope (08_page R190). -/
structure State.Flushed (s : State) (c : TlbScope) : Prop where
  tlbi : s.tlbi = none
  cores : ∀ k ∈ s.cores, ∀ e ∈ k.2.tlb, c.leaf e = false
  clusters : ∀ k ∈ s.clusters, ∀ e ∈ k.2.tlb, c.leaf e = false
  dies : ∀ k ∈ s.dies, ∀ e ∈ k.2.walk, c.pointer e = false

theorem flush_flushed (s : State) (c : TlbScope) : (s.flush c).Flushed c := by
  refine ⟨rfl, fun k hk e he => ?_, fun k hk e he => ?_, fun k hk e he => ?_⟩
  all_goals
    obtain ⟨j, -, rfl⟩ := List.mem_map.mp hk
    simpa using (List.mem_filter.mp he).2

theorem State.Flushed.keep {s t : State} {c : TlbScope} (h : s.Flushed c) (k : GainsNoTranslation s t) : t.Flushed c :=
  ⟨k.tlbi.trans h.tlbi, fun j hj e he =>
      let ⟨b, hb, he⟩ := k.cores j hj e he
      h.cores b hb e he,
    k.clusters ▸ h.clusters, k.dies ▸ h.dies⟩

theorem tlbiComplete_eq {s : State} {p : Word × Word} (hp : s.tlbi = some p) (hcan : s.canTlbi = true) :
    ∃ f : Monitor → Bool, s.tlbiComplete = ((s.flush (tlbScope p)).releasePins (tlbScope p).leaf).evictMonitors f := by
  rw [State.tlbiComplete, hp, hcan]
  exact ⟨_, rfl⟩

theorem tlbiComplete_flushed {s : State} {p : Word × Word} (hp : s.tlbi = some p) (hcan : s.canTlbi = true) :
    s.tlbiComplete.Flushed (tlbScope p) := by
  obtain ⟨f, h⟩ := tlbiComplete_eq hp hcan
  rw [h]
  exact (flush_flushed s _).keep ((GainsNoTranslation.releasePins ..).trans (.evictMonitors ..))

theorem tlbiComplete_idle {s : State} (h : s.tlbi = none) : s.tlbiComplete = s := by
  rw [State.tlbiComplete, h]

/-! ### The statement -/

/-- Settles O49: an answer reaches the group whose record it names, or nothing; a command of `TLBI_CTL` is one write of its register;
and what the completion does after it has emptied the caches brings no translation back. -/
theorem faultsAndInvalidation : Obligations.FaultsAndInvalidation := by
  refine ⟨fun s x seq hd => ⟨fun tid gk t g f hb hteam ht hres hlimit hlae hgroup hg htrap => ?answer, fun i hi hteam h0 h1 => ?unawaited,
      fun i hi hb => ?unbooted⟩,
    fun s x glb hb hd => ⟨fun i scope hi hidle => ?start, fun p hp hcan => ?complete, fun h => ?idle⟩⟩
  case answer =>
    have hanswer : ∀ action ≤ 2, s.hostCommand (fun s => s.fltResume x seq action) = s.answerGroup gk action := fun action ha => by
      rw [hostCommand_of_booted hb hd, fltResume_resident ha hteam hres, answerTeam_group ht hlimit hlae hgroup]
    exact ⟨congrArg Host.Outcome.next ((hanswer 0 (by decide)).trans (answerGroup_replay hg htrap)),
      congrArg Host.Outcome.next ((hanswer 1 (by decide)).trans (answerGroup_deliver hg htrap)),
      congrArg Host.Outcome.next ((hanswer 2 (by decide)).trans (answerGroup_endTeam hg htrap))⟩
  case unawaited =>
    obtain ⟨action, ha, hexec⟩ := exec_faultAnswer hi s
    rw [hexec, hostCommand_of_up hd, fltResume_unawaited ha hteam h0 h1, ite_self]
  case unbooted =>
    obtain ⟨action, -, hexec⟩ := exec_faultAnswer hi s
    rw [hexec, hostCommand_of_up hd, if_pos hb]
  case start =>
    rcases hi with ⟨rfl, rfl, hrange⟩ | ⟨rfl, rfl⟩ | ⟨rfl, rfl⟩
    · obtain ⟨w, hw, hctx, hscope, hglb⟩ := hostWhole_tlbiCtl (ctx := x) (scope := 0) (glb := glb) hb hd (by decide) hidle fun _ => hrange
      exact ⟨_, rfl, w, hw, hscope, hglb, fun _ => hctx⟩
    · obtain ⟨w, hw, hctx, hscope, hglb⟩ := hostWhole_tlbiCtl (ctx := x) (scope := 1) (glb := glb) hb hd (by decide) hidle nofun
      exact ⟨_, rfl, w, hw, hscope, hglb, fun _ => hctx⟩
    · obtain ⟨w, hw, -, hscope, hglb⟩ := hostWhole_tlbiCtl (ctx := 0) (scope := 2) (glb := glb) hb hd (by decide) hidle nofun
      exact ⟨_, rfl, w, hw, hscope, hglb, fun h => absurd rfl h⟩
  case complete =>
    obtain ⟨htlbi, hcores, hclusters, hdies⟩ := tlbiComplete_flushed hp hcan
    exact ⟨_, rfl, htlbi, hcores, hclusters, hdies⟩
  case idle =>
    exact congrArg Host.Outcome.next (tlbiComplete_idle h)

end Sys2Proof.Machine
end

section
/-! PROOFS. Words that act lane by lane, when one lane is active; the copy instructions (O32), the event queue, and the lines that a
team hands over by hand (O33). -/

namespace Sys2Proof.Machine

/-! ### Words that change the machine beside their registers -/

/-- A ready word whose effect completes in a machine that it has brought to `t`. -/
theorem completes_to_of_runWord {i : Instr} {s t : State} {e : Env} {body : Env → State → Res} {x : Eff} (h : Ready s i e)
    (hexec : exec i s = runWord i noCheck body s) (hbody : body e s = .done t x) : Completes s i e t x := by
  rw [Completes, hexec, runWord_ready h rfl, hbody]
  rfl

/-- A ready word that traps with no lane done, in a machine that it has brought to `t`. -/
theorem exec_trap_to_of_runWord {i : Instr} {s t : State} {e : Env} {body : Env → State → Res} {c : Cause} {info : Word} (h : Ready s i e)
    (hexec : exec i s = runWord i noCheck body s) (hbody : body e s = .stop t {} 0 (.trap c info)) :
    exec i s = .next (t.trapBefore e 0 c info 0 0 (lowLane e.act)) := by
  have hact : e.act &&& ~~~(0 : Mask) = e.act := BitVec.and_allOnes
  rw [hexec, runWord_ready h rfl, hbody]
  simp only [Res.apply, beq_self_eq_true, if_true, hact]

/-! ### The copy instructions (10_copy R231, R232) -/

/-- The meaning of a copy instruction is `copyRes` of its form. -/
theorem exec_copy {i : Instr} {g : Guard} {f : FmtX} {form : Nat}
    (hi : (i = .cpy g f ∧ form = 0) ∨ (i = .cpyo g f ∧ form = 1) ∨ (i = .cpys g f ∧ form = 2) ∨ (i = .cpyg g f ∧ form = 3)) (s : State) :
    exec i s = runWord i noCheck (copyRes f form) s := by
  rcases hi with ⟨rfl, rfl⟩ | ⟨rfl, rfl⟩ | ⟨rfl, rfl⟩ | ⟨rfl, rfl⟩ <;> rfl

theorem copyRes_none {f : FmtX} {form : Nat} {e : Env} {s : State} (h0 : e.act = 0) : copyRes f form e s = .done s {} :=
  if_pos (beq_iff_eq.mpr h0)

/-- The group of `gk` gives up the registers that it frees, and their marks. -/
def State.freeRegs (s : State) (gk : Nat) (freed : List Nat) : State := (s.modGroup gk fun g => g.unmap freed).unmarkRegs gk freed []

theorem freeRegs_keeps (s : State) (gk : Nat) (freed : List Nat) :
    (s.freeRegs gk freed).copies = s.copies ∧ (s.freeRegs gk freed).mem = s.mem := by
  obtain ⟨ms, h⟩ := unmarkRegs_eq (s.modGroup gk fun g => g.unmap freed) gk freed []
  rw [State.freeRegs, h]
  exact ⟨State.modGroup_copies .., State.modGroup_mem ..⟩

/-- Room for the copies, operands that are there, and checks that every lane passes: the copies are accepted in the lanes' order. -/
theorem copyRes_accepts {f : FmtX} {form : Nat} {e : Env} {s : State} {a : CopyAcc} (h0 : e.act ≠ 0)
    (hroom : s.copiesOn e.ck + popMask e.act ≤ 32) (hops : s.operandCheck e = none)
    (ha : e.lanes.foldl (copyLane f form e) { s := s, copies := [], names := [], why := none } = a) (hwhy : a.why = none) :
    copyRes f form e s = .done (a.copies.foldl State.acceptCopy (a.s.freeRegs e.gk (freedNames (copyOps f a.names)))) {} := by
  rw [copyRes, if_neg (by simpa using h0), if_neg (Nat.not_lt.mpr hroom), hops]
  simp only [ha, hwhy]
  rfl

/-- Settles O32: the four forms are `copyRes`, which accepts what the lanes' checks have passed. -/
theorem copyWords : Obligations.CopyWords := by
  refine fun g f s e i form hi h => ⟨fun h0 => completes_to_of_runWord h (exec_copy hi s) (copyRes_none h0), fun h0 hroom hops hwhy => ?_⟩
  exact ⟨_, completes_to_of_runWord h (exec_copy hi s) (copyRes_accepts h0 hroom hops rfl hwhy), freeRegs_keeps ..⟩

/-! ### One active lane -/

theorem lane_of_lanes {e : Env} {l : Nat} (h : e.lanes = [l]) : l < 32 ∧ e.act.getLsbD l = true :=
  maskLanes_lt (show l ∈ e.lanes from h ▸ List.mem_singleton_self l)

theorem act_ne_zero_of_lanes {e : Env} {l : Nat} (h : e.lanes = [l]) : e.act ≠ 0 := fun h0 => by
  simpa [h0] using (lane_of_lanes h).2

theorem lowLane_of_lanes {e : Env} {l : Nat} (h : e.lanes = [l]) : lowLane e.act = l := by
  have hhead : lowest e.act = e.lanes.head? := List.head?_filter.symm
  rw [lowLane, hhead, h]
  rfl

/-- Lane `l` alone has completed, with the bytes `bs`, in the machine `t`. -/
def Perf.one (t : State) (l : Nat) (bs : List Byte) : Perf :=
  { Perf.start t with done := laneBit l, vals := Lanes.upd (Perf.start t).vals l fun _ => bs }

theorem Perf.one_res (t : State) (l : Nat) (bs : List Byte) (x : Eff) : (Perf.one t l bs).res x [] = .done t x := rfl

theorem Perf.one_val (t : State) {l : Nat} (hl : l < 32) (bs : List Byte) (j : Nat) :
    Lanes.at (Perf.one t l bs).vals j = if j = l then bs else [] := by
  by_cases hj : j < 32
  · simp [Lanes.at, Perf.one, Perf.start, Lanes.upd, hj]
  · rw [if_neg (by omega)]
    simp [Lanes.at, hj]
    rfl

section
variable {s t : State} {e : Env} {l : Nat} (hl : e.lanes = [l]) {fn : State → Nat → LaneEnd × State}
include hl

theorem seqLanes_one : seqLanes s e.act fn = (Perf.start s).add l (fn s l).1 (fn s l).2 := by
  unfold Env.lanes at hl
  rw [seqLanes, hl]
  rfl

theorem seqLanes_one_ok {bs : List Byte} (hfn : fn s l = (.ok bs, t)) : seqLanes s e.act fn = Perf.one t l bs := by
  rw [seqLanes_one hl, hfn]
  simp [Perf.add, Perf.start, Perf.one]

theorem seqLanes_one_trap {c : Cause} {info : Word} (hfn : fn s l = (.trap c info, t)) (x : Eff) :
    (seqLanes s e.act fn).res x [] = .stop t x 0 (.trap c info) := by
  rw [seqLanes_one hl, hfn]
  rfl

end

/-- The lanes that have brought bytes. -/
theorem Perf.one_got (t : State) {l : Nat} (hl : l < 32) (bs : List Byte) :
    (maskOf fun j => (Perf.one t l bs).done.getLsbD j && !(Lanes.at (Perf.one t l bs).vals j).isEmpty)
      = if bs.isEmpty then 0 else laneBit l := by
  refine BitVec.eq_of_getLsbD_eq fun j hj => ?_
  rw [maskOf_getLsbD _ hj, Perf.one_val t hl, show (Perf.one t l bs).done = laneBit l from rfl, laneBit_getLsbD_eq l hj]
  by_cases hjl : j = l
  · subst hjl
    cases bs with
    | nil => simp
    | cons b r => simp [laneBit_getLsbD_eq j hj]
  · cases bs with
    | nil => simp
    | cons b r => simp [laneBit_getLsbD_eq l hj, hjl]

/-! ### What an acquire leaves alone -/

theorem dropCopyMarks_clusters (s : State) (at_ : ErrPlace → Option Nat) (f : Nat → Bool) : (s.dropCopyMarks at_ f).clusters = s.clusters := by
  unfold State.dropCopyMarks
  split <;> rfl

theorem cinv_clusters (s : State) (ck : Nat) : (s.cinv ck).clusters = s.clusters := by
  rw [State.cinv, State.dropL1, dropCopyMarks_clusters, State.modCore_clusters, State.dropColumn, dropCopyMarks_clusters, State.modCore_clusters,
    (GainsNoTranslation.cleanColumn s ck _).clusters]

theorem acquire_cluster (s : State) (ck scope cl : Nat) : (s.acquire ck scope).cluster cl = s.cluster cl := by
  unfold State.acquire
  split
  · rw [State.cluster, cinv_clusters, State.cluster]
  · rfl

/-! ### `EVPOP` and `EVPUSH` (10_copy R241, R242) -/

theorem mustClean_of_clean {s : State} {e : Env} (h : s.cleanWaits e.ck = false) (ordered : Bool) (scope : Nat) :
    s.mustClean e ordered scope = false := by
  simp [State.mustClean, State.orderWaits, h]

theorem popLane_nil {s : State} {cl : Nat} (h : (s.cluster cl).events = []) : popLane s cl = (.ok [], s) := by
  rw [popLane, h]

/-- The oldest record goes, and the oldest of those that wait for room comes in behind the others. -/
def Cluster.popEvent (c : Cluster) (rest : List EvRec) : Cluster :=
  { c with events := rest ++ c.evWait.take 1, evWait := c.evWait.drop 1 }

theorem popLane_cons {s : State} {cl : Nat} {r : EvRec} {rest : List EvRec} (hm : s.marks = []) (h : (s.cluster cl).events = r :: rest) :
    popLane s cl = (.ok (bytesOfWord r.1 ++ bytesOfWord r.2), s.setCluster cl ((s.cluster cl).popEvent rest)) := by
  have hgood : s.headPoisoned cl = false := by simp [State.headPoisoned, hm]
  have hshift : ∀ c, (s.setCluster cl c).shiftScc cl = s.setCluster cl c := fun c => by simp [State.shiftScc, hm]
  rw [popLane, h]
  simp only [hgood, Bool.false_eq_true, if_false, State.modCluster, hshift]
  rfl

/-- `EVPOP` of one lane: P says whether there was a record, and one that was there is an acquire. -/
theorem evpopRes_one {f : FmtX} {e : Env} {s t : State} {l : Nat} {bs : List Byte} (hl : e.lanes = [l])
    (hclean : (s.cluster (clusterOf e.ck)).events = [] ∨ s.cleanWaits e.ck = false) (hpop : popLane s (clusterOf e.ck) = (.ok bs, t)) :
    ∃ regs, evpopRes f e s = .done (if bs.isEmpty then t else t.acquire e.ck 5)
      { regs := regs, preds := [{ p := f.fld 25 3, mask := laneBit l, vals := if bs.isEmpty then 0 else laneBit l }] } := by
  have hgo : (!(s.cluster (clusterOf e.ck)).events.isEmpty && s.mustClean e true 5) = false := by
    rcases hclean with h | h
    · simp [h]
    · simp [mustClean_of_clean h]
  have hlt := (lane_of_lanes hl).1
  have hbit : laneBit l ≠ 0 := fun h0 => by simpa [h0] using laneBit_getLsbD_eq l hlt
  rw [evpopRes, hgo, seqLanes_one_ok hl hpop]
  simp only [Perf.one_got t hlt]
  cases bs with
  | nil => exact ⟨_, rfl⟩
  | cons b r =>
    simp only [List.isEmpty_cons, Bool.false_eq_true, if_false, beq_eq_false_iff_ne.mpr hbit]
    exact ⟨_, rfl⟩

theorem bytesOfWord_isEmpty (w : Word) (bs : List Byte) : (bytesOfWord w ++ bs).isEmpty = false := rfl

/-- A record of an allowed KIND, and no dirty byte that has to wait: the lanes push after the release. -/
theorem evpushRes_one {f : FmtX} {e : Env} {s : State} {l : Nat} (hl : e.lanes = [l]) (hkind : 16 ≤ fld (pushRecord e l).1 0 8)
    (hclean : s.cleanWaits e.ck = false) : evpushRes f e s = (seqLanes (s.release e.ck 5) e.act fun u j =>
      if u.queueFull (clusterOf e.ck) then (if f.bit 27 then .block .events else .trap 0xA6 0, u)
      else (.ok [], u.pushEvent (clusterOf e.ck) (pushRecord e j))).res {} [] := by
  have hkinds : (e.lanes.any fun l => decide (fld (pushRecord e l).1 0 8 < 0x10)) = false := by simp [hl, hkind]
  have hact : (e.act == 0) = false := beq_eq_false_iff_ne.mpr (act_ne_zero_of_lanes hl)
  simp only [evpushRes, hkinds, mustClean_of_clean hclean, hact, Bool.false_eq_true, if_false]

theorem evpushRes_room {f : FmtX} {e : Env} {s : State} {l : Nat} (hl : e.lanes = [l]) (hkind : 16 ≤ fld (pushRecord e l).1 0 8)
    (hclean : s.cleanWaits e.ck = false) (hroom : ((s.release e.ck 5).cluster (clusterOf e.ck)).events.length < 256) :
    evpushRes f e s = .done ((s.release e.ck 5).pushEvent (clusterOf e.ck) (pushRecord e l)) {} := by
  have hfree : (s.release e.ck 5).queueFull (clusterOf e.ck) = false := by simpa [State.queueFull] using hroom
  rw [evpushRes_one hl hkind hclean, seqLanes_one_ok hl (by rw [hfree]; rfl), Perf.one_res]

theorem evpushRes_full {f : FmtX} {e : Env} {s : State} {l : Nat} (hl : e.lanes = [l]) (hkind : 16 ≤ fld (pushRecord e l).1 0 8)
    (hclean : s.cleanWaits e.ck = false) (hfull : 256 ≤ ((s.release e.ck 5).cluster (clusterOf e.ck)).events.length)
    (hw : f.bit 27 = false) : evpushRes f e s = .stop (s.release e.ck 5) {} 0 (.trap 0xA6 0) := by
  have hfull' : (s.release e.ck 5).queueFull (clusterOf e.ck) = true := by simpa [State.queueFull] using hfull
  rw [evpushRes_one hl hkind hclean, seqLanes_one_trap hl (by rw [hfull', hw]; rfl)]

/-! ### `FESET` and `FEQRY` (10_copy R243) -/

theorem fesetRes_one {f : FmtX} {full : Bool} {e : Env} {s : State} {l first n : Nat} (hl : e.lanes = [l]) (hfree : s.ownedLines e.tid = [])
    (hargs : lineArgs e f 1 l = .ok (first, n)) : fesetRes f full e s = .done (s.setLines e.tid first n full) {} := by
  rw [fesetRes, seqLanes_one_ok hl (by rw [hargs, hfree]; rfl), Perf.one_res]

/-- A lane names as many lines as its second operand says. -/
theorem lineArgs_count {e : Env} {f : FmtX} {dflt l first n : Nat} (h : lineArgs e f dflt l = .ok (first, n)) :
    n = if f.b == 255 then dflt else (e.src32 1 l).toNat := by
  unfold lineArgs at h
  generalize (if f.b == 255 then dflt else (e.src32 1 l).toNat) = count at h ⊢
  dsimp only at h
  split at h
  · cases h
  · split at h
    · cases h
    · injection h with h
      exact (congrArg Prod.snd h).symm

/-- Which of `n` lines from `first` on are full, as a number. -/
def Env.fullLines (e : Env) (first n : Nat) : Nat := ((List.range n).map fun i => if e.t.empty.contains (first + i) then 0 else 1 <<< i).sum

theorem feqryRes_one {f : FmtX} {e : Env} {s : State} {l first n : Nat} (hl : e.lanes = [l]) (hargs : lineArgs e f 32 l = .ok (first, n))
    (hn : n ≤ 32) : feqryRes f e s
      = .done s { regs := bytesRegs f.d 1 (laneBit l) (Perf.one s l (leBytes 4 (e.fullLines first n))).vals } := by
  have hfew : decide (32 < if f.b == 255 then 32 else (e.src32 1 l).toNat) = false := by
    rw [← lineArgs_count hargs, decide_eq_false (Nat.not_lt.mpr hn)]
  rw [feqryRes, seqLanes_one_ok (t := s) (bs := leBytes 4 (e.fullLines first n)) hl
    (by simp only [hfew, hargs, Bool.and_false, Bool.false_eq_true, if_false]; rfl)]
  rfl

theorem leNat_leBytes4 (v : Nat) : leNat (leBytes 4 v) = v % 2 ^ 32 := by
  simp only [leBytes, List.range, List.range.loop, List.map, leNat, BitVec.toNat_ofNat, Nat.shiftRight_eq_div_pow]
  omega

/-- The bytes of one lane, written to one register. -/
theorem bytesRegs_writes32 {r : BitVec 8} (hr : regKind r ≠ .zero) (t : State) {l : Nat} (hl : l < 32) (v : Nat) :
    Writes32 { regs := bytesRegs r 1 (laneBit l) (Perf.one t l (leBytes 4 v)).vals } r (laneBit l) fun _ => BitVec.ofNat 32 v := by
  have hone : bytesRegs r 1 (laneBit l) (Perf.one t l (leBytes 4 v)).vals = [write32 r (laneBit l) fun j =>
      BitVec.ofNat 32 (leNat (((Lanes.at (Perf.one t l (leBytes 4 v)).vals j).drop 0).take 4))] := by
    rw [bytesRegs, if_neg (by simpa using hr)]
    simp [List.range, List.range.loop]
  refine writes32_of hone fun j hj hbit => ?_
  obtain rfl : j = l := by simpa [laneBit_getLsbD_eq l hj] using hbit
  rw [Perf.one_val t hl, if_pos rfl, List.drop_zero, List.take_of_length_le (by simp [leBytes]), leNat_leBytes4]
  exact BitVec.eq_of_toNat_eq (by simp)

/-- Settles O33: the one active lane pops, pushes, sets or reads, and the lanes' effect is its own. -/
theorem eventQueueWords : Obligations.EventQueueWords := by
  refine ⟨fun g f s e l hl hm => ⟨fun h hev => ?popNone, fun r rest h hev hclean => ?pop, fun h hkind hclean hroom => ?push,
      fun h hkind hclean hfull hw => ?full⟩,
    fun g f s e => ⟨fun i full hi h hfree l first n hl hargs => ?feset, fun l first n h hl hargs hn => ?feqry⟩⟩
  case popNone =>
    obtain ⟨regs, hres⟩ := evpopRes_one (f := f) hl (.inl hev) (popLane_nil hev)
    exact ⟨_, completes_to_of_runWord h rfl hres, 0, rfl, fun _ _ _ => by simp⟩
  case pop =>
    obtain ⟨regs, hres⟩ := evpopRes_one (f := f) hl (.inr hclean) (popLane_cons hm hev)
    rw [bytesOfWord_isEmpty] at hres
    refine ⟨_, _, completes_to_of_runWord h rfl hres, ⟨laneBit l, rfl, fun _ _ hbit => hbit⟩, ?_⟩
    rw [if_neg Bool.false_ne_true, acquire_cluster, State.cluster_setCluster]
    rfl
  case push => exact completes_to_of_runWord h rfl (evpushRes_room hl hkind hclean hroom)
  case full => rw [exec_trap_to_of_runWord h rfl (evpushRes_full hl hkind hclean hfull hw), lowLane_of_lanes hl]
  case feset =>
    rcases hi with ⟨rfl, rfl⟩ | ⟨rfl, rfl⟩
    · exact completes_to_of_runWord h rfl (fesetRes_one hl hfree hargs)
    · exact completes_to_of_runWord h rfl (fesetRes_one hl hfree hargs)
  case feqry => exact ⟨_, completes_to_of_runWord h rfl (feqryRes_one hl hargs hn), fun hr => bytesRegs_writes32 hr s (lane_of_lanes hl).1 _⟩

end Sys2Proof.Machine
end

section
/-! PROOFS. Copies, monitors and the LAE as they go on by themselves: the line that a copy fills, its end and its record, the outcomes
of a monitor, and the entry that the LAE adds to a queue (O50). -/

namespace Sys2Proof.Machine

/-! ### `COPY LINE FILL` (10_copy R236, R237) -/

theorem formRecord_copy (c : Copy) (m : Moved) (n : Nat) : ∃ r, (c.formRecord m n).2.2 = { c with formed := r } := by
  unfold Copy.formRecord
  split
  · exact ⟨c.formed, rfl⟩
  · exact ⟨_, rfl⟩

/-- To fill a line forms the records that lie in it, and changes no other part of the copy. -/
theorem fillLine_copy (c : Copy) (s : State) (line : Nat) : ∃ r, (c.fillLine s line).2 = { c with formed := r } := by
  unfold Copy.fillLine
  refine List.foldlRecOn (motive := fun acc : Moved × Copy => ∃ r, acc.2 = { c with formed := r }) _ _ ⟨c.formed, rfl⟩ fun acc hacc n _ => ?_
  obtain ⟨r, hr⟩ := hacc
  obtain ⟨r', hr'⟩ := formRecord_copy acc.2 acc.1 n
  exact ⟨r', hr'.trans (by rw [hr])⟩

/-- The line is full: its team may read it. -/
def State.lineFull (s : State) (tid line : Nat) : State := s.modTeam tid fun t => { t with empty := t.empty.filter (· != line) }

theorem lineFull_not_empty {s : State} {tid line : Nat} {t : Team} (h : (s.lineFull tid line).team? tid = some t) : line ∉ t.empty := by
  rw [State.lineFull, State.team?_modTeam] at h
  obtain ⟨u, -, rfl⟩ := Option.map_eq_some_iff.mp h
  simp

/-- The copy goes on without the line, and whoever its destination is handed to finds it full. -/
structure Filled (k line : Nat) (c : Copy) (t : State) : Prop where
  copy : ∃ c', t.copy? k = some c' ∧ c'.form = c.form ∧ c'.left = c.left.filter (· != line) ∧ c'.stage = .moving
  full : c.form ≠ 1 → ∀ tm, t.team? c.team = some tm → line ∉ tm.empty

theorem copyLineFill_filled {s : State} {k line : Nat} {c : Copy} (hc : s.copy? k = some c) (hform : c.form ≤ 3)
    (hstage : c.stage = .accepted ∨ c.stage = .moving) (hline : line ∈ c.left) : Filled k line c (s.copyLineFill k line) := by
  have hgo : (!(c.stage == .accepted || c.stage == .moving) || !c.left.contains line || decide (3 < c.form)) = false := by
    rcases hstage with h | h <;> simp [h, hline, hform]
  simp only [State.copyLineFill, hc, hgo, Bool.false_eq_true, if_false]
  by_cases hout : c.form = 1
  · simp only [hout, beq_self_eq_true, if_true]
    exact ⟨⟨_, State.copy?_setCopy .., hout.symm, rfl, rfl⟩, fun h => absurd hout h⟩
  · obtain ⟨r, hr⟩ := fillLine_copy c s line
    simp only [beq_eq_false_iff_ne.mpr hout, Bool.false_eq_true, if_false, hr]
    exact ⟨⟨_, State.copy?_setCopy .., rfl, rfl, rfl⟩, fun _ _ => lineFull_not_empty⟩

/-- Only an `SLD.sp` fills its lines from a bucket (17_sample R363). -/
theorem sldFill_of_copy {s : State} {k line : Nat} {c : Copy} (hc : s.copy? k = some c) (h : c.form ≠ 4) : s.sldFill k line = s := by
  rw [State.sldFill, hc]
  simp only [bne_iff_ne.mpr h, Bool.true_or, if_true]
  split <;> rfl

theorem exec_copyLineFill {s : State} {k line : Nat} {c : Copy} (h : Filled k line c (s.copyLineFill k line)) (hform : c.form ≤ 3) :
    exec (.copyLineFill k line) s = .next (s.copyLineFill k line) := by
  obtain ⟨c', hc', hform', -⟩ := h.copy
  exact congrArg Host.Outcome.next (sldFill_of_copy hc' (by omega))

/-! ### `COPY LANDED` and `COPY POST` (R237-R239) -/

theorem copyComplete_copy? {s : State} (h : SMap.sorted s.copies = true) (k : Nat) (c : Copy) : (s.copyComplete k c).copy? k = none :=
  SMap.get?_erase_same k h

/-- A copy that has landed posts its record, or is complete. -/
def State.copyEnds (s : State) (k : Nat) (c : Copy) : State :=
  if c.ev then s.setCopy k { c with stage := .posting } else s.copyComplete k c

theorem copyEnds_copy? {s : State} (h : SMap.sorted s.copies = true) (k : Nat) (c : Copy) :
    (s.copyEnds k c).copy? k = if c.ev then some { c with stage := .posting } else none := by
  unfold State.copyEnds
  split
  · exact State.copy?_setCopy ..
  · exact copyComplete_copy? h k c

theorem copyEnds_bytes (s : State) (k : Nat) (c : Copy) (a n : Nat) : (s.copyEnds k c).bytes a n = s.bytes a n := by
  unfold State.copyEnds
  split <;> rfl

/-- The completion word is added to, past the copies of the core, after all that the core has to write back (R238). -/
def State.addCompletion (s : State) (ck a : Nat) : State :=
  ((s.release ck 5).dropLine ck a).writeHome a (leBytes 4 (leNat (((s.release ck 5).dropLine ck a).bytes a 4) + 1))

theorem addCompletion_bytes {s : State} (h : s.memWf) (ck a : Nat) :
    (s.addCompletion ck a).bytes a 4 = leBytes 4 (leNat (((s.release ck 5).dropLine ck a).bytes a 4) + 1) :=
  writeHome_bytes (dropLine_memWf ck a (release_memWf ck 5 h)) a (leBytes 4 _)

section
variable {s : State} {k : Nat} {c : Copy} (hc : s.copy? k = some c) (hform : c.form ≠ 1) (hstage : c.stage = .moving) (hleft : c.left = [])
include hc hform hstage hleft

theorem copyLanded_plain (hcw : c.cw = none) : s.copyLanded k = s.copyEnds k c := by
  simp [State.copyLanded, hc, hform, hstage, hleft, hcw, State.copyEnds]

theorem copyLanded_word {a : Nat} (hcw : c.cw = some a) (hnear : crosses (c.core / 96) a = false) (hclean : s.cleanWaits c.core = false) :
    s.copyLanded k = (s.addCompletion c.core a).copyEnds k c := by
  simp [State.copyLanded, hc, hform, hstage, hleft, hcw, hnear, hclean, State.copyEnds, State.addCompletion]

end

theorem copyPost_posts {s : State} {k : Nat} {c : Copy} (hc : s.copy? k = some c) (hstage : c.stage = .posting)
    (hroom : s.queueFull (clusterOf c.core) = false) :
    s.copyPost k = (s.pushEvent (clusterOf c.core) c.record).copyComplete k c := by
  simp [State.copyPost, hc, hstage, hroom]

theorem pushEvent_events (s : State) (cl : Nat) (r : EvRec) : ((s.pushEvent cl r).cluster cl).events = (s.cluster cl).events ++ [r] := by
  rw [State.pushEvent, State.modCluster, State.cluster_setCluster]

/-! ### Monitors (11_barrier R256-R259) -/

theorem endMonitor_waited {m : Monitor} (h : m.async = false) (s : State) (k st : Nat) :
    s.endMonitor k m st = s.setMonitor k { m with outcome := some st } := by
  simp [State.endMonitor, h]

section
variable {s : State} {k : Nat} {m : Monitor} (hm : s.monitor? k = some m) (hwait : m.async = false)
include hm hwait

theorem monitorWake_ends (h : s.canWake m = true) : s.monitorWake k = s.setMonitor k { m with outcome := some 0 } := by
  simp only [State.monitorWake, hm, h, if_true, endMonitor_waited hwait]

theorem monitorTimeout_ends (h : s.canTimeout m = true) : s.monitorTimeout k = s.setMonitor k { m with outcome := some 1 } := by
  simp only [State.monitorTimeout, hm, h, if_true, endMonitor_waited hwait]

theorem monitorRecheck_rechecks (h : s.canRecheck m = true) : s.monitorRecheck k =
    s.setMonitor k (if s.monHolds m then { m with outcome := some 0 } else { m with last := s.monCycles m }) := by
  simp only [State.monitorRecheck, hm, h, Bool.not_true, Bool.false_eq_true, if_false, endMonitor_waited hwait, apply_ite (s.setMonitor k)]

end

/-! ### The LAE (12_kernel R268) -/

/-- A queue has one permit less and one entry more. -/
theorem laePush_queue {s : State} {gk : Nat} {g : Group} (hg : s.group? gk = some g) (tid : Nat) (l : Lae) (st : Stream)
    (entry : W32 × W32 × W32) : ∃ h, (s.laePush tid gk l st entry).group? gk = some h
      ∧ (h.queue st.queue).permits = (g.queue st.queue).permits - 1
      ∧ (h.queue st.queue).items.length = (g.queue st.queue).items.length + 1 := by
  simp only [State.laePush, State.group?, State.modTeam_groups]
  rw [← State.group?, State.group?_modGroup, hg]
  exact ⟨_, rfl, by simp [Group.queue, Group.setQueue, SMap.getD], by simp [Group.queue, Group.setQueue, SMap.getD]⟩

/-- A stream of addresses, with a permit for it and nothing to stop the LAE, is served. -/
theorem laeServe_address {s : State} {tid gk : Nat} {t : Team} {l : Lae} {st : Stream} {g : Group} (ht : s.team? tid = some t)
    (hl : t.lae = some l) (hst : l.cur = some st) (hg : s.groupAt tid st.gidx = some (gk, g)) (hgo : s.laeGoes t l st g = true)
    (haddr : st.copy = false) : ∃ entry, s.laeServe tid = s.laePush tid gk l st entry := by
  simp only [State.laeServe, ht, hl, hst, Option.bind_some, hg, hgo, haddr, Bool.not_true, Bool.not_false, Bool.false_eq_true, if_false, if_true]
  exact ⟨_, rfl⟩

/-! ### The statement -/

/-- Settles O50: each event does the one thing that its part of the state waits for. -/
theorem copiesAndMonitors : Obligations.CopiesAndMonitors := by
  refine fun s k => ⟨fun c line hc hform hstage hline => ?fill, fun c hc hform hstage hleft hs =>
      ⟨fun hcw => ?plain, fun a hcw hnear hclean hwf => ?word⟩,
    fun c hc hstage hroom hs => ?post, fun m hm hwait => ⟨fun h => ?wake, fun h => ?timeout, fun h => ?recheck⟩,
    fun t l st gk g ht hl hst hat hg hrun hsave htrip hend hfault hpermit haddr => ?serve⟩
  case fill =>
    have hfilled := copyLineFill_filled hc hform hstage hline
    obtain ⟨c', hc', -, hleft, hmoving⟩ := hfilled.copy
    exact ⟨_, exec_copyLineFill hfilled hform, c', hc', hleft, hmoving, hfilled.full⟩
  case plain => exact ⟨_, congrArg Host.Outcome.next (copyLanded_plain hc hform hstage hleft hcw), copyEnds_copy? hs k c⟩
  case word =>
    refine ⟨_, congrArg Host.Outcome.next (copyLanded_word hc hform hstage hleft hcw hnear hclean), ?_⟩
    exact (copyEnds_bytes ..).trans (addCompletion_bytes hwf c.core a)
  case post =>
    exact ⟨_, congrArg Host.Outcome.next (copyPost_posts hc hstage hroom), copyComplete_copy? hs k c, pushEvent_events s _ _⟩
  case wake => exact congrArg Host.Outcome.next (monitorWake_ends hm hwait h)
  case timeout => exact congrArg Host.Outcome.next (monitorTimeout_ends hm hwait h)
  case recheck => exact congrArg Host.Outcome.next (monitorRecheck_rechecks hm hwait h)
  case serve =>
    have hgo : s.laeGoes t l st g = true := by simp [State.laeGoes, hrun, hsave, htrip, hend, hfault, hpermit]
    obtain ⟨entry, hserve⟩ := laeServe_address ht hl hst hat hgo haddr
    exact ⟨_, rfl, hserve ▸ laePush_queue hg k l st entry⟩

end Sys2Proof.Machine
end

section
/-! PROOFS. Barrier words: the checks that they share, what `BAR.INIT` and `BAR.Q` do (O21), and what arrivals and waits make of a
barrier object (O22). -/

namespace Sys2Proof.Machine

/-! ### Words with checks of their own -/

section
variable {i : Instr} {s t : State} {e : Env} {pre : PreCheck} {body : Env → State → Res}

/-- A ready word that passes its own checks, and whose effect completes in the machine `t`. -/
theorem completes_of_checked {x : Eff} (h : Ready s i e) (hexec : exec i s = runWord i pre body s) (hpre : pre e s = none)
    (hbody : body e s = .done t x) : Completes s i e t x := by
  rw [Completes, hexec, runWord_ready h hpre, hbody]
  rfl

/-- A ready word that passes its own checks and traps with no lane done. -/
theorem exec_trap_of_checked {c : Cause} {info : Word} (h : Ready s i e) (hexec : exec i s = runWord i pre body s) (hpre : pre e s = none)
    (hbody : body e s = .stop t {} 0 (.trap c info)) : exec i s = .next (t.trapBefore e 0 c info 0 0 (lowLane e.act)) := by
  have hact : e.act &&& ~~~(0 : Mask) = e.act := BitVec.and_allOnes
  rw [hexec, runWord_ready h hpre, hbody]
  simp only [Res.apply, beq_self_eq_true, if_true, hact]

/-- A word that passes the checks of its encoding and of the scalar pipe, and fails its own, traps before its operands are looked at. -/
theorem runWord_check_trap {c : Cause} (he : s.env? i = some e) (hw : s.watches e.ck 0 = []) (hc : s.encCheck i e = none)
    (hn : neverGuard i.guard = false) (hs : scalarCheck i e = none) (hpre : pre e s = some c) :
    runWord i pre body s = .next (s.trapBefore e 0 c 0 0 0 (lowLane (e.ig.mask &&& ~~~e.ig.done))) := by
  simp [runWord, he, issueWord_unwatched hw, hc, hn, hs, hpre]

end

/-! ### The checks of barrier words (11_barrier R245) -/

section
variable {f : FmtX} {e : Env}

theorem barCheck_none (h0 : e.act = 0) (init : Bool) (s : State) : barCheck f init e s = none := by simp [barCheck, h0]

theorem barCheck_beyond (h0 : e.act ≠ 0) (hk : e.t.kernel.barriers ≤ barIdx f) (init : Bool) (s : State) :
    barCheck f init e s = some 0x83 :=
  (if_neg (by simpa using h0)).trans (if_pos hk)

theorem barCheck_unset (h0 : e.act ≠ 0) (hk : barIdx f < e.t.kernel.barriers) (hinit : (e.t.bar (barIdx f)).init = false) (s : State) :
    barCheck f true e s = some 0x80 :=
  (if_neg (by simpa using h0)).trans ((if_neg (Nat.not_le.mpr hk)).trans (if_pos (by simp [hinit])))

theorem barCheck_passes (hk : barIdx f < e.t.kernel.barriers) {init : Bool} (hinit : init = false ∨ (e.t.bar (barIdx f)).init = true)
    (s : State) : barCheck f init e s = none := by
  rcases hinit with rfl | hinit
  · simp [barCheck, Nat.not_le.mpr hk]
  · simp [barCheck, Nat.not_le.mpr hk, hinit]

end

/-- The five barrier words that need an object which has been set up make the same checks, and none belongs to the scalar pipe. -/
theorem exec_barWord {i : Instr} {g : Guard} {f : FmtX} (hi : i ∈ [.barArv g f, .barDrop g f, .barSync g f, .barWait g f, .barWpar g f]) :
    scalarOp i.op = false ∧ ∃ body, exec i = runWord i (barCheck f true) body := by
  revert i
  simp only [List.forall_mem_cons]
  exact ⟨⟨rfl, _, rfl⟩, ⟨rfl, _, rfl⟩, ⟨rfl, _, rfl⟩, ⟨rfl, _, rfl⟩, ⟨rfl, _, rfl⟩, List.forall_mem_nil _⟩

/-- A barrier word whose object fails the checks traps. -/
theorem barWord_check_trap {i : Instr} {g : Guard} {f : FmtX} {s : State} {e : Env} {c : Cause}
    (hi : i ∈ [.barArv g f, .barDrop g f, .barSync g f, .barWait g f, .barWpar g f]) (he : s.env? i = some e) (hw : s.watches e.ck 0 = [])
    (hc : s.encCheck i e = none) (hn : neverGuard i.guard = false) (hcheck : barCheck f true e s = some c) :
    exec i s = .next (s.trapBefore e 0 c 0 0 0 (lowLane (e.ig.mask &&& ~~~e.ig.done))) := by
  obtain ⟨hscalar, body, hexec⟩ := exec_barWord hi
  rw [hexec]
  exact runWord_check_trap he hw hc hn (by simp [scalarCheck, hscalar]) hcheck

/-! ### `BAR.INIT` and `BAR.Q` (R247, R251) -/

section
variable {f : FmtX} {s : State} {e : Env}

theorem barInitRes_none (h0 : e.act = 0) : barInitRes f e s = .done s {} := if_pos (beq_iff_eq.mpr h0)

theorem barInitRes_refused (h0 : e.act ≠ 0) (hbad : (e.src32 0 e.low).toNat = 0 ∨ 512 < (e.src32 0 e.low).toNat
    ∨ (e.t.bar (barIdx f)).a ≠ 0 ∨ s.barWaited e.tid (barIdx f) = true) : barInitRes f e s = .stop s {} 0 (.trap 0x82 0) := by
  have h : ((e.src32 0 e.low).toNat == 0 || decide (512 < (e.src32 0 e.low).toNat) || (e.t.bar (barIdx f)).a != 0
      || s.barWaited e.tid (barIdx f)) = true := by
    simpa [or_assoc] using hbad
  rw [barInitRes, if_neg (by simpa using h0)]
  exact if_pos h

theorem barInitRes_sets (h0 : e.act ≠ 0) (hlo : 1 ≤ (e.src32 0 e.low).toNat) (hhi : (e.src32 0 e.low).toNat ≤ 512)
    (ha : (e.t.bar (barIdx f)).a = 0) (hwait : s.barWaited e.tid (barIdx f) = false) (ht : s.team? e.tid = some e.t) :
    barInitRes f e s = .done (s.setTeam e.tid (e.t.setBar (barIdx f)
      { e.t.bar (barIdx f) with init := true, e := (e.src32 0 e.low).toNat, en := (e.src32 0 e.low).toNat })) {} := by
  have h : ((e.src32 0 e.low).toNat == 0 || decide (512 < (e.src32 0 e.low).toNat) || (e.t.bar (barIdx f)).a != 0
      || s.barWaited e.tid (barIdx f)) = false := by
    simp only [ha, hwait, beq_eq_false_iff_ne.mpr (Nat.one_le_iff_ne_zero.mp hlo), decide_eq_false (Nat.not_lt.mpr hhi), bne_self_eq_false,
      Bool.or_self]
  rw [barInitRes, if_neg (by simpa using h0)]
  simp only [h, Bool.false_eq_true, if_false, State.modTeam, ht]

end

/-- Settles O21: `BAR.INIT` and `BAR.Q` do what their results say, and the other words fail the checks that they share. -/
theorem barrierObjects : Obligations.BarrierObjects := by
  refine ⟨fun g f s e => ⟨fun h h0 hk ht hbad => ?refused, fun h h0 hk hlo hhi ha hwait ht => ?sets, fun h h0 => ?none, fun h hk => ?reads⟩,
    fun g f s e i hi he hw hc hn h0 => ⟨fun hk => ?beyond, fun hk hinit => ?unset⟩⟩
  case refused => exact exec_trap_of_checked h rfl (barCheck_passes hk (.inl rfl) s) (barInitRes_refused h0 hbad)
  case sets => exact completes_of_checked h rfl (barCheck_passes hk (.inl rfl) s) (barInitRes_sets h0 hlo hhi ha hwait ht)
  case none => exact completes_of_checked h rfl (barCheck_none h0 false s) (barInitRes_none h0)
  case reads =>
    have hpre : barCheck f false e s = none := hk.elim (barCheck_none · false s) (barCheck_passes · (.inl rfl) s)
    refine ⟨_, completes_of_checked h rfl hpre rfl, writes64_of rfl fun l _ _ => ?_⟩
    cases hinit : (e.t.bar (f.fld 24 4).toNat).init <;> simp [barIdx, b2n, hinit]
  case beyond => exact barWord_check_trap hi he hw hc hn (barCheck_beyond h0 hk true s)
  case unset => exact barWord_check_trap hi he hw hc hn (barCheck_unset h0 hk hinit s)

/-! ### Masks as unions of lanes -/

theorem mem_maskLanes {m : Mask} {l : Nat} : l ∈ maskLanes m ↔ l < 32 ∧ m.getLsbD l = true := by
  simp [maskLanes, laneList]

theorem foldl_laneBit_getLsbD (ls : List Nat) (m : Mask) {j : Nat} (hj : j < 32) :
    (ls.foldl (fun m l => m ||| laneBit l) m).getLsbD j = (m.getLsbD j || decide (j ∈ ls)) := by
  induction ls generalizing m with
  | nil => simp
  | cons l r ih => simp [ih, laneBit_getLsbD_eq l hj, Bool.or_assoc]

/-- A mask is the union of its lanes. -/
theorem foldl_laneBit_maskLanes (m : Mask) : (maskLanes m).foldl (fun m l => m ||| laneBit l) 0 = m := by
  refine BitVec.eq_of_getLsbD_eq fun j hj => ?_
  rw [foldl_laneBit_getLsbD _ _ hj]
  simp [mem_maskLanes, hj]

theorem at_upd {α : Type} [Inhabited α] (v : Lanes α) (l : Nat) (fn : α → α) {j : Nat} (hj : j < 32) :
    Lanes.at (Lanes.upd v l fn) j = if j = l then fn (Lanes.at v j) else Lanes.at v j := by
  simp [Lanes.at, Lanes.upd, hj]

/-! ### Arrivals (R246) -/

/-- The object after `n` arrivals that leave its phase short of its count. -/
def Barrier.arrived (b : Barrier) (n : Nat) (drop : Bool) : Barrier := { b with a := b.a + n, en := if drop then b.en - n else b.en }

theorem Barrier.arrived_arrived (b : Barrier) (m n : Nat) (drop : Bool) : (b.arrived m drop).arrived n drop = b.arrived (m + n) drop := by
  cases drop <;> simp [Barrier.arrived, Nat.add_assoc, Nat.sub_sub]

theorem bar_setBar {b : Barrier} (h : b.init = true) (t : Team) (k : Nat) : (t.setBar k b).bar k = b := by
  have hne : b ≠ Barrier.fresh := fun h0 => by simp [h0, Barrier.fresh] at h
  simp [Team.setBar, Team.bar, SMap.put, SMap.getD, hne]

/-- The object once its phase has completed. -/
def Barrier.completed (b : Barrier) : Barrier := { b with ph := b.ph + 1, a := 0, e := b.en }

theorem completePhase_bar {t : Team} {k : Nat} (h : (t.bar k).init = true) : (t.completePhase k).bar k = (t.bar k).completed :=
  bar_setBar (b := (t.bar k).completed) h t k

theorem held_eq_false {b : Barrier} (h : b.a ≠ b.e) : b.held = false := by simp [Barrier.held, h]

/-- An arrival that leaves the phase short of its count. -/
theorem arrive_short {t : Team} {k : Nat} (halted drop : Bool) (h : (t.bar k).a + 1 < (t.bar k).e) :
    t.arrive halted k drop = some ((t.bar k).ph, t.setBar k ((t.bar k).arrived 1 drop)) := by
  have hne : ((t.bar k).a + 1 == (t.bar k).e) = false := beq_eq_false_iff_ne.mpr (Nat.ne_of_lt h)
  simp only [Team.arrive, held_eq_false (b := t.bar k) (by omega), hne, Bool.false_and, Bool.false_eq_true, if_false]
  rfl

/-- The last arrival of a phase, while no thread of the team is halted. -/
theorem arrive_last {t : Team} {k : Nat} (h : (t.bar k).a + 1 = (t.bar k).e) :
    t.arrive false k false = some ((t.bar k).ph, (t.setBar k ((t.bar k).arrived 1 false)).completePhase k) := by
  have heq : ((t.bar k).a + 1 == (t.bar k).e) = true := beq_iff_eq.mpr h
  simp only [Team.arrive, held_eq_false (b := t.bar k) (by omega), heq, Bool.not_false, Bool.true_and, Bool.false_eq_true, if_false, if_true]
  rfl

/-- Lanes whose arrivals leave the phase short of its count: each gets the phase as its token. -/
theorem arriveLanes_short {t : Team} {k : Nat} (hinit : (t.bar k).init = true) {ls : List Nat} (halted drop : Bool) (arr : Mask) (tok : Lanes W32)
    (h : (t.bar k).a + ls.length < (t.bar k).e) :
    ∃ tok' t', t.arriveLanes halted k drop ls arr tok = (ls.foldl (fun m l => m ||| laneBit l) arr, tok', t')
      ∧ (t'.bar k = (t.bar k).arrived ls.length drop)
      ∧ ∀ l, l < 32 → Lanes.at tok' l = if l ∈ ls then (t.bar k).ph.setWidth 32 else Lanes.at tok l := by
  induction ls generalizing t arr tok with
  | nil => exact ⟨tok, t, rfl, by cases drop <;> rfl, fun l _ => by simp⟩
  | cons l r ih =>
    rw [List.length_cons] at h
    have hbar : (t.setBar k ((t.bar k).arrived 1 drop)).bar k = (t.bar k).arrived 1 drop :=
      bar_setBar (b := (t.bar k).arrived 1 drop) hinit t k
    obtain ⟨tok', t', hrest, hbar', htok⟩ := ih (t := t.setBar k ((t.bar k).arrived 1 drop)) (by rw [hbar]; exact hinit)
      (arr ||| laneBit l) (Lanes.upd tok l fun _ => (t.bar k).ph.setWidth 32)
      (by rw [hbar]; simp only [Barrier.arrived]; omega)
    refine ⟨tok', t', ?_, ?_, fun j hj => ?_⟩
    · rw [Team.arriveLanes, arrive_short halted drop (by omega)]
      exact hrest
    · rw [hbar', hbar, Barrier.arrived_arrived, Nat.add_comm, List.length_cons]
    · rw [htok j hj, hbar, at_upd _ _ _ hj]
      by_cases hjl : j = l
      · simp [hjl, Barrier.arrived]
      · simp [hjl, Barrier.arrived]

/-- The one lane whose arrival brings the phase to its count. -/
theorem arriveLanes_last {t : Team} {k : Nat} {halted : Bool} (hinit : (t.bar k).init = true) (h : (t.bar k).a + 1 = (t.bar k).e)
    (hrun : halted = false) (l : Nat) (arr : Mask) (tok : Lanes W32) :
    ∃ t', t.arriveLanes halted k false [l] arr tok = (arr ||| laneBit l, Lanes.upd tok l fun _ => (t.bar k).ph.setWidth 32, t')
      ∧ t'.bar k = (t.bar k).completed := by
  have hbar : (t.setBar k ((t.bar k).arrived 1 false)).bar k = (t.bar k).arrived 1 false :=
    bar_setBar (b := (t.bar k).arrived 1 false) hinit t k
  refine ⟨(t.setBar k ((t.bar k).arrived 1 false)).completePhase k, ?_, ?_⟩
  · rw [hrun, Team.arriveLanes, arrive_last h]
    rfl
  · rw [completePhase_bar (by rw [hbar]; exact hinit), hbar]
    rfl

/-! ### The words of arrivals (R248) -/

section
variable {f : FmtX} {s : State} {e : Env} {k : Nat} (hteam : s.team? e.tid = some e.t) (hig : s.ig? e.pk = some e.ig) (harr : e.ig.arr = 0)
include hteam hig harr

/-- No lane has arrived before, and all of them do: the issue group keeps their tokens. -/
theorem barArrive_all {drop : Bool} {tok : Lanes W32} {t : Team} (hroom : drop = true → popMask e.act + 1 ≤ (e.t.bar k).en)
    (hall : e.t.arriveLanes (s.teamHalted e.tid) k drop (maskLanes e.act) 0 e.ig.tok = (e.act, tok, t)) :
    ∃ ig, barArrive k drop e s = (.ok ig, (s.setTeam e.tid t).setIg e.pk ig) ∧ ig.tok = tok := by
  have hcur : s.curIg e = e.ig := by simp [State.curIg, hig]
  have hrest : e.act &&& ~~~(0 : Mask) = e.act := BitVec.and_allOnes
  have hnone : e.act &&& ~~~e.act = 0 := BitVec.and_not_self _
  have hdrop : (e.act != 0 && drop && !(e.t.bar k).held && decide ((e.t.bar k).en < popMask e.act + 1)) = false := by
    cases drop with
    | false => simp
    | true => simp [Nat.not_lt.mpr (hroom rfl)]
  simp only [barArrive, hcur, harr, hrest, hteam, hdrop, hall, hnone, beq_self_eq_true, Bool.false_eq_true, if_false, if_true]
  exact ⟨_, rfl, rfl⟩

/-- `BAR.ARV` and `BAR.DROP` whose arrivals leave the phase short of its count. -/
theorem barArvRes_short {drop : Bool} (h0 : e.act ≠ 0) (hinit : (e.t.bar (barIdx f)).init = true)
    (hroom : drop = true → popMask e.act + 1 ≤ (e.t.bar (barIdx f)).en)
    (hshort : (e.t.bar (barIdx f)).a + (maskLanes e.act).length < (e.t.bar (barIdx f)).e) :
    ∃ t x, barArvRes f drop e s = .done t x ∧ (Writes32 x f.d e.act fun _ => (e.t.bar (barIdx f)).ph.setWidth 32) ∧ t.mem = s.mem
      ∧ ∃ tm, t.team? e.tid = some tm ∧ tm.bar (barIdx f) = (e.t.bar (barIdx f)).arrived (maskLanes e.act).length drop := by
  obtain ⟨tok, tm, hlanes, hbar, htok⟩ := arriveLanes_short hinit (s.teamHalted e.tid) drop 0 e.ig.tok hshort
  rw [foldl_laneBit_maskLanes] at hlanes
  obtain ⟨ig, harrive, rfl⟩ := barArrive_all hteam hig harr hroom hlanes
  rw [barArvRes, if_neg (by simpa using h0), harrive]
  refine ⟨_, _, rfl, writes32_of rfl fun l hl hact => ?_, rfl, tm, State.team?_setTeam .., hbar⟩
  rw [htok l hl, if_pos (mem_maskLanes.mpr ⟨hl, hact⟩)]

/-- `BAR.SYNC` of the one thread that brings the phase to its count. -/
theorem barSyncRes_last (h0 : e.act ≠ 0) (hinit : (e.t.bar (barIdx f)).init = true) (hone : (maskLanes e.act).length = 1)
    (hlast : (e.t.bar (barIdx f)).a + 1 = (e.t.bar (barIdx f)).e) (hrun : s.teamHalted e.tid = false) :
    ∃ t, barSyncRes f e s = .done t {} ∧ t.mem = s.mem ∧ ∃ tm, t.team? e.tid = some tm ∧ tm.bar (barIdx f)
      = (e.t.bar (barIdx f)).completed := by
  obtain ⟨l, hl⟩ := List.length_eq_one_iff.mp hone
  have hact : (0 : Mask) ||| laneBit l = e.act := by simpa [hl] using foldl_laneBit_maskLanes e.act
  obtain ⟨tm, hlanes, hbar⟩ := arriveLanes_last hinit hlast hrun l 0 e.ig.tok
  rw [hact, ← hl] at hlanes
  obtain ⟨ig, harrive, htok⟩ := barArrive_all hteam hig harr (by simp) hlanes
  have hlt : l < 32 := (mem_maskLanes.mp (show l ∈ maskLanes e.act by simp [hl])).1
  have hmoved : (e.lanes.any fun j => (tm.bar (barIdx f)).ph == (Lanes.at ig.tok j).setWidth 24) = false := by
    simp [Env.lanes, hl, hbar, htok, at_upd _ _ _ hlt, Barrier.completed]
  have hteam' : ((s.setTeam e.tid tm).setIg e.pk ig).team? e.tid = some tm := State.team?_setTeam ..
  rw [barSyncRes, if_neg (by simpa using h0), harrive]
  simp only [hteam', hmoved, Bool.false_eq_true, if_false]
  exact ⟨_, rfl, rfl, tm, hteam', hbar⟩

end

/-! ### Waits (R249, R250) -/

/-- With TRY, a wait on tokens that are not too old completes at once. -/
theorem barWaitRes_try {f : FmtX} {e : Env} {par : Bool} (h0 : e.act ≠ 0) (htry : f.bit 18 = true)
    (hvalid : ∀ l ∈ maskLanes e.act, waitStatus par (e.t.bar (barIdx f)).ph (e.src32 0 l) ≠ none) (s : State) :
    ∃ ig x, barWaitRes f par e s = .done (s.setIg e.pk ig) x := by
  have hnone : ((maskLanes (e.act &&& ~~~(s.curIg e).arr)).any fun l => (waitStatus par (e.t.bar (barIdx f)).ph (e.src32 0 l)).isNone) = false := by
    rw [List.any_eq_false]
    intro l hl h
    obtain ⟨hlt, hbit⟩ := mem_maskLanes.mp hl
    rw [BitVec.getLsbD_and, Bool.and_eq_true] at hbit
    exact hvalid l (mem_maskLanes.mpr ⟨hlt, hbit.1⟩) (Option.isNone_iff_eq_none.mp h)
  simp only [barWaitRes, hnone, htry, beq_eq_false_iff_ne.mpr h0, Bool.not_true, Bool.and_false, Bool.false_eq_true, if_false]
  exact ⟨_, _, rfl⟩

theorem waitStatus_wait {ph : BitVec 24} {tok : W32} (h : (ph - tok.setWidth 24).toNat < 1 <<< 23) : waitStatus false ph tok ≠ none := by
  simp only [waitStatus, Bool.false_eq_true, if_false, Nat.not_le.mpr h]
  simp

theorem waitStatus_wpar (ph : BitVec 24) (tok : W32) : waitStatus true ph tok ≠ none := by
  simp [waitStatus]

/-- Settles O22: arrivals short of the count, the last arrival of a phase, and waits with TRY. -/
theorem barrierWords : Obligations.BarrierWords := by
  intro g f s e k b n hk hinit hteam hig harr h0
  have hpre : barCheck f true e s = none := barCheck_passes hk (.inr hinit) s
  refine ⟨fun h hshort => ?arrive, fun h hshort hroom => ?drop, fun h hone hlast _ hrun => ?sync, fun h htry hvalid => ?wait, fun h htry => ?wpar⟩
  case arrive =>
    obtain ⟨t, x, hres, hwrites, hmem, hteam'⟩ := barArvRes_short hteam hig harr h0 hinit (drop := false) (by simp) hshort
    exact ⟨t, x, completes_of_checked h rfl hpre hres, hwrites, hmem, hteam'⟩
  case drop =>
    obtain ⟨t, x, hres, hwrites, hmem, hteam'⟩ := barArvRes_short hteam hig harr h0 hinit (drop := true) (fun _ => hroom) hshort
    exact ⟨t, x, completes_of_checked h rfl hpre hres, hwrites, hmem, hteam'⟩
  case sync =>
    obtain ⟨t, hres, hmem, hteam'⟩ := barSyncRes_last hteam hig harr h0 hinit hone hlast hrun
    exact ⟨t, completes_of_checked h rfl hpre hres, hmem, hteam'⟩
  case wait =>
    obtain ⟨ig, x, hres⟩ := barWaitRes_try (par := false) h0 htry (fun l hl => waitStatus_wait (hvalid l hl)) s
    exact ⟨_, x, completes_of_checked h rfl hpre hres, rfl, rfl⟩
  case wpar =>
    obtain ⟨ig, x, hres⟩ := barWaitRes_try (par := true) h0 htry (fun l _ => waitStatus_wpar _ _) s
    exact ⟨_, x, completes_of_checked h rfl hpre hres, rfl, rfl⟩

end Sys2Proof.Machine
end

section
/-! PROOFS. Team registers, whose lanes act in ascending order (O23), and regions that open and close (O24). -/

namespace Sys2Proof.Machine

/-! ### Lanes in order, none of which stops -/

/-- After the lanes `ls`, none of which has stopped: the state has `I`, the lanes are done, and each has brought bytes with `V`. -/
structure Perf.Through (I : State → Prop) (V : Nat → List Byte → Prop) (ls : List Nat) (p : Perf) : Prop where
  bad : p.bad = none
  wait : p.wait = none
  state : I p.s
  done : p.done = ls.foldl (fun m l => m ||| laneBit l) 0
  vals : ∀ l ∈ ls, l < 32 → V l (Lanes.at p.vals l)

theorem Perf.Through.res {I : State → Prop} {V : Nat → List Byte → Prop} {ls : List Nat} {p : Perf} (h : p.Through I V ls) (x : Eff) :
    p.res x [] = .done p.s x := by
  simp [Perf.res, h.bad, h.wait, actionLanes]

theorem Perf.Through.add {I : State → Prop} {V : Nat → List Byte → Prop} {ls : List Nat} {p : Perf} (h : p.Through I V ls) {l : Nat}
    {bs : List Byte} {t : State} (hbs : V l bs) (ht : I t) : (p.add l (.ok bs) t).Through I V (ls ++ [l]) where
  bad := h.bad
  wait := h.wait
  state := ht
  done := by simp [Perf.add, h.done]
  vals j hj hlt := by
    simp only [Perf.add, at_upd _ _ _ hlt]
    by_cases hjl : j = l
    · simpa [hjl] using hbs
    · simpa [hjl] using h.vals j (by simpa [hjl] using hj) hlt

/-- Lanes that all complete, in states that keep `I`, with bytes of which `V` holds. -/
theorem seqLanes_through {I : State → Prop} {V : Nat → List Byte → Prop} {s : State} {m : Mask} {fn : State → Nat → LaneEnd × State}
    (h0 : I s) (hfn : ∀ u, I u → ∀ l ∈ maskLanes m, ∃ bs t, fn u l = (.ok bs, t) ∧ V l bs ∧ I t) :
    (seqLanes s m fn).Through I V (maskLanes m) := by
  suffices h : ∀ (ls pre : List Nat) (p : Perf), (∀ l ∈ ls, l ∈ maskLanes m) → p.Through I V pre →
      (ls.foldl (fun p l => if p.bad.isSome || p.wait.isSome then p else p.add l (fn p.s l).1 (fn p.s l).2) p).Through I V (pre ++ ls) from
    h (maskLanes m) [] _ (fun _ hl => hl) ⟨rfl, rfl, h0, rfl, by simp⟩
  intro ls
  induction ls with
  | nil => intro pre p _ hp; simpa using hp
  | cons l r ih =>
    intro pre p hls hp
    obtain ⟨bs, t, hok, hbs, ht⟩ := hfn p.s hp.state l (hls l (by simp))
    have hgo : (p.bad.isSome || p.wait.isSome) = false := by simp [hp.bad, hp.wait]
    rw [List.foldl_cons, hgo, hok, if_neg Bool.false_ne_true, List.append_cons]
    exact ih _ _ (fun j hj => hls j (by simp [hj])) (hp.add hbs ht)

/-! ### Team registers (11_barrier R260, R261) -/

section
variable {f : FmtX} {e : Env} {s : State}

theorem tregCheck_passes (hok : ∀ l ∈ e.lanes, tregIdx f e l < e.t.kernel.teamregs) : tregCheck f e = false := by
  simpa [tregCheck] using hok

theorem tregCheck_high {l : Nat} (hl : l ∈ e.lanes) (h : e.t.kernel.teamregs ≤ tregIdx f e l) : tregCheck f e = true :=
  List.any_eq_true.mpr ⟨l, hl, decide_eq_true h⟩

/-- Only the reader has written the register of late: it reads the value in force. -/
theorem readTreg_own {i l : Nat} (ht : s.team? e.tid = some e.t)
    (hold : ∀ o ∈ freshOld (s.cyclesOf e.ck) (SMap.getD e.t.wold i []), o.writer = threadId e l) : s.readTreg e l i = (e.t.reg i, s) := by
  have hnone : (freshOld (s.cyclesOf e.ck) (SMap.getD e.t.wold i [])).takeWhile (fun o => o.writer != threadId e l) = [] := by
    cases hc : freshOld (s.cyclesOf e.ck) (SMap.getD e.t.wold i []) with
    | nil => rfl
    | cons o r => simp [hold o (by simp [hc])]
  simp only [State.readTreg, ht, hnone]
  rfl

theorem writeTreg_keeps (s : State) (e : Env) (l i : Nat) (v : W32) : (s.writeTreg e l i v).mem = s.mem ∧ (s.writeTreg e l i v).groups = s.groups :=
  ⟨State.modTeam_mem .., State.modTeam_groups ..⟩

theorem twrRes_writes (hok : ∀ l ∈ e.lanes, tregIdx f e l < e.t.kernel.teamregs) :
    twrRes f e s = .done (e.lanes.foldl (fun s l => s.writeTreg e l (tregIdx f e l) (e.src32 1 l)) s) {} := by
  rw [twrRes, tregCheck_passes hok]
  rfl

theorem bytesRegs_one {r : BitVec 8} (hr : regKind r ≠ .zero) (m : Mask) (vals : Lanes (List Byte)) :
    bytesRegs r 1 m vals = [write32 r m fun l => BitVec.ofNat 32 (leNat ((Lanes.at vals l).take 4))] := by
  rw [bytesRegs, if_neg (by simpa using hr)]
  simp [List.range, List.range.loop]

/-- The four bytes of each lane, written to one register. -/
theorem bytesRegs_writes32_lanes {r : BitVec 8} (hr : regKind r ≠ .zero) {m : Mask} {vals : Lanes (List Byte)} {v : Nat → W32}
    (hv : ∀ l, l < 32 → m.getLsbD l = true → Lanes.at vals l = leBytes 4 (v l).toNat) : Writes32 { regs := bytesRegs r 1 m vals } r m v := by
  refine writes32_of (bytesRegs_one hr m vals) fun l hl hbit => ?_
  rw [hv l hl hbit, List.take_of_length_le (by simp [leBytes]), leNat_leBytes4, Nat.mod_eq_of_lt (v l).isLt, BitVec.ofNat_toNat, BitVec.setWidth_eq]

/-- What one lane of `TRD` does. -/
def trdLane (f : FmtX) (e : Env) (s : State) (l : Nat) : LaneEnd × State :=
  (.ok (leBytes 4 (s.readTreg e l (tregIdx f e l)).1.toNat), (s.readTreg e l (tregIdx f e l)).2)

theorem trdRes_passed (hok : ∀ l ∈ e.lanes, tregIdx f e l < e.t.kernel.teamregs) :
    trdRes f e s = (seqLanes s e.act (trdLane f e)).res
      { regs := bytesRegs f.d 1 (seqLanes s e.act (trdLane f e)).done (seqLanes s e.act (trdLane f e)).vals } [] := by
  rw [trdRes, tregCheck_passes hok, if_neg Bool.false_ne_true]
  rfl

theorem trdRes_reads (hok : ∀ l ∈ e.lanes, tregIdx f e l < e.t.kernel.teamregs) (ht : s.team? e.tid = some e.t)
    (hold : ∀ l ∈ e.lanes, ∀ o ∈ freshOld (s.cyclesOf e.ck) (SMap.getD e.t.wold (tregIdx f e l) []), o.writer = threadId e l) :
    ∃ x, trdRes f e s = .done s x ∧ (regKind f.d ≠ .zero → Writes32 x f.d e.act fun l => e.t.reg (tregIdx f e l)) := by
  have hall : (seqLanes s e.act (trdLane f e)).Through (· = s) (fun l bs => bs = leBytes 4 (e.t.reg (tregIdx f e l)).toNat)
      (maskLanes e.act) := by
    refine seqLanes_through rfl fun u hu l hl => ?_
    rw [hu, trdLane, readTreg_own ht (hold l hl)]
    exact ⟨_, _, rfl, rfl, rfl⟩
  have hres := (trdRes_passed hok).trans (hall.res _)
  rw [hall.state] at hres
  refine ⟨_, hres, fun hr => ?_⟩
  rw [hall.done, foldl_laneBit_maskLanes]
  exact bytesRegs_writes32_lanes hr fun l hl hbit => hall.vals l (mem_maskLanes.mpr ⟨hl, hbit⟩) hl

/-- What one lane of `TATM` does. -/
def tatmLane (f : FmtX) (e : Env) (s : State) (l : Nat) : LaneEnd × State :=
  let old := ((s.team? e.tid).map fun t => t.reg (tregIdx f e l)).getD 0
  match atomicInt (f.fld 18 4).toNat 32 old.toNat (e.src32 1 l).toNat (hi32 (e.src 1 l)).toNat with
  | some v => (.ok (leBytes 4 old.toNat), s.writeTreg e l (tregIdx f e l) (BitVec.ofNat 32 v))
  | none => (.ok (leBytes 4 old.toNat), s)

theorem tatmRes_passed (hok : ∀ l ∈ e.lanes, tregIdx f e l < e.t.kernel.teamregs) :
    tatmRes f e s = (seqLanes s e.act (tatmLane f e)).res
      { regs := bytesRegs f.d 1 (seqLanes s e.act (tatmLane f e)).done (seqLanes s e.act (tatmLane f e)).vals } [] := by
  rw [tatmRes, tregCheck_passes hok, if_neg Bool.false_ne_true]
  rfl

theorem tatmLane_keeps (f : FmtX) (e : Env) (u : State) (l : Nat) :
    ∃ bs t, tatmLane f e u l = (.ok bs, t) ∧ t.mem = u.mem ∧ t.groups = u.groups := by
  unfold tatmLane
  dsimp only
  split
  · exact ⟨_, _, rfl, writeTreg_keeps ..⟩
  · exact ⟨_, _, rfl, rfl, rfl⟩

theorem tatmRes_done (hok : ∀ l ∈ e.lanes, tregIdx f e l < e.t.kernel.teamregs) :
    ∃ t x, tatmRes f e s = .done t x ∧ t.mem = s.mem ∧ t.groups = s.groups := by
  have hall : (seqLanes s e.act (tatmLane f e)).Through (fun u => u.mem = s.mem ∧ u.groups = s.groups) (fun _ _ => True) (maskLanes e.act) := by
    refine seqLanes_through ⟨rfl, rfl⟩ fun u hu l _ => ?_
    obtain ⟨bs, t, heq, hmem, hgroups⟩ := tatmLane_keeps f e u l
    exact ⟨bs, t, heq, trivial, hmem.trans hu.1, hgroups.trans hu.2⟩
  exact ⟨_, _, (tatmRes_passed hok).trans (hall.res _), hall.state⟩

theorem tatmLane_team {l : Nat} (ht : s.team? e.tid = some e.t) : tatmLane f e s l = (.ok (leBytes 4 (e.t.reg (tregIdx f e l)).toNat),
    match atomicInt (f.fld 18 4).toNat 32 (e.t.reg (tregIdx f e l)).toNat (e.src32 1 l).toNat (hi32 (e.src 1 l)).toNat with
    | some v => s.writeTreg e l (tregIdx f e l) (BitVec.ofNat 32 v)
    | none => s) := by
  simp only [tatmLane, ht, Option.map_some, Option.getD_some]
  split <;> rfl

end

/-- Settles O23: the lanes of each word act on the registers that their numbers name, and a number that is too high stops them all. -/
theorem teamRegisters : Obligations.TeamRegisters := by
  refine fun g f s e => ⟨fun h hok => ?write, fun h hok ht hold => ?read, fun h hok => ?atomic, fun l h hok ht hl => ?one,
    fun i l hi h hl hhigh => ?high⟩
  case write => exact completes_to_of_runWord h rfl (twrRes_writes hok)
  case read =>
    obtain ⟨x, hres, hwrites⟩ := trdRes_reads hok ht hold
    exact ⟨x, completes_to_of_runWord h rfl hres, hwrites⟩
  case atomic =>
    obtain ⟨t, x, hres, hmem, hgroups⟩ := tatmRes_done (s := s) hok
    exact ⟨t, x, completes_to_of_runWord h rfl hres, hmem, hgroups⟩
  case one =>
    have hres := tatmRes_passed (s := s) hok
    rw [seqLanes_one_ok hl (tatmLane_team ht), Perf.one_res] at hres
    refine ⟨_, completes_to_of_runWord h rfl hres, fun hr => ?_⟩
    have hwrites := fun u => bytesRegs_writes32 hr u (lane_of_lanes hl).1 (e.t.reg (tregIdx f e l)).toNat
    simp only [BitVec.ofNat_toNat, BitVec.setWidth_eq] at hwrites
    exact hwrites _
  case high =>
    have hcheck := tregCheck_high hl hhigh
    simp only [List.mem_cons, List.not_mem_nil, or_false] at hi
    rcases hi with rfl | rfl | rfl <;> exact exec_trap_of_runWord h rfl (if_pos hcheck)

/-! ### Regions (R262) -/

section
variable {e : Env} {s : State}

theorem nprbRes_none (h0 : e.act = 0) : nprbRes e s = .done s {} := if_pos (beq_iff_eq.mpr h0)

theorem nprbRes_undeclared (h0 : e.act ≠ 0) (hnpr : e.t.kernel.npr = false) : nprbRes e s = .stop s {} 0 (.trap 0x87 0) := by
  rw [nprbRes, if_neg (by simpa using h0)]
  simp [hnpr]

theorem nprbRes_nested (h0 : e.act ≠ 0) (hnpr : e.t.kernel.npr = true) (hin : e.g.region.isSome = true) :
    nprbRes e s = .stop s {} 0 (.trap 0x86 0) := by
  rw [nprbRes, if_neg (by simpa using h0)]
  simp [hnpr, hin]

theorem nprbRes_opens (h0 : e.act ≠ 0) (hnpr : e.t.kernel.npr = true) (hout : e.g.region = none) (hg : s.group? e.gk = some e.g) :
    nprbRes e s = .done (s.setGroup e.gk { e.g with region := some 0 }) {} := by
  rw [nprbRes, if_neg (by simpa using h0), modGroup_of hg]
  simp [hnpr, hout]

theorem npre_closes {g : Guard} {f : FmtX} (h : Ready s (.npre g f) e) (hg : s.group? e.gk = some e.g) (h0 : e.act ≠ 0) :
    Completes s (.npre g f) e (s.setGroup e.gk { e.g with region := none }) {} :=
  completes_to_of_runWord h rfl (by rw [if_neg (by simpa using h0), modGroup_of hg])

theorem npre_none {g : Guard} {f : FmtX} (h : Ready s (.npre g f) e) (h0 : e.act = 0) : Completes s (.npre g f) e s {} :=
  completes_to_of_runWord h rfl (by rw [if_pos (beq_iff_eq.mpr h0)])

end

theorem nprWord_wellFormed {i : Instr} {g : Guard} {f : FmtX} (hi : i = .nprb g f ∨ i = .npre g f) :
    i.illFormed = none ↔ f.d = 255 ∧ f.a = 255 ∧ f.b = 255 ∧ f.low = 0 := by
  have hrules : i.rules = { res := f.un true true true || f.low != 0 } := by rcases hi with rfl | rfl <;> rfl
  have honly : i.illFormed = if (f.un true true true || f.low != 0) then some 0x01 else none := by
    simp only [Instr.illFormed, staticOrders, List.findSome?, Instr.staticCheck, hrules]
    cases f.un true true true || f.low != 0 <;> simp
  rw [honly]
  simp [FmtX.un, and_assoc]

theorem tickGroup_region (s : State) (n dt gk : Nat) (g : Group) : (s.tickGroup n dt gk g).region = g.region.map (· + n) := by
  unfold State.tickGroup
  dsimp only
  split <;> rfl

theorem groupExit_region {s : State} {gk : Nat} {g : Group} (hg : s.group? gk = some g) :
    ∃ h, (s.groupExit gk).group? gk = some h ∧ h.region = none := by
  simp only [State.groupExit, hg]
  exact ⟨_, State.group?_setGroup .., rfl⟩

/-- Settles O24: the words' fields, the cases of `NPRB` and `NPRE` apart, and the two other things that happen to a region. -/
theorem regions : Obligations.Regions := by
  refine ⟨fun g f => ⟨rfl, rfl, fun i hi => nprWord_wellFormed hi⟩,
    fun g f s e hg => ⟨fun h h0 hnpr hout => ?opens, fun h h0 hnpr => ?undeclared, fun h h0 hnpr hin => ?nested, fun h h0 => ?none,
      fun h h0 => ?closes, fun h hno => ?leaves⟩,
    fun s gk g hg => ⟨fun n dt => tickGroup_region s n dt gk g, fun hgone => ⟨?settles, groupExit_region hg⟩⟩⟩
  case opens => exact completes_to_of_runWord h rfl (nprbRes_opens h0 hnpr hout hg)
  case undeclared => exact exec_trap_of_runWord h rfl (nprbRes_undeclared h0 hnpr)
  case nested => exact exec_trap_of_runWord h rfl (nprbRes_nested h0 hnpr hin)
  case none => exact completes_to_of_runWord h rfl (nprbRes_none h0)
  case closes => exact npre_closes h hg h0
  case leaves =>
    by_cases h0 : e.act = 0
    · exact ⟨s, npre_none h h0, rfl⟩
    · refine ⟨_, npre_closes h hg h0, ?_⟩
      rw [State.group?_setGroup, hg, ← hno.resolve_left h0]
  case settles => simp only [State.settle, hg, hgone, if_true]

end Sys2Proof.Machine
end

section
/-! PROOFS. `WAITC`: monitors whose outcomes are read, and lanes that register theirs and go on (O31). -/

namespace Sys2Proof.Machine

/-! ### Reading outcomes (11_barrier R256) -/

theorem monRead_setIg (u : State) (k pk : Nat) (m : Mask) (ig : IssueGroup) :
    (u.setIg pk ig).monRead k m = (u.monRead k m).setIg pk ig := by
  have hsame : (u.setIg pk ig).monitor? k = u.monitor? k := rfl
  unfold State.monRead
  rw [hsame]
  split
  · rfl
  · split <;> rfl

theorem foldl_monRead_setIg (mons : List (Nat × Nat)) (u : State) (pk : Nat) (ig : IssueGroup) :
    mons.foldl (fun (u : State) (p : Nat × Nat) => u.monRead p.2 (laneBit p.1)) (u.setIg pk ig)
      = (mons.foldl (fun (u : State) (p : Nat × Nat) => u.monRead p.2 (laneBit p.1)) u).setIg pk ig := by
  induction mons generalizing u with
  | nil => rfl
  | cons p r ih => rw [List.foldl_cons, List.foldl_cons, monRead_setIg, ih]

/-- A monitor goes once every lane that shares it has read its outcome. -/
theorem monRead_last {s : State} {k : Nat} {m : Monitor} {b : Mask} (hs : SMap.sorted s.monitors = true) (hm : s.monitor? k = some m)
    (hall : m.lanes &&& ~~~b = 0) : (s.monRead k b).monitor? k = none := by
  simp only [State.monRead, hm, hall, beq_self_eq_true, if_true]
  exact SMap.get?_erase_same k hs

/-! ### The outcomes of a wait (R256) -/

section
variable {f : FmtX} {s : State} {e : Env}

theorem waitcRes_none (h0 : e.act = 0) : waitcRes f e s = .done s {} := if_pos (beq_iff_eq.mpr h0)

/-- Without an acquire, monitors that have ended give their status, and their words leave the core. -/
theorem waitcEnd_plain (hacq : f.bit 21 = false) (mons : List (Nat × Nat)) : waitcEnd f e s mons
    = .done ((((mons.filterMap fun p => s.monitor? p.2).map (·.pa)).eraseDups).foldl (fun (u : State) (pa : Nat) => u.dropLine e.ck pa)
        (mons.foldl (fun (u : State) (p : Nat × Nat) => u.monRead p.2 (laneBit p.1)) s))
      { regs := [write32 f.d e.act fun l => BitVec.ofNat 32 (((mons.find? fun p => p.1 == l).bind fun p => s.monOutcome p.2).getD 0)] } := by
  simp only [waitcEnd, hacq, Bool.false_and, State.mustClean, Bool.false_eq_true, if_false]

/-- Every lane has a monitor, and all of them have ended. -/
theorem waitcRes_ended (h0 : e.act ≠ 0) (hig : s.ig? e.pk = some e.ig) (hmons : ∀ l ∈ e.lanes, ∃ p ∈ e.ig.mons, p.1 = l)
    (hend : ∀ p ∈ e.ig.mons, (s.monOutcome p.2).isSome = true) (hwait : f.bit 15 = false) :
    waitcRes f e s = waitcEnd f e (s.setIg e.pk e.ig) e.ig.mons := by
  have hcur : s.curIg e = e.ig := by simp [State.curIg, hig]
  have hlate : (maskOf fun l => e.act.getLsbD l && !e.ig.mons.any fun p => p.1 == l) = 0 := by
    refine BitVec.eq_of_getLsbD_eq fun l hl => ?_
    rw [maskOf_getLsbD _ hl]
    cases hbit : e.act.getLsbD l with
    | false => simp
    | true => simpa using hmons l (mem_maskLanes.mpr ⟨hl, hbit⟩)
  have hnone : (e.ig.mons.any fun p => ((s.setIg e.pk e.ig).monOutcome p.2).isNone) = false := by
    rw [List.any_eq_false]
    intro p hp
    rw [show (s.setIg e.pk e.ig).monOutcome p.2 = s.monOutcome p.2 from rfl, Option.isNone_eq_false_iff.mpr (hend p hp)]
    exact Bool.false_ne_true
  simp only [waitcRes, beq_eq_false_iff_ne.mpr h0, hcur, hlate, hwait, beq_self_eq_true, List.append_nil, hnone, Bool.false_eq_true, if_false,
    if_true]

/-! ### Registration (R256) -/

/-- No address predicate is enabled and every lane passes its checks: the lanes register. -/
theorem waitcEnter_passes (hw : s.watches e.ck 0 = []) (hpass : Perf.passes (seqLanes s e.act (monLane f e))) :
    ∃ mons t, waitcEnter f e e.act s = (.ok mons, t) := by
  obtain ⟨hbad, hwait⟩ := hpass
  simp only [waitcEnter, addrHits_unwatched hw, recordHits_nil, hbad, hwait]
  exact ⟨_, _, rfl⟩

/-- With ASYNC, lanes that register their monitors go on. -/
theorem waitcRes_async (h0 : e.act ≠ 0) (hig : s.ig? e.pk = some e.ig) (hnew : e.ig.mons = []) (hasync : f.bit 15 = true)
    (hw : s.watches e.ck 0 = []) (hpass : Perf.passes (seqLanes s e.act (monLane f e))) : ∃ t, waitcRes f e s = .done t {} := by
  have hcur : s.curIg e = e.ig := by simp [State.curIg, hig]
  have hlate : (maskOf fun l => e.act.getLsbD l && !e.ig.mons.any fun p => p.1 == l) = e.act := by
    refine BitVec.eq_of_getLsbD_eq fun l hl => ?_
    rw [maskOf_getLsbD _ hl, hnew]
    simp
  obtain ⟨mons, t, henter⟩ := waitcEnter_passes hw hpass
  refine ⟨t, ?_⟩
  simp only [waitcRes, beq_eq_false_iff_ne.mpr h0, hcur, hlate, henter, hasync, Bool.false_eq_true, if_false, if_true]

end

/-- Settles O31: a wait ends when its monitors have, a monitor goes with its last reader, and ASYNC does not wait. -/
theorem conditionMonitors : Obligations.ConditionMonitors := by
  refine fun g f s e h hig => ⟨fun h0 => ?none, fun h0 hmons hend hacq hwait => ?ended, fun k m hs hm b hall => monRead_last hs hm hall,
    fun h0 hnew hasync hpass => ?async⟩
  case none => exact completes_to_of_runWord h rfl (waitcRes_none h0)
  case ended =>
    have hres := (waitcRes_ended h0 hig hmons hend hwait).trans (waitcEnd_plain hacq e.ig.mons)
    rw [foldl_monRead_setIg] at hres
    exact ⟨_, completes_to_of_runWord h rfl hres, writes32_of rfl fun _ _ _ => rfl⟩
  case async =>
    obtain ⟨t, hres⟩ := waitcRes_async h0 hig hnew hasync h.watch hpass
    exact ⟨t, completes_to_of_runWord h rfl hres⟩

end Sys2Proof.Machine
end

section
/-! PROOFS. `QPOP`, `QREL`, `GROW` and `SHRINK`: the sluice queues and the budget of the issuing group (O34). -/

namespace Sys2Proof.Machine

/-- A queue with one entry more reserved, for a `QPOP` that takes it. -/
def Sluice.popped (q : Sluice) : Sluice := { q with reserved := q.reserved + 1, taken := q.taken + 1 }

/-- A queue of which `n` reservations are given back, as permits while it is not finished. -/
def Sluice.givenBack (q : Sluice) (n : Nat) : Sluice :=
  { q with reserved := q.reserved - n, permits := if q.finished then q.permits else q.permits + n }

/-- The queue that a `QPOP` names: its own field, or the value of A. -/
def popQueue (f : FmtX) (e : Env) : Nat := if f.a = 255 then (f.fld 25 3).toNat else (e.src32 0 e.low).toNat

/-- What `GROW` reports of its lanes. -/
def growSays (f : FmtX) (e : Env) (v : Mask) : Eff := { preds := [{ p := f.fld 17 3, mask := e.act, vals := v }] }

theorem growSays_true (f : FmtX) (e : Env) : WritesP (growSays f e 0xFFFFFFFF) (f.fld 17 3) e.act fun _ => true :=
  ⟨BitVec.allOnes 32, rfl, fun _ hl _ => (BitVec.getLsbD_allOnes ..).trans (decide_eq_true hl)⟩

section
variable {f : FmtX} {s : State} {e : Env} (h0 : e.act ≠ 0)
include h0

/-! ### `QPOP` (12_kernel R271) -/

/-- With an active lane, `QPOP` is its checks in order, then the reservation. -/
theorem qpopRes_active : qpopRes f e s =
    if 8 ≤ popQueue f e then .stop s {} 0 (.trap 0x95 0)
    else if !SMap.has e.g.queues (popQueue f e) then .stop s {} 0 (.trap 0x94 0)
    else if 16 ≤ (e.g.queue (popQueue f e)).held then .stop s {} 0 (.block .sluice)
    else .done (s.modGroup e.gk fun g => g.setQueue (popQueue f e)
        { g.queue (popQueue f e) with
          reserved := (e.g.queue (popQueue f e)).reserved + 1, taken := (e.g.queue (popQueue f e)).taken + 1 })
      { long := some .other, wait := .sluice (popQueue f e) } := by
  rw [qpopRes, if_neg (by simpa using h0)]
  simp only [beq_iff_eq]
  rfl

theorem qpopRes_beyond (hq : 8 ≤ popQueue f e) : qpopRes f e s = .stop s {} 0 (.trap 0x95 0) := by
  rw [qpopRes_active h0, if_pos hq]

theorem qpopRes_undeclared (hq : popQueue f e < 8) (hhas : SMap.has e.g.queues (popQueue f e) = false) :
    qpopRes f e s = .stop s {} 0 (.trap 0x94 0) := by
  rw [qpopRes_active h0, if_neg (Nat.not_le.mpr hq), if_pos (by simp [hhas])]

theorem qpopRes_reserves (hg : s.group? e.gk = some e.g) (hq : popQueue f e < 8) (hhas : SMap.has e.g.queues (popQueue f e) = true)
    (hroom : (e.g.queue (popQueue f e)).held < 16) : qpopRes f e s =
    .done (s.setGroup e.gk (e.g.setQueue (popQueue f e) (e.g.queue (popQueue f e)).popped))
      { long := some .other, wait := .sluice (popQueue f e) } := by
  rw [qpopRes_active h0, if_neg (Nat.not_le.mpr hq), if_neg (by simp [hhas]), if_neg (Nat.not_le.mpr hroom), modGroup_of hg]
  rfl

/-! ### `QREL` (R272) -/

theorem qrelRes_undeclared (hhas : SMap.has e.g.queues (f.fld 25 3).toNat = false) : qrelRes f e s = .stop s {} 0 (.trap 0x94 0) := by
  rw [qrelRes, if_neg (by simpa using h0)]
  exact if_pos (by simp [hhas])

theorem qrelRes_unheld (hhas : SMap.has e.g.queues (f.fld 25 3).toNat = true)
    (hheld : (e.g.queue (f.fld 25 3).toNat).held < (f.fld 20 5).toNat) : qrelRes f e s = .stop s {} 0 (.trap 0x96 0) := by
  rw [qrelRes, if_neg (by simpa using h0)]
  exact (if_neg (by simp [hhas])).trans (if_pos hheld)

theorem qrelRes_releases (hg : s.group? e.gk = some e.g) (hhas : SMap.has e.g.queues (f.fld 25 3).toNat = true)
    (hheld : (f.fld 20 5).toNat ≤ (e.g.queue (f.fld 25 3).toNat).held) : qrelRes f e s =
    .done (s.setGroup e.gk (e.g.setQueue (f.fld 25 3).toNat ((e.g.queue (f.fld 25 3).toNat).givenBack (f.fld 20 5).toNat))) {} := by
  rw [qrelRes, if_neg (by simpa using h0)]
  simp only [modGroup_of hg]
  exact (if_neg (by simp [hhas])).trans (if_neg (Nat.not_lt.mpr hheld))

/-! ### `GROW` and `SHRINK` (R273) -/

theorem growRes_beyond (hnew : 192 < (f.fld 20 8).toNat) : growRes f e s = .stop s {} 0 (.trap 0x23 0) := by
  rw [growRes, if_neg (by simpa using h0)]
  exact if_pos hnew

theorem growRes_has (hmax : (f.fld 20 8).toNat ≤ 192) (hnew : (f.fld 20 8).toNat ≤ e.g.budget) :
    growRes f e s = .done s (growSays f e 0xFFFFFFFF) := by
  rw [growRes, if_neg (by simpa using h0)]
  exact (if_neg (Nat.not_lt.mpr hmax)).trans (if_pos hnew)

theorem growRes_grows (hg : s.group? e.gk = some e.g) (hmax : (f.fld 20 8).toNat ≤ 192) (hnew : e.g.budget < (f.fld 20 8).toNat)
    (hwas : (s.curIg e).was = 0) (hfirst : s.servedBefore e.gk = false) (hroom : s.growRoom e.pk e.g (f.fld 20 8).toNat = true) :
    growRes f e s = .done (s.setGroup e.gk { e.g with budget := (f.fld 20 8).toNat }) (growSays f e 0xFFFFFFFF) := by
  have hgranted : e.denied s = false := by simp [Env.denied, hwas]
  rw [growRes, if_neg (by simpa using h0), modGroup_of hg, hgranted, hfirst, hroom]
  exact (if_neg (Nat.not_lt.mpr hmax)).trans (if_neg (Nat.not_le.mpr hnew))

theorem shrinkRes_mapped (hnew : (f.fld 20 8).toNat < e.g.mapped) : shrinkRes f e s = .stop s {} 0 (.trap 0x22 0) := by
  rw [shrinkRes, if_neg (by simpa using h0)]
  exact if_pos hnew

theorem shrinkRes_shrinks (hg : s.group? e.gk = some e.g) (hnew : e.g.mapped ≤ (f.fld 20 8).toNat) :
    shrinkRes f e s = .done (s.setGroup e.gk { e.g with budget := min (f.fld 20 8).toNat e.g.budget }) {} := by
  rw [shrinkRes, if_neg (by simpa using h0), modGroup_of hg]
  exact if_neg (Nat.not_lt.mpr hnew)

end

/-- Settles O34: each word is its checks in order, and what it makes of its group's queue or budget when they pass. -/
theorem queueAndBudget : Obligations.QueueAndBudget := by
  refine ⟨fun g f s e hg h0 => ⟨fun h hq hhas hroom => ?pop, fun h hhas hheld => ?release, fun h hmax hnew hwas hfirst hroom => ?grow,
      fun h hmax hnew => ?has, fun h hnew => ?shrink⟩,
    fun g f s e h0 => ⟨fun h hq => ?popBeyond, fun h hq hhas => ?popUndeclared, fun h hhas => ?relUndeclared, fun h hhas hheld => ?relUnheld,
      fun h hnew => ?growBeyond, fun h hnew => ?shrinkMapped⟩⟩
  case pop => exact completes_to_of_runWord h rfl (qpopRes_reserves h0 hg hq hhas hroom)
  case release => exact completes_to_of_runWord h rfl (qrelRes_releases h0 hg hhas hheld)
  case grow => exact ⟨_, completes_to_of_runWord h rfl (growRes_grows h0 hg hmax hnew hwas hfirst hroom), growSays_true f e⟩
  case has => exact ⟨_, completes_to_of_runWord h rfl (growRes_has h0 hmax hnew), growSays_true f e⟩
  case shrink => exact completes_to_of_runWord h rfl (shrinkRes_shrinks h0 hg hnew)
  case popBeyond => exact exec_trap_of_runWord h rfl (qpopRes_beyond h0 hq)
  case popUndeclared => exact exec_trap_of_runWord h rfl (qpopRes_undeclared h0 hq hhas)
  case relUndeclared => exact exec_trap_of_runWord h rfl (qrelRes_undeclared h0 hhas)
  case relUnheld => exact exec_trap_of_runWord h rfl (qrelRes_unheld h0 hhas hheld)
  case growBeyond => exact exec_trap_of_runWord h rfl (growRes_beyond h0 hnew)
  case shrinkMapped => exact exec_trap_of_runWord h rfl (shrinkRes_mapped h0 hnew)

end Sys2Proof.Machine
end

section
/-! PROOFS. What a team's coming and going leaves alone: the caches, the buckets, the context and the reports hold no team, group or
node. -/

namespace Sys2Proof.Machine

/-- Teams, groups and nodes are the same. -/
structure KeepsWork (s t : State) : Prop where
  teams : t.teams = s.teams
  groups : t.groups = s.groups
  nodes : t.nodes = s.nodes

namespace KeepsWork

theorem refl (s : State) : KeepsWork s s := ⟨rfl, rfl, rfl⟩

theorem trans {s t u : State} (h : KeepsWork s t) (k : KeepsWork t u) : KeepsWork s u :=
  ⟨k.teams.trans h.teams, k.groups.trans h.groups, k.nodes.trans h.nodes⟩

theorem team? {s t : State} (h : KeepsWork s t) (tid : Nat) : t.team? tid = s.team? tid := by simp only [State.team?, h.teams]

theorem node? {s t : State} (h : KeepsWork s t) (k : Nat) : t.node? k = s.node? k := by simp only [State.node?, h.nodes]

theorem foldl {α : Type} {f : State → α → State} (hf : ∀ s a, KeepsWork s (f s a)) (l : List α) (s : State) : KeepsWork s (l.foldl f s) :=
  List.foldlRecOn (motive := KeepsWork s) l f (refl s) fun t ht a _ => ht.trans (hf t a)

theorem modCore (s : State) (k : Nat) (f : Core → Core) : KeepsWork s (s.modCore k f) := ⟨rfl, rfl, rfl⟩

theorem modDie (s : State) (d : Nat) (f : Die → Die) : KeepsWork s (s.modDie d f) := ⟨rfl, rfl, rfl⟩

theorem modBand (s : State) (d p : Nat) (f : Band → Band) : KeepsWork s (s.modBand d p f) := modDie s d _

/-! ### Caches (09_memory R213, R226) -/

theorem writeHome (s : State) (pa : Nat) (bs : List Byte) : KeepsWork s (s.writeHome pa bs) := by
  have hunmark : ∀ t : State, KeepsWork t (t.unmark pa bs.length) := fun t => by
    unfold State.unmark
    dsimp only
    split
    · exact refl t
    · exact ⟨rfl, rfl, rfl⟩
  have hwake : ∀ t : State, KeepsWork t (t.wakeMonitors pa bs.length) := fun t => by
    unfold State.wakeMonitors
    split
    · exact refl t
    · exact ⟨rfl, rfl, rfl⟩
  have hmem : KeepsWork s { s with mem := Memory.writes s.mem pa bs } := ⟨rfl, rfl, rfl⟩
  exact hmem.trans ((hunmark _).trans (hwake _))

theorem dropCopyMarks (s : State) (at_ : ErrPlace → Option Nat) (f : Nat → Bool) : KeepsWork s (s.dropCopyMarks at_ f) := by
  unfold State.dropCopyMarks
  split
  · exact refl s
  · exact ⟨rfl, rfl, rfl⟩

theorem cleanColumn (s : State) (ck : Nat) (f : Nat → Bool) : KeepsWork s (s.cleanColumn ck f) := by
  unfold State.cleanColumn
  dsimp only
  split
  · exact refl s
  · generalize hrun : List.foldl _ _ _ = run
    have hwritten : KeepsWork s run.1 := by
      rw [← hrun]
      refine List.foldlRecOn (motive := fun acc : State × Option (Nat × List Byte) => KeepsWork s acc.1) _ _ ⟨rfl, rfl, rfl⟩
        fun acc hacc e _ => ?_
      split
      · exact hacc
      · split
        · exact hacc
        · exact hacc.trans (writeHome ..)
    have hlast : ∀ t : State, KeepsWork s t → ∀ (b : Bool) (l : List ErrPlace), KeepsWork s (if b then t else { t with moved := l }) :=
      fun t ht b l => by cases b <;> exact ht.trans ⟨rfl, rfl, rfl⟩
    obtain ⟨t, _ | ⟨a, bs⟩⟩ := run
    · exact hlast t hwritten _ _
    · exact hlast _ (hwritten.trans (writeHome ..)) _ _

theorem release (s : State) (ck scope : Nat) : KeepsWork s (s.release ck scope) := by
  unfold State.release
  split
  · exact cleanColumn ..
  · exact refl s

theorem dropL1 (s : State) (ck : Nat) (f : Nat → Bool) : KeepsWork s (s.dropL1 ck f) := (modCore s ck _).trans (dropCopyMarks ..)

theorem dropColumn (s : State) (ck : Nat) (f : Nat → Bool) : KeepsWork s (s.dropColumn ck f) :=
  (cleanColumn s ck f).trans ((modCore _ ck _).trans (dropCopyMarks ..))

theorem acquire (s : State) (ck scope : Nat) : KeepsWork s (s.acquire ck scope) := by
  unfold State.acquire
  split
  · exact (dropColumn ..).trans (dropL1 ..)
  · exact refl s

/-! ### Buckets (17_sample R355) -/

theorem setBucket (s : State) (d t : Nat) (b : Bucket) : KeepsWork s (s.setBucket d t b) := by
  refine (modDie s d fun x => { x with buckets := SMap.set x.buckets t b }).trans ?_
  unfold State.setBucket State.moveDsb
  split
  · exact refl _
  · exact ⟨rfl, rfl, rfl⟩

theorem insertLive (s : State) (d t : Nat) (r : SampleRec) : KeepsWork s (s.insertLive d t r) := by
  unfold State.insertLive
  dsimp only
  split
  · exact (modBand s d _ _).trans (setBucket ..)
  · exact setBucket ..

theorem putRecord (s : State) (d t : Nat) (r : SampleRec) : KeepsWork s (s.putRecord d t r) := by
  refine (modDie s d fun x => { x with applied := x.applied + 1 }).trans ?_
  unfold State.putRecord
  dsimp only
  split
  · exact refl _
  · split
    · exact insertLive ..
    · split
      · exact setBucket ..
      · exact modBand ..

theorem unlockAll (s : State) (d tid : Nat) : KeepsWork s (s.unlockAll d tid) :=
  foldl (fun t _ => (setBucket t ..).trans (foldl (fun u _ => putRecord u ..) _ _)) _ s

/-! ### Contexts and reports (15_context R311, R322, 14_column R303) -/

theorem ctxStart (s : State) (x : Nat) : KeepsWork s (s.ctxStart x) := by
  unfold State.ctxStart
  dsimp only
  split
  · exact ⟨rfl, rfl, rfl⟩
  · exact refl s

theorem ctxSettle (s : State) (x : Nat) : KeepsWork s (s.ctxSettle x) := by
  unfold State.ctxSettle
  dsimp only
  split
  · exact ⟨rfl, rfl, rfl⟩
  · exact refl s

theorem ctxFault (s : State) (t : Team) (d c : Nat) (cause : Cause) : KeepsWork s (s.ctxFault t d c cause) := by
  unfold State.ctxFault
  dsimp only
  split <;> exact ⟨rfl, rfl, rfl⟩

/-- The end of a migration is reported, and no trail record is written for it. -/
theorem thermalEvent_migrated (s : State) (ck : Nat) : KeepsWork s (s.thermalEvent ck 9) := ⟨rfl, rfl, rfl⟩

end KeepsWork

end Sys2Proof.Machine
end

section
/-! PROOFS. What happens to the groups of other teams while a team is halted for a save: their watch actions, traps and ends leave the
team as it is, also where groups are not in canonical form, so that a group of another team may stand before one of the team's. -/

namespace Sys2Proof.Machine

@[simp] theorem modThreads_halts (g : Group) (m : Mask) (f : Thread → Thread) : (g.modThreads m f).halts = g.halts := by
  unfold Group.modThreads
  rfl

/-- Group `x` is of the team of `g`, and no watch action of it waits where none of `g` does. -/
structure QuietAs (g x : Group) : Prop where
  team : x.team = g.team
  halts : g.halts = [] → x.halts = []

namespace QuietAs

theorem trans {g x y : Group} (h : QuietAs g x) (k : QuietAs x y) : QuietAs g y := ⟨k.team.trans h.team, k.halts ∘ h.halts⟩

theorem modThreads (g : Group) (m : Mask) (f : Thread → Thread) : QuietAs g (g.modThreads m f) :=
  ⟨modThreads_team .., (modThreads_halts ..).trans⟩

theorem enter (g : Group) (f : Frame) (k : Nat) (h : Word) : QuietAs g (g.enter f k h) :=
  ⟨by simp only [Group.enter, modThreads_team], by simp only [Group.enter, modThreads_halts, imp_self]⟩

end QuietAs

/-- Team `tid` is the same, and where a key names a group of it, it named one before, as quiet. -/
structure Spares (tid : Nat) (s t : State) : Prop where
  team : t.team? tid = s.team? tid
  groups : ∀ k x, t.group? k = some x → x.team = tid → ∃ g, s.group? k = some g ∧ QuietAs g x

/-- Key `k` names no group of the team. -/
def State.foreign (s : State) (tid k : Nat) : Prop := ∀ g, s.group? k = some g → g.team ≠ tid

/-- No group of the team has a watch action that waits. -/
def State.haltless (s : State) (tid : Nat) : Prop := ∀ k g, s.group? k = some g → g.team = tid → g.halts = []

/-- The watch actions of a lane's instruction wait no more: those of group `k`, which is `g`, have left it and the watch bank. -/
def State.landed (s : State) (k : Nat) (g : Group) (l : Nat) : State :=
  (s.setGroup k { g with halts := g.halts.filter fun h => !(g.landing l).contains h }).setSkids (gkCore k)
    ((g.landing l).map fun h => (h.pred, h.skid - 1))

namespace Spares

theorem refl (tid : Nat) (s : State) : Spares tid s s := ⟨rfl, fun _ g hg _ => ⟨g, hg, rfl, id⟩⟩

theorem trans {tid : Nat} {s t u : State} (h : Spares tid s t) (k : Spares tid t u) : Spares tid s u where
  team := k.team.trans h.team
  groups j y hy hteam := by
    obtain ⟨x, hx, hxy⟩ := k.groups j y hy hteam
    obtain ⟨g, hg, hgx⟩ := h.groups j x hx (hxy.team.symm.trans hteam)
    exact ⟨g, hg, hgx.trans hxy⟩

theorem foreign {tid k : Nat} {s t : State} (h : Spares tid s t) (hk : s.foreign tid k) : t.foreign tid k := fun x hx hteam => by
  obtain ⟨g, hg, hgx⟩ := h.groups k x hx hteam
  exact hk g hg (hgx.team.symm.trans hteam)

theorem haltless {tid : Nat} {s t : State} (h : Spares tid s t) (hs : s.haltless tid) : t.haltless tid := fun k x hx hteam => by
  obtain ⟨g, hg, hgx⟩ := h.groups k x hx hteam
  exact hgx.halts (hs k g hg (hgx.team.symm.trans hteam))

theorem of_keepsWork {tid : Nat} {s t : State} (h : KeepsWork s t) : Spares tid s t where
  team := h.team? tid
  groups k g hg _ := ⟨g, by rwa [State.group?, h.groups] at hg, rfl, id⟩

theorem foldl {tid : Nat} {α : Type} {f : State → α → State} (hf : ∀ s a, Spares tid s (f s a)) (l : List α) (s : State) :
    Spares tid s (l.foldl f s) :=
  List.foldlRecOn (motive := Spares tid s) l f (refl tid s) fun t ht a _ => ht.trans (hf t a)

theorem foldl_haltless {tid : Nat} {α : Type} {f : State → α → State} (hf : ∀ s a, s.haltless tid → Spares tid s (f s a)) (l : List α)
    {s : State} (hs : s.haltless tid) : Spares tid s (l.foldl f s) :=
  List.foldlRecOn (motive := Spares tid s) l f (refl tid s) fun t ht a _ => ht.trans (hf t a (ht.haltless hs))

/-! ### Groups and teams -/

theorem setGroup {tid : Nat} {s u : State} {k : Nat} {g x : Group} (h : KeepsWork s u) (hg : s.group? k = some g) (hx : QuietAs g x) :
    Spares tid s (u.setGroup k x) where
  team := h.team? tid
  groups j y hy _ := by
    by_cases hj : j = k
    · obtain rfl : x = y := by simpa [hj] using hy
      exact ⟨g, hj ▸ hg, hx⟩
    · rw [State.group?_setGroup_other u x hj] at hy
      exact ⟨y, by rwa [State.group?, h.groups] at hy, rfl, id⟩

theorem modGroup (tid : Nat) (s : State) (k : Nat) {f : Group → Group} (hf : ∀ g, QuietAs g (f g)) : Spares tid s (s.modGroup k f) := by
  cases hg : s.group? k with
  | none => simpa [State.modGroup, hg] using refl tid s
  | some g => rw [modGroup_of hg]; exact setGroup (.refl s) hg (hf g)

theorem modTeam_other {tid j : Nat} (s : State) (f : Team → Team) (h : j ≠ tid) : Spares tid s (s.modTeam j f) where
  team := State.team?_modTeam_other s f h.symm
  groups k g hg _ := ⟨g, by rwa [State.group?, State.modTeam_groups] at hg, rfl, id⟩

theorem parkIg (tid : Nat) (s : State) (k : Nat) : Spares tid s (s.parkIg k) := by
  unfold State.parkIg
  dsimp only
  split
  · exact refl tid s
  · split
    · exact refl tid s
    · have hdrop : KeepsWork s (s.dropIg (gkPart k)) := ⟨rfl, rfl, rfl⟩
      refine (of_keepsWork hdrop).trans (modGroup tid _ k fun g => ?_)
      split
      · exact .modThreads ..
      · exact ⟨rfl, id⟩

theorem report (tid : Nat) (s : State) (d : Nat) (mk : Nat → Report) : Spares tid s (s.report d mk) := of_keepsWork ⟨rfl, rfl, rfl⟩

/-! ### The end of a team (15_context R322) -/

theorem groupExit (tid : Nat) (s : State) (k : Nat) : Spares tid s (s.groupExit k) := by
  unfold State.groupExit
  split
  · exact refl tid s
  · next g hg =>
    dsimp only
    refine setGroup ?_ hg ⟨rfl, fun _ => rfl⟩
    split
    · split <;> exact ⟨rfl, rfl, rfl⟩
    · exact ⟨rfl, rfl, rfl⟩

theorem teamCheck_other {tid j : Nat} (s : State) (h : j ≠ tid) : Spares tid s (s.teamCheck j) := by
  unfold State.teamCheck
  split
  · exact modTeam_other s _ h
  · exact refl tid s

theorem endTeam_other {tid j : Nat} (s : State) (cause : Cause) (h : j ≠ tid) : Spares tid s (s.endTeam j cause) := by
  unfold State.endTeam
  dsimp only
  split
  · exact refl tid s
  · next tm _ =>
    refine .trans (.trans (.trans (report tid s tm.die (Rec.report _)) (foldl (fun u p => ?_) _ _)) (modTeam_other _ _ h)) (teamCheck_other _ h)
    exact (modGroup tid u p.1 fun _ => .modThreads ..).trans (groupExit tid _ p.1)

/-! ### Traps (15_context R315-R318, R322) -/

theorem toHost (tid : Nat) (s : State) (k : Nat) (f : Frame) (rkind : Nat) : Spares tid s (s.toHost k f rkind) := by
  unfold State.toHost
  refine .trans (modGroup tid s k fun _ => ?_) (report ..)
  exact ⟨rfl, id⟩

theorem toHandler {tid k : Nat} {s : State} (f : Frame) (hk : s.foreign tid k) : Spares tid s (s.toHandler k f) := by
  unfold State.toHandler
  split
  · exact refl tid s
  · next g hg =>
    split
    · exact refl tid s
    · split
      · exact endTeam_other s f.cause (hk g hg)
      · dsimp only
        split
        · split
          · exact setGroup (.refl s) hg (.enter ..)
          · exact setGroup (.refl s) hg ⟨rfl, id⟩
        · split
          · exact setGroup (.refl s) hg ⟨rfl, id⟩
          · exact toHost ..

theorem deliver {tid k : Nat} {s : State} (f : Frame) (hk : s.foreign tid k) : Spares tid s (s.deliver k f) := by
  unfold State.deliver
  split
  · unfold State.deliverLimit
    split
    · exact modGroup tid s k fun _ => ⟨rfl, id⟩
    · exact toHandler f hk
  · split
    · exact toHost ..
    · exact toHandler f hk

theorem takeTrap {tid k : Nat} {s : State} (a : TrapAt) (hk : s.foreign tid k) : Spares tid s (s.takeTrap k a) := by
  have hpark := parkIg tid s k
  refine hpark.trans ?_
  unfold State.takeTrap State.takeTraps
  dsimp only
  split
  · exact refl tid _
  · next g hg =>
    split
    · exact setGroup (.refl _) hg ⟨rfl, id⟩
    · have hset : Spares tid (s.parkIg k) _ :=
        setGroup (x := { g with latch := [], susp := [], pending := [] ++ g.pending }) (.refl _) hg ⟨rfl, id⟩
      exact hset.trans (deliver _ (hset.foreign (hpark.foreign hk)))

theorem laneTrap {tid k : Nat} {s : State} (cause : Cause) (m : Mask) (hk : s.foreign tid k) : Spares tid s (s.laneTrap k cause m) := by
  have hpark := parkIg tid s k
  refine hpark.trans ?_
  unfold State.laneTrap
  dsimp only
  split
  · exact refl tid _
  · next g hg =>
    split
    · have hset := fun x => setGroup (tid := tid) (x := x) (.refl _) hg
      refine (hset _ ?_).trans (takeTrap _ ((hset _ ?_).foreign (hpark.foreign hk)))
      all_goals exact ⟨by simp only [modThreads_team], by simp only [modThreads_halts, imp_self]⟩
    · exact takeTrap _ (hpark.foreign hk)

/-! ### Halts (16_watch R335) -/

theorem haltLanes (tid : Nat) (s : State) (k : Nat) (m : Mask) (h : Halt) : Spares tid s (s.haltLanes k m h) := by
  unfold State.haltLanes
  split
  · exact refl tid s
  · next g hg =>
    dsimp only
    split
    · exact refl tid s
    · refine setGroup ?_ hg (.trans ?_ (.modThreads ..))
      · split
        · split <;> exact ⟨rfl, rfl, rfl⟩
        · exact .refl s
      · split
        · split
          · exact ⟨rfl, id⟩
          · exact ⟨by simp only [modThreads_team], by simp only [modThreads_halts, imp_self]⟩
        · exact ⟨rfl, id⟩

theorem haltReport (tid : Nat) (s : State) (k : Nat) (h : Halt) : Spares tid s (s.haltReport k h) := by
  unfold State.haltReport
  split
  · exact refl tid s
  · split
    · exact refl tid s
    · exact report ..

theorem haltScope {tid k : Nat} {s : State} (m : Mask) (scope : Nat) (h : Halt) (hk : s.foreign tid k) :
    Spares tid s (s.haltScope k m scope h) := by
  unfold State.haltScope
  split
  · exact refl tid s
  · next g hg =>
    have hstop : ∀ all, Spares tid s (s.stopTeam g.team all) := fun all => modTeam_other s _ (hk g hg)
    dsimp only
    split
    · have hothers := foldl (fun u p => haltLanes tid u p.1 0xFFFFFFFF { h with cause := 0xC4 }) (s.groupsOf g.team)
      have hall := ((hstop true).trans (haltLanes tid _ k m h)).trans (hothers _)
      split
      · exact hall.trans (haltReport ..)
      · exact hall
    · have hstopped : Spares tid s (if scope == 2 then s.stopTeam g.team false else s) := by
        split
        · exact hstop false
        · exact refl tid s
      generalize (if scope == 2 then s.stopTeam g.team false else s) = u at hstopped
      generalize (if scope == 2 then (0xFFFFFFFF : Mask) else m) = m'
      split
      · exact refl tid s
      · refine .trans (.trans (hstopped.trans (haltLanes ..)) (modGroup tid _ k fun _ => ?_)) (haltReport ..)
        exact ⟨rfl, id⟩

/-! ### Actions that land (16_watch R332, R333) -/

theorem landed (tid : Nat) {s : State} {k : Nat} {g : Group} (hg : s.group? k = some g) (l : Nat) : Spares tid s (s.landed k g l) := by
  unfold State.landed State.setSkids
  refine .trans (setGroup (.refl s) hg ⟨?_, fun h => ?_⟩) (of_keepsWork (.modCore ..))
  · rfl
  · rw [h, List.filter_nil]

theorem watchLand_of_none {s : State} {k l : Nat} {g : Group} (hg : s.group? k = some g) (hl : g.landing l = []) :
    s.watchLand k l = s.landed k g l := by
  simp only [State.watchLand, hg, hl, State.landed]
  rfl

/-- No action of the team itself lands, and those of other teams spare it. -/
theorem watchLand {tid : Nat} {s : State} (hs : s.haltless tid) (k l : Nat) : Spares tid s (s.watchLand k l) := by
  cases hg : s.group? k with
  | none =>
    rw [State.watchLand, hg]
    exact refl tid s
  | some g =>
    have hland := landed tid hg l
    by_cases hteam : g.team = tid
    · rw [watchLand_of_none hg (by simp [Group.landing, hs k g hg hteam])]
      exact hland
    · have hk : (s.landed k g l).foreign tid k := hland.foreign fun g' hg' => by
        obtain rfl : g = g' := by simpa [hg] using hg'
        exact hteam
      have hhalt := fun m scope h => haltScope (s := s.landed k g l) m scope h hk
      refine hland.trans ?_
      simp only [State.watchLand, hg]
      split
      · split
        · exact refl tid _
        · exact hhalt ..
      · split
        · exact laneTrap _ _ hk
        · exact (hhalt ..).trans (laneTrap _ _ ((hhalt ..).foreign hk))

end Spares

end Sys2Proof.Machine
end

section
/-! PROOFS. The life of a team on a core: its admission, retirement, save and restoration (O52). -/

namespace Sys2Proof.Machine

theorem foldl_teams {α : Type} {f : State → α → State} (hf : ∀ s a, (f s a).teams = s.teams) (l : List α) (s : State) :
    (l.foldl f s).teams = s.teams :=
  List.foldlRecOn (motive := fun t : State => t.teams = s.teams) l f rfl fun t ht a _ => (hf t a).trans ht

section
variable {s : State} {tid : Nat} {t : Team} (ht : s.team? tid = some t)

/-! ### Admission (12_kernel R266) -/

theorem placeGroup_teams (s : State) (ck part : Nat) (g : Group) : (s.placeGroup ck part g).teams = s.teams := by
  unfold State.placeGroup
  split <;> rfl

/-- The team once it has been admitted. -/
def State.admitted (s : State) (t : Team) (bases : List Nat) (a : Nat) (ws : List Window) : Team :=
  { t with
    stage := .admitted, base := bases.getD (s.pick bases.length).1 0, scratchBase := a, windows := ws, lae := t.newLae, admitTime := s.now,
    admitSeq := s.nextId }

include ht in
theorem teamAdmit_team? {bases : List Nat} {a : Nat} {ws : List Window} (hstage : t.stage = .placed) (hctx : s.ctxRuns (s.teamCtx t) = true)
    (hclean : s.cleanWaits (coreKey t.die t.core) = false)
    (hplan : s.plan (coreKey t.die t.core) t.kernel (t.kernel.groups.map (·.2)) = some (bases, a, ws)) :
    (s.teamAdmit tid).team? tid = some (s.admitted t bases a ws) := by
  simp only [State.teamAdmit, ht, hstage, hctx, hclean, hplan, bne_self_eq_false, Bool.not_true, Bool.or_self, Bool.false_eq_true, if_false]
  refine ((KeepsWork.acquire ..).team? tid).trans (((KeepsWork.ctxStart ..).team? tid).trans ?_)
  rw [State.team?, foldl_teams fun _ _ => placeGroup_teams ..]
  exact State.team?_setTeam ..

/-! ### Retirement (04_group R101) -/

include ht in
/-- A team that may retire, and is not the last of its node. -/
theorem teamRetire_eq {n : Node} (hcan : s.canRetire tid = true) (hn : s.node? t.node = some n) (hlive : 1 < n.live) :
    ∃ u, KeepsWork s u ∧ s.teamRetire tid = ((u.dropTeam tid).setNode t.node { n with live := n.live - 1 }).ctxSettle (s.teamCtx t) := by
  have hkeep := (KeepsWork.release s (coreKey t.die t.core) 6).trans (KeepsWork.unlockAll _ t.die tid)
  refine ⟨_, hkeep, ?_⟩
  have hn' : ((((s.release (coreKey t.die t.core) 6).unlockAll t.die tid)).dropTeam tid).node? t.node = some n := (hkeep.node? _).trans hn
  simp only [State.teamRetire, ht, hcan, State.nodeTeamGone, hn', hlive, Bool.not_true, Bool.false_eq_true, if_false, if_true]

/-- No group is of a team that has been dropped. -/
theorem dropTeam_groups (u : State) (tid : Nat) : ∀ p ∈ (u.dropTeam tid).groups, p.2.team ≠ tid := by
  simp [State.dropTeam, State.freeGroups]

/-! ### Requests for a save (15_context R324, 11_barrier R258) -/

include ht in
theorem requestSave_requests (hres : t.resident = true) (hreq : t.saveReq = none) (hend : t.ending = none) (r : BitVec 8) :
    s.requestSave tid r = s.setTeam tid { t with saveReq := some r } := by
  simp [State.requestSave, State.modTeam, ht, hres, hreq, hend]

include ht in
/-- A team that swap-out may save is resident, and no save of it is requested. -/
theorem maySwap_resident (h : s.maySwap tid = true) : t.resident = true ∧ t.saveReq = none := by
  obtain ⟨hreq, hel⟩ : t.saveReq = none ∧ s.swapEligible tid = true := by simpa [State.maySwap, ht] using h
  simp only [State.swapEligible, ht, Bool.and_eq_true, beq_iff_eq] at hel
  obtain ⟨⟨⟨hstage, -⟩, -⟩, -⟩ := hel
  exact ⟨by simp [Team.resident, hstage], hreq⟩

/-! ### The halt (15_context R324) -/

/-- One group of a team stops for a save: its watch actions land, and it releases its reuse latch. -/
def State.stopGroup (s : State) (k : Nat) : State :=
  (laneList.foldl (fun s l => s.watchLand k l) (s.parkIg k)).modGroup k fun g => { g with latch := [] }

theorem haltless_of_groupsOf (h : ∀ p ∈ s.groupsOf tid, p.2.halts = []) : s.haltless tid := fun k g hg hteam =>
  h (k, g) (hteam ▸ mem_groupsOf hg)

theorem stopGroup_spares (hs : s.haltless tid) (k : Nat) : Spares tid s (s.stopGroup k) := by
  have hpark := Spares.parkIg tid s k
  have hland := Spares.foldl_haltless (fun _ l hu => Spares.watchLand hu k l) laneList (hpark.haltless hs)
  exact (hpark.trans hland).trans (Spares.modGroup tid _ k fun _ => ⟨rfl, id⟩)

include ht in
/-- No action that lands ends the team, so it is halted. -/
theorem haltForSave_team? (hmay : s.mayHalt tid = true) (hswap : t.saveReq ≠ some 0xD6 ∨ s.swapEligible tid = true) (hend : t.ending = none)
    (hhalts : ∀ p ∈ s.groupsOf tid, p.2.halts = []) : ∃ mons, (s.haltForSave tid).team? tid
      = some { t with saveHalt := true, stage := .saving (t.saveReq.getD 0xD0), swapMons := mons } := by
  have hstop : Spares tid s ((s.groupsOf tid).foldl (fun u p => u.stopGroup p.1) s) := by
    refine Spares.foldl_haltless (fun u p hu => ?_) _ (haltless_of_groupsOf hhalts)
    exact stopGroup_spares hu p.1
  have hgo : (t.saveReq == some 0xD6 && !s.swapEligible tid) = false := by
    rcases hswap with h | h
    · rw [beq_eq_false_iff_ne.mpr h, Bool.false_and]
    · rw [h, Bool.not_true, Bool.and_false]
  refine ⟨if t.saveReq == some 0xD6 then s.swapMonitors tid else [], ?_⟩
  simp only [State.haltForSave, ht, hmay, hgo, Bool.not_true, Bool.false_eq_true, if_false]
  rw [State.team?_modTeam]
  refine (congrArg _ (hstop.team.trans ht)).trans ?_
  simp [hend]

/-! ### The image (15_context R324, R326) -/

section
variable {r : BitVec 8} (hmay : s.mayImage tid = true) (hstage : t.stage = .saving r)
include ht hmay hstage

theorem saveImage_failed (hslot : s.saveSlot (s.teamCtx t) (s.image t ((s.teamGroups tid).map (·.2)) r).length = none) :
    s.saveImage tid = s.saveFailed tid t := by
  simp only [State.saveImage, ht, hmay, hstage, hslot, Bool.not_true, Bool.false_eq_true, if_false]

theorem saveImage_saved {slot pa : Nat} (hslot : s.saveSlot (s.teamCtx t) (s.image t ((s.teamGroups tid).map (·.2)) r).length = some (slot, pa))
    (hopen : (crosses t.die pa && !s.culvertOpen) = false) (hclean : s.cleanWaits (coreKey t.die t.core) = false)
    (hwhole : s.faulty pa (s.image t ((s.teamGroups tid).map (·.2)) r).length = false) :
    s.saveImage tid = s.saveTo tid t r slot pa (s.image t ((s.teamGroups tid).map (·.2)) r) := by
  simp only [State.saveImage, ht, hmay, hstage, hslot, hopen, hclean, hwhole, Bool.or_self, Bool.not_true, Bool.false_eq_true, if_false]

end

include ht in
theorem saveFailed_team? : (s.saveFailed tid t).team? tid = some { t with saveFault := true, migrateTo := none, swapMons := [] } := by
  refine ((KeepsWork.ctxFault ..).team? tid).trans ?_
  rw [State.team?_modTeam, ht]
  rfl

/-- The team stands in its slot, and has left its core. -/
theorem saveTo_leaves (s : State) (tid : Nat) (t : Team) (r : BitVec 8) (slot pa : Nat) (img : List Byte) :
    (∃ v, (s.saveTo tid t r slot pa img).team? tid = some v ∧ v.stage = .saved ∧ v.slotUsed = some slot)
      ∧ ∀ p ∈ (s.saveTo tid t r slot pa img).groups, p.2.team ≠ tid := by
  unfold State.saveTo
  dsimp only
  constructor
  · refine ⟨_, ((KeepsWork.ctxSettle ..).team? tid).trans (((KeepsWork.unlockAll ..).team? tid).trans (State.team?_setTeam ..)), rfl, rfl⟩
  · rw [(KeepsWork.ctxSettle ..).groups]
    simp [State.freeGroups]

/-! ### The restore (15_context R328) -/

theorem restoreGroup_teams (s : State) (ck part tid : Nat) (g : Group) : (s.restoreGroup ck part tid g).teams = s.teams := by
  unfold State.restoreGroup
  split <;> rfl

section
variable {d c pa : Nat} (hd : d < 2) (hc : c < 96) (hrest : (s.restorable.any fun p => p.1 == tid) = true)
  (hopen : (crosses d pa && !s.culvertOpen) = false) (hclean : s.cleanWaits (coreKey d c) = false)
include ht hd hc hrest hopen hclean

theorem teamRestore_refused {cause : Cause} (hat : s.savedAt t = some (pa, some cause)) : s.teamRestore tid d c = s.ctxFault t d c cause := by
  simp only [State.teamRestore, ht, hrest, hat, hopen, hclean, Nat.not_le.mpr hd, Nat.not_le.mpr hc, decide_false, Bool.or_self, Bool.not_true,
    Bool.false_eq_true, if_false]

theorem teamRestore_restores {bases : List Nat} {a : Nat} {ws : List Window} (hat : s.savedAt t = some (pa, none))
    (hplan : s.restorePlan (coreKey d c) t = some (bases, a, ws)) :
    s.teamRestore tid d c = s.restoreAt tid t pa (coreKey d c) bases a ws := by
  simp only [State.teamRestore, ht, hrest, hat, hopen, hclean, hplan, Nat.not_le.mpr hd, Nat.not_le.mpr hc, decide_false, Bool.or_self,
    Bool.not_true, Bool.false_eq_true, if_false]

end

/-- A team for which no answer came while it was saved stands on its new core. -/
theorem restoreAt_team? (s : State) (tid : Nat) (t : Team) (pa ck : Nat) (bases : List Nat) (a : Nat) (ws : List Window) (hflt : t.pendFlt = []) :
    ∃ v, (s.restoreAt tid t pa ck bases a ws).team? tid = some v ∧ v.stage = (if t.migrateTo.isSome then .running else .admitted)
      ∧ v.die = ck / 96 ∧ v.core = ck % 96 ∧ v.scratchBase = a ∧ v.slotUsed = none := by
  unfold State.restoreAt
  simp only [hflt, State.lateAnswers, List.foldl_nil]
  rw [State.team?_modTeam, (KeepsWork.acquire ..).team?, (KeepsWork.ctxStart ..).team?]
  have hevent : ∀ u : State, KeepsWork u (if t.migrateTo.isSome then u.thermalEvent (coreKey t.die t.core) 9 else u) := fun u => by
    split
    · exact KeepsWork.thermalEvent_migrated ..
    · exact .refl u
  rw [(hevent _).team?, State.team?]
  simp only [State.setCtx_teams]
  rw [foldl_teams fun _ _ => restoreGroup_teams ..]
  exact ⟨_, congrArg _ (State.team?_setTeam ..), rfl, rfl, rfl, rfl, rfl⟩

end

/-- Settles O52: the events' own conditions hold, and what follows the change of the team leaves it as it is. -/
theorem teamEvents : Obligations.TeamEvents := by
  refine fun s tid t ht => ⟨fun bases a ws hstage hctx hclean hplan => ?enter, fun n hcan hn hlive hs => ?retire,
    fun r hr hres hreq hend => ?request, fun r hr => ?noRequest, fun hmay hswap hend hhalts => ?halt,
    fun r hmay hstage => ⟨fun hslot => ?failed, fun slot pa hslot hopen hclean hwhole => ?saved⟩,
    fun d c pa hd hc hrest hopen hclean => ⟨fun bases a ws hat hplan hflt => ?restored, fun cause hat => ?refused⟩,
    fun hmay hend => ?swap⟩
  case enter => exact ⟨_, rfl, _, teamAdmit_team? ht hstage hctx hclean hplan, rfl, rfl, rfl, rfl, rfl⟩
  case retire =>
    obtain ⟨u, hkeep, hretire⟩ := teamRetire_eq ht hcan hn hlive
    have hsettle := KeepsWork.ctxSettle ((u.dropTeam tid).setNode t.node { n with live := n.live - 1 }) (s.teamCtx t)
    refine ⟨_, congrArg Host.Outcome.next hretire, (hsettle.team? tid).trans ?_, ?_, (hsettle.node? _).trans (State.node?_setNode ..)⟩
    · exact SMap.get?_erase_same tid (hkeep.teams ▸ hs)
    · rw [hsettle.groups]
      exact dropTeam_groups u tid
  case request =>
    have hreason : (r == 0xD0 || r == 0xD5 || r == 0xD6) = true := by simpa [or_assoc] using hr
    exact congrArg Host.Outcome.next ((if_pos hreason).trans (requestSave_requests ht hres hreq hend r))
  case noRequest =>
    have hreason : ¬ (r == 0xD0 || r == 0xD5 || r == 0xD6) = true := by simpa [or_assoc] using hr
    exact congrArg Host.Outcome.next (if_neg hreason)
  case halt =>
    obtain ⟨mons, hteam⟩ := haltForSave_team? ht hmay hswap hend hhalts
    exact ⟨_, rfl, _, hteam, rfl, rfl⟩
  case failed => exact ⟨_, congrArg Host.Outcome.next (saveImage_failed ht hmay hstage hslot), saveFailed_team? ht⟩
  case saved =>
    exact ⟨_, congrArg Host.Outcome.next (saveImage_saved ht hmay hstage hslot hopen hclean hwhole), saveTo_leaves ..⟩
  case restored =>
    obtain ⟨v, hteam, hstage, hdie, hcore, hbase, hslot⟩ := restoreAt_team? s tid t pa (coreKey d c) bases a ws hflt
    refine ⟨_, congrArg Host.Outcome.next (teamRestore_restores ht hd hc hrest hopen hclean hat hplan), v, hteam, hstage, ?_, ?_, hbase, hslot⟩
    · rw [hdie, coreKey]; omega
    · rw [hcore, coreKey]; omega
  case refused => exact congrArg Host.Outcome.next (teamRestore_refused ht hd hc hrest hopen hclean hat)
  case swap =>
    obtain ⟨hres, hreq⟩ := maySwap_resident ht hmay
    exact congrArg Host.Outcome.next ((if_pos hmay).trans (requestSave_requests ht hres hreq hend 0xD6))

end Sys2Proof.Machine
end

section
/-! PROOFS. The state after reset (O46) and the events of the agenda (O6). -/

namespace Sys2Proof.Machine

/-- A register that nothing has written reads at its reset value. -/
theorem raw_of_unwritten {s : State} {n : Nat} {d : RegDesc} (h : SMap.get? s.regs n = none) (hd : regDesc n = some d) :
    s.raw n = d.reset := by
  simp [State.raw, SMap.getD, h, hd]

/-- Settles O46: every map of the state is empty, so each accessor answers its initial value. -/
theorem resetState : Obligations.ResetState :=
  ⟨rfl, rfl, fun _ _ hd => raw_of_unwritten rfl hd, fun _ => rfl, rfl, fun _ => ⟨rfl, rfl, rfl⟩, rfl, rfl, rfl,
    fun _ => ⟨rfl, rfl, rfl, rfl, rfl⟩, reset_memWf, rfl⟩

/-- Settles O6: the agenda's first entry decides between its own meaning and the machine's turn. -/
theorem stepTakesAgenda : Obligations.StepTakesAgenda := by
  intro s i r hr
  constructor
  · intro hw
    simp [step, hr, hw]
  · intro hw
    simp [step, hr, hw]

end Sys2Proof.Machine
end

section
/-! PROOFS. `TRAP` and `BKPT` (O19). -/

namespace Sys2Proof.Machine

variable {g : Guard} {f : FmtX} {s : State} {e : Env}

/-- The value of A that `TRAP` saves: that of an `s` register, or of the lowest active lane. -/
theorem trap_moves (h : Ready s (.trap g f) e) (h0 : e.act ≠ 0) {info : Word}
    (hinfo : (if regKind f.a == .s then e.g.readS (f.a.toNat - 192) else e.src 0 e.low) = info) :
    Moves s (.trap g f) e s {} (fun _ t => t) [(0xF0 + (f.low.extractLsb' 0 3).setWidth 8, info)] id := by
  refine moves_of_runWord h rfl ?_
  simp only [beq_eq_false_iff_ne.mpr h0, Bool.false_eq_true, if_false, hinfo]
  rfl

theorem trap_none (h : Ready s (.trap g f) e) (h0 : e.act = 0) : Moves s (.trap g f) e s {} (fun _ t => t) [] id := by
  refine moves_of_runWord h rfl ?_
  simp only [h0, beq_self_eq_true, if_true]
  rfl

theorem bkpt_none (h : Ready s (.bkpt g f) e) (h0 : e.act = 0) : Moves s (.bkpt g f) e s {} (fun _ t => t) [] id := by
  refine moves_of_runWord h rfl ?_
  simp only [h0, beq_self_eq_true, if_true]
  rfl

/-- The action field of `BKPT` as a number. -/
theorem action_beq (a k : BitVec 3) : (a.toNat == k.toNat) = decide (a = k) := by
  rw [Bool.eq_iff_iff, beq_iff_eq, decide_eq_true_iff, BitVec.toNat_inj]

theorem bkpt_traps (h : Ready s (.bkpt g f) e) (h0 : e.act ≠ 0) (ha : f.fld 16 3 = 4) :
    Moves s (.bkpt g f) e s {} (fun _ t => t) [(0xC2, (f.low.extractLsb' 0 16).setWidth 64)] id := by
  refine moves_of_runWord h rfl ?_
  simp only [beq_eq_false_iff_ne.mpr h0, Bool.false_eq_true, if_false, ha]
  rfl

theorem bkpt_halts (h : Ready s (.bkpt g f) e) (h0 : e.act ≠ 0) (ha : f.fld 16 3 ≠ 4) :
    Moves s (.bkpt g f) e s {} (fun _ t => t) [] fun s =>
      s.haltScope e.gk (if f.fld 16 3 = 1 then e.act else e.ig.mask) (f.fld 16 3).toNat { cause := 0xC2, pred := 0, skid := 0 } := by
  refine moves_of_runWord h rfl ?_
  have h4 : ((f.fld 16 3).toNat == 4) = false := (action_beq (f.fld 16 3) 4).trans (decide_eq_false ha)
  have h1 : ((f.fld 16 3).toNat == 1) = decide (f.fld 16 3 = 1) := action_beq (f.fld 16 3) 1
  simp only [beq_eq_false_iff_ne.mpr h0, Bool.false_eq_true, if_false, h4, h1, decide_eq_true_iff]
  rfl

/-- Settles O19: each word stays at its place, and its trap or its halt follows. -/
theorem trapWords : Obligations.TrapWords :=
  fun _ _ _ _ => ⟨fun h h0 ha => trap_moves h h0 (by simp [ha]), fun h h0 ha => trap_moves h h0 (by simp [ha]), trap_none, bkpt_none,
    bkpt_traps, bkpt_halts⟩

end Sys2Proof.Machine
end

section
/-! PROOFS. Taking a trap: delivery to the handler and to the host (O11). -/

namespace Sys2Proof.Machine

/-- The group as its trap is delivered: its latch and its suspended issue groups are gone. -/
def Group.struck (g : Group) : Group := { g with latch := [], susp := [] }

/-- A trap that nothing holds back is delivered at once. -/
theorem takeTrap_deliver {s : State} {gk : Nat} {g : Group} {a : TrapAt} (hg : s.group? gk = some g) (hig : s.ig? (gkPart gk) = none)
    (hmay : g.mayTake a.issue = true) (hhost : g.hostTrap = none) (hent : g.entering = []) :
    s.takeTrap gk a = (s.setGroup gk g.struck).deliver gk (g.frameOf a) := by
  have hpark : s.parkIg gk = s := by simp [State.parkIg, hig]
  simp [State.takeTrap, State.takeTraps, hpark, hg, hmay, hhost, hent, Group.struck]

/-- A change of the threads of a group that have not exited. -/
theorem modThreads_live (g : Group) (fn : Thread → Thread) : g.modThreads g.live fn
    = { g with threads := lanes fun l => if (g.thread l).exited then g.thread l else fn (g.thread l) } := by
  have hths : (Vector.ofFn fun i : Fin 32 => if g.live.getLsbD i.val then fn g.threads[i] else g.threads[i])
      = lanes fun l => if (g.thread l).exited then g.thread l else fn (g.thread l) := by
    apply Vector.ext
    intro i hi
    have hth : g.thread i = g.threads[i] := by simp [Group.thread, Array.getD, hi]
    have hlive : g.live.getLsbD i = !(g.thread i).exited := maskOf_getLsbD _ hi
    simp only [lanes, Vector.getElem_ofFn, hlive, hth, Bool.not_eq_true']
    cases g.threads[i].exited <;> simp
  rw [Group.modThreads, hths]

/-- The group that enters its handler: a frame more, and its threads at the header. -/
theorem enter_eq (g : Group) (f : Frame) (k : Nat) (h : Word) : g.enter f k h = { g with
    frames := { f with hset := k, h := [] } :: g.frames
    threads := lanes fun l =>
      if (g.thread l).exited then g.thread l else { (g.thread l).stand h 0 false g.opSeq with waits := 0, conv := false } } := by
  rw [Group.enter, modThreads_live]

theorem deliver_handler {s : State} {gk : Nat} {f : Frame} (h : f.cause ≠ 0xD7) (hc : hostCause f.cause = false) :
    s.deliver gk f = s.toHandler gk f := by
  rw [State.deliver, if_neg (by simpa using h), if_neg (by simp [hc])]

theorem deliver_host {s : State} {gk : Nat} {f : Frame} (h : f.cause ≠ 0xD7) (hc : hostCause f.cause = true) :
    s.deliver gk f = s.toHost gk f (if f.cause.toNat / 16 != 3 then 6 else if f.kind < 4 then 1 else 2) := by
  rw [State.deliver, if_neg (by simpa using h), if_pos hc]

theorem toHandler_enters {s : State} {gk k : Nat} {g : Group} {t : Team} {f : Frame} {h : Word} (hg : s.group? gk = some g)
    (ht : s.team? g.team = some t) (hh : s.handlerOf t = some h) (hk : s.freeSet (gkPart gk) = some k)
    (hw : s.setWaiters (gkPart gk) = [] ∨ g.frames ≠ []) : s.toHandler gk f = s.setGroup gk (g.enter f k h) := by
  have hgo : ((s.setWaiters (gkPart gk)).isEmpty || !g.frames.isEmpty) = true := by
    rcases hw with hw | hw
    · simp [hw]
    · simp [hw]
  simp only [State.toHandler, hg, ht, hh, hk, if_pos hgo]

/-- The record of a trap of family 0x3 is RKIND 1 or, for a copy's, 2, and carries KIND and LVL; that of another is RKIND 6. -/
theorem toHost_record {s : State} {gk : Nat} {g : Group} {t : Team} {f : Frame} (hg : s.group? gk = some g)
    (ht : s.team? g.team = some t) :
    s.toHost gk f (if f.cause.toNat / 16 != 3 then 6 else if f.kind < 4 then 1 else 2)
      = (s.setGroup gk { g with hostTrap := some (f, s.seq.toNat) }).report (gkDie gk) (Rec.report
        { ctx := s.teamCtx t, die := gkDie gk, core := gkNum gk, slot := gkSlot gk, node := (s.teamNodeId t).setWidth 32,
          va := f.info.toNat % (1 <<< 52), cause := f.cause, kind := if f.cause.toNat / 16 = 3 then f.kind else 0,
          lvl := if f.cause.toNat / 16 = 3 then f.lvl else 0, pc := f.hdr.toNat,
          pos := if f.cause.toNat / 16 = 3 ∧ f.kind = 2 then 15 else f.pos, lane := f.lane, done := f.done,
          rkind := if f.cause.toNat / 16 = 3 then (if f.kind < 4 then 1 else 2) else 6 }) := by
  have hrec : s.recOf gk = { ctx := s.teamCtx t, die := gkDie gk, core := gkNum gk, slot := gkSlot gk,
                             node := (s.teamNodeId t).setWidth 32 } := by simp [State.recOf, hg, ht]
  simp only [State.toHost, hrec, modGroup_of hg]
  by_cases hx : f.cause.toNat / 16 = 3
  · by_cases hkind : f.kind < 4
    · simp [hx, hkind]
    · simp [hx, hkind]
  · simp [hx]

/-- Settles O11: a trap that is delivered now goes by its cause to the handler or to the host. -/
theorem takeTrap : Obligations.TakeTrap := by
  refine ⟨fun s gk k g t a h hg hig hmay hhost hent hc hlim ht hh hk hw => ?handler,
    fun s gk g t a hg hig hmay hhost hent hc hlim ht => ?host⟩
  case handler =>
    have hgu : (s.setGroup gk g.struck).group? gk = some g.struck := State.group?_setGroup ..
    rw [takeTrap_deliver hg hig hmay hhost hent, deliver_handler hlim hc,
      toHandler_enters (t := t) hgu ht hh hk hw, setGroup_setGroup, enter_eq]
    rfl
  case host =>
    have hgu : (s.setGroup gk g.struck).group? gk = some g.struck := State.group?_setGroup ..
    rw [takeTrap_deliver hg hig hmay hhost hent, deliver_host hlim hc,
      toHost_record (t := t) hgu ht, setGroup_setGroup]
    rfl

end Sys2Proof.Machine
end

section
/-! PROOFS. `SYSRD` and `SYSWR`: what each does, and which accesses trap (O42). -/

namespace Sys2Proof.Machine

section
variable {g : Guard} {f : FmtX} {s : State} {e : Env} {c : Cause} (h0 : e.act ≠ 0#32) (hq : s.quiet e = true)
include h0 hq

theorem sysrdRes_done (h : sysDenied e (s.privileged e.x) (sysNum f e) none = none) :
    sysrdRes f e s = .done s (pairAll f.d e (s.sysRead e (sysNum f e))) := by
  simp [sysrdRes, h0, hq, h]

theorem sysrdRes_denied (h : sysDenied e (s.privileged e.x) (sysNum f e) none = some c) :
    sysrdRes f e s = .stop s {} 0 (.trap c 0) := by
  simp [sysrdRes, h0, hq, h]

theorem syswrRes_done (h : sysDenied e (s.privileged e.x) (sysNum f e) (some (e.src 1 e.low)) = none) :
    syswrRes f e s = .done (s.sysWrite e (s.privileged e.x) (sysNum f e) (e.src 1 e.low)) {} := by
  simp [syswrRes, h0, hq, h]

theorem syswrRes_denied (h : sysDenied e (s.privileged e.x) (sysNum f e) (some (e.src 1 e.low)) = some c) :
    syswrRes f e s = .stop s {} 0 (.trap c 0) := by
  simp [syswrRes, h0, hq, h]

end

/-! ### Which accesses trap (15_context R321, R413, R317) -/

section
variable {e : Env} {p : Bool} {n : Nat} {r : RegDesc} {v : Word}

theorem trapReg_ne_flags (h : trapReg n = true) : n ≠ 0x050 := by
  rintro rfl
  exact absurd h (by decide)

theorem sysDenied_trapState (h : trapReg n = true) (o : Option Word) :
    sysDenied e p n o = if e.g.frames.isEmpty then some 0x05 else none := by
  rw [sysDenied, if_neg (by simpa using trapReg_ne_flags h), if_pos h]

section
variable (hfx : n ≠ 0x050) (ht : trapReg n = false)
include hfx ht

theorem sysDenied_unnamed (hd : regDesc n = none) (o : Option Word) : sysDenied e p n o = some 0x01 := by
  simp [sysDenied, hfx, ht, hd]

theorem sysDenied_read (hd : regDesc n = some r) :
    sysDenied e p n none = if (ctxReg n && n % 64 != e.x) || !(p || r.prog) then some 0x07 else none := by
  simp [sysDenied, hfx, ht, hd]

theorem sysDenied_write (hd : regDesc n = some r) : sysDenied e p n (some v) = if writeDenied n r p v then some 0x07 else none := by
  simp [sysDenied, hfx, ht, hd]

end

/-- A program without privilege writes no register but the status of the watch predicates. -/
theorem writeDenied_unprivileged (h : n < 0x6E0 ∨ 0x6F0 ≤ n) : writeDenied n r false v = true := by
  have hstat : ¬ (0x6E0 ≤ n ∧ n < 0x6F0) := by omega
  simp [writeDenied, progFields, hstat]

/-- A field that only the host writes closes its register to programs. -/
theorem writeDenied_hostField (h : r.rw &&& ~~~r.priv ≠ 0) : writeDenied n r p v = true := by
  have hhost : r.rw &&& ~~~(progFields n r p).1 ≠ 0 := by
    cases p
    · have hrw : r.rw ≠ 0#64 := fun h0 => h (by rw [h0]; exact BitVec.zero_and)
      show r.rw &&& ~~~0#64 ≠ 0#64
      rwa [BitVec.not_zero, BitVec.and_allOnes]
    · exact h
  simp only [writeDenied, bne_iff_ne.mpr hhost, Bool.or_true, Bool.true_or]

theorem regDesc_fxTrap (h1 : 0x100 ≤ n) (h2 : n < 0x140) : regDesc n = some (privRw 0xFF) := by
  simp [regDesc, h1, h2]

theorem writeDenied_fxTrap : writeDenied n (privRw 0xFF) true v = false := by
  simp [writeDenied, progFields, privRw]

end

theorem sysRead_flags {s : State} {e : Env} (hg : s.group? e.gk = some e.g) : s.sysRead e 0x050 = e.g.fx.setWidth 64 := by
  simp [State.sysRead, hg]

theorem sysWrite_flags {s : State} {e : Env} (hg : s.group? e.gk = some e.g) (p : Bool) (v : Word) :
    s.sysWrite e p 0x050 v = s.setGroup e.gk { e.g with fx := e.g.fx &&& ~~~(v.setWidth 8) } := by
  rw [State.sysWrite, if_pos (by decide), modGroup_of hg]

/-- Settles O42: a word that nothing holds back acts as its check says, and the check by the register's number and fields. -/
theorem systemRegisters : Obligations.SystemRegisters := by
  refine ⟨fun g f s e h0 hq => ⟨fun h hd => ?read, fun h hd => ?write, fun c h hd => ?readDenied, fun c h hd => ?writeDenied⟩,
    fun s e p n v => ⟨fun hfx ht hd => ?unnamed, fun ht hf => ?outside, fun ht hf => ?inside, fun hfx ht hd hctx hx => ?foreign,
      fun hfx ht r hr => ⟨fun hp hctx => ?privileged, fun hp hn => ?unprivileged, fun hrw => ?hostField⟩, fun hp h1 h2 => ?fxTrap,
      fun hg => ⟨sysRead_flags hg, sysWrite_flags hg p v⟩⟩⟩
  case read => exact ⟨_, completes_of_runWord h rfl (sysrdRes_done h0 hq hd), writes64_of rfl fun _ _ _ => rfl⟩
  case write => exact completes_to_of_runWord h rfl (syswrRes_done h0 hq hd)
  case readDenied => exact exec_trap_of_runWord h rfl (sysrdRes_denied h0 hq hd)
  case writeDenied => exact exec_trap_of_runWord h rfl (syswrRes_denied h0 hq hd)
  case unnamed => exact ⟨sysDenied_unnamed hfx ht hd _, sysDenied_unnamed hfx ht hd _⟩
  case outside => simp [sysDenied_trapState ht, hf]
  case inside => simp [sysDenied_trapState ht, hf]
  case foreign =>
    obtain ⟨r, hr⟩ := Option.isSome_iff_exists.mp hd
    simp [sysDenied_read hfx ht hr, hctx, hx]
  case privileged => simp [sysDenied_read hfx ht hr, hp, hctx]
  case unprivileged => simp [sysDenied_write hfx ht hr, hp, writeDenied_unprivileged hn]
  case hostField => simp [sysDenied_write hfx ht hr, writeDenied_hostField hrw]
  case fxTrap =>
    have ht : trapReg n = false := by
      have hn : ¬ n ≤ 0x054 := by omega
      simp [trapReg, hn]
    rw [sysDenied_write (by omega) ht (regDesc_fxTrap h1 h2), hp, writeDenied_fxTrap]
    rfl

end Sys2Proof.Machine
end

section
/-! PROOFS. `WSET` and `WCLR` (O43). -/

namespace Sys2Proof.Machine

section
variable {g : Guard} {f : FmtX} {s : State} {e : Env} (h0 : e.act ≠ 0#32)
include h0

/-- The context may change predicate `n` of its core. -/
def State.mayWatch (s : State) (e : Env) (n : Nat) : Prop := s.debug e.x = true ∨ ((s.core e.ck).watchOf n).foreign e.x = false

omit h0 in
theorem mayWatch_iff {n : Nat} : (s.debug e.x || !((s.core e.ck).watchOf n).foreign e.x) = true ↔ s.mayWatch e n := by
  simp [State.mayWatch]

theorem wclrRes_clears (hone : f.bit 23 = false) (hmay : s.mayWatch e (f.fld 24 4).toNat) :
    wclrRes f e s = .done (s.clearWatch e.ck (f.fld 24 4).toNat) {} := by
  simp [wclrRes, h0, hone, mayWatch_iff.mpr hmay]

theorem wclrRes_denied (hone : f.bit 23 = false) (hmay : ¬ s.mayWatch e (f.fld 24 4).toNat) :
    wclrRes f e s = .stop s {} 0 (.trap 0xC5 0) := by
  have hno := Bool.eq_false_iff.mpr (mayWatch_iff.not.mpr hmay)
  simp [wclrRes, h0, hone, hno]

/-- The predicate whose six words stand at a scratchpad offset. -/
def Team.watchAt (t : Team) (n off : Nat) : Watch :=
  let q := fun (k : Nat) => wordOfBytes (t.scratchBytes (off + 8 * k) 8)
  { n := n, ctl := q 0, a := q 1, b := q 2, flt := q 3, lane := q 4, kern := q 5 }

theorem wsetRes_sets {off : Nat} (hoff : off = (e.src32 0 e.low).toNat) (ht : s.team? e.tid = some e.t) (hm : s.marks = [])
    (hmv : s.moved = []) (hfit : off + 48 ≤ e.t.kernel.scratch) (hal : off % 8 = 0) (h1 : e.t.lineEmpty off = false)
    (h2 : e.t.lineEmpty (off + 47) = false) (hmay : s.mayWatch e (f.fld 24 4).toNat)
    (hok : (e.t.watchAt (f.fld 24 4).toNat off).invalid = false) :
    wsetRes f e s = .done (s.setWatch e.ck (if s.debug e.x then e.t.watchAt (f.fld 24 4).toNat off
      else { e.t.watchAt (f.fld 24 4).toNat off with flt := setBits (e.t.watchAt (f.fld 24 4).toNat off).flt 48 7 e.x })) {} := by
  subst hoff
  have hpoison (p : ErrPlace → Bool) : s.localPoison p = none := by simp [State.localPoison, hm, hmv]
  have hfit' : ¬ e.t.kernel.scratch < (e.src32 0 e.low).toNat + 48 := by omega
  have hfor : (!s.debug e.x && ((s.core e.ck).watchOf (f.fld 24 4).toNat).foreign e.x) = false := by
    rcases hmay with hd | hd <;> simp [hd]
  simp only [wsetRes, beq_eq_false_iff_ne.mpr (show e.act ≠ 0 from h0), ht, if_neg hfit', hal, bne_self_eq_false, h1, h2, hpoison, hfor, Bool.or_self,
    Bool.false_eq_true, if_false]
  exact if_neg (Bool.eq_false_iff.mp hok)

end

/-- Settles O43: a predicate that the context may change is cleared, or set from the six words. -/
theorem watchWords : Obligations.WatchWords :=
  fun _ _ _ _ h0 => ⟨fun h hone hmay => completes_to_of_runWord h rfl (wclrRes_clears h0 hone hmay),
    fun h hone hmay => exec_trap_of_runWord h rfl (wclrRes_denied h0 hone hmay),
    fun h ht hm hmv hfit hal h1 h2 hmay hok =>
      completes_to_of_runWord h rfl (wsetRes_sets h0 rfl ht hm hmv hfit hal h1 h2 hmay hok)⟩

end Sys2Proof.Machine
end
section
/-! PROOFS. The decrement of a DEPS word (O36). -/

namespace Sys2Proof.Machine

/-! ### The word that a decrement leaves (13_queue R289) -/

/-- A decrement by `n` that brings an armed word's COUNT to 0. -/
def depsFires (old n : Nat) : Bool := old % 65536 != 0 && old % 65536 - n == 0 && bitOf old 16
/-- The DEPS word after a decrement by `n`. -/
def depsLess (old n : Nat) : Nat := old - old % 65536 + (old % 65536 - n) - (if depsFires old n then 65536 else 0)

theorem bitOf_16 (v : Nat) : bitOf v 16 = true ↔ v / 65536 % 2 = 1 := by
  simp [bitOf, Nat.shiftRight_eq_div_pow]

theorem depsFires_iff (old n : Nat) :
    depsFires old n = true ↔ old % 65536 ≠ 0 ∧ old % 65536 - n = 0 ∧ bitOf old 16 = true := by
  simp [depsFires, and_assoc]

theorem depsLess_lt {old : Nat} (n : Nat) (h : old < 2 ^ 32) : depsLess old n < 2 ^ 32 := by
  unfold depsLess
  omega

theorem depsLess_count (old n : Nat) : depsLess old n % 65536 = old % 65536 - n := by
  unfold depsLess
  split
  next h =>
    obtain ⟨_, hleft, harmed⟩ := (depsFires_iff old n).mp h
    rw [bitOf_16] at harmed
    omega
  next => omega

theorem depsLess_armed (old n : Nat) : bitOf (depsLess old n) 16 = true ↔ bitOf old 16 = true ∧ depsFires old n = false := by
  by_cases hf : depsFires old n = true
  · obtain ⟨_, hleft, harmed⟩ := (depsFires_iff old n).mp hf
    rw [bitOf_16] at harmed
    simp only [depsLess, hf, if_true, bitOf_16, Bool.true_eq_false, and_false, iff_false]
    omega
  · have hf := Bool.eq_false_iff.mpr hf
    simp only [depsLess, hf, Bool.false_eq_true, if_false, bitOf_16, and_true]
    omega

/-! ### The decrement and memory -/

theorem nodeReady_mem (s : State) (k : Nat) (n : Node) (d : Nat) : (s.nodeReady k n d).mem = s.mem := by
  unfold State.nodeReady
  dsimp only
  split <;> rfl

/-- A decrement answers the old COUNT and writes the word; a node that it brings to COUNT 0 becomes ready. -/
theorem decrement_cases (s : State) (d x pa n : Nat) :
    s.decrement d x pa n = (s.depsWord pa % 65536, s.setDeps pa (depsLess (s.depsWord pa) n))
    ∨ ∃ k m, s.decrement d x pa n = (s.depsWord pa % 65536, (s.setDeps pa (depsLess (s.depsWord pa) n)).nodeReady k m d) := by
  have hless : s.depsWord pa - s.depsWord pa % 65536 + (s.depsWord pa % 65536 - n)
      - (if s.depsWord pa % 65536 != 0 && s.depsWord pa % 65536 - n == 0 && bitOf (s.depsWord pa) 16 then 65536 else 0)
      = depsLess (s.depsWord pa) n := rfl
  unfold State.decrement
  dsimp only
  rw [hless]
  split
  · exact .inl rfl
  · split
    next p _ => exact .inr ⟨p.1, p.2, rfl⟩
    next => exact .inl rfl

theorem decrement_old (s : State) (d x pa n : Nat) : (s.decrement d x pa n).1 = s.depsWord pa % 65536 := by
  rcases decrement_cases s d x pa n with h | ⟨k, m, h⟩ <;> rw [h]

/-- A decrement writes the word and, beyond it, no memory. -/
theorem decrement_mem (s : State) (d x pa n : Nat) :
    (s.decrement d x pa n).2.mem = (s.setDeps pa (depsLess (s.depsWord pa) n)).mem := by
  rcases decrement_cases s d x pa n with h | ⟨k, m, h⟩
  · rw [h]
  · rw [h]
    exact nodeReady_mem ..

theorem depsWord_lt (s : State) (pa : Nat) : s.depsWord pa < 2 ^ 32 := by
  simp only [State.depsWord, State.bytes, List.range, List.range.loop, List.map, leNat]
  omega

theorem depsWord_of_mem {s t : State} (h : t.mem = s.mem) (pa : Nat) : t.depsWord pa = s.depsWord pa := by
  simp only [State.depsWord, State.bytes, State.byte, h]

theorem depsWord_setDeps {s : State} (h : s.memWf) (pa v : Nat) : (s.setDeps pa v).depsWord pa = v % 2 ^ 32 := by
  have hread : (s.setDeps pa v).bytes (pa + 40) 4 = leBytes 4 v := writeHome_bytes h (pa + 40) (leBytes 4 v)
  rw [State.depsWord, hread, leNat_leBytes4]

theorem depsWord_decrement {s : State} (h : s.memWf) (d x pa n : Nat) :
    (s.decrement d x pa n).2.depsWord pa = depsLess (s.depsWord pa) n := by
  rw [depsWord_of_mem (decrement_mem s d x pa n), depsWord_setDeps h, Nat.mod_eq_of_lt (depsLess_lt n (depsWord_lt s pa))]

theorem decrement_byte_outside {s : State} (h : s.memWf) (d x pa n : Nat) {a : Nat} (ha : a < pa + 40 ∨ pa + 44 ≤ a) :
    (s.decrement d x pa n).2.byte a = s.byte a := by
  rw [State.byte, decrement_mem]
  exact writeHome_byte_outside h (by simpa [leBytes] using ha)

/-- Settles O36: the word that a decrement leaves, and the frame of its write. -/
theorem dependencyDecrement : Obligations.DependencyDecrement := by
  intro s d x pa n h
  refine ⟨decrement_old s d x pa n, ?_, ?_, fun a ha => decrement_byte_outside h d x pa n ha⟩
  · rw [depsWord_decrement h, depsLess_count]
  · rw [depsWord_decrement h, depsLess_armed, ← depsFires_iff, Bool.not_eq_true]

end Sys2Proof.Machine
end

section
/-! PROOFS. `ENQ`, `LAUNCH` and `DEPDEC` (O35). -/

namespace Sys2Proof.Machine

/-! ### Lanes that pass -/

theorem Perf.passes.res {p : Perf} (h : p.passes) (x : Eff) : p.res x [] = .done p.s x := by
  obtain ⟨hbad, hwait⟩ := h
  simp [Perf.res, hbad, hwait, actionLanes]

theorem perLane_one {s : State} {e : Env} {l : Nat} (hl : e.lanes = [l]) {fn : State → Nat → LaneEnd × State} {bs : List Byte} {t : State}
    (hfn : fn s l = (.ok bs, t)) : perLane s e.act fn = Perf.one t l bs := by
  unfold Env.lanes at hl
  rw [perLane, hl]
  simp [hfn, Perf.add, Perf.start, Perf.one]

/-- The instruction's operands, as its environment names them. -/
theorem env?_ops {s : State} {i : Instr} {e : Env} (h : s.env? i = some e) : e.ops = operandsOf i := by
  unfold State.env? at h
  split at h
  · cases h
  split at h
  · cases h
  dsimp only at h
  split at h
  · cases h
  split at h
  · cases h
  · cases h
    rfl

/-! ### The bodies, unwatched -/

section
variable {f : FmtX} {s : State} {e : Env} (hw : s.watches e.ck 0 = [])
include hw

theorem enqRes_unwatched : enqRes f e s = (seqLanes s e.act (enqLane e)).res
    { regs := bytesRegs f.d 1 (seqLanes s e.act (enqLane e)).done (seqLanes s e.act (enqLane e)).vals,
      preds := [{ p := f.fld 21 3, mask := (seqLanes s e.act (enqLane e)).done,
                  vals := maskOf fun l => leNat (Lanes.at (seqLanes s e.act (enqLane e)).vals l) == 0 }] } [] := by
  have hact : e.act &&& ~~~actionLanes [] = e.act := BitVec.and_allOnes
  have hits : s.recordHitsOf e 0 0 64 = [] := addrHits_unwatched hw ..
  rw [enqRes, hits, hact]
  rfl

theorem launchRes_unwatched : launchRes f e s = (seqLanes s e.act (launchLane e)).res
    { regs := bytesRegs f.d 1 (seqLanes s e.act (launchLane e)).done (seqLanes s e.act (launchLane e)).vals } [] := by
  have hact : e.act &&& ~~~actionLanes [] = e.act := BitVec.and_allOnes
  have hits : s.recordHitsOf e 0 0 64 = [] := addrHits_unwatched hw ..
  rw [launchRes, hits, hact]
  rfl

theorem depdecRes_unwatched : depdecRes f e s = (perLane s e.act (depdecLane e)).res
    { regs := bytesRegs f.d 1 (perLane s e.act (depdecLane e)).done (perLane s e.act (depdecLane e)).vals } [] := by
  have hact : e.act &&& ~~~actionLanes [] = e.act := BitVec.and_allOnes
  have hits : s.recordHitsOf e 3 40 4 = [] := addrHits_unwatched hw ..
  rw [depdecRes, hits, hact]
  rfl

end

/-! ### One lane -/

/-- The value of lane `l` as a predicate: a status of 0. -/
theorem status_writesP (p : BitVec 3) (t : State) {l : Nat} (hl : l < 32) (st : Nat) (regs : List RegWrite) :
    WritesP { regs := regs, preds := [{ p := p, mask := laneBit l,
                                        vals := maskOf fun j => leNat (Lanes.at (Perf.one t l (leBytes 4 st)).vals j) == 0 }] }
      p (laneBit l) fun _ => decide (st % 4294967296 = 0) := by
  refine writesP_of rfl fun j hj hbit => ?_
  obtain rfl : j = l := by simpa [laneBit_getLsbD_eq l hj] using hbit
  rw [Perf.one_val t hl, if_pos rfl, leNat_leBytes4]
  rfl

theorem enqLane_status {s u : State} {e : Env} {l st : Nat} (hb : (e.ops.getD 1 { reg := 255 }).reg = 255)
    (hc : s.cleanWaits e.ck = false) (h : (s.release e.ck 5).enqueue e.ck e.x (e.src 0 l).toNat = (.ok st, u)) :
    enqLane e s l = (.ok (leBytes 4 st), u) := by
  simp only [enqLane, hb, beq_self_eq_true, if_true, hc, Bool.false_eq_true, if_false, h]

theorem launchLane_arms {s u : State} {e : Env} {l : Nat} {n : Node} (hc : s.cleanWaits e.ck = false)
    (h : launchCheck e (s.release e.ck 5) (e.src 0 l).toNat (s.node? e.t.node) = (.ok n, u)) :
    launchLane e s l = (.ok (leBytes 4 n.id.toNat), u.arm n e.d (((s.node? e.t.node).elim 0 (·.depth)) + 1)) := by
  simp only [launchLane, hc, Bool.false_eq_true, if_false, h]

theorem depdecLane_decrements {s u : State} {e : Env} {l n : Nat} {p : Seg} {r : List Seg}
    (hn : (if (e.ops.getD 1 { reg := 255 }).reg == 255 then 1 else (e.src32 1 l).toNat) = n)
    (h52 : (e.src 0 l).toNat < 1 <<< 52) (hal : (e.src 0 l).toNat % 64 = 0) (hp : s.lanePages e (e.src 0 l).toNat 44 3 = (.ok (p :: r), u))
    (hc : u.cleanWaits e.ck = false) (hok : ((u.release e.ck 5).dropLine e.ck (p.p.pa + 40)).homePoison (p.p.pa + 40) 4 = none) :
    depdecLane e s l = (.ok (leBytes 4 (((u.release e.ck 5).dropLine e.ck (p.p.pa + 40)).depsWord p.p.pa % 65536)),
      (((u.release e.ck 5).dropLine e.ck (p.p.pa + 40)).decrement e.d e.x p.p.pa n).2) := by
  have hin : beyond52 (e.src 0 l).toNat = false := decide_eq_false (Nat.not_le.mpr h52)
  simp only [depdecLane, hin, hal, bne_self_eq_false, Bool.false_eq_true, if_false, hp, List.head?_cons, hc, hok, hn, decrement_old]

/-- Settles O35: lanes that pass complete the word, and one lane reads what its request answers. -/
theorem nodeWords : Obligations.NodeWords := by
  intro g f s e
  refine ⟨fun i fn hi h hp => ?all, fun h hp => ?allDepdec, fun l st u h hl hb hc hq => ?enq, fun l n u h hl hc hq => ?launch,
    fun l p r u h hl => ?depdec⟩
  case all =>
    rcases hi with ⟨rfl, rfl⟩ | ⟨rfl, rfl⟩
    · exact ⟨_, completes_to_of_runWord h rfl ((enqRes_unwatched h.watch).trans (hp.res _))⟩
    · exact ⟨_, completes_to_of_runWord h rfl ((launchRes_unwatched h.watch).trans (hp.res _))⟩
  case allDepdec => exact ⟨_, completes_to_of_runWord h rfl ((depdecRes_unwatched h.watch).trans (hp.res _))⟩
  case enq =>
    have hreg : (e.ops.getD 1 { reg := 255 }).reg = 255 := by
      rw [env?_ops h.env]
      exact hb
    have hone := seqLanes_one_ok hl (enqLane_status hreg hc hq)
    have hlt := (lane_of_lanes hl).1
    refine ⟨_, completes_to_of_runWord h rfl ((enqRes_unwatched h.watch).trans (by rw [hone, Perf.one_res])), ?_, fun hd => ?_⟩
    · exact status_writesP _ u hlt st _
    · exact bytesRegs_writes32 hd u hlt st
  case launch =>
    have hone := seqLanes_one_ok hl (launchLane_arms hc hq)
    refine ⟨_, completes_to_of_runWord h rfl ((launchRes_unwatched h.watch).trans (by rw [hone, Perf.one_res])), fun hd => ?_⟩
    exact bytesRegs_writes32 hd _ (lane_of_lanes hl).1 _
  case depdec =>
    intro a n v h52 hal hp hc hok
    have hn : (if (e.ops.getD 1 { reg := 255 }).reg == 255 then 1 else (e.src32 1 l).toNat) = n := by
      rw [env?_ops h.env]
      exact if_congr beq_iff_eq rfl rfl
    have hone := perLane_one hl (depdecLane_decrements hn h52 hal hp hc hok)
    refine ⟨_, completes_to_of_runWord h rfl ((depdecRes_unwatched h.watch).trans (by rw [hone, Perf.one_res])), fun hd => ?_⟩
    exact bytesRegs_writes32 hd _ (lane_of_lanes hl).1 _

end Sys2Proof.Machine
end

section
/-! PROOFS. The sample words: records, reads of buckets and locks (O37), evictions and map writes (O38). -/

namespace Sys2Proof.Machine

/-! ### `SREC` and `XEYE` (17_sample R363, R367) -/

theorem awaitReplies_dies (s : State) (e : Env) (m : Mask) : (s.awaitReplies e m).dies = s.dies := by
  unfold State.awaitReplies
  split
  · rfl
  · exact State.modGroup_dies ..

theorem die_awaitReplies (s : State) (e : Env) (m : Mask) (d : Nat) : (s.awaitReplies e m).die d = s.die d := by
  simp only [State.die, awaitReplies_dies]

section
variable {s : State} {e : Env} {l : Nat} (hl : e.lanes = [l])
include hl

/-- One lane's record is on its way to its bucket. -/
theorem srecRes_one (hok : (recCheck (e.record 0 l) <|> bucketCheck s e.d e.t (recTile (e.record 0 l))) = none) :
    srecRes e s = .done ((s.modDie e.d fun x => { x with
      insertions := x.insertions ++ [{ smp := e.record 0 l, reply := some (e.gk, e.g.opSeq) }] }).awaitReplies e (laneBit l)) {} := by
  rw [srecRes, perLane_one hl (by simp only [hok]; rfl)]
  rfl

/-- The lane whose bytes say that its record was sent. -/
theorem sent_one (t : State) (b : Byte) :
    (maskOf fun j => (Perf.one t l [b]).done.getLsbD j && Lanes.at (Perf.one t l [b]).vals j == [1]) = if b = 1 then laneBit l else 0 := by
  have hlt := (lane_of_lanes hl).1
  refine BitVec.eq_of_getLsbD_eq fun j hj => ?_
  rw [maskOf_getLsbD _ hj, Perf.one_val t hlt, show (Perf.one t l [b]).done = laneBit l from rfl, laneBit_getLsbD_eq l hj]
  by_cases hjl : j = l
  · subst hjl
    by_cases hb : b = 1
    · simp [hb, laneBit_getLsbD_eq j hj]
    · rw [if_neg hb]
      simpa using hb
  · by_cases hb : b = 1
    · simp [hb, hjl, laneBit_getLsbD_eq l hj]
    · rw [if_neg hb]
      simp [hjl]

variable {f : FmtX} (hok : recCheck (e.record 0 l) = none)
include hok

theorem xeyeRes_sent (hup : s.culvert.state = .up) :
    xeyeRes f e s = .done ((s.modDie (1 - e.d) fun x => { x with
      xeyes := x.xeyes ++ [{ smp := borrowed (e.record 0 l), reply := some (e.gk, e.g.opSeq) }] }).awaitReplies e (laneBit l))
      { preds := [{ p := f.fld 25 3, mask := laneBit l, vals := laneBit l }] } := by
  rw [xeyeRes, perLane_one hl (bs := [1]) (by simp only [hok, hup]; rfl)]
  rw [sent_one hl, if_pos rfl]
  rfl

theorem xeyeRes_unsent (hdown : s.culvert.state ≠ .up) (hno : f.bit 22 = false) :
    xeyeRes f e s = .done s { preds := [{ p := f.fld 25 3, mask := laneBit l, vals := 0 }] } := by
  have hdown : (s.culvert.state == .up) = false := beq_eq_false_iff_ne.mpr hdown
  rw [xeyeRes, perLane_one hl (bs := [0]) (by simp only [hok, hdown, hno]; rfl)]
  rw [sent_one hl, if_neg (by decide)]
  rfl

end

/-! ### Reads of buckets (17_sample R356, R363, R364) -/

/-- A read whose lanes all pass their checks is in flight. -/
theorem bucketReads_passes {e : Env} {s : State} {d : BitVec 8} {n : Nat} {check : Nat → Option (Cause × Word)} {tile : Nat → Nat}
    {now : State → Nat → List Byte × State} {wait : Pending} (h : ∀ l ∈ e.lanes, check l = none) :
    bucketReads e s d n check tile now wait = .done s { long := some .sm, wait := wait } :=
  if_pos (List.all_eq_true.mpr fun l hl => by simp [h l hl])

theorem lanesOf_sld (ls : List Nat) (a b : Nat → Nat) : (ls.map fun l => (l, a l, b l)).map (·.1) = ls := by simp [Function.comp_def]
theorem lanesOf_sbkt (ls : List Nat) (a : Nat → Nat) : (ls.map fun l => (l, a l)).map (·.1) = ls := by simp [Function.comp_def]

theorem sldSpRes_room {f : FmtM} {e : Env} {s : State} (hroom : s.copiesOn e.ck + popMask e.act ≤ 32)
    (hp : Perf.passes (perLane s e.act (sldSpLane f e))) : sldSpRes f e s = .done (perLane s e.act (sldSpLane f e)).s {} := by
  have hfew : decide (32 < s.copiesOn e.ck + popMask e.act) = false := decide_eq_false (Nat.not_lt.mpr hroom)
  rw [sldSpRes, hfew, Bool.and_false, if_neg Bool.false_ne_true, hp.res]

/-! ### Locks (17_sample R364) -/

/-- The lock of a bucket that is free or the team's own. -/
def State.lockTaken (s : State) (e : Env) (tile : Nat) : Bool :=
  (s.bucket e.d tile).owner.isNone || (s.bucket e.d tile).owner == some e.tid

/-- The bucket as a lane of `SBKT.lock` leaves it: the team owns it, if the lock is taken. -/
def State.locking (s : State) (e : Env) (tile : Nat) : State :=
  if s.lockTaken e tile then s.setBucket e.d tile { s.bucket e.d tile with owner := some e.tid } else s

section
variable {s : State} {e : Env} {l : Nat} (hl : e.lanes = [l]) (hok : bucketCheck s e.d e.t (e.src32 0 l).toNat = none)
include hl hok

theorem sbktLockRes_one {f : FmtX} (hready : s.readReady e.d e.t (e.src32 0 l).toNat = true) :
    ∃ t x, sbktLockRes f e s = .done t x ∧ WritesP x (f.fld 23 3) (laneBit l) fun _ => s.lockTaken e (e.src32 0 l).toNat := by
  let r := sbktNow (s.locking e (e.src32 0 l).toNat) e.d e.t (e.src32 0 l).toNat
  let bs := r.1 ++ [BitVec.ofNat 8 (b2n (s.lockTaken e (e.src32 0 l).toNat))]
  have hlt := (lane_of_lanes hl).1
  have hlen : r.1.length = 8 := by simp [r, sbktNow, bytesOfWord]
  rw [sbktLockRes, perLane_one hl (bs := bs) (t := r.2) (by simp only [hok, hready]; rfl)]
  refine ⟨_, _, Perf.one_res r.2 l bs _, writesP_of rfl fun j hj hbit => ?_⟩
  obtain rfl : j = l := by simpa [laneBit_getLsbD_eq l hj] using hbit
  rw [Perf.one_val _ hlt, if_pos rfl, show (Perf.one r.2 j bs).done = laneBit j from rfl, hbit]
  simp only [bs, List.getD_eq_getElem?_getD, List.getElem?_append_right (Nat.le_of_eq hlen), hlen]
  cases s.lockTaken e (e.src32 0 j).toNat <;> rfl

theorem sbktUnlockRes_one : sbktUnlockRes e s = .done
    (if (s.bucket e.d (e.src32 0 l).toNat).owner = some e.tid then s.unlock e.d (e.src32 0 l).toNat else s) {} := by
  rw [sbktUnlockRes, perLane_one hl (by simp only [hok, beq_iff_eq]; rfl), Perf.one_res]

end

/-- Settles O37: each word's lanes pass, and what they have asked for is under way. -/
theorem sampleWords : Obligations.SampleWords := by
  intro g s e
  refine ⟨fun f l h hl hok => ?srec, fun f l h hl hok hup hd => ?xeye, fun f l h hl hok hdown hno => ?xeyeDown, fun f h hok => ?sld,
    fun f h hok => ?sbktQ, fun f h hroom hp => ?sldSp, fun f l h hl hok hready => ?lock, fun f l h hl hok => ?unlock⟩
  case srec =>
    refine ⟨_, completes_to_of_runWord h rfl (srecRes_one hl hok), ?_⟩
    rw [die_awaitReplies, die_modDie_same]
  case xeye =>
    refine ⟨_, _, completes_to_of_runWord h rfl (xeyeRes_sent hl hok hup), ⟨_, rfl, fun _ _ hbit => hbit⟩, ?_⟩
    rw [die_awaitReplies, die_modDie_same]
  case xeyeDown => exact ⟨_, completes_to_of_runWord h rfl (xeyeRes_unsent hl hok hdown hno), ⟨_, rfl, fun _ _ _ => BitVec.getLsbD_zero⟩⟩
  case sld => exact ⟨_, completes_to_of_runWord h rfl (bucketReads_passes hok), rfl, rfl, _, rfl, lanesOf_sld ..⟩
  case sbktQ =>
    have hnone : ∀ l ∈ e.lanes, (bucketCheck s e.d e.t (e.src32 0 l).toNat).map (fun c => (c, (0 : Word))) = none :=
      fun l hl => by rw [hok l hl]; rfl
    exact ⟨_, completes_to_of_runWord h rfl (bucketReads_passes hnone), rfl, rfl, _, _, _, rfl, lanesOf_sbkt ..⟩
  case sldSp => exact completes_to_of_runWord h rfl (sldSpRes_room hroom hp)
  case lock =>
    obtain ⟨t, x, hres, hx⟩ := sbktLockRes_one hl hok hready
    exact ⟨t, x, completes_to_of_runWord h rfl hres, hx⟩
  case unlock => exact completes_to_of_runWord h rfl (sbktUnlockRes_one hl hok)

/-! ### `SEVT`, `PRIO`, `EMAP` and `PRIO.w` (17_sample R364-R366) -/

theorem fld_from_zero (w : Word) (n : Nat) : fld w 0 n = w.toNat % (1 <<< n) := by simp [fld, bitsOf]

section
variable {s : State} {e : Env} {l : Nat} (hl : e.lanes = [l])
include hl

theorem sevtRes_one {f : FmtX} {act : Word → Bucket → Bucket}
    (hok : f.bit 25 = true ∨ bucketCheck s e.d e.t (e.src32 0 l).toNat = none) :
    sevtRes f act e s = .done (s.modBuckets e.d (if f.bit 25 then none else some (e.src32 0 l).toNat) (act (e.src 1 l))) {} := by
  have hpass : (if f.bit 25 then none else bucketCheck s e.d e.t (e.src32 0 l).toNat) = none := by
    rcases hok with h | h <;> simp [h]
  rw [sevtRes, perLane_one hl (by simp only [hpass]; rfl), Perf.one_res]

theorem mapRes_one {map : Nat} {op : MapOp} (htile : (e.src32 0 l).toNat < 57600) :
    mapRes map op e s = .done
      (s.mapWrite e { map := map, cell := (e.src32 0 l).toNat, op := op, val := (e.src32 1 l).toNat % (if map = 2 then 2 else 65536) })
      {} := by
  rw [mapRes, perLane_one hl (by simp only [if_neg (Nat.not_le.mpr htile), beq_iff_eq]; rfl), Perf.one_res]

theorem prioWRes_one : prioWRes e s = .done ((List.range 4).foldl
    (fun s k => s.mapWrite e { map := 3, cell := k, op := .set, val := fld (e.src 0 l) (16 * k) 16 }) s) {} := by
  rw [prioWRes, hl]
  rfl

end

/-- Settles O38: one lane's request changes the buckets that it names, or joins the writes that wait for the boundary. -/
theorem evictionAndMaps : Obligations.EvictionAndMaps := by
  intro g f s e l hl tile named ok v
  refine ⟨fun h hok => ?limit, fun h hok => ?age, fun h hok => ?drop, fun i map hi h htile => ?map, fun h => ?weights⟩
  case limit =>
    have hfld : v.toNat % 4294967296 = fld v 0 32 := (fld_from_zero v 32).symm
    rw [hfld]
    exact completes_to_of_runWord h rfl (sevtRes_one hl hok)
  case age =>
    rw [← fld_from_zero]
    exact completes_to_of_runWord h rfl (sevtRes_one hl hok)
  case drop =>
    have hfld : v.toNat % 4294967296 = fld v 0 32 := (fld_from_zero v 32).symm
    rw [hfld]
    exact completes_to_of_runWord h rfl (sevtRes_one hl hok)
  case map =>
    rcases hi with ⟨rfl, rfl⟩ | ⟨rfl, rfl⟩
    · exact completes_to_of_runWord h rfl (mapRes_one hl htile)
    · exact completes_to_of_runWord h rfl (mapRes_one hl htile)
  case weights => exact completes_to_of_runWord h rfl (prioWRes_one hl)

end Sys2Proof.Machine
end

section
/-! PROOFS. Rays and scale words (O40), bands (O39), and the registers that a list of words fills. -/

namespace Sys2Proof.Machine

/-! ### Words as bytes, and bytes as registers -/

/-- Word `k` of the bytes of a list of words, whatever follows them. -/
theorem wordAt_leBytes (ws : List Nat) (tail : List Byte) {k : Nat} (hk : k < ws.length) :
    leNat ((((ws.map (leBytes 4)).flatten ++ tail).drop (4 * k)).take 4) = ws.getD k 0 % 2 ^ 32 := by
  induction ws generalizing k with
  | nil => simp at hk
  | cons w r ih =>
    have hlen : (leBytes 4 w).length = 4 := by simp [leBytes]
    rw [List.map_cons, List.flatten_cons, List.append_assoc]
    cases k with
    | zero => rw [Nat.mul_zero, List.drop_zero, List.take_left' hlen, leNat_leBytes4, List.getD_cons_zero]
    | succ j =>
      rw [show 4 * (j + 1) = (leBytes 4 w).length + 4 * j by omega, ← List.drop_drop, List.drop_left, ih (by simpa using hk),
        List.getD_cons_succ]

/-- The byte behind the bytes of `n` words. -/
theorem behind_words {ws : List Nat} {n : Nat} (hn : ws.length = n) (b : Byte) :
    ((ws.map (leBytes 4)).flatten ++ [b]).getD (4 * n) 0 = b := by
  have hlen : (ws.map (leBytes 4)).flatten.length = 4 * n := by
    subst hn
    induction ws with
    | nil => rfl
    | cons w r ih =>
      have h4 : (leBytes 4 w).length = 4 := by simp [leBytes]
      rw [List.map_cons, List.flatten_cons, List.length_append, ih, h4, List.length_cons]
      omega
  simp [List.getD_eq_getElem?_getD, hlen]

theorem bytesRegs_writesGroup {r : BitVec 8} {n : Nat} {m : Mask} {vals : Lanes (List Byte)} {v : Nat → Nat → W32} {x : Eff}
    (hx : x.regs = bytesRegs r n m vals)
    (hv : ∀ k l, k < n → l < 32 → m.getLsbD l = true → BitVec.ofNat 32 (leNat (((Lanes.at vals l).drop (4 * k)).take 4)) = v k l) :
    WritesGroup x r n m v := by
  by_cases hz : regKind r = .zero
  · exact .inl ⟨hz, by rw [hx, bytesRegs, if_pos (by simpa using hz)]⟩
  · refine .inr ⟨hz, fun k => lanes fun l => BitVec.ofNat 32 (leNat (((Lanes.at vals l).drop (4 * k)).take 4)), ?_, fun k l hk hl hm => ?_⟩
    · rw [hx, bytesRegs, if_neg (by simpa using hz)]
      rfl
    · rw [at_lanes _ hl]
      exact hv k l hk hl hm

/-- A lane's list of words, in consecutive registers. -/
theorem ofNat_wordAt (ws : List Nat) (tail : List Byte) {k : Nat} (hk : k < ws.length) :
    BitVec.ofNat 32 (leNat ((((ws.map (leBytes 4)).flatten ++ tail).drop (4 * k)).take 4)) = BitVec.ofNat 32 (ws.getD k 0) := by
  rw [wordAt_leBytes ws tail hk]
  exact BitVec.eq_of_toNat_eq (by simp)

/-! ### `RBOX`, `RTRI` and `PROBE` (17_sample R368, R369) -/

section
variable {n align k l : Nat} {d : BitVec 8} {p : BitVec 3} {rayOk : Nat → Bool} {eval : Nat → List Byte → Except Cause (List Nat × Bool)}
  {e : Env} {s u : State} {bs : List Byte} {ws : List Nat} {hit : Bool}

/-- The bytes in which a lane keeps its words and what it has hit. -/
def rayBytes (ws : List Nat) (hit : Bool) : List Byte := (ws.map (leBytes 4)).flatten ++ [BitVec.ofNat 8 (b2n hit)]

/-- The effect of one lane's words. -/
def rayEff (k l : Nat) (d : BitVec 8) (p : BitVec 3) (u : State) (ws : List Nat) (hit : Bool) : Eff :=
  { regs := bytesRegs d k (laneBit l) (Perf.one u l (rayBytes ws hit)).vals,
    preds := if p == 7 then [] else [{ p := p, mask := laneBit l,
                                       vals := maskOf fun j => (Lanes.at (Perf.one u l (rayBytes ws hit)).vals j).getD (4 * k) 0 == 1 }],
    long := if p == 7 then some .rt else none }

theorem rayRes_one (hw : s.watches e.ck 0 = []) (hl : e.lanes = [l]) (hray : rayOk l = true) (hal : (e.src 1 l).toNat % align = 0)
    (h52 : (e.src 1 l).toNat < 1 <<< 52) (hload : s.loadLane e (e.src 1 l).toNat n false 0 = (.ok bs, u))
    (heval : eval l bs = .ok (ws, hit)) : rayRes n align k d p rayOk eval e s = .done u (rayEff k l d p u ws hit) := by
  have hact : e.act &&& ~~~actionLanes [] = e.act := BitVec.and_allOnes
  have hin : beyond52 (e.src 1 l).toNat = false := decide_eq_false (Nat.not_le.mpr h52)
  simp only [rayRes, addrHits_unwatched hw, hact, recordHits_nil, ite_self]
  rw [perLane_one hl (bs := rayBytes ws hit) (t := u)
    (by simp only [hray, Bool.not_true, hin, hal, bne_self_eq_false, Bool.false_eq_true, if_false, hload, heval]; rfl)]
  rfl

variable (hk : ws.length = k) (hl : l < 32)
include hk hl

theorem rayEff_writesGroup : WritesGroup (rayEff k l d p u ws hit) d k (laneBit l) fun j _ => BitVec.ofNat 32 (ws.getD j 0) :=
  bytesRegs_writesGroup rfl fun j i hj hi hbit => by
    obtain rfl : i = l := by simpa [laneBit_getLsbD_eq l hi] using hbit
    rw [Perf.one_val _ hl, if_pos rfl]
    exact ofNat_wordAt ws _ (hk ▸ hj)

theorem rayEff_writesP (hp : p ≠ 7) : WritesP (rayEff k l d p u ws hit) p (laneBit l) fun _ => hit := by
  have hpreds : (rayEff k l d p u ws hit).preds = [{ p := p, mask := laneBit l, vals := maskOf fun j =>
      (Lanes.at (Perf.one u l (rayBytes ws hit)).vals j).getD (4 * k) 0 == 1 }] := if_neg (by simpa using hp)
  refine writesP_of hpreds fun j hj hbit => ?_
  obtain rfl : j = l := by simpa [laneBit_getLsbD_eq l hj] using hbit
  rw [Perf.one_val _ hl, if_pos rfl, rayBytes, behind_words hk]
  cases hit <;> rfl

end

theorem boxWords_length (codes : List Nat) (bs : List Byte) : (boxWords codes bs).length = 5 := by simp [boxWords]

theorem triWords_length (codes : List Nat) (cull : Bool) (bs : List Byte) : (triWords codes cull bs).1.length = 4 := by
  unfold triWords
  dsimp only
  split
  · rfl
  · split <;> rfl

theorem probeWords_length (pos : W32) (bs : List Byte) : (probeWords pos bs).1.length = 4 := by
  unfold probeWords
  dsimp only
  split
  · simp
  · rfl

theorem scaleWordRes_passes {f : FmtR} {inv : Bool} {e : Env} (h : ∀ l ∈ e.lanes, scaleBad (e.src 1 l) = false) (s : State) :
    scaleWordRes f inv e s = .done s (laneEff e false f.d fun l => scaleByWord f inv (e.src 0 l) (e.src 1 l) (e.src32 2 l)) := by
  have hnone : e.lanes.find? (fun l => scaleBad (e.src 1 l)) = none := List.find?_eq_none.mpr fun l hl => by simp [h l hl]
  rw [scaleWordRes, hnone]

/-- Settles O40: one lane's words are those of the bytes that it has read. -/
theorem rayAndScaleWords : Obligations.RayAndScaleWords := by
  intro g s u e l bs hl a words
  have hlt := (lane_of_lanes hl).1
  refine ⟨fun f h hray hal h52 hload hbox => ?rbox, fun f h hray hal h52 hload => ?rtri, fun f h hal h52 hload hkind => ?probe,
    fun f i inv hi h hok => ?scale⟩
  case rbox =>
    exact ⟨_, completes_to_of_runWord h rfl (rayRes_one h.watch hl hray hal h52 hload (by rw [hbox]; rfl)), rfl, rfl,
      rayEff_writesGroup (boxWords_length ..) hlt⟩
  case rtri =>
    exact ⟨_, completes_to_of_runWord h rfl (rayRes_one h.watch hl hray hal h52 hload rfl), rayEff_writesGroup (triWords_length ..) hlt,
      rayEff_writesP (triWords_length ..) hlt⟩
  case probe =>
    exact ⟨_, completes_to_of_runWord h rfl (rayRes_one h.watch hl rfl hal h52 hload (by rw [hkind]; rfl)),
      rayEff_writesGroup (probeWords_length ..) hlt, rayEff_writesP (probeWords_length ..) hlt⟩
  case scale =>
    rcases hi with ⟨rfl, rfl⟩ | ⟨rfl, rfl⟩
    · exact ⟨_, completes_of_runWord h rfl (scaleWordRes_passes hok s), laneEff_writes32 e f.d fun _ _ _ => rfl⟩
    · exact ⟨_, completes_of_runWord h rfl (scaleWordRes_passes hok s), laneEff_writes32 e f.d fun _ _ _ => rfl⟩

end Sys2Proof.Machine
end

section
/-! PROOFS. `REPROJ`, `ROWQ` and `ROWW` (O39). -/

namespace Sys2Proof.Machine

/-! ### Lanes that all pass -/

/-- Lanes that all complete, each by itself, in states that keep `I`, with bytes of which `V` holds. -/
theorem perLane_through {I : State → Prop} {V : Nat → List Byte → Prop} {s : State} {m : Mask} {fn : State → Nat → LaneEnd × State}
    (h0 : I s) (hfn : ∀ u, I u → ∀ l ∈ maskLanes m, ∃ bs t, fn u l = (.ok bs, t) ∧ V l bs ∧ I t) :
    (perLane s m fn).Through I V (maskLanes m) := by
  suffices h : ∀ (ls pre : List Nat) (p : Perf), (∀ l ∈ ls, l ∈ maskLanes m) → p.Through I V pre →
      (ls.foldl (fun p l => p.add l (fn p.s l).1 (fn p.s l).2) p).Through I V (pre ++ ls) from
    h (maskLanes m) [] _ (fun _ hl => hl) ⟨rfl, rfl, h0, rfl, by simp⟩
  intro ls
  induction ls with
  | nil => intro pre p _ hp; simpa using hp
  | cons l r ih =>
    intro pre p hls hp
    obtain ⟨bs, t, hok, hbs, ht⟩ := hfn p.s hp.state l (hls l (by simp))
    rw [List.foldl_cons, hok, List.append_cons]
    exact ih _ _ (fun j hj => hls j (by simp [hj])) (hp.add hbs ht)

theorem Perf.Through.done_eq {I : State → Prop} {V : Nat → List Byte → Prop} {m : Mask} {p : Perf} (h : p.Through I V (maskLanes m)) :
    p.done = m := h.done.trans (foldl_laneBit_maskLanes m)

/-! ### `REPROJ` (17_sample R367) -/

section
variable {f : FmtX} {e : Env} {s : State}

/-- The die's reprojection matrix. -/
def State.rpjMatrix (s : State) (d : Nat) : List W32 := (List.range 12).map fun i => (s.raw (0x720 + 12 * d + i)).setWidth 32

/-- What `REPROJ` writes: the records, in the lanes that have one, and which lanes those are. -/
def reprojEff (f : FmtX) (e : Env) (m : List W32) : Eff :=
  let out : Lanes (Option SampleRec) := lanes fun l => if e.act.getLsbD l then reproject m (e.record 0 l) else none
  let ok := maskOf fun l => (Lanes.at out l).isSome
  { regs := (List.range 8).map fun k => write32 (f.d + BitVec.ofNat 8 k) ok fun l => ((Lanes.at out l).getD []).getD k 0,
    preds := [{ p := f.fld 25 3, mask := e.act, vals := ok }] }

theorem reprojRes_takes (h : ∀ l ∈ e.lanes, reprojBad (e.record 0 l) = false) :
    reprojRes f e s = .done s (reprojEff f e (s.rpjMatrix e.d)) := by
  have hnone : e.lanes.find? (fun l => reprojBad (e.record 0 l)) = none := List.find?_eq_none.mpr fun l hl => by simp [h l hl]
  rw [reprojRes, hnone]
  rfl

theorem reprojEff_writesP (m : List W32) :
    WritesP (reprojEff f e m) (f.fld 25 3) e.act fun l => (reproject m (e.record 0 l)).isSome :=
  writesP_of rfl fun l hl hbit => by rw [at_lanes _ hl, if_pos hbit]

end

/-! ### `ROWQ` (17_sample R370) -/

section
variable {f : FmtX} {e : Env} {s : State}

/-- What one lane of `ROWQ` does: it answers its band, or traps. -/
def rowqLane (f : FmtX) (e : Env) (s : State) (l : Nat) : LaneEnd × State :=
  let own := f.a == 255
  let b := (e.src32 0 l).toNat
  match s.bandOf e.t with
  | none => if own || 240 ≤ b then (.trap 0xB5 0, s) else (.ok (leBytes 4 b), s)
  | some (q, _) => if own then (.ok (leBytes 4 (q % 240)), s) else if 240 ≤ b then (.trap 0xB5 0, s) else (.ok (leBytes 4 b), s)

/-- The time left to band `b`, in ticks: to the deadline of the team's own band, or to the scan of another. -/
def State.rowqLeft (s : State) (e : Env) (b : Nat) : Int :=
  (match (s.bandOf e.t).filter fun q => q.1 % 240 == b with
    | some q => Int.ofNat q.2
    | none => s.scanStart e.d b) / 27 - Int.ofNat (s.die e.d).ticks

theorem rowqRes_eq : rowqRes f e s = (perLane s e.act (rowqLane f e)).res
    { regs := bytesRegs f.d 4 (perLane s e.act (rowqLane f e)).done (lanes fun l =>
        leBytes 8 (s.rowqLeft e (leNat (Lanes.at (perLane s e.act (rowqLane f e)).vals l)) % 18446744073709551616).toNat
          ++ Lanes.at (perLane s e.act (rowqLane f e)).vals l ++ leBytes 4 (s.die e.d).period) } [] := rfl

/-- Lanes that name bands, of which there are 240. -/
theorem rowqLane_named (ha : f.a ≠ 255) (hb : ∀ l ∈ e.lanes, (e.src32 0 l).toNat < 240) (l : Nat) (hl : l ∈ e.lanes) :
    rowqLane f e s l = (.ok (leBytes 4 (e.src32 0 l).toNat), s) := by
  have hown : (f.a == 255) = false := beq_eq_false_iff_ne.mpr ha
  have hin : ¬ 240 ≤ (e.src32 0 l).toNat := Nat.not_le.mpr (hb l hl)
  unfold rowqLane
  cases s.bandOf e.t with
  | none => simp only [hown, hin, decide_false, Bool.or_self, Bool.false_eq_true, if_false]
  | some q => simp only [hown, hin, Bool.false_eq_true, if_false]

theorem rowqLane_own {q due : Nat} (ha : f.a = 255) (hq : s.bandOf e.t = some (q, due)) (l : Nat) :
    rowqLane f e s l = (.ok (leBytes 4 (q % 240)), s) := by
  simp only [rowqLane, hq, ha, beq_self_eq_true, if_true]

/-- A band that every lane answers. -/
theorem rowq_through {b : Nat → Nat} (h : ∀ l ∈ e.lanes, rowqLane f e s l = (.ok (leBytes 4 (b l)), s)) :
    (perLane s e.act (rowqLane f e)).Through (· = s) (fun l bs => bs = leBytes 4 (b l)) (maskLanes e.act) :=
  perLane_through rfl fun u hu l hl => ⟨_, s, by rw [hu, h l hl], rfl, rfl⟩

theorem leBytes8_words (v : Nat) : leBytes 8 v = leBytes 4 v ++ leBytes 4 (v >>> 32) := by
  simp [leBytes, List.range, List.range.loop, ← Nat.shiftRight_add]

theorem mod_word (i : Int) : (i % 18446744073709551616).toNat = (BitVec.ofInt 64 i).toNat := by
  rw [BitVec.toNat_ofInt]
  norm_num

theorem ofNat_lo32 (w : Word) : BitVec.ofNat 32 w.toNat = lo32 w := BitVec.eq_of_toNat_eq (by simp [lo32])
theorem ofNat_hi32 (w : Word) : BitVec.ofNat 32 (w.toNat >>> 32) = hi32 w := BitVec.eq_of_toNat_eq (by simp [hi32])

theorem rowqLeft_own {q due : Nat} (hq : s.bandOf e.t = some (q, due)) :
    s.rowqLeft e (q % 240) = Int.ofNat due / 27 - Int.ofNat (s.die e.d).ticks := by
  have hown : (some (q, due)).filter (fun b : Nat × Nat => b.1 % 240 == q % 240) = some (q, due) := Option.filter_some_pos (by simp)
  rw [State.rowqLeft, hq, hown]

theorem rowq_ownBand {q due : Nat} (ha : f.a = 255) (hq : s.bandOf e.t = some (q, due)) :
    ∃ x, rowqRes f e s = .done s x ∧ WritesGroup x f.d 4 e.act fun k _ =>
      let left := BitVec.ofInt 64 (Int.ofNat due / 27 - Int.ofNat (s.die e.d).ticks)
      if k = 0 then lo32 left else if k = 1 then hi32 left else BitVec.ofNat 32 (if k = 2 then q % 240 else (s.die e.d).period) := by
  have hp := rowq_through (f := f) (b := fun _ => q % 240) fun l _ => rowqLane_own ha hq l
  rw [rowqRes_eq, hp.res, hp.state]
  refine ⟨_, rfl, bytesRegs_writesGroup (by rw [hp.done_eq]) fun k l hk hl hbit => ?_⟩
  have hval := hp.vals l (mem_maskLanes.mpr ⟨hl, hbit⟩) hl
  have hband : leNat (leBytes 4 (q % 240)) = q % 240 := (leNat_leBytes4 _).trans (Nat.mod_eq_of_lt (by omega))
  rw [at_lanes _ hl, hval, hband, rowqLeft_own hq, mod_word, leBytes8_words]
  generalize BitVec.ofInt 64 (Int.ofNat due / 27 - Int.ofNat (s.die e.d).ticks) = left
  have hwords : leBytes 4 left.toNat ++ leBytes 4 (left.toNat >>> 32) ++ leBytes 4 (q % 240) ++ leBytes 4 (s.die e.d).period
      = ([left.toNat, left.toNat >>> 32, q % 240, (s.die e.d).period].map (leBytes 4)).flatten ++ [] := by simp
  rw [hwords, ofNat_wordAt _ _ hk]
  match k, hk with
  | 0, _ => exact ofNat_lo32 left
  | 1, _ => exact ofNat_hi32 left
  | 2, _ => rfl
  | 3, _ => rfl

end

/-! ### `ROWW` (17_sample R371, 21_program_row R403) -/

section
variable {e : Env} {s : State} {l q due : Nat} (hq : s.bandOf e.t = some (q, due)) (hx : bitsOf (e.src32 2 l).toNat 0 12 < 3840)
  (hlo : 16 * (q % 240) ≤ bitsOf (e.src32 2 l).toNat 16 12) (hhi : bitsOf (e.src32 2 l).toNat 16 12 < 16 * (q % 240) + 16)
  (hz1 : bitsOf (e.src32 2 l).toNat 12 4 = 0) (hz2 : bitsOf (e.src32 2 l).toNat 28 4 = 0)
include hq hx hlo hhi hz1 hz2

theorem rowwLane_writes : rowwLane e s l = (.ok [BitVec.ofNat 8 (pixelOf (e.src32 0 l) (e.src32 1 l)).2.toNat],
    if s.bandOpen e.d e.t then
      s.writeHome (s.bandCopy e.d (q % 240) (1 - s.shownIdx e.d (q % 240))
          + 4 * (3840 * (bitsOf (e.src32 2 l).toNat 16 12 - 16 * (q % 240)) + bitsOf (e.src32 2 l).toNat 0 12))
        (leBytes 4 (pixelOf (e.src32 0 l) (e.src32 1 l)).1)
    else s) := by
  have hin : (decide (3840 ≤ bitsOf (e.src32 2 l).toNat 0 12) || decide (bitsOf (e.src32 2 l).toNat 16 12 < 16 * (q % 240))
      || decide (16 * (q % 240) + 16 ≤ bitsOf (e.src32 2 l).toNat 16 12) || bitsOf (e.src32 2 l).toNat 12 4 != 0
      || bitsOf (e.src32 2 l).toNat 28 4 != 0) = false := by
    rw [decide_eq_false (Nat.not_le.mpr hx), decide_eq_false (Nat.not_lt.mpr hlo), decide_eq_false (Nat.not_le.mpr hhi), hz1, hz2]
    rfl
  rw [rowwLane, hq]
  exact if_neg (by rw [hin]; exact Bool.false_ne_true)

end

theorem pixelOf_lowHalf {a b c : W32} (h : b.setWidth 16 = c.setWidth 16) : pixelOf a b = pixelOf a c := by
  have hlow : bitsOf b.toNat 0 16 = bitsOf c.toNat 0 16 := by
    simpa [bitsOf] using congrArg BitVec.toNat h
  unfold pixelOf
  rw [hlow]

/-- Settles O39: the lanes pass, and `ROWQ` and `ROWW` answer and write as their band has it. -/
theorem bandWords : Obligations.BandWords := by
  intro g f s e
  refine ⟨fun h hok => ?reproj, fun h ha hb => ?named, fun q due h ha hq => ?own, fun l q due h hl hq => ?roww,
    fun a b c h => pixelOf_lowHalf h⟩
  case reproj => exact ⟨_, completes_of_runWord h rfl (reprojRes_takes hok), by simp [reprojEff], reprojEff_writesP _⟩
  case named =>
    have hp := rowq_through (rowqLane_named (s := s) ha hb)
    exact ⟨_, completes_of_runWord h rfl (rowqRes_eq.trans ((hp.res _).trans (by rw [hp.state])))⟩
  case own =>
    obtain ⟨x, hres, hx⟩ := rowq_ownBand ha hq
    exact ⟨x, completes_of_runWord h rfl hres, hx⟩
  case roww =>
    intro w row b hx hlo hhi hz1 hz2
    have hone := perLane_one hl (rowwLane_writes hq hx hlo hhi hz1 hz2)
    exact ⟨_, completes_to_of_runWord h rfl (by rw [rowwRes, hone, Perf.one_res])⟩

end Sys2Proof.Machine
end

section
/-! PROOFS. The inspection words (O44). -/

namespace Sys2Proof.Machine

theorem leNat_bytesOfWord (v : Word) : leNat (bytesOfWord v) = v.toNat := by
  simp only [bytesOfWord, List.range, List.range.loop, List.map, leNat, BitVec.extractLsb'_toNat, Nat.shiftRight_eq_div_pow]
  have := v.isLt
  omega

/-! ### Whose handles may be named (16_watch R340) -/

section
variable {s : State} {e : Env}

theorem handlesDenied_debug (h : s.debug e.x = true) : s.handlesDenied e = false := by simp [State.handlesDenied, State.inspectDenied, h]

theorem inspectDenied_debug (h : s.debug e.x = true) (w : Word) : s.inspectDenied e w = false := by simp [State.inspectDenied, h]

theorem inspectDenied_foreign (h : s.debug e.x = false) {w : Word} (hx : fld w 0 6 ≠ e.x) : s.inspectDenied e w = true := by
  simp [State.inspectDenied, h, hx]

/-- The lowest active lane is one of the active lanes. -/
theorem low_mem_lanes (h : e.act ≠ 0) : e.low ∈ e.lanes := by
  obtain ⟨l, hl, hbit⟩ : ∃ l, l < 32 ∧ e.act.getLsbD l = true := by
    by_contra hno
    refine h (BitVec.eq_of_getLsbD_eq fun l hl => ?_)
    simpa using fun hb => hno ⟨l, hl, hb⟩
  have hmem : l ∈ e.lanes := mem_maskLanes.mpr ⟨hl, hbit⟩
  have hhead : lowest e.act = e.lanes.head? := List.head?_filter.symm
  rw [Env.low, lowLane, hhead]
  cases hls : e.lanes with
  | nil => simp [hls] at hmem
  | cons a r => simp

theorem handlesDenied_foreign (h0 : e.act ≠ 0) (h : s.debug e.x = false) (hx : fld (e.src 0 e.low) 0 6 ≠ e.x) : s.handlesDenied e = true :=
  List.any_eq_true.mpr ⟨e.low, low_mem_lanes h0, inspectDenied_foreign h hx⟩

end

/-! ### `HLIST` (16_watch R341) -/

section
variable {f : FmtX} {e : Env} {s : State} (hd : s.debug e.x = true)
include hd

/-- The halted threads of the context that a lane names, and the one at its index. -/
def State.hlistAll (s : State) (f : FmtX) (e : Env) (l : Nat) : List (Nat × Group × Nat) :=
  s.haltedOf (if f.a = 255 then e.x else (e.src32 0 l).toNat)
def State.hlistRow (s : State) (f : FmtX) (e : Env) (l : Nat) : Option (Nat × Group × Nat) :=
  (s.hlistAll f e l)[if f.b = 255 then 0 else (e.src32 1 l).toNat]?
/-- The handle that a row stands for, and why its thread is halted. -/
def State.rowHandle (s : State) : Option (Nat × Group × Nat) → Word
  | some (gk, h, k) => s.handle gk h k
  | none => 0
def rowCause (r : Option (Nat × Group × Nat)) : Nat :=
  match r.bind fun r => (r.2.1.thread r.2.2).halt with
  | some h => h.cause.toNat + ((h.pred % 16) <<< 8) + ((h.skid % 4) <<< 12)
  | none => 0

/-- What `HLIST` writes. -/
def hlistEff (f : FmtX) (e : Env) (s : State) : Eff :=
  { regs := write64 f.d e.act (fun l => s.rowHandle (s.hlistRow f e l))
      ++ [write32 (f.d + 2) e.act fun l => BitVec.ofNat 32 (rowCause (s.hlistRow f e l)),
          write32 (f.d + 3) e.act fun l => BitVec.ofNat 32 (s.hlistAll f e l).length],
    preds := [{ p := f.fld 25 3, mask := e.act, vals := maskOf fun l => (s.hlistRow f e l).isSome }] }

theorem hlistRes_debug : hlistRes f e s = .done s (hlistEff f e s) := by
  have hmay (c : Nat → Nat) : (e.lanes.any fun l => c l != e.x && !s.debug e.x) = false := by simp [hd]
  simp only [hlistRes, hmay, Bool.false_eq_true, if_false, beq_iff_eq]
  rfl

omit hd in
theorem hlistEff_writesGroup (hz : regKind f.d ≠ .zero) : WritesGroup (hlistEff f e s) f.d 4 e.act fun k l =>
    if k = 0 then lo32 (s.rowHandle (s.hlistRow f e l)) else if k = 1 then hi32 (s.rowHandle (s.hlistRow f e l))
    else BitVec.ofNat 32 (if k = 2 then rowCause (s.hlistRow f e l) else (s.hlistAll f e l).length) := by
  let handles : Lanes Word := lanes fun l => s.rowHandle (s.hlistRow f e l)
  refine .inr ⟨hz, fun k => if k = 0 then handles.map lo32 else if k = 1 then handles.map hi32
    else lanes fun l => BitVec.ofNat 32 (if k = 2 then rowCause (s.hlistRow f e l) else (s.hlistAll f e l).length), ?_, fun k l hk hl _ => ?_⟩
  · have hpair : (regKind f.d == RegKind.zero) = false := beq_eq_false_iff_ne.mpr hz
    simp [hlistEff, write64, write32, hpair, List.range, List.range.loop, handles]
  · match k, hk with
    | 0, _ => simp [handles, at_map _ _ hl, hl]
    | 1, _ => simp [handles, at_map _ _ hl, hl]
    | 2, _ => simp [hl]
    | 3, _ => simp [hl]

end

/-! ### `HINS`, `HPUT` and `HRES` (16_watch R342, R344) -/

section
variable {f : FmtX} {e : Env} {s : State} {l : Nat} (hl : e.lanes = [l]) (hd : s.debug e.x = true)
include hl hd

omit hd in
/-- A lane's answer in P: its first byte. -/
theorem head_writesP (p : BitVec 3) (t : State) (b : Byte) (rest : List Byte) (regs : List RegWrite) :
    WritesP { regs := regs, preds := [{ p := p, mask := (Perf.one t l (b :: rest)).done,
                                        vals := maskOf fun j => (Lanes.at (Perf.one t l (b :: rest)).vals j).head? == some 1 }] }
      p (laneBit l) fun _ => b == 1 := by
  refine writesP_of rfl fun j hj hbit => ?_
  obtain rfl : j = l := by simpa [laneBit_getLsbD_eq l hj] using hbit
  rw [Perf.one_val t (lane_of_lanes hl).1, if_pos rfl]
  rfl

theorem hinsRes_none (ht : s.target (e.src 0 l) = none) :
    ∃ x, hinsRes f e s = .done s x ∧ WritesP x (f.fld 13 3) (laneBit l) fun _ => false := by
  have hone := seqLanes_one_ok (s := s) (t := s) (bs := [0]) (fn := hinsLane f e) hl (by simp only [hinsLane, ht])
  refine ⟨_, by rw [hinsRes, handlesDenied_debug hd, if_neg Bool.false_ne_true, hone]; exact Perf.one_res .., ?_⟩
  exact head_writesP hl (f.fld 13 3) s 0 [] _

theorem hinsRes_reads {gk k : Nat} {h : Group} {t : Team} {v : Word} (ht : s.target (e.src 0 l) = some (gk, h, t, k))
    (hv : s.itemRead gk h t k (f.fld 16 4).toNat (f.fld 20 8).toNat = .ok v) :
    ∃ x, hinsRes f e s = .done s x ∧ (WritesP x (f.fld 13 3) (laneBit l) fun _ => true) ∧ Writes64 x f.d (laneBit l) fun _ => v := by
  have hone := seqLanes_one_ok (s := s) (t := s) (bs := 1 :: bytesOfWord v) (fn := hinsLane f e) hl (by simp only [hinsLane, ht, hv])
  refine ⟨_, by rw [hinsRes, handlesDenied_debug hd, if_neg Bool.false_ne_true, hone]; exact Perf.one_res .., ?_, ?_⟩
  · exact head_writesP hl (f.fld 13 3) s 1 (bytesOfWord v) _
  · refine writes64_of rfl fun j hj hbit => ?_
    have hbit' : (laneBit l).getLsbD j = true := hbit
    obtain rfl : j = l := by simpa [laneBit_getLsbD_eq l hj] using hbit'
    beta_reduce
    rw [Perf.one_val s hj, if_pos rfl, List.drop_succ_cons, List.drop_zero, leNat_bytesOfWord, BitVec.ofNat_toNat, BitVec.setWidth_eq]

theorem hputRes_none (ht : s.target (e.src 0 l) = none) :
    ∃ x, hputRes f e s = .done s x ∧ WritesP x (f.fld 13 3) (laneBit l) fun _ => false := by
  have hone := seqLanes_one_ok (s := s) (t := s) (bs := [0]) (fn := hputLane f e) hl (by simp only [hputLane, ht])
  refine ⟨_, by rw [hputRes, handlesDenied_debug hd, if_neg Bool.false_ne_true, hone]; exact Perf.one_res .., ?_⟩
  exact head_writesP hl (f.fld 13 3) s 0 [] _

theorem hputRes_writes {gk k : Nat} {h h' : Group} {t : Team} {v : Word} (ht : s.target (e.src 0 l) = some (gk, h, t, k))
    (hv : s.itemWrite gk h t k (f.fld 16 4).toNat (f.fld 20 8).toNat (e.src 1 l) = (.ok v, h')) :
    ∃ x, hputRes f e s = .done (s.setGroup gk h') x ∧ WritesP x (f.fld 13 3) (laneBit l) fun _ => true := by
  have hone := seqLanes_one_ok (s := s) (t := s.setGroup gk h') (bs := [1]) (fn := hputLane f e) hl (by simp only [hputLane, ht, hv])
  refine ⟨_, by rw [hputRes, handlesDenied_debug hd, if_neg Bool.false_ne_true, hone]; exact Perf.one_res .., ?_⟩
  exact head_writesP hl (f.fld 13 3) (s.setGroup gk h') 1 [] _

theorem hresRes_none (ht : s.target (e.src 0 l) = none) : hresRes f e s = .stop s {} 0 (.trap 0xC7 0) := by
  have hlow : e.low = l := lowLane_of_lanes hl
  have h0 := beq_eq_false_iff_ne.mpr (act_ne_zero_of_lanes hl)
  simp only [hresRes, hlow, h0, inspectDenied_debug hd, Bool.false_eq_true, if_false, ht]

/-- The threads that `HRES` resumes: one, those of its group, or those of its team. -/
def State.resumeScope (s : State) (gk tid k : Nat) (scope : BitVec 2) : State :=
  if scope = 0 then s.resumeLanes gk (laneBit k) else if scope = 1 then s.resumeLanes gk 0xFFFFFFFF
  else (s.groupsOf tid).foldl (fun (s : State) (q : Nat × Group) => s.resumeLanes q.1 0xFFFFFFFF) s

theorem hresRes_resumes {gk k : Nat} {h : Group} {t : Team} (ht : s.target (e.src 0 l) = some (gk, h, t, k)) :
    hresRes f e s = .done ((s.resumeScope gk h.team k (f.fld 26 2)).unstop h.team) {} := by
  have hlow : e.low = l := lowLane_of_lanes hl
  have h0 := beq_eq_false_iff_ne.mpr (act_ne_zero_of_lanes hl)
  simp only [hresRes, hlow, h0, inspectDenied_debug hd, Bool.false_eq_true, if_false, ht, State.resumeScope]
  generalize f.fld 26 2 = scope
  match scope with
  | 0 => rfl
  | 1 => rfl
  | 2 => rfl
  | 3 => rfl

/-- `HSTEP` has the status of its step, or names no halted thread. -/
theorem hstepRes_status {st : Nat}
    (hst : (s.curIg e).stepRes = some st ∨ ((s.curIg e).stepRes = none ∧ s.target (e.src 0 l) = none ∧ st = 3)) :
    hstepRes f e s = .done s { regs := [write32 f.d e.act fun _ => BitVec.ofNat 32 st] } := by
  have hlow : e.low = l := lowLane_of_lanes hl
  have h0 := beq_eq_false_iff_ne.mpr (act_ne_zero_of_lanes hl)
  rcases hst with hst | ⟨hst, ht, rfl⟩
  · simp only [hstepRes, h0, Bool.false_eq_true, if_false, hst]
  · simp only [hstepRes, h0, Bool.false_eq_true, if_false, hst, hlow, inspectDenied_debug hd, ht]

end

/-- A ready `HSTEP` that completes, and the steps that begin after it. -/
theorem exec_hstep_done {g : Guard} {f : FmtX} {s : State} {e : Env} {x : Eff} (h : Ready s (.hstep g f) e)
    (hres : hstepRes f e s = .done s x) :
    exec (.hstep g f) s = .next (afterWord (.hstep g f) e (s.finish e x none [] true id)) := by
  have hword : s.issueWord (.hstep g f) e noCheck (hstepRes f) = s.finish e x none [] true id := by
    rw [issueWord_ready h rfl, hres]
    rfl
  show execHstep g f s = _
  simp only [execHstep, h.env, hword, afterWord]

/-- A handle of another context, named by code that may not inspect it, stops each of the three words. -/
theorem inspection_denied {g : Guard} {f : FmtX} {s : State} {e : Env} {i : Instr} (hi : i ∈ [.hins g f, .hput g f, .hres g f])
    (h : Ready s i e) (hd : s.debug e.x = false) (h0 : e.act ≠ 0) (hx : fld (e.src 0 e.low) 0 6 ≠ e.x) :
    exec i s = .next (s.trapBefore e 0 0xC5 0 0 0 (lowLane e.act)) := by
  have hdenied := handlesDenied_foreign h0 hd hx
  simp only [List.mem_cons, List.not_mem_nil, or_false] at hi
  rcases hi with rfl | rfl | rfl
  · exact exec_trap_of_runWord h rfl (by rw [hinsRes, hdenied, if_pos rfl])
  · exact exec_trap_of_runWord h rfl (by rw [hputRes, hdenied, if_pos rfl])
  · have hact := beq_eq_false_iff_ne.mpr h0
    exact exec_trap_of_runWord h rfl (by
      simp only [hresRes, hact, inspectDenied_foreign hd hx, Bool.false_eq_true, if_false, if_true])

/-- Settles O44: the answer of each word, by what its handle names. -/
theorem inspectionWords : Obligations.InspectionWords := by
  refine ⟨fun g f s e l hl hd => ⟨fun h => ?hlist, fun h ht => ?hinsNone, fun gk t tm k v h ht hv => ?hins, fun h ht => ?hputNone,
    fun gk t tm k v t' h ht hv => ?hput, fun gk t tm k h ht => ?hres, fun h ht => ?hresNone, fun st h hst => ?hstep⟩,
    fun g f s e i hi h hd h0 hx => inspection_denied hi h hd h0 hx⟩
  case hlist =>
    exact ⟨_, completes_of_runWord h rfl (hlistRes_debug hd), writesP_of rfl fun _ _ _ => rfl, hlistEff_writesGroup⟩
  case hinsNone =>
    obtain ⟨x, hres, hx⟩ := hinsRes_none (f := f) hl hd ht
    exact ⟨x, completes_of_runWord h rfl hres, hx⟩
  case hins =>
    obtain ⟨x, hres, hx⟩ := hinsRes_reads hl hd ht hv
    exact ⟨x, completes_of_runWord h rfl hres, hx⟩
  case hputNone =>
    obtain ⟨x, hres, hx⟩ := hputRes_none (f := f) hl hd ht
    exact ⟨x, completes_of_runWord h rfl hres, hx⟩
  case hput =>
    obtain ⟨x, hres, hx⟩ := hputRes_writes hl hd ht hv
    exact ⟨x, completes_to_of_runWord h rfl hres, hx⟩
  case hres => exact completes_to_of_runWord h rfl (hresRes_resumes hl hd ht)
  case hresNone => exact lowLane_of_lanes hl ▸ exec_trap_of_runWord h rfl (hresRes_none hl hd ht)
  case hstep => exact ⟨_, exec_hstep_done h (hstepRes_status hl hd hst), writes32_of rfl fun _ _ _ => rfl⟩

end Sys2Proof.Machine
end

section
/-! PROOFS. Nodes on their way from the ready pool to a core, steals and pre-emption (O51). -/

namespace Sys2Proof.Machine

/-! ### The device's reads of an image leave teams alone (08_page R185, R186) -/

/-- A walk leaves the state as it was or as an entry held against memory's leaves it, or goes on from there. -/
theorem walkGo_succ (s : State) (d x va n t lvl : Nat) : ∃ u, (u = s ∨ u = s.flip.2)
    ∧ ((s.walkGo d x va (n + 1) t lvl).2 = u
      ∨ ∃ e t' lvl', (s.walkGo d x va (n + 1) t lvl).2 = ((u.holdWalk d e).walkGo d x va n t' lvl').2) := by
  generalize hr : s.walkGo d x va (n + 1) t lvl = r
  unfold State.walkGo at hr
  extract_lets slot held now es e at hr
  have hes : es.2 = s ∨ es.2 = s.flip.2 := by
    clear_value held now
    unfold es
    split
    · exact .inl rfl
    · split
      · exact .inl rfl
      · exact .inr rfl
  split at hr
  · exact ⟨s, .inl rfl, .inl (congrArg Prod.snd hr.symm)⟩
  · refine ⟨es.2, hes, ?_⟩
    split at hr
    · exact .inl (congrArg Prod.snd hr.symm)
    · split at hr
      · exact .inl (congrArg Prod.snd hr.symm)
      · split at hr
        · exact .inr ⟨_, _, _, congrArg Prod.snd hr.symm⟩
        · exact .inl (congrArg Prod.snd hr.symm)

theorem walkGo_teams (s : State) (d x va fuel t lvl : Nat) : (s.walkGo d x va fuel t lvl).2.teams = s.teams := by
  induction fuel generalizing s t lvl with
  | zero => rfl
  | succ n ih =>
    obtain ⟨u, hu, hgo⟩ := walkGo_succ s d x va n t lvl
    have hteams : u.teams = s.teams := by rcases hu with rfl | rfl <;> rfl
    rcases hgo with hgo | ⟨e, t', lvl', hgo⟩
    · exact hgo ▸ hteams
    · exact hgo ▸ (ih _ _ _).trans hteams

theorem walkVa_teams (s : State) (d x va : Nat) : (s.walkVa d x va).2.teams = s.teams := by
  unfold State.walkVa
  dsimp only
  split
  · rfl
  · exact walkGo_teams ..

theorem setAccessed_teams (s : State) (slot : Nat) (e : Word) (kind : Nat) : (s.setAccessed slot e kind).2.teams = s.teams := by
  unfold State.setAccessed
  dsimp only
  split
  · rfl
  · unfold State.orHome State.wakeMonitors
    split <;> rfl

theorem touchPages_teams (s : State) (d x va n kind : Nat) : (s.touchPages d x va n kind).teams = s.teams := by
  unfold State.touchPages
  split
  · rfl
  · refine foldl_teams (fun u k => ?_) _ _
    have hwalk := walkVa_teams u d x ((va / 4096 + k) * 4096)
    generalize u.walkVa d x ((va / 4096 + k) * 4096) = w at hwalk ⊢
    obtain ⟨w, v⟩ := w
    cases w with
    | leaf e lvl slot =>
      dsimp only
      split
      · exact hwalk
      · exact (setAccessed_teams ..).trans hwalk
    | _ => exact hwalk

theorem touchImage_teams (s : State) (d x : Nat) (image : Word) : (s.touchImage d x image).teams = s.teams := by
  unfold State.touchImage
  split
  · rfl
  · dsimp only
    split
    · exact touchPages_teams ..
    · exact (touchPages_teams ..).trans (touchPages_teams ..)

/-! ### The ready pools (13_queue R279, R280, R283) -/

section
variable {s : State} {d k : Nat} {n : Node}

/-- A node enters a pool at the level and from the time given. -/
theorem placeInPool_node (s : State) (k : Nat) (n : Node) (level t : Nat) :
    ∃ m, (s.placeInPool k n level t).node? k = some m ∧ m.stage = .ready ∧ m.level = level ∧ m.since = t :=
  ⟨_, State.node?_setNode .., rfl, rfl, rfl⟩

theorem heldEnter_first (h : s.firstHeld d = some (k, n)) (hroom : s.poolFull d = false) :
    s.heldEnter d = s.placeInPool k n n.prio (s.die d).ticks := by
  simp only [State.heldEnter, h, hroom, Bool.false_eq_true, if_false]

theorem nodeAge_next (h : s.nextAging d = some (k, n)) :
    s.nodeAge d k = s.placeInPool k n (n.level - 1) (n.since + s.ageQuantum) := by
  simp only [State.nodeAge, h, beq_self_eq_true, if_true]

theorem dieTake_head (h : s.poolHead d = some (k, n)) (hage : s.nextAging d = none) (hl : n.level ≤ 3) :
    ∃ m, (s.dieTake d).node? k = some m ∧ m.stage = .distributing ∧ m.untaken = [(d, 0, n.gridx * n.gridy * n.gridz)] := by
  simp only [State.dieTake, h, hage, hl, Option.isSome_none, decide_true, Bool.true_or, Bool.not_true, Bool.or_self,
    Bool.false_eq_true, if_false]
  exact ⟨_, State.node?_setNode .., rfl, rfl⟩

/-! ### Placement (13_queue R283) -/

theorem takeChunk_none (cl : Nat) (h : s.spreading d = []) : s.takeChunk d cl = s := by
  simp only [State.takeChunk, h, List.filter_nil, minOn]

/-- The chunk that is next gives its lowest team to the core that holds most of the team's operands. -/
theorem chunkPlace_team {cl lo hi ck : Nat} {kern : Kernel} (hd : d < 2) (hcl : cl < 8) (hsp : s.spreading d = [])
    (hnext : s.nextChunk (8 * d + cl) = some ((k, lo, hi), n)) (hk : s.readKernel ((8 * d + cl) / 8) n.ctx n.image = some kern)
    (hck : maxOn (fun ck => s.heldBytes ck n.ctx lo n.ops) (s.openCores (8 * d + cl) kern) = some ck) :
    (s.chunkPlace d cl).team? s.nextId = some
      { Team.place k lo (lo % n.gridx) (lo / n.gridx % n.gridy) (lo / n.gridx / n.gridy) (ck / 96) (ck % 96) 0 kern with
        code := s.fresh.2.codeOf (ck / 96) n.ctx kern, const := s.fresh.2.constOf (ck / 96) n.ctx kern } := by
  have hin : (decide (2 ≤ d) || decide (8 ≤ cl)) = false := by simp; omega
  simp only [State.chunkPlace, hin, Bool.false_eq_true, if_false, takeChunk_none _ hsp, hnext, State.placeFrom, hk, hck,
    State.team?, State.placedAll, State.modNode_teams, State.modCluster_teams, touchImage_teams]
  exact State.team?_setTeam ..

/-! ### Steals (13_queue R284) -/

theorem cluster_modCluster (s : State) (k : Nat) (f : Cluster → Cluster) : (s.modCluster k f).cluster k = f (s.cluster k) :=
  State.cluster_setCluster ..

theorem cluster_modCluster_other (s : State) {k j : Nat} (f : Cluster → Cluster) (h : j ≠ k) :
    (s.modCluster k f).cluster j = s.cluster j := by
  simp only [State.modCluster, State.setCluster, State.cluster, SMap.getD, SMap.get?_set_other _ _ h]

theorem clusterSteal_halves {cl other lo hi : Nat} (hd : d < 2) (hcl : cl < 8) (hne : other ≠ 8 * d + cl)
    (hnone : (s.cluster (8 * d + cl)).chunks = []) (h : s.stealFrom d cl = some (other, (k, lo, hi))) :
    ((s.clusterSteal d cl).cluster (8 * d + cl)).chunks = [(k, hi - (hi - lo) / 2, hi)]
      ∧ ((s.clusterSteal d cl).cluster other).chunks
        = (s.cluster other).chunks.map fun h => if h == (k, lo, hi) then (k, lo, hi - (hi - lo) / 2) else h := by
  have hin : (decide (2 ≤ d) || decide (8 ≤ cl)) = false := by simp; omega
  simp only [State.clusterSteal, hin, hnone, h, List.isEmpty_nil, Bool.not_true, Bool.or_self, Bool.false_eq_true, if_false,
    cluster_modCluster, cluster_modCluster_other _ _ hne, and_self]

theorem crossSteal_halves {o lo hi : Nat} (hd : d < 2) (hup : s.culvert.state = .up) (hpool : s.poolSize d = 0)
    (h : minOn urgency ((s.spreading (1 - d)).filter fun p => p.2.dieSel == 2 && (p.2.untaken.all fun u => u.1 != d)
      && p.2.untaken.any fun u => u.2.1 + 2 ≤ u.2.2) = some (k, n)) (hun : n.untaken = [(o, lo, hi)]) :
    s.crossSteal d = s.setNode k { n with untaken := [(o, lo, hi - (hi - lo) / 2), (d, hi - (hi - lo) / 2, hi)] } := by
  have hin : decide (2 ≤ d) = false := by simp; omega
  unfold State.crossSteal
  dsimp only
  simp only [hup, hpool, hin, bne_self_eq_false, Bool.or_self, Bool.false_eq_true, if_false, h, hun, List.head?_cons]

/-! ### Pre-emption (13_queue R287) -/

theorem preempt_victim {t : Team} (hs : s.saving d = false) (hv : (s.starved d).findSome? (s.victim d) = some (k, t))
    (ht : s.team? k = some t) (hres : t.resident = true) (hreq : t.saveReq = none) (hend : t.ending = none) :
    s.preempt d = s.setTeam k { t with saveReq := some 0xD0 } := by
  simp only [State.preempt, hs, hv, Bool.false_eq_true, if_false]
  exact requestSave_requests ht hres hreq hend 0xD0

end

/-- Settles O51: each event does its one case, and the device's reads of the image that a placement makes leave the placed team be. -/
theorem distribution : Obligations.Distribution := by
  unfold Obligations.Distribution
  intro s d hd
  refine ⟨fun k n h hroom => ?held, fun k n h => ?age, fun k n h hage hl => ⟨_, rfl, dieTake_head h hage hl⟩,
    fun cl k lo hi n kern ck hcl hsp hnext hk hck => ?place, fun cl other k lo hi hcl hne hnone h => ?steal,
    fun k n o lo hi hup hpool h hun => congrArg Host.Outcome.next (crossSteal_halves hd hup hpool h hun),
    fun k t hs hv ht hres hreq hend => ?preempt⟩
  case held => exact ⟨_, rfl, heldEnter_first h hroom ▸ placeInPool_node ..⟩
  case age => exact ⟨_, rfl, nodeAge_next h ▸ placeInPool_node ..⟩
  case place =>
    exact ⟨_, rfl, _, chunkPlace_team hd hcl hsp hnext hk hck, rfl, rfl, rfl, rfl, rfl, rfl, rfl, rfl, rfl⟩
  case steal => exact ⟨_, rfl, clusterSteal_halves hd hcl hne hnone h⟩
  case preempt => exact ⟨_, rfl, preempt_victim hs hv ht hres hreq hend ▸ State.team?_setTeam ..⟩

end Sys2Proof.Machine
end

section
/-! PROOFS. The context commands by the state of the context (O48). -/

namespace Sys2Proof.Machine

section
variable {s : State} {x : Nat}

/-! ### Which command goes (15_context R311) -/

/-- The stages of a context for which a command is listed. -/
def ctxListed : Nat → List CtxStage
  | 1 => [.free]
  | 2 => [.created]
  | 3 => [.admitted, .running]
  | 4 => [.suspended, .faulted]
  | 5 => [.created, .admitted, .running, .suspended, .faulted]
  | 6 => [.destroyed]
  | _ => []

theorem ctxCommand_busy (cmd : Nat) (h : s.cmdBusy = true) : s.ctxCommand x cmd = s := by
  simp only [State.ctxCommand, h, Bool.true_or, if_true]

section
variable (hx : x < 64) (hidle : s.cmdBusy = false)
include hx hidle

theorem ctxCommand_create (h : (s.ctx x).stage = .free) : s.ctxCommand x 1 = s.ctxCreate x := by
  simp [State.ctxCommand, hidle, show ¬ 63 < x by omega, h]

theorem ctxCommand_admit (h : (s.ctx x).stage = .created) :
    s.ctxCommand x 2 = s.setCtx x { stage := .admitted, slots := (s.ctx x).slots } := by
  simp [State.ctxCommand, hidle, show ¬ 63 < x by omega, h]

theorem ctxCommand_suspend (h : (s.ctx x).stage = .admitted ∨ (s.ctx x).stage = .running) : s.ctxCommand x 3 = s.ctxSuspend x := by
  rcases h with h | h <;> simp [State.ctxCommand, hidle, show ¬ 63 < x by omega, h]

theorem ctxCommand_resume (h : (s.ctx x).stage = .suspended ∨ (s.ctx x).stage = .faulted) : s.ctxCommand x 4 = s.ctxResume x := by
  rcases h with h | h <;> simp [State.ctxCommand, hidle, show ¬ 63 < x by omega, h]

theorem ctxCommand_kill (h : (s.ctx x).stage ∈ ctxListed 5) : s.ctxCommand x 5 = s.ctxKill x := by
  simp only [ctxListed, List.mem_cons, List.not_mem_nil, or_false] at h
  rcases h with h | h | h | h | h <;> simp [State.ctxCommand, hidle, show ¬ 63 < x by omega, h]

theorem ctxCommand_free (h : (s.ctx x).stage = .destroyed) :
    s.ctxCommand x 6 = s.setCtx x { stage := .free, slots := (s.ctx x).slots } := by
  simp [State.ctxCommand, hidle, show ¬ 63 < x by omega, h]

theorem ctxCommand_unlisted {cmd : Nat} (hc : cmd ≠ 0) (h : (s.ctx x).stage ∉ ctxListed cmd) : s.ctxCommand x cmd = s.cmdErr := by
  unfold State.ctxCommand
  rw [if_neg (by simp [hidle, hc]), if_neg (show ¬ 63 < x by omega)]
  split
  case h_13 => rfl
  all_goals exact absurd (by simp [ctxListed, *]) h

end

/-! ### CREATE -/

theorem ctx_setCtx_other (s : State) {x y : Nat} (c : Ctx) (h : y ≠ x) : (s.setCtx x c).ctx y = s.ctx y := by
  simp only [State.ctx, State.setCtx, SMap.getD, SMap.get?_set_other _ _ h]

theorem ctxCreate_clears (hreg : SMap.sorted s.regs = true) :
    (s.ctxCreate x).raw (0x100 + x) = 0 ∧ (s.ctxCreate x).raw (0x140 + x) = 0 ∧ (s.ctxCreate x).raw (0x180 + x) = 0 := by
  let s0 : State := { s with measured := s.measured.filter fun p => p.1 != x }
  have h0 : SMap.sorted s0.regs = true := hreg
  have h1 := sorted_setRaw s0 (0x100 + x) 0 h0
  have h2 := sorted_setRaw _ (0x140 + x) 0 h1
  refine ⟨?_, ?_, raw_setRaw_same _ _ _ h2⟩
  · exact ((raw_setRaw_other _ _ (by omega)).trans (raw_setRaw_other _ _ (by omega))).trans (raw_setRaw_same _ _ _ h0)
  · exact (raw_setRaw_other _ _ (by omega)).trans (raw_setRaw_same _ _ _ h1)

/-! ### SUSPEND: every resident team is to be saved -/

/-- The team's save is requested with REASON `0xD0`, and it migrates nowhere. -/
def State.suspends (s : State) (k : Nat) : Prop := ∃ u, s.team? k = some u ∧ u.saveReq = some 0xD0 ∧ u.migrateTo = none

theorem suspendSave_other (s : State) {k j : Nat} (h : k ≠ j) : (s.suspendSave j).team? k = s.team? k := by
  rw [State.suspendSave, State.team?_modTeam_other _ _ h, State.requestSave, State.team?_modTeam_other _ _ h]

theorem suspendSave_team {k : Nat} {t : Team} (ht : s.team? k = some t)
    (hreq : (t.resident = true ∧ t.ending = none) ∨ t.saveReq.isSome = true) : (s.suspendSave k).suspends k := by
  refine ⟨_, by rw [State.suspendSave, State.team?_modTeam, State.requestSave, State.team?_modTeam, ht]; rfl, ?_, rfl⟩
  dsimp only
  cases hr : t.saveReq with
  | none =>
    obtain ⟨hres, hend⟩ : t.resident = true ∧ t.ending = none := by simpa [hr] using hreq
    simp [hres, hend]
  | some r => simp [hr]

theorem suspendSave_keeps {k : Nat} (h : s.suspends k) (j : Nat) : (s.suspendSave j).suspends k := by
  obtain ⟨u, hu, hreq, hmig⟩ := h
  by_cases hj : k = j
  · subst hj
    exact suspendSave_team hu (.inr (by simp [hreq]))
  · exact ⟨u, (suspendSave_other s hj).trans hu, hreq, hmig⟩

theorem foldl_suspendSave_keeps {k : Nat} (l : List Nat) (h : s.suspends k) : (l.foldl State.suspendSave s).suspends k :=
  List.foldlRecOn (motive := fun u : State => u.suspends k) l _ h fun _ hu j _ => suspendSave_keeps hu j

theorem foldl_suspendSave {k : Nat} {t : Team} (hres : t.resident = true) (hend : t.ending = none) (l : List Nat) (hk : k ∈ l)
    (ht : s.team? k = some t) : (l.foldl State.suspendSave s).suspends k := by
  induction l generalizing s with
  | nil => simp at hk
  | cons j r ih =>
    by_cases hj : k = j
    · subst hj
      exact foldl_suspendSave_keeps r (suspendSave_team ht (.inl ⟨hres, hend⟩))
    · exact ih ((List.mem_cons.mp hk).resolve_left hj) ((suspendSave_other s hj).trans ht)

/-- A resident team of the context is among those that its commands name. -/
theorem mem_ctxTeams {k : Nat} {t : Team} (ht : s.team? k = some t) (hres : t.resident = true) (hx : s.teamCtx t = x) :
    k ∈ s.ctxTeams x :=
  List.mem_map.mpr ⟨(k, t), List.mem_filter.mpr ⟨SMap.mem_of_get? ht, by simp [hres, hx]⟩, rfl⟩

/-- A command that goes through the context's teams changes these alone. -/
theorem foldl_modTeam_keeps (f : State → Nat → State) (hf : ∀ s j, (f s j).ctxs = s.ctxs ∧ (f s j).groups = s.groups ∧ (f s j).mem = s.mem)
    (l : List Nat) (s : State) :
    (l.foldl f s).ctxs = s.ctxs ∧ (l.foldl f s).groups = s.groups ∧ (l.foldl f s).mem = s.mem :=
  List.foldlRecOn (motive := fun u : State => u.ctxs = s.ctxs ∧ u.groups = s.groups ∧ u.mem = s.mem) l f ⟨rfl, rfl, rfl⟩
    fun u ⟨hc, hg, hm⟩ j _ => ⟨(hf u j).1.trans hc, (hf u j).2.1.trans hg, (hf u j).2.2.trans hm⟩

theorem suspendSave_leaves (s : State) (j : Nat) :
    (s.suspendSave j).ctxs = s.ctxs ∧ (s.suspendSave j).groups = s.groups ∧ (s.suspendSave j).mem = s.mem := by
  simp only [State.suspendSave, State.requestSave, State.modTeam_ctxs, State.modTeam_groups, State.modTeam_mem, and_self]

theorem ctxSuspend_leaves (s : State) (x : Nat) : (s.ctxSuspend x).ctx x = { s.ctx x with stage := .suspended }
    ∧ (s.ctxSuspend x).groups = s.groups ∧ (s.ctxSuspend x).mem = s.mem := by
  obtain ⟨hc, hg, hm⟩ := foldl_modTeam_keeps _ suspendSave_leaves (s.ctxTeams x) (s.setCtx x { s.ctx x with stage := .suspended })
  exact ⟨by rw [State.ctxSuspend, State.ctx, hc]; exact State.ctx_setCtx .., hg, hm⟩

theorem ctxResume_leaves (s : State) (x : Nat) : (s.ctxResume x).ctx x = { s.ctx x with stage := .admitted }
    ∧ (s.ctxResume x).groups = s.groups ∧ (s.ctxResume x).mem = s.mem := by
  unfold State.ctxResume
  dsimp only
  obtain ⟨hc, hg, hm⟩ := foldl_modTeam_keeps _ (fun u j => ⟨State.modTeam_ctxs u j _, State.modTeam_groups u j _, State.modTeam_mem u j _⟩)
    (s.ctxTeams x) (s.setCtx x { s.ctx x with stage := .admitted })
  exact ⟨by rw [State.ctx, hc]; exact State.ctx_setCtx .., hg, hm⟩

/-! ### KILL of a context without resident teams (15_context R312) -/

theorem ctxKill_idle (h : s.ctxTeams x = []) : (s.ctxKill x).ctx x = { stage := .draining, slots := [] }
    ∧ (∀ p ∈ (s.ctxKill x).nodes, p.2.ctx ≠ x) ∧ (∀ p ∈ (s.ctxKill x).monitors, p.2.ctx ≠ x) ∧ (s.ctxKill x).mem = s.mem := by
  unfold State.ctxKill
  simp only [h, List.foldl_nil]
  refine ⟨State.ctx_setCtx .., fun p hp => ?_, fun p hp => by simpa using (List.mem_filter.mp hp).2, rfl⟩
  obtain ⟨q, -, hq⟩ := List.mem_filterMap.mp hp
  by_cases hx : q.2.ctx = x
  · simp [hx] at hq
  · simp only [bne_iff_ne, ne_eq, hx, not_false_eq_true, if_true, Option.some.injEq] at hq
    exact hq ▸ hx

/-! ### The end of a context that drains -/

/-- What a write at home can change: memory, the marks of units, and the monitors that it meets. -/
theorem writeHome_changes (s : State) (pa : Nat) (bs : List Byte) : ∃ mem marks moved monitors,
    s.writeHome pa bs = { s with mem := mem, marks := marks, moved := moved, monitors := monitors } := by
  unfold State.writeHome State.wakeMonitors State.unmark
  dsimp only
  split <;> split <;> exact ⟨_, _, _, _, rfl⟩

theorem writeHome_ctxs (s : State) (pa : Nat) (bs : List Byte) : (s.writeHome pa bs).ctxs = s.ctxs := by
  obtain ⟨_, _, _, _, h⟩ := writeHome_changes s pa bs
  rw [h]

theorem cleanColumn_ctxs (s : State) (ck : Nat) (f : Nat → Bool) : (s.cleanColumn ck f).ctxs = s.ctxs := by
  unfold State.cleanColumn
  dsimp only
  split
  · rfl
  · generalize hrun : List.foldl _ _ _ = run
    have hwritten : run.1.ctxs = s.ctxs := by
      rw [← hrun]
      refine List.foldlRecOn (motive := fun acc : State × Option (Nat × List Byte) => acc.1.ctxs = s.ctxs) _ _ rfl
        fun acc hacc e _ => ?_
      split
      · exact hacc
      · split
        · exact hacc
        · exact (writeHome_ctxs ..).trans hacc
    have hlast : ∀ (t : State) (b : Bool) (l : List ErrPlace), (if b then t else { t with moved := l }).ctxs = t.ctxs :=
      fun _ b _ => by cases b <;> rfl
    rw [hlast]
    obtain ⟨t, _ | ⟨a, bs⟩⟩ := run
    · exact hwritten
    · exact (writeHome_ctxs ..).trans hwritten

theorem releasePins_ctxs (s : State) (f : TlbEntry → Bool) : (s.releasePins f).ctxs = s.ctxs := by
  unfold State.releasePins
  refine List.foldlRecOn (motive := fun u : State => u.ctxs = s.ctxs) _ _ rfl fun u hu p _ => ?_
  dsimp only
  split
  · exact hu
  · exact (cleanColumn_ctxs ..).trans hu

theorem ctxDestroyed_stage (hst : (s.ctx x).stage = .draining) (hres : s.resTeams x = 0) (hsaved : s.savedTeams x = 0)
    (hcop : ∀ c ∈ s.copies, c.2.ctx ≠ x) (hpins : s.pinsWait (fun t => t.ctx == x) = false) :
    ((s.ctxDestroyed x).ctx x).stage = .destroyed := by
  have hcan : s.canDestroy x = true := by
    simpa [State.canDestroy, hst, hres, hsaved, hpins] using fun k c h => hcop (k, c) h
  rw [State.ctxDestroyed, if_pos hcan, State.ctx, releasePins_ctxs]
  exact congrArg Ctx.stage (State.ctx_setCtx ..)

end

/-- Settles O48: each command by the stage of its context, through the one match that says which goes. -/
theorem contextCommands : Obligations.ContextCommands := by
  unfold Obligations.ContextCommands
  intro s x hx hreg hd
  dsimp only
  refine ⟨fun hb hbusy => ?goes, fun i hi hno => ?ignored, fun hst hres hsaved hcop hpins => ?destroyed⟩
  case goes =>
    have hgo : ∀ cmd, s.hostCommand (fun s => s.ctxCommand x cmd) = s.ctxCommand x cmd :=
      fun _ => hostCommand_of_booted hb hd _
    refine ⟨fun hst => ?create, fun hst => congrArg Host.Outcome.next ((hgo 2).trans (ctxCommand_admit hx hbusy hst)),
      fun hst => ?suspend, fun hst => ?resume, fun hst hnone => ?kill,
      fun hst => congrArg Host.Outcome.next ((hgo 6).trans (ctxCommand_free hx hbusy hst)), fun i l hl hst => ?unlisted⟩
    case create =>
      obtain ⟨h1, h2, h3⟩ := ctxCreate_clears (x := x) hreg
      exact ⟨_, congrArg Host.Outcome.next ((hgo 1).trans (ctxCommand_create hx hbusy hst)), State.ctx_setCtx .., h1, h2, h3,
        fun y hy => ctx_setCtx_other _ _ hy, rfl, rfl⟩
    case suspend =>
      obtain ⟨hc, hg, hm⟩ := ctxSuspend_leaves s x
      exact ⟨_, congrArg Host.Outcome.next ((hgo 3).trans (ctxCommand_suspend hx hbusy hst)), hc, hg, hm,
        fun k tm htm hres hctx hend => foldl_suspendSave hres hend _ (mem_ctxTeams htm hres hctx) htm⟩
    case resume =>
      exact ⟨_, congrArg Host.Outcome.next ((hgo 4).trans (ctxCommand_resume hx hbusy hst)), ctxResume_leaves s x⟩
    case kill =>
      exact ⟨_, congrArg Host.Outcome.next ((hgo 5).trans (ctxCommand_kill hx hbusy hst)), ctxKill_idle hnone⟩
    case unlisted =>
      have herr : ∀ cmd, cmd ≠ 0 → (s.ctx x).stage ∉ ctxListed cmd →
          (Host.Outcome.next (s.hostCommand fun s => s.ctxCommand x cmd) : Out) = .next s.cmdErr :=
        fun cmd hc h => congrArg Host.Outcome.next ((hgo cmd).trans (ctxCommand_unlisted hx hbusy hc h))
      rcases hl with ⟨rfl, rfl⟩ | ⟨rfl, rfl⟩ | ⟨rfl, rfl⟩ | ⟨rfl, rfl⟩ | ⟨rfl, rfl⟩ | ⟨rfl, rfl⟩
      · exact herr 1 (by decide) hst
      · exact herr 2 (by decide) hst
      · exact herr 3 (by decide) hst
      · exact herr 4 (by decide) hst
      · exact herr 5 (by decide) hst
      · exact herr 6 (by decide) hst
  case ignored =>
    have hsame : ∀ cmd, s.hostCommand (fun s => s.ctxCommand x cmd) = s := fun cmd => by
      rw [hostCommand_of_up hd]
      rcases hno with hbusy | hboot
      · rw [ctxCommand_busy cmd hbusy, ite_self]
      · rw [if_pos hboot]
    simp only [List.mem_cons, List.not_mem_nil, or_false] at hi
    rcases hi with rfl | rfl | rfl | rfl | rfl | rfl
    all_goals exact congrArg Host.Outcome.next (hsame _)
  case destroyed => exact ⟨_, rfl, ctxDestroyed_stage hst hres hsaved hcop hpins⟩

end Sys2Proof.Machine
end

section
/-! PROOFS. The states of a display output (O57). -/

namespace Sys2Proof.Machine

section
variable {s : State} {d : Nat}

/-- A report changes of a die its waiting records alone. -/
theorem report_die (s : State) (d : Nat) (mk : Nat → Report) (e : Nat) :
    (s.report d mk).die e = { s.die e with reports := if e = d then (s.die d).reports ++ [mk s.seq.toNat] else (s.die e).reports } := by
  unfold State.report
  by_cases he : e = d
  · subst he
    rw [die_modDie_same, if_pos rfl]
    rfl
  · rw [die_modDie_other _ _ he, if_neg he]
    rfl

theorem displayGo_dispOn (s : State) (d st : Nat) : ((s.displayGo d st).die d).dispOn = st := by
  unfold State.displayGo
  split
  · next h => simpa using h
  · rw [State.linkReport, State.linkRecord, report_die, die_modDie_same]

/-- An event takes a running output to the state that it names, and leaves it where it names none. -/
theorem displayEvent_dispOn (hd : d < 2) (ht : (s.die d).tripped = false) (f : Nat → Option Nat) :
    ((s.displayEvent d f).die d).dispOn = (f (s.die d).dispOn).getD (s.die d).dispOn := by
  have hgo : (decide (2 ≤ d) || (s.die d).tripped) = false := by simp [ht, hd]
  unfold State.displayEvent
  rw [if_neg (by simp [hgo])]
  cases f (s.die d).dispOn with
  | none => rfl
  | some st => exact displayGo_dispOn ..

theorem displayEnable_dispOn (hd : d < 2) (ht : (s.die d).tripped = false) :
    ((s.displayEnable d).die d).dispOn = if (s.die d).dispOn = 0 then 1 else (s.die d).dispOn := by
  rw [State.displayEnable, if_neg (by omega)]
  refine (displayEvent_dispOn (s := s.setEn d true) hd ht _).trans ?_
  change Option.getD (if (s.die d).dispOn == 0 then some 1 else none) (s.die d).dispOn = _
  by_cases h : (s.die d).dispOn = 0 <;> simp [h]

theorem displayDisable_dispOn (hd : d < 2) (ht : (s.die d).tripped = false) : ((s.displayDisable d).die d).dispOn = 0 := by
  rw [State.displayDisable, if_neg (by omega)]
  exact displayEvent_dispOn (s := s.setEn d false) hd ht _

theorem displayRetrain_dispOn (hd : d < 2) (ht : (s.die d).tripped = false) :
    ((s.displayRetrain d).die d).dispOn = if (s.die d).dispOn = 3 then 1 else (s.die d).dispOn := by
  rw [State.displayRetrain, displayEvent_dispOn hd ht]
  by_cases h : (s.die d).dispOn = 3 <;> simp [h]

end

/-- Settles O57: an event names the next state of a running output, and the record of it leaves that state be. -/
theorem displayEvents : Obligations.DisplayEvents := by
  unfold Obligations.DisplayEvents
  intro s d hd ht
  dsimp only
  refine ⟨fun hb hup => ⟨?enable, ?disable, ?retrain⟩, fun ok => ?result, ?loss⟩
  case enable => exact ⟨_, congrArg Host.Outcome.next (hostCommand_of_booted hb hup _), displayEnable_dispOn hd ht⟩
  case disable => exact ⟨_, congrArg Host.Outcome.next (hostCommand_of_booted hb hup _), displayDisable_dispOn hd ht⟩
  case retrain => exact ⟨_, congrArg Host.Outcome.next (hostCommand_of_booted hb hup _), displayRetrain_dispOn hd ht⟩
  case result =>
    refine ⟨_, rfl, (displayEvent_dispOn hd ht _).trans ?_⟩
    by_cases h : (s.die d).dispOn = 1 <;> simp [h]
  case loss =>
    refine ⟨_, rfl, (displayEvent_dispOn hd ht _).trans ?_⟩
    by_cases h : (s.die d).dispOn = 2 <;> simp [h]

end Sys2Proof.Machine
end

section
/-! PROOFS. What the culvert's own events leave alone: its state, and the records that wait to cross it. -/

namespace Sys2Proof.Machine

/-- The culvert is in the same state, and the same records wait to cross it. -/
structure KeepsCulvert (s t : State) : Prop where
  state : t.culvert.state = s.culvert.state
  xeyes : ∀ d, (t.die d).xeyes = (s.die d).xeyes

namespace KeepsCulvert

theorem refl (s : State) : KeepsCulvert s s := ⟨rfl, fun _ => rfl⟩

theorem trans {s t u : State} (h : KeepsCulvert s t) (k : KeepsCulvert t u) : KeepsCulvert s u :=
  ⟨k.state.trans h.state, fun d => (k.xeyes d).trans (h.xeyes d)⟩

theorem of_eq {s t : State} (hc : t.culvert = s.culvert) (hd : t.dies = s.dies) : KeepsCulvert s t :=
  ⟨congrArg Culvert.state hc, fun d => by simp only [State.die, hd]⟩

theorem foldl {α : Type} {f : State → α → State} (hf : ∀ s a, KeepsCulvert s (f s a)) (l : List α) (s : State) :
    KeepsCulvert s (l.foldl f s) :=
  List.foldlRecOn (motive := KeepsCulvert s) l f (refl s) fun t ht a _ => ht.trans (hf t a)

theorem modDie (s : State) (d : Nat) {f : Die → Die} (hf : (f (s.die d)).xeyes = (s.die d).xeyes) : KeepsCulvert s (s.modDie d f) := by
  refine ⟨rfl, fun e => ?_⟩
  by_cases he : e = d
  · rw [he, die_modDie_same, hf]
  · rw [die_modDie_other _ _ he]

theorem writeHome (s : State) (pa : Nat) (bs : List Byte) : KeepsCulvert s (s.writeHome pa bs) := by
  obtain ⟨_, _, _, _, h⟩ := writeHome_changes s pa bs
  rw [h]
  exact of_eq rfl rfl

/-! ### Requests of the host that wait (18_link R375) -/

theorem hostWrite (s : State) (pa : Nat) (bs : List Byte) : KeepsCulvert s (s.hostWrite pa bs) := foldl (fun t _ => writeHome t ..) _ s

theorem hostRead (s : State) (pa n : Nat) : KeepsCulvert s (s.hostRead pa n) := of_eq rfl rfl

theorem hostAtomic (s : State) (pa : Nat) (op : HostAtomic) (a b : Word) : KeepsCulvert s (s.hostAtomic pa op a b) := by
  unfold State.hostAtomic
  dsimp only
  split
  · exact of_eq rfl rfl
  · split
    · exact (writeHome ..).trans (of_eq rfl rfl)
    · exact of_eq rfl rfl

theorem trailAt (s : State) (d time kind ctx index : Nat) (payload : List Byte) :
    KeepsCulvert s (s.trailAt d time kind ctx index payload) := by
  unfold State.trailAt
  dsimp only
  split
  · exact refl s
  · split
    · exact (writeHome ..).trans (modDie _ _ rfl)
    · exact modDie _ _ rfl

theorem inputEnter (s : State) (bs : List Byte) : KeepsCulvert s (s.inputEnter bs) := by
  unfold State.inputEnter
  split
  · exact of_eq rfl rfl
  · refine (writeHome s s.inputSlot bs).trans ?_
    refine KeepsCulvert.trans ?_ (trailAt ..)
    split <;> exact of_eq rfl rfl

theorem drainGo (l : List HostReq) (s : State) (held : List Nat) : KeepsCulvert s (s.drainGo held l).2 := by
  induction l generalizing s held with
  | nil => exact refl s
  | cons q r ih =>
    unfold State.drainGo
    cases q <;> dsimp only <;> split
    case read.isFalse => exact (hostRead ..).trans (ih _ _)
    case write.isFalse => exact (hostWrite ..).trans (ih _ _)
    case atomic.isFalse => exact (hostAtomic ..).trans (ih _ _)
    case input.isFalse => exact (inputEnter ..).trans (ih _ _)
    all_goals exact ih s _

theorem drainHost (s : State) : KeepsCulvert s s.drainHost := (drainGo s.hostQueue s []).trans (of_eq rfl rfl)

/-! ### Monitors, reports and counts (11_barrier R257, 18_link R382) -/

theorem endMonitor (s : State) (k : Nat) (m : Monitor) (st : Nat) : KeepsCulvert s (s.endMonitor k m st) := by
  unfold State.endMonitor
  split <;> exact of_eq rfl rfl

theorem dropMonitors (s : State) (f : Monitor → Bool) : KeepsCulvert s (s.dropMonitors f) := by
  refine foldl (fun t p => ?_) s.monitors s
  split
  · exact endMonitor ..
  · exact refl t

theorem report (s : State) (d : Nat) (mk : Nat → Report) : KeepsCulvert s (s.report d mk) :=
  ⟨rfl, fun e => by rw [report_die]⟩

theorem loseXeye (s : State) (d : Nat) (i : Insertion) : KeepsCulvert s (s.loseXeye d i) := by
  unfold State.loseXeye State.modBand
  exact modDie s d rfl

end KeepsCulvert

/-! ### The states of the culvert (18_link R381) -/

/-- The culvert enters the state, whatever its return lets go on. -/
theorem culvertGo_state (s : State) (st : CulvertState) : (s.culvertGo st).culvert.state = st := by
  unfold State.culvertGo
  split
  · next h => simpa using h
  · dsimp only
    split
    · exact (KeepsCulvert.drainHost _).state
    · rfl

/-- Until it carries traffic again the culvert lets nothing go on: memory, and the count of attempts, stay. -/
theorem culvertGo_closed (s : State) {st : CulvertState} (hu : st ≠ .up) (hd : st ≠ .degraded) :
    (s.culvertGo st).mem = s.mem ∧ (s.culvertGo st).culvert.tries = s.culvert.tries := by
  unfold State.culvertGo
  split
  · exact ⟨rfl, rfl⟩
  · dsimp only
    rw [if_neg]
    · exact ⟨rfl, rfl⟩
    · cases st <;> simp_all [State.culvertOpen, State.linkReport, State.linkRecord, State.report, State.modDie]

theorem culvertTrain_state (s : State) : s.culvertTrain.culvert.state = .training := by
  unfold State.culvertTrain
  split
  · next h => simpa using h
  · exact culvertGo_state ..

theorem culvertTrain_begins {s : State} (h : s.culvert.state ≠ .training) :
    s.culvertTrain.culvert.tries = 0 ∧ s.culvertTrain.mem = s.mem := by
  rw [State.culvertTrain, if_neg (by simpa using h)]
  obtain ⟨hm, ht⟩ := culvertGo_closed { s with culvert := { s.culvert with tries := 0 } } (st := .training) nofun nofun
  exact ⟨ht, hm⟩

end Sys2Proof.Machine
end

section
/-! PROOFS. Reset, the boot stages, the junction trip and soft errors (O60). -/

namespace Sys2Proof.Machine

section
variable {s : State}

/-! ### Reset (20_bringup R399, R400) -/

/-- A reset that finds no sensor hot: every register at its reset value, and nothing placed. -/
theorem deviceReset_cold (s : State) : (s.deviceReset false false).boot = 1 ∧ (s.deviceReset false false).bootErr = 0
    ∧ (∀ n r, regDesc n = some r → (s.deviceReset false false).raw n = r.reset) ∧ (s.deviceReset false false).teams = []
    ∧ (s.deviceReset false false).groups = [] ∧ (s.deviceReset false false).culvert.state = .down := by
  have hregs : (s.deviceReset false false).regs = [] := by
    simp only [State.deviceReset, Bool.and_false, b2n]
    rfl
  exact ⟨rfl, rfl, fun n r hr => raw_of_unwritten (by rw [hregs]; rfl) hr, rfl, rfl, rfl⟩

/-! ### The boot stages -/

theorem inStage_of {n : Nat} (hb : s.boot = n) (herr : s.bootErr = 0) (h0 : (s.die 0).tripped = false) (h1 : (s.die 1).tripped = false) :
    s.inStage n = true := by
  simp [State.inStage, hb, herr, h0, h1]

theorem extendMeas_teams (s : State) (i : Nat) (m : List Byte) : (s.extendMeas i m).teams = s.teams := by
  unfold State.extendMeas State.trail State.trailAt
  dsimp only
  split
  · rfl
  · split
    · exact (KeepsWork.writeHome ..).teams
    · rfl

/-! ### The junction trip (20_bringup R401) -/

theorem getLsbD_setBits_one (w : Word) {i : Nat} (h : i < 64) : (setBits w i 1 1).getLsbD i = true := by
  rw [getLsbD_setBits w i 1 1 h, if_pos ⟨Nat.le_refl i, by omega⟩, Nat.sub_self]
  rfl

theorem junctionTrip_down {d : Nat} (hd : d < 2) (ht : (s.die d).tripped = false) (hc : s.culvert.state = .down) :
    s.junctionTrip d = (((s.modDie d fun x => { x with tripped := true }).setRaw 0x7C0 (setBits (s.raw 0x7C0) (6 + d) 1 1)).send
      (.tripAlert d)) := by
  have hgo : (decide (2 ≤ d) || (s.die d).tripped) = false := by simp [ht, hd]
  unfold State.junctionTrip
  rw [if_neg (by simp [hgo])]
  dsimp only
  generalize hu : State.send _ _ = u
  have hcu : u.culvert.state = .down := by rw [← hu]; exact hc
  rw [State.lossOfLock, if_neg (by simp [State.culvertOpen, hcu]), State.trainingResult, if_pos (by simp [hcu]), ← hu]
  rfl

/-! ### Soft errors (15_context R329) -/

/-- A corrected error is counted in its field, which saturates, and marks no unit. -/
theorem corrected_counts (hreg : SMap.sorted s.regs = true) (e : ErrPlace) : (s.corrected e).marks = s.marks
    ∧ (s.corrected e).rf (0x290 + (s.errField e).1) (s.errField e).2 16
      = min 65535 (s.rf (0x290 + (s.errField e).1) (s.errField e).2 16 + 1) := by
  have hlo : (s.errField e).2 + 16 ≤ 64 := by cases e <;> simp [State.errField]
  have hfld : fld ((s.setRaw (0x290 + (s.errField e).1) (setBits (s.raw (0x290 + (s.errField e).1)) (s.errField e).2 16
      (min 65535 (s.rf (0x290 + (s.errField e).1) (s.errField e).2 16 + 1)))).raw (0x290 + (s.errField e).1)) (s.errField e).2 16
      = min 65535 (s.rf (0x290 + (s.errField e).1) (s.errField e).2 16 + 1) := by
    rw [raw_setRaw_same _ _ _ hreg, fld_setBits_same _ _ hlo]
    omega
  unfold State.corrected
  dsimp only
  split
  · exact ⟨rfl, hfld⟩
  · exact ⟨rfl, hfld⟩

end

/-- Settles O60: each stage by its own branch, a reset by the state that it makes anew. -/
theorem bootAndErrors : Obligations.BootAndErrors := by
  unfold Obligations.BootAndErrors
  intro s
  refine ⟨fun i hi => ?reset, fun a b hc => ?retry, fun herr h0 h1 => ?stages, fun d hd ht hc hreg => ?trip, fun e hd ht => ?soft⟩
  case reset =>
    rcases hi with rfl | rfl | ⟨rfl, hopen⟩
    · obtain ⟨hb, he, hr, htm, hg, hcul⟩ := deviceReset_cold { s with mem := s.mem.filter fun c => isHost c.1, marks := [], moved := [], awake := false }
      exact ⟨_, rfl, hb, he, hr, htm, hg, hcul, (deviceReset_mem ..).trans (if_pos rfl).symm⟩
    · obtain ⟨hb, he, hr, htm, hg, hcul⟩ := deviceReset_cold s
      exact ⟨_, rfl, hb, he, hr, htm, hg, hcul, (deviceReset_mem ..).trans (if_neg nofun).symm⟩
    · obtain ⟨hb, he, hr, htm, hg, hcul⟩ := deviceReset_cold s
      exact ⟨_, congrArg Host.Outcome.next (if_pos hopen), hb, he, hr, htm, hg, hcul, (deviceReset_mem ..).trans (if_neg nofun).symm⟩
  case retry => exact congrArg Host.Outcome.next (if_neg (by simp [hc]))
  case stages =>
    have hin : ∀ {n}, s.boot = n → s.inStage n = true := fun hb => inStage_of hb herr h0 h1
    refine ⟨fun hb => ?one, fun hb => ?two, fun hb => ?three, fun hb => ?four, fun hb => ?five, fun hb => ?six⟩
    case one => exact congrArg Host.Outcome.next (if_pos (by simp [hin hb]))
    case two =>
      have hno : (!s.inStage 2) = false := by simp [hin hb]
      exact ⟨congrArg Host.Outcome.next (if_neg (by simp [hno])), congrArg Host.Outcome.next (if_neg (by simp [hno]))⟩
    case three =>
      have hno : ¬ (!s.inStage 3) = true := by simp [hin hb]
      exact ⟨congrArg Host.Outcome.next (if_neg hno), congrArg Host.Outcome.next (if_neg hno), congrArg Host.Outcome.next (if_neg hno),
        congrArg Host.Outcome.next (if_neg hno)⟩
    case four => exact ⟨_, congrArg Host.Outcome.next (if_pos (hin hb)), rfl, culvertTrain_state s⟩
    case five =>
      have hno : ¬ (!s.inStage 5) = true := by simp [hin hb]
      exact ⟨congrArg Host.Outcome.next (if_neg hno), congrArg Host.Outcome.next (if_neg hno)⟩
    case six =>
      have hno : ¬ (!s.inStage 6) = true := by simp [hin hb]
      exact ⟨⟨_, congrArg Host.Outcome.next (if_neg hno), rfl, extendMeas_teams s 2 _⟩, congrArg Host.Outcome.next (if_neg hno)⟩
  case trip =>
    refine ⟨_, congrArg Host.Outcome.next (junctionTrip_down hd ht hc), ?_, ?_, rfl⟩
    · exact congrArg Die.tripped (die_modDie_same s d fun x => { x with tripped := true })
    · exact (congrArg (BitVec.getLsbD · (6 + d)) (raw_setRaw_same _ _ _ hreg)).trans (getLsbD_setBits_one _ (by omega))
  case soft =>
    have hno : ¬ ((s.die (s.errField e).1).tripped || decide (2 ≤ (s.errField e).1)) = true := by simp [ht, hd]
    exact ⟨congrArg Host.Outcome.next (if_neg hno), fun hreg =>
      ⟨_, congrArg Host.Outcome.next (if_neg hno), corrected_counts hreg e⟩⟩

end Sys2Proof.Machine
end

section
/-! PROOFS. The culvert's states and waits, and the time bases (O56). -/

namespace Sys2Proof.Machine

section
variable {s : State}

/-! ### Reset, attempts and loss of lock (18_link R381, R382) -/

/-- Each die's borrowed records are dropped one after the other. -/
def State.dropXeyes (s : State) (d : Nat) : State :=
  ((s.die d).xeyes.foldl (fun s i => s.loseXeye d i) s).modDie d fun x => { x with xeyes := [], lowPending := [] }

theorem dropXeyes_state (s : State) (d : Nat) : (s.dropXeyes d).culvert.state = s.culvert.state :=
  (KeepsCulvert.foldl (fun t i => KeepsCulvert.loseXeye t d i) (s.die d).xeyes s).state

theorem dropXeyes_same (s : State) (d : Nat) : ((s.dropXeyes d).die d).xeyes = [] := by rw [State.dropXeyes, die_modDie_same]

theorem dropXeyes_other (s : State) {d e : Nat} (h : e ≠ d) : ((s.dropXeyes d).die e).xeyes = (s.die e).xeyes := by
  rw [State.dropXeyes, die_modDie_other _ _ h]
  exact (KeepsCulvert.foldl (fun t i => KeepsCulvert.loseXeye t d i) (s.die d).xeyes s).xeyes e

/-- Once some requests of the host are dropped, what goes on and the monitors across the culvert change neither. -/
theorem resolveQueue_keeps (s u : State) (hc : u.culvert = s.culvert) (hd : u.dies = s.dies) (n : Nat) :
    KeepsCulvert s ((u.drainHost.dropMonitors u.drainHost.monCut).countLost n) :=
  (KeepsCulvert.of_eq hc hd).trans ((KeepsCulvert.drainHost u).trans ((KeepsCulvert.dropMonitors u.drainHost _).trans
    ⟨rfl, fun _ => rfl⟩))

/-- The resolution of what waits for the culvert keeps its state, and leaves no record to cross it. -/
theorem culvertResolve_drops (s : State) : s.culvertResolve.culvert.state = s.culvert.state
    ∧ (s.culvertResolve.die 0).xeyes = [] ∧ (s.culvertResolve.die 1).xeyes = [] := by
  let u := (s.dropXeyes 0).dropXeyes 1
  have h : KeepsCulvert u s.culvertResolve := by
    refine resolveQueue_keeps u _ ?_ ?_ _ <;> rfl
  have hs : u.culvert.state = s.culvert.state := (dropXeyes_state ..).trans (dropXeyes_state ..)
  refine ⟨h.state.trans hs, (h.xeyes 0).trans ?_, (h.xeyes 1).trans (dropXeyes_same ..)⟩
  exact (dropXeyes_other _ (by decide)).trans (dropXeyes_same ..)

theorem culvertReset_down (s : State) : s.culvertReset.culvert.state = .down ∧ (s.culvertReset.die 0).xeyes = []
    ∧ (s.culvertReset.die 1).xeyes = [] := by
  obtain ⟨hs, h0, h1⟩ := culvertResolve_drops (s.loseSent.culvertGo .down)
  exact ⟨hs.trans (culvertGo_state ..), h0, h1⟩

section
variable (ht : s.culvert.state = .training) (h0 : (s.die 0).tripped = false) (h1 : (s.die 1).tripped = false)
include ht h0 h1

theorem trainingResult_allLanes : s.trainingResult .allLanes = s.culvertGo .up := by
  simp [State.trainingResult, ht, h0, h1]

theorem trainingResult_halfLanes : s.trainingResult .halfLanes = s.culvertGo .degraded := by
  simp [State.trainingResult, ht, h0, h1]

/-- The third attempt that fails is the last. -/
theorem trainingResult_fails : (s.trainingResult .fails).culvert.state = if 2 ≤ s.culvert.tries then .failed else .training := by
  unfold State.trainingResult
  rw [if_neg (by simp [ht]), if_neg (by simp [h0, h1])]
  dsimp only
  by_cases h : 2 ≤ s.culvert.tries
  · rw [if_pos h, if_pos (by omega)]
    exact (culvertResolve_drops _).1.trans (culvertGo_state ..)
  · rw [if_neg h, if_neg (by omega)]
    exact ht

end

theorem lossOfLock_down (h : s.culvert.state = .up ∨ s.culvert.state = .degraded) :
    s.lossOfLock.culvert.state = .down ∧ s.lossOfLock.mem = s.mem := by
  have hopen : s.culvertOpen = true := by rcases h with h | h <;> simp [State.culvertOpen, h]
  rw [State.lossOfLock, if_pos hopen]
  exact ⟨culvertGo_state .., (culvertGo_closed s (st := .down) nofun nofun).1⟩

/-! ### Waits that have passed their limit (18_link R382) -/

section
variable {gk : Nat} {g : Group} (hg : s.group? gk = some g) (hrun : s.runnable gk g = true)
include hg hrun

theorem culExpire_late {k : Nat} {ig : IssueGroup} (h : s.culLate g = some (k, ig)) : s.culExpire gk = s.culTrap gk g k ig := by
  have hdue : s.culDue gk g = true := by simp [State.culDue, hrun, h]
  simp only [State.culExpire, hg, hdue, Bool.not_true, Bool.false_eq_true, if_false, h]

theorem culExpire_lateAt {pc : Word × Nat} {m : Mask} (hno : s.culLate g = none) (h : s.culLateAt g = some (pc, m)) :
    s.culExpire gk = s.trapAtPc gk m pc 0xE4 0 0 0 := by
  have hdue : s.culDue gk g = true := by simp [State.culDue, hrun, h]
  simp only [State.culExpire, hg, hdue, Bool.not_true, Bool.false_eq_true, if_false, hno, h]

end

theorem modThreads_susp (g : Group) (m : Mask) (f : Thread → Thread) : (g.modThreads m f).susp = g.susp := by
  unfold Group.modThreads
  rfl

/-- The trap of a late issue group, which is suspended no more. -/
theorem culTrap_takes (s : State) (gk : Nat) (g : Group) (k : Nat) (ig : IssueGroup) :
    ∃ u : State, s.culTrap gk g k ig = u.takeTrap gk (lateTrap ig) ∧ ∃ h : Group, u.group? gk = some h ∧ h.susp = g.susp.eraseIdx k := by
  let h : Group := (g.modThreads ig.mask fun t => t.stand ig.hdr ig.pos t.viaBranch t.opMark) |> fun g =>
    { g with susp := g.susp.eraseIdx k }
  exact ⟨s.setGroup gk h, rfl, h, State.group?_setGroup .., congrArg (List.eraseIdx · k) (modThreads_susp ..)⟩

theorem exec_culvertWaitExpiry {d : Nat} (hd : d < 2) (c slot : Nat) (s : State) :
    exec (.culvertWaitExpiry d c slot) s = .next (s.culExpire (groupKey d c slot)) :=
  congrArg Host.Outcome.next (if_neg (by simp; omega))

/-! ### The time bases (19_trail R386, R387) -/

/-- `TB_STAT`: the difference of the time bases, and whether they agree. -/
def tbStat (l r : Nat) : Word :=
  BitVec.ofNat 64 ((r + 65536 - l % 65536) % 65536 + (b2n (decide (l ≤ r + 1) && decide (r ≤ l + 1)) <<< 16))

theorem tbStat_offset (l r : Nat) : fld (tbStat l r) 0 16 = (r + 65536 - l % 65536) % 65536 := by
  have hlt : (r + 65536 - l % 65536) % 65536 < 65536 := Nat.mod_lt _ (by decide)
  simp only [tbStat, fld, bitsOf, BitVec.toNat_ofNat, Nat.shiftLeft_eq, Nat.shiftRight_eq_div_pow]
  generalize (r + 65536 - l % 65536) % 65536 = x at hlt ⊢
  generalize (decide (l ≤ r + 1) && decide (r ≤ l + 1)) = b
  cases b <;> simp only [b2n, if_true, Bool.false_eq_true, if_false] <;> omega

theorem tbStat_same (l r : Nat) : (tbStat l r).getLsbD 16 = true ↔ l ≤ r + 1 ∧ r ≤ l + 1 := by
  have hlt : (r + 65536 - l % 65536) % 65536 < 65536 := Nat.mod_lt _ (by decide)
  have hb : (decide (l ≤ r + 1) && decide (r ≤ l + 1)) = true ↔ l ≤ r + 1 ∧ r ≤ l + 1 := by simp
  rw [← hb]
  simp only [tbStat, BitVec.getLsbD_ofNat, Nat.shiftLeft_eq, Nat.testBit_eq_decide_div_mod_eq]
  generalize (r + 65536 - l % 65536) % 65536 = x at hlt ⊢
  generalize (decide (l ≤ r + 1) && decide (r ≤ l + 1)) = b
  cases b <;> simp [b2n] <;> omega

/-- The state after a comparison, from the one that has its result in `TB_STAT`. -/
def State.slewTo (s : State) (l r : Nat) : State :=
  if decide (l ≤ r + 1) && decide (r ≤ l + 1) then s else { s with slew := some (decide (r < l), 0) }

theorem slewTo_keeps (s : State) (l r : Nat) : (s.slewTo l r).tbNext = s.tbNext ∧ (s.slewTo l r).raw 0x781 = s.raw 0x781 := by
  unfold State.slewTo
  split <;> exact ⟨rfl, rfl⟩

/-- The slew goes towards the left die's time, and starts only where the two differ by more than a tick. -/
theorem slewTo_slew (s : State) (l r : Nat) : (l ≤ r + 1 ∧ r ≤ l + 1 → (s.slewTo l r).slew = s.slew)
    ∧ (r + 1 < l → (s.slewTo l r).slew = some (true, 0)) ∧ (l + 1 < r → (s.slewTo l r).slew = some (false, 0)) := by
  unfold State.slewTo
  refine ⟨fun h => by rw [if_pos (by simpa using h)], fun h => ?_, fun h => ?_⟩
  · rw [if_neg (by simp; omega), decide_eq_true (by omega)]
  · rw [if_neg (by simp; omega), decide_eq_false (by omega)]

theorem timeBaseCompare_compares (hopen : s.culvertOpen = true) (hup : s.endpointDown = false) (h1 : (s.die 1).tripped = false) :
    exec .timeBaseCompare s = .next ((({ s with tbNext := (s.die 0).ticks + usTicks 10 } : State).setRaw 0x781
      (tbStat (s.die 0).ticks (s.die 1).ticks)).slewTo (s.die 0).ticks (s.die 1).ticks) :=
  congrArg Host.Outcome.next (if_neg (by simp [hopen, hup, h1]))

theorem ptmDialog_gives (hup : s.endpointDown = false) (hen : (s.raw 0x782).getLsbD 0 = true) (hdue : s.ptmDue = true)
    (hreg : SMap.sorted s.regs = true) (ns : Word) :
    Answers (.ptmDialog ns) s fun t => t.raw 0x783 = ns ∧ t.raw 0x784 = BitVec.ofNat 64 (s.die 0).ticks
      ∧ fld (t.raw 0x782) 32 32 = (fld (s.raw 0x782) 32 32 + 1) % 4294967296 ∧ (t.raw 0x782).getLsbD 16 = true := by
  have h1 := sorted_setRaw s 0x783 ns hreg
  have h2 := sorted_setRaw _ 0x784 (BitVec.ofNat 64 (s.die 0).ticks) h1
  let u := (s.setRaw 0x783 ns).setRaw 0x784 (BitVec.ofNat 64 (s.die 0).ticks)
  have hu : u.raw 0x782 = s.raw 0x782 := (raw_setRaw_other _ _ (by decide)).trans (raw_setRaw_other _ _ (by decide))
  refine ⟨u.setRaw 0x782 (setBits (setBits (u.raw 0x782) 16 1 1) 32 32 (u.rf 0x782 32 32 + 1)),
    congrArg Host.Outcome.next (if_neg (by simp [hup, hen, hdue])), ?_, ?_, ?_, ?_⟩
  · exact ((raw_setRaw_other _ _ (by decide)).trans (raw_setRaw_other _ _ (by decide))).trans (raw_setRaw_same _ _ _ hreg)
  · exact (raw_setRaw_other _ _ (by decide)).trans (raw_setRaw_same _ _ _ h1)
  · rw [raw_setRaw_same _ _ _ h2, fld_setBits_same _ _ (by decide), State.rf, hu]
    rfl
  · rw [raw_setRaw_same _ _ _ h2, getLsbD_setBits _ _ _ _ (by decide), if_neg (by decide)]
    exact getLsbD_setBits_one _ (by decide)

end

/-- Settles O56: the culvert enters its states by one operation, whatever that lets go on or drops. -/
theorem linkEvents : Obligations.LinkEvents := by
  unfold Obligations.LinkEvents
  intro s
  dsimp only
  refine ⟨fun ⟨hb, hd⟩ hne => ?train, fun ⟨hb, hd⟩ heq => ?training, fun ⟨hb, hd⟩ => ?reset, fun ht h0 h1 => ?result,
    fun h => ⟨_, rfl, lossOfLock_down h⟩, fun gk g k ig d c slot hgk hd hg hrun hlate => ?late,
    fun gk g pc m d c slot hgk hd hg hrun hno hlate => ?lateAt, fun k hk => ?host, fun hopen hup h1 hreg => ?compare,
    fun ns hup hen hdue hreg => ptmDialog_gives hup hen hdue hreg ns, fun ns h => ?noDialog⟩
  case train =>
    exact ⟨_, congrArg Host.Outcome.next (hostCommand_of_booted hb hd _), culvertTrain_state s, culvertTrain_begins hne⟩
  case training =>
    exact congrArg Host.Outcome.next ((hostCommand_of_booted hb hd _).trans (if_pos (by simp [heq])))
  case reset => exact ⟨_, congrArg Host.Outcome.next (hostCommand_of_booted hb hd _), culvertReset_down s⟩
  case result =>
    refine ⟨⟨_, rfl, ?_⟩, ⟨_, rfl, ?_⟩, ⟨_, rfl, trainingResult_fails ht h0 h1⟩⟩
    · exact trainingResult_allLanes ht h0 h1 ▸ culvertGo_state ..
    · exact trainingResult_halfLanes ht h0 h1 ▸ culvertGo_state ..
  case late =>
    subst hgk
    exact ⟨_, (exec_culvertWaitExpiry hd c slot s).trans (congrArg Host.Outcome.next (culExpire_late hg hrun hlate)),
      culTrap_takes s _ g k ig⟩
  case lateAt =>
    subst hgk
    exact (exec_culvertWaitExpiry hd c slot s).trans (congrArg Host.Outcome.next (culExpire_lateAt hg hrun hno hlate))
  case host =>
    refine congrArg Host.Outcome.next ?_
    rw [if_pos (by decide), hk]
  case compare =>
    refine ⟨_, timeBaseCompare_compares hopen hup h1, ?_⟩
    dsimp only
    obtain ⟨htb, hraw⟩ := slewTo_keeps (({ s with tbNext := (s.die 0).ticks + usTicks 10 } : State).setRaw 0x781
      (tbStat (s.die 0).ticks (s.die 1).ticks)) (s.die 0).ticks (s.die 1).ticks
    rw [hraw.trans (raw_setRaw_same _ _ _ hreg)]
    have hslew := slewTo_slew (({ s with tbNext := (s.die 0).ticks + usTicks 10 } : State).setRaw 0x781
      (tbStat (s.die 0).ticks (s.die 1).ticks)) (s.die 0).ticks (s.die 1).ticks
    rw [State.setRaw_slew] at hslew
    exact ⟨htb, tbStat_offset (s.die 0).ticks (s.die 1).ticks, tbStat_same (s.die 0).ticks (s.die 1).ticks, hslew⟩
  case noDialog =>
    refine congrArg Host.Outcome.next (if_pos ?_)
    rcases h with h | h <;> (rw [h]; simp)

end Sys2Proof.Machine
end

section
/-! PROOFS. What leaves the course of a die's periods alone: memory, registers, nodes, buckets, maps and reports (O54). -/

namespace Sys2Proof.Machine

/-- A die's course: where it stands in its band period, what it shows, and the records that are under way to its buckets. -/
def Die.course (x : Die) : Nat × Nat × Nat × Nat × SMap Nat × Word × List Insertion × List Insertion :=
  (x.phase, x.periodStart, x.period, x.boundaries, x.shown, x.lateBands, x.xeyes, x.insertions)

/-- Each die's course is the same. -/
structure KeepsCourse (s t : State) : Prop where
  die : ∀ e, (t.die e).course = (s.die e).course

namespace KeepsCourse

theorem refl (s : State) : KeepsCourse s s := ⟨fun _ => rfl⟩

theorem trans {s t u : State} (h : KeepsCourse s t) (k : KeepsCourse t u) : KeepsCourse s u :=
  ⟨fun e => (k.die e).trans (h.die e)⟩

theorem of_dies {s t : State} (h : t.dies = s.dies) : KeepsCourse s t := ⟨fun e => by simp only [State.die, h]⟩

theorem foldl {α : Type} {f : State → α → State} (hf : ∀ s a, KeepsCourse s (f s a)) (l : List α) (s : State) :
    KeepsCourse s (l.foldl f s) :=
  List.foldlRecOn (motive := KeepsCourse s) l f (refl s) fun t ht a _ => ht.trans (hf t a)

theorem modDie (s : State) (d : Nat) {f : Die → Die} (hf : (f (s.die d)).course = (s.die d).course) : KeepsCourse s (s.modDie d f) := by
  refine ⟨fun e => ?_⟩
  by_cases he : e = d
  · rw [he, die_modDie_same, hf]
  · rw [die_modDie_other _ _ he]

theorem setDie (s : State) (d : Nat) {x : Die} (hx : x.course = (s.die d).course) : KeepsCourse s (s.setDie d x) :=
  modDie s d (f := fun _ => x) hx

section
variable {s t : State} (h : KeepsCourse s t) (e : Nat)
include h

theorem phase : (t.die e).phase = (s.die e).phase := congrArg (·.1) (h.die e)
theorem periodStart : (t.die e).periodStart = (s.die e).periodStart := congrArg (·.2.1) (h.die e)
theorem period : (t.die e).period = (s.die e).period := congrArg (·.2.2.1) (h.die e)
theorem boundaries : (t.die e).boundaries = (s.die e).boundaries := congrArg (·.2.2.2.1) (h.die e)
theorem shown : (t.die e).shown = (s.die e).shown := congrArg (·.2.2.2.2.1) (h.die e)
theorem lateBands : (t.die e).lateBands = (s.die e).lateBands := congrArg (·.2.2.2.2.2.1) (h.die e)
theorem xeyes : (t.die e).xeyes = (s.die e).xeyes := congrArg (·.2.2.2.2.2.2.1) (h.die e)
theorem insertions : (t.die e).insertions = (s.die e).insertions := congrArg (·.2.2.2.2.2.2.2) (h.die e)

end

/-! ### Memory, the trail and reports -/

theorem writeHome (s : State) (pa : Nat) (bs : List Byte) : KeepsCourse s (s.writeHome pa bs) := by
  obtain ⟨_, _, _, _, h⟩ := writeHome_changes s pa bs
  rw [h]
  exact of_dies rfl

theorem trailAt (s : State) (d time kind ctx index : Nat) (payload : List Byte) :
    KeepsCourse s (s.trailAt d time kind ctx index payload) := by
  unfold State.trailAt
  dsimp only
  split
  · exact refl s
  · split
    · exact (writeHome ..).trans (modDie _ _ rfl)
    · exact modDie _ _ rfl

theorem extendMeas (s : State) (i : Nat) (m : List Byte) : KeepsCourse s (s.extendMeas i m) := by
  unfold State.extendMeas State.trail
  refine KeepsCourse.trans ?_ (trailAt ..)
  exact of_dies rfl

theorem report (s : State) (d : Nat) (mk : Nat → Report) : KeepsCourse s (s.report d mk) := ⟨fun e => by rw [report_die]; rfl⟩

/-! ### Buckets and bands (17_sample R355, R357) -/

theorem modBand (s : State) (d p : Nat) (f : Band → Band) : KeepsCourse s (s.modBand d p f) := by
  unfold State.modBand
  exact modDie _ _ rfl

theorem moveDsb (s old : State) (d : Nat) : KeepsCourse s (s.moveDsb old d) := by
  unfold State.moveDsb
  split
  · exact refl s
  · exact of_dies rfl

theorem setBucket (s : State) (d t : Nat) (b : Bucket) : KeepsCourse s (s.setBucket d t b) := by
  unfold State.setBucket
  exact KeepsCourse.trans (modDie _ _ rfl) (moveDsb ..)

theorem insertLive (s : State) (d t : Nat) (r : SampleRec) : KeepsCourse s (s.insertLive d t r) := by
  unfold State.insertLive
  dsimp only
  split
  · exact (modBand ..).trans (setBucket ..)
  · exact setBucket ..

theorem putRecord (s : State) (d t : Nat) (r : SampleRec) : KeepsCourse s (s.putRecord d t r) := by
  refine (modDie s d rfl : KeepsCourse s (s.modDie d fun x => { x with applied := x.applied + 1 })).trans ?_
  unfold State.putRecord
  dsimp only
  split
  · exact refl _
  · split
    · exact insertLive ..
    · split
      · exact setBucket ..
      · exact modBand ..

theorem arrive (s : State) (d : Nat) (i : Insertion) : KeepsCourse s (s.arrive d i) := by
  unfold State.arrive
  dsimp only
  split
  · exact setBucket ..
  · exact putRecord ..

theorem gateRise (s : State) (d : Nat) : KeepsCourse s (s.gateRise d) := by
  refine foldl (fun u p => ?_) _ s
  refine (setBucket u ..).trans (foldl (fun v r => ?_) _ _)
  dsimp only
  split
  · exact setBucket ..
  · exact insertLive ..

theorem cutTrail (s : State) (d t : Nat) (old : List Nat) : KeepsCourse s (s.cutTrail d t old) := foldl (fun u _ => trailAt u ..) _ s

theorem applyBuckets (s : State) (d : Nat) : KeepsCourse s (s.applyBuckets d) := by
  unfold State.applyBuckets
  exact KeepsCourse.trans (modDie _ _ rfl) (moveDsb ..)

theorem handOn (s : State) (d : Nat) : KeepsCourse s (s.handOn d) := by
  unfold State.handOn
  dsimp only
  split
  · exact refl s
  · exact (((modBand ..).trans (foldl (fun u _ => modBand u ..) _ _)).trans (foldl (fun u _ => modBand u ..) _ _)).trans (modBand ..)

/-! ### Translation (08_page R185, R186) -/

theorem walkGo (s : State) (d x va fuel t lvl : Nat) : KeepsCourse s (s.walkGo d x va fuel t lvl).2 := by
  induction fuel generalizing s t lvl with
  | zero => exact refl s
  | succ n ih =>
    obtain ⟨u, hu, hgo⟩ := walkGo_succ s d x va n t lvl
    have hkeeps : KeepsCourse s u := by
      rcases hu with rfl | rfl
      · exact refl u
      · exact of_dies rfl
    rcases hgo with hgo | ⟨e, t', lvl', hgo⟩
    · exact hgo ▸ hkeeps
    · exact hgo ▸ (hkeeps.trans (modDie u d rfl)).trans (ih ..)

theorem walkVa (s : State) (d x va : Nat) : KeepsCourse s (s.walkVa d x va).2 := by
  unfold State.walkVa
  dsimp only
  split
  · exact refl s
  · exact walkGo ..

theorem setAccessed (s : State) (slot : Nat) (e : Word) (kind : Nat) : KeepsCourse s (s.setAccessed slot e kind).2 := by
  unfold State.setAccessed State.orHome State.wakeMonitors
  dsimp only
  split
  · exact refl s
  · split <;> exact of_dies rfl

theorem touchPages (s : State) (d x va n kind : Nat) : KeepsCourse s (s.touchPages d x va n kind) := by
  unfold State.touchPages
  split
  · exact refl s
  · refine foldl (fun u k => ?_) _ _
    have hwalk := walkVa u d x ((va / 4096 + k) * 4096)
    generalize u.walkVa d x ((va / 4096 + k) * 4096) = w at hwalk ⊢
    obtain ⟨w, v⟩ := w
    cases w with
    | leaf e lvl slot =>
      dsimp only
      split
      · exact hwalk
      · exact hwalk.trans (setAccessed ..)
    | _ => exact hwalk

theorem touchImage (s : State) (d x : Nat) (image : Word) : KeepsCourse s (s.touchImage d x image) := by
  unfold State.touchImage
  split
  · exact refl s
  · dsimp only
    split
    · exact touchPages ..
    · exact (touchPages ..).trans (touchPages ..)

/-! ### Nodes of the device's own (17_sample R346) -/

theorem modNode (s : State) (k : Nat) (f : Node → Node) : KeepsCourse s (s.modNode k f) := of_dies (State.modNode_dies ..)

theorem nodeReady (s : State) (k : Nat) (n : Node) (d : Nat) : KeepsCourse s (s.nodeReady k n d) := by
  unfold State.nodeReady
  dsimp only
  split <;> exact of_dies rfl

theorem measureImage (s : State) (d x : Nat) (k : Kernel) : KeepsCourse s (s.measureImage d x k) := by
  unfold State.measureImage
  dsimp only
  split
  · exact refl s
  · split
    · exact (extendMeas ..).trans (of_dies rfl)
    · exact extendMeas ..

theorem deviceNode (s : State) (d : Nat) (kind : NodeKind) (image : Word) (prio id : Nat) :
    KeepsCourse s (s.deviceNode d kind image prio id).2 := by
  unfold State.deviceNode
  split
  · exact (touchImage ..).trans (report ..)
  · next k _ =>
    refine KeepsCourse.trans ?_ (nodeReady ..)
    exact ((measureImage s d (s.smpCtx d) k).trans (touchImage ..)).trans (of_dies rfl)

theorem makeDraws (s : State) (d p : Nat) : KeepsCourse s (s.makeDraws d p) := by
  unfold State.makeDraws
  split
  · exact refl s
  · dsimp only
    generalize gather _ _ _ _ = w
    obtain ⟨ws, n⟩ := w
    exact setDie _ _ (by simp only [Die.course])

theorem copyShown (s : State) (d b : Nat) : KeepsCourse s (s.copyShown d b) := of_dies rfl

theorem enqueuePeriod (s : State) (d : Nat) : KeepsCourse s (s.enqueuePeriod d) := by
  unfold State.enqueuePeriod
  extract_lets p rk u pk prio v
  split
  · exact (modBand ..).trans (report ..)
  · have hu : KeepsCourse s u := by
      unfold u
      split
      · exact refl s
      · have hn := deviceNode s d (.band p (s.periodEnd d).toNat) (kernImage rk) 0 p
        generalize State.deviceNode s d _ _ 0 _ = w at hn ⊢
        obtain ⟨_ | k, w⟩ := w
        · exact hn
        · dsimp only
          exact hn.trans ((modBand w d p _).trans (copyShown ..))
    have hv : KeepsCourse u v := by
      unfold v
      split
      · exact refl u
      · exact (deviceNode ..).trans (modDie _ _ rfl)
    exact (hu.trans hv).trans (makeDraws ..)

/-! ### Settings that a boundary brings (01_device R17, 17_sample R361, R366) -/

theorem setRaw (s : State) (n : Nat) (v : Word) : KeepsCourse s (s.setRaw n v) := of_dies rfl

theorem applyRegs (s : State) (d : Nat) : KeepsCourse s (s.applyRegs d) := by
  unfold State.applyRegs
  dsimp only
  generalize hrun : List.foldl _ _ _ = u
  have hu : KeepsCourse s u := by
    rw [← hrun]
    refine KeepsCourse.trans ?_ (foldl (fun v w => setRaw v ..) _ _)
    exact of_dies rfl
  split
  · exact hu
  · exact (hu.trans (modDie _ _ rfl)).trans (moveDsb ..)

theorem applyMaps (s : State) (d : Nat) : KeepsCourse s (s.applyMaps d) := by
  unfold State.applyMaps
  dsimp only
  refine KeepsCourse.trans ?_ (modDie _ _ rfl)
  refine KeepsCourse.trans ?_ (foldl (fun u k => ?_) _ _)
  · exact of_dies rfl
  · repeat' split
    case isFalse.isFalse.isFalse.isTrue => exact setRaw ..
    all_goals exact setDie _ _ rfl

theorem modeChange (s : State) (t : Nat) : KeepsCourse s (s.modeChange t) := by
  unfold State.modeChange
  dsimp only
  refine KeepsCourse.trans ?_ ((trailAt ..).trans (trailAt ..))
  refine KeepsCourse.trans ?_ (extendMeas ..)
  refine KeepsCourse.trans ?_ (foldl (fun u c => ?_) _ _)
  · refine KeepsCourse.trans ?_ (foldl (fun u d => ?_) _ _)
    · exact of_dies rfl
    · exact modDie u d rfl
  · exact of_dies rfl

theorem boundaryMode (s : State) (t len : Nat) : KeepsCourse s (s.boundaryMode t len) := by
  unfold State.boundaryMode
  split
  · exact refl s
  · split
    · exact of_dies rfl
    · split
      · exact (modeChange ..).trans (gateRise ..)
      · exact refl s

theorem takeRate (s : State) (d rate : Nat) : KeepsCourse s (s.takeRate d rate) := by
  unfold State.takeRate
  dsimp only
  split
  · exact KeepsCourse.trans (modDie _ _ rfl) (modNode ..)
  · exact modDie _ _ rfl

theorem rateBoundary (s : State) (d : Nat) : KeepsCourse s (s.rateBoundary d) := by
  unfold State.rateBoundary
  dsimp only
  repeat' split
  · exact refl s
  · exact modDie _ _ rfl
  · exact KeepsCourse.trans (modDie _ _ rfl) (takeRate ..)
  · exact KeepsCourse.trans (modDie _ _ rfl) (modDie _ _ rfl)

theorem epochDue (s : State) (d t len : Nat) : KeepsCourse s (s.epochDue d t len) := by
  unfold State.epochDue
  split
  · exact refl s
  · split
    · exact of_dies rfl
    · exact refl s

theorem periodTrail (s : State) (d t : Nat) : KeepsCourse s (s.periodTrail d t) := by
  unfold State.periodTrail
  exact ((trailAt ..).trans (trailAt ..)).trans (modDie _ _ rfl)

end KeepsCourse

end Sys2Proof.Machine
end

section
/-! PROOFS. Insertions, marks, waves, and the band period from its deadline to its boundary (O54). -/

namespace Sys2Proof.Machine

section
variable {s : State} {d : Nat}

/-! ### Records at their buckets (17_sample R355, R367) -/

theorem setBucket_mem (s : State) (d t : Nat) (b : Bucket) : (s.setBucket d t b).mem = s.mem := by
  unfold State.setBucket State.moveDsb
  split <;> rfl

theorem insertLive_mem (s : State) (d t : Nat) (r : SampleRec) : (s.insertLive d t r).mem = s.mem := by
  unfold State.insertLive
  dsimp only
  rw [setBucket_mem]
  split <;> rfl

theorem putRecord_mem (s : State) (d t : Nat) (r : SampleRec) : (s.putRecord d t r).mem = s.mem := by
  unfold State.putRecord
  dsimp only
  split
  · rfl
  · split
    · exact insertLive_mem ..
    · split
      · exact setBucket_mem ..
      · rfl

theorem arrive_mem (s : State) (d : Nat) (i : Insertion) : (s.arrive d i).mem = s.mem := by
  unfold State.arrive
  dsimp only
  split
  · exact setBucket_mem ..
  · exact putRecord_mem ..

theorem xeyeReceive_takes {i : Insertion} {r : List Insertion} (h : (s.die d).xeyes = i :: r) (hopen : s.culvertOpen = true) :
    ((s.xeyeReceive d).die d).xeyes = r ∧ (s.xeyeReceive d).mem = s.mem := by
  unfold State.xeyeReceive
  simp only [h, hopen, Bool.not_true, Bool.false_eq_true, if_false]
  exact ⟨(KeepsCourse.xeyes (.arrive ..) d).trans (by rw [die_modDie_same]), arrive_mem ..⟩

/-- The buckets of a die are those that it lists. -/
theorem bucket_of_buckets {t : State} (hb : (t.die d).buckets = (s.die d).buckets) (hr : t.regs = s.regs) (k : Nat) :
    t.bucket d k = s.bucket d k := by
  simp only [State.bucket, State.bucketDefault, State.cap, State.rf, State.raw, hb, hr]

theorem bucket_modDie {f : Die → Die} (hf : (f (s.die d)).buckets = (s.die d).buckets) (k : Nat) : (s.modDie d f).bucket d k = s.bucket d k :=
  bucket_of_buckets (s := s) (t := s.modDie d f) (by rw [die_modDie_same, hf]) rfl k

theorem bucket_setBucket (s : State) (d k : Nat) (b : Bucket) : (s.setBucket d k b).bucket d k = b := by
  have hset : (s.modDie d fun x => { x with buckets := SMap.set x.buckets k b }).bucket d k = b := by
    simp only [State.bucket, SMap.getD, die_modDie_same, SMap.get?_set_same, Option.getD_some]
  unfold State.setBucket State.moveDsb
  split
  · exact hset
  · exact (bucket_of_buckets rfl rfl k).trans hset

/-- A record that joins an empty live set is all of it. -/
theorem insertLive_empty {k : Nat} (hlive : (s.bucket d k).live = []) (hlim : 1 ≤ (s.bucket d k).limit) (r : SampleRec) :
    ((s.insertLive d k r).bucket d k).live = [r] := by
  unfold State.insertLive
  dsimp only
  generalize hu : (if s.isLate d k r = true then _ else s) = u
  have hb : u.bucket d k = s.bucket d k := by
    rw [← hu]
    split
    · unfold State.modBand
      exact bucket_modDie rfl k
    · rfl
  rw [bucket_setBucket, hb, hlive]
  exact List.take_of_length_le hlim

/-- A record that finds an unlocked, empty bucket of a die without cut-offs joins its live set. -/
theorem arrive_live {i : Insertion} (hown : (s.bucket d (recTile i.smp)).owner = none) (hcut : s.cut d = false)
    (hlive : (s.bucket d (recTile i.smp)).live = []) (hdef : (s.bucket d (recTile i.smp)).deferred = [])
    (hlim : 1 ≤ (s.bucket d (recTile i.smp)).limit) : ((s.arrive d i).bucket d (recTile i.smp)).live = [i.smp] := by
  have hgate : belowGate (s.gate d (recTile i.smp / 240)) (recTime i.smp) = true := by simp [State.gate, hcut, belowGate]
  have hb := bucket_modDie (s := s) (d := d) (f := fun x => { x with applied := x.applied + 1 }) rfl (recTile i.smp)
  simp only [State.arrive, hown, Option.isSome_none, Bool.false_eq_true, if_false, State.putRecord, hlive, hdef, List.contains_nil,
    Bool.or_self, hgate, if_true]
  exact insertLive_empty (hb ▸ hlive) (hb ▸ hlim) i.smp

theorem sampleInsertion_one {i : Insertion} (h : (s.die d).insertions = [i]) :
    ∃ u : State, s.sampleInsertion d = (u.modDie d fun x => { x with insertions := [] }).arrive d i
      ∧ u.dies = s.dies ∧ u.regs = s.regs ∧ u.mode = s.mode := by
  refine ⟨{ s with choice := s.choice + 1 }, ?_, rfl, rfl, rfl⟩
  simp only [State.sampleInsertion, h, List.isEmpty_cons, Bool.false_eq_true, if_false, State.pick, List.length_singleton, Nat.mod_one,
    List.getElem?_cons_zero, List.eraseIdx_cons_zero]

theorem sampleInsertion_live {i : Insertion} (h : (s.die d).insertions = [i]) (hown : (s.bucket d (recTile i.smp)).owner = none)
    (hcut : s.cut d = false) (hlive : (s.bucket d (recTile i.smp)).live = []) (hdef : (s.bucket d (recTile i.smp)).deferred = [])
    (hlim : 1 ≤ (s.bucket d (recTile i.smp)).limit) : ((s.sampleInsertion d).die d).insertions = []
      ∧ ((s.sampleInsertion d).bucket d (recTile i.smp)).live = [i.smp] := by
  obtain ⟨u, hrun, hdies, hregs, hmode⟩ := sampleInsertion_one h
  have hb : (u.modDie d fun x => { x with insertions := [] }).bucket d (recTile i.smp) = s.bucket d (recTile i.smp) :=
    (bucket_modDie rfl _).trans (bucket_of_buckets (by simp only [State.die, hdies]) hregs _)
  have hcut' : (u.modDie d fun x => { x with insertions := [] }).cut d = false := by
    refine Eq.trans ?_ hcut
    change (u.mode || bitOf (u.raw (0x70C + d)).toNat 60) = (s.mode || bitOf (s.raw (0x70C + d)).toNat 60)
    simp only [State.raw, hregs, hmode]
  rw [hrun]
  refine ⟨(KeepsCourse.insertions (.arrive ..) d).trans (by rw [die_modDie_same]), ?_⟩
  exact arrive_live (hb ▸ hown) hcut' (hb ▸ hlive) (hb ▸ hdef) (hb ▸ hlim)

/-! ### Low-water marks (17_sample R350) -/

theorem sendMark_sends (hd : d < 2) (h : s.canSendMark d = true) : ((s.sendMark d).die d).lowSent = s.lowMark d
    ∧ ((s.sendMark d).die (1 - d)).lowPending = (s.die (1 - d)).lowPending ++ [(s.lowMark d, (s.die (1 - d)).xeyes.length)] := by
  have hne : 1 - d ≠ d := by omega
  unfold State.sendMark
  rw [if_neg (by simp [h]; omega)]
  dsimp only
  rw [die_modDie_other _ _ hne.symm, die_modDie_same, die_modDie_same, die_modDie_other _ _ hne]
  exact ⟨rfl, rfl⟩

theorem markArrives_first {m : Nat} {r : List (Nat × Nat)} (h : (s.die d).lowPending = (m, 0) :: r) (hopen : s.culvertOpen = true) :
    s.markArrives d = s.modDie d fun x => { x with lowPeer := m, lowPending := r } := by
  simp only [State.markArrives, h, hopen, if_true]

/-! ### Waves (17_sample R349) -/

theorem Wave.bytes_length (w : Wave) : w.bytes.length = 512 := by
  simp only [Wave.bytes, List.length_take, List.length_append, List.length_replicate]
  omega

/-- A wave whose kind has no kernel is written, and no node follows. -/
theorem waveWrite_writes {w : Wave} {rest : List Wave} {p : Phys} {u : State} (hw : (s.die d).waves = w :: rest)
    (hcan : s.canWave d = true)
    (htr : s.deviceTranslate d (s.smpCtx d) (s.base (0x70A + d) + 512 * s.waveSlot d w.num) 1 = (.ok p, u))
    (hk : (u.raw (0x706 + 2 * d + b2n w.kind)).getLsbD 0 = false) :
    s.waveWrite d = (u.writeHome p.pa w.bytes).modDie d fun x => { x with
      waves := rest, issuedDraws := x.issuedDraws + w.draws.length, issuedAll := x.issuedAll + BitVec.ofNat 64 w.draws.length } := by
  have hraw : ((u.writeHome p.pa w.bytes).modDie d fun x => { x with
      waves := rest, issuedDraws := x.issuedDraws + w.draws.length,
      issuedAll := x.issuedAll + BitVec.ofNat 64 w.draws.length }).raw (0x706 + 2 * d + b2n w.kind)
      = u.raw (0x706 + 2 * d + b2n w.kind) := by
    obtain ⟨_, _, _, _, h⟩ := writeHome_changes u p.pa w.bytes
    rw [h]
    rfl
  unfold State.waveWrite
  simp only [hw, hcan, Bool.not_true, Bool.false_eq_true, if_false, htr]
  exact if_pos (by rw [hraw, hk]; rfl)

/-! ### Limits, deadlines and scans (17_sample R356, R358, 18_link R383) -/

theorem startOfScan_scans (hd : d < 2) (h : (s.die d).phase = 1) :
    let b := (s.die d).period % 240
    let on := (s.die d).dispOn == 2 && ((s.die d).scanning || b == 0)
    s.startOfScan d = s.modDie d fun x => { x with phase := 2, scanning := on, scan := if on then some (b, s.shownCells d b) else none } :=
  if_neg (by simp [h, hd])

/-- A die once its band has been judged at its deadline: a retired one is shown, in place of copy `idx`, and another one is late. -/
def Die.judged (x : Die) (idx : Nat) : Die :=
  let b := x.band x.period
  { x with
    shown := if b.due && b.retired then SMap.put x.shown 0 (x.period % 240) (1 - idx) else x.shown
    lateBands := x.lateBands + (if b.due && !b.retired then 1 else 0) }

theorem Die.course_late {x y : Die} (h : x.course = y.course) (n : Word) :
    { x with lateBands := x.lateBands + n : Die }.course = { y with lateBands := y.lateBands + n : Die }.course := by
  simp only [Die.course, Prod.mk.injEq] at h ⊢
  simp only [h, and_self]

theorem Die.course_phase {x y : Die} (h : x.course = y.course) (n : Nat) :
    { x with phase := n : Die }.course = { y with phase := n : Die }.course := by
  simp only [Die.course, Prod.mk.injEq] at h ⊢
  simp only [h, and_self]

theorem KeepsCourse.postEngine (s : State) (cl : Nat) (r : EvRec) : KeepsCourse s (s.postEngine cl r) := by
  unfold State.postEngine
  split <;> exact .of_dies rfl

theorem bandDeadline_course (hd : d < 2) (hph : (s.die d).phase = 0) (hover : s.periodOver d = true) :
    ((s.bandDeadline d).die d).course
      = { (s.die d).judged (s.shownIdx d ((s.die d).period % 240)) with phase := 1 : Die }.course := by
  unfold State.bandDeadline
  extract_lets x q b band ctx old s1 s2 s3 w v
  rw [if_neg (by simp [x, hph, hover, hd])]
  have hw : (w.die d).course = (x.judged (s.shownIdx d b)).course := by
    unfold w
    cases hdue : (x.band x.period).due with
    | false =>
      rw [if_pos (by decide : (!false) = true)]
      simp only [Die.course, Die.judged, hdue, Bool.false_and, Bool.false_eq_true, if_false, add_zero]
      rfl
    | true =>
      rw [if_neg (by decide)]
      cases hret : (x.band x.period).retired with
      | true =>
        rw [if_pos (rfl : true = true), (KeepsCourse.trailAt ..).die d, die_modDie_same]
        simp only [Die.course, Die.judged, hdue, hret, Bool.and_self, Bool.not_true, Bool.and_false, Bool.false_eq_true, if_true, if_false,
          add_zero]
        rfl
      | false =>
        have h3 : KeepsCourse s s3 := ((KeepsCourse.trailAt ..).trans (KeepsCourse.postEngine ..)).trans (.setRaw ..)
        rw [if_neg (by decide : ¬ false = true), die_modDie_same, Die.course_late (h3.die d) 1]
        simp only [Die.course, Die.judged, hdue, hret, Bool.and_false, Bool.not_false, Bool.and_self, Bool.false_eq_true, if_true, if_false]
        rfl
  have hend : KeepsCourse v ((v.cutTrail d (v.endTick d) old).gateRise d) := (KeepsCourse.cutTrail ..).trans (.gateRise ..)
  have hv : v.die d = { w.die d with phase := 1 } := die_modDie_same ..
  rw [hend.die d, hv]
  exact Die.course_phase hw 1

/-- At the deadline the band is shown if it has retired, and late if it is due and has not. -/
theorem bandDeadline_judges (hd : d < 2) (hph : (s.die d).phase = 0) (hover : s.periodOver d = true)
    (hs : SMap.sorted (s.die d).shown = true) :
    let q := (s.die d).period
    let b := (s.die d).band q
    ((s.bandDeadline d).die d).phase = 1 ∧ ((s.bandDeadline d).die d).period = q
      ∧ (s.bandDeadline d).shownIdx d (q % 240) = (if b.due && b.retired then 1 - s.shownIdx d (q % 240) else s.shownIdx d (q % 240))
      ∧ ((s.bandDeadline d).die d).lateBands = (s.die d).lateBands + (if b.due && !b.retired then 1 else 0) := by
  have h := bandDeadline_course hd hph hover
  simp only [Die.course, Die.judged, Prod.mk.injEq] at h
  obtain ⟨hphase, -, hperiod, -, hshown, hlate, -, -⟩ := h
  refine ⟨hphase, hperiod, ?_, hlate⟩
  rw [State.shownIdx, hshown]
  split
  · rw [SMap.getD_put _ _ _ hs, if_pos rfl]
  · rfl

/-! ### The boundary (18_link R383) -/

/-- A restart gives a die new numbers, and leaves its periods where they are in time. -/
theorem restart_time (s : State) (d : Nat) : ((s.restart d).die d).phase = (s.die d).phase
    ∧ ((s.restart d).die d).periodStart = (s.die d).periodStart ∧ ((s.restart d).die d).boundaries = (s.die d).boundaries := by
  unfold State.restart
  extract_lets cuts u
  have hu : u.dies = s.dies := by
    unfold u
    split
    · split
      · rfl
      · unfold State.epochLater
        split <;> rfl
    · rfl
  rw [die_modDie_same]
  simp only [State.die, hu, and_self]

theorem bandBoundary_begins (hd : d < 2) (hph : (s.die d).phase = 2) : ((s.bandBoundary d).die d).phase = 0
    ∧ ((s.bandBoundary d).die d).periodStart = (s.die d).periodStart + periodLen (s.die d).rate
    ∧ ((s.bandBoundary d).die d).boundaries = (s.die d).boundaries + 1 := by
  unfold State.bandBoundary
  extract_lets x len left t old s1 s2 again s3 s4 s5 s6 s7
  rw [if_neg (by simp [x, hph, hd])]
  have hbefore : KeepsCourse s (s2.rateBoundary d) :=
    ((KeepsCourse.periodTrail s d t).trans (.epochDue ..)).trans (.rateBoundary ..)
  have hs3 : (s3.die d).phase = 0 ∧ (s3.die d).periodStart = x.periodStart + len ∧ (s3.die d).boundaries = x.boundaries + 1 := by
    unfold s3
    rw [die_modDie_same]
    exact ⟨rfl, congrArg (· + len) (hbefore.periodStart d), congrArg (· + 1) (hbefore.boundaries d)⟩
  have hs4 : (s4.die d).phase = (s3.die d).phase ∧ (s4.die d).periodStart = (s3.die d).periodStart
      ∧ (s4.die d).boundaries = (s3.die d).boundaries := by
    unfold s4
    split
    · exact restart_time s3 d
    · exact ⟨rfl, rfl, rfl⟩
  have hs7 : KeepsCourse s4 s7 := by
    have hs6 : KeepsCourse s4 s6 := (KeepsCourse.modDie s4 d rfl).trans ((KeepsCourse.applyMaps ..).trans (.applyRegs ..))
    unfold s7
    split
    · exact hs6.trans (.boundaryMode ..)
    · exact hs6
  generalize (if again = true then [] else old) = old'
  have hend : KeepsCourse s4 ((((s7.applyBuckets d).cutTrail d t old').gateRise d |>.enqueuePeriod d).handOn d) :=
    hs7.trans ((KeepsCourse.applyBuckets ..).trans ((KeepsCourse.cutTrail ..).trans ((KeepsCourse.gateRise ..).trans
      ((KeepsCourse.enqueuePeriod ..).trans (.handOn ..)))))
  obtain ⟨hp3, hst3, hb3⟩ := hs3
  obtain ⟨hp4, hst4, hb4⟩ := hs4
  exact ⟨(hend.phase d).trans (hp4.trans hp3), (hend.periodStart d).trans (hst4.trans hst3), (hend.boundaries d).trans (hb4.trans hb3)⟩

end

/-- Settles O54: each event by its own branch; what it lets into the buckets, and what a boundary brings, leaves the die's course be. -/
theorem sampleEvents : Obligations.SampleEvents := by
  unfold Obligations.SampleEvents
  intro s d hd
  refine ⟨fun i h hown hcut hlive hdef hlim => ⟨_, rfl, sampleInsertion_live h hown hcut hlive hdef hlim⟩,
    fun i r h hopen => ⟨_, rfl, xeyeReceive_takes h hopen⟩, fun h => ⟨_, rfl, sendMark_sends hd h⟩,
    fun m r h hopen => congrArg Host.Outcome.next (markArrives_first h hopen),
    fun w rest p u hw hcan htr hk hwf => ?wave, fun h => congrArg Host.Outcome.next (if_pos h),
    fun hph hover hs => ⟨_, rfl, bandDeadline_judges hd hph hover hs⟩,
    fun hph => congrArg Host.Outcome.next (startOfScan_scans hd hph), fun hph => ⟨_, rfl, bandBoundary_begins hd hph⟩⟩
  case wave =>
    refine ⟨_, congrArg Host.Outcome.next (waveWrite_writes hw hcan htr hk), ?_, by rw [die_modDie_same]⟩
    have hbytes := writeHome_bytes hwf p.pa w.bytes
    rwa [Wave.bytes_length] at hbytes

end Sys2Proof.Machine
end

section
/-! PROOFS. Requests of the host on BAR 2, the referee port, and the input window (O58). -/

namespace Sys2Proof.Machine

/-! ### Bytes and numbers -/

theorem leBytes_length (n v : Nat) : (leBytes n v).length = n := by simp [leBytes]

theorem leBytes_succ (n v : Nat) : leBytes (n + 1) v = BitVec.ofNat 8 v :: leBytes n (v / 256) := by
  simp only [leBytes, List.range_succ_eq_map, List.map_cons, List.map_map, Nat.mul_zero, Nat.shiftRight_zero]
  refine congrArg _ (List.map_congr_left fun k _ => congrArg (BitVec.ofNat 8) ?_)
  rw [show 8 * k.succ = 8 + 8 * k by omega, Nat.shiftRight_add, Nat.shiftRight_eq_div_pow v 8]

theorem leNat_leBytes (n v : Nat) : leNat (leBytes n v) = v % 256 ^ n := by
  induction n generalizing v with
  | zero => simp [leBytes, leNat, Nat.mod_one]
  | succ n ih =>
    rw [leBytes_succ, leNat, ih, Nat.pow_succ', Nat.mod_mul, BitVec.toNat_ofNat]

section
variable {s : State}

/-! ### Writes in pieces (18_link R375) -/

/-- The pieces of a request lie within it, and each of its addresses is in one of them. -/
theorem mem_piecesOf {pa n : Nat} {p : Nat × Nat} (h : p ∈ piecesOf pa n) : pa ≤ p.1 ∧ p.1 + p.2 ≤ pa + n := by
  obtain ⟨hp, hne⟩ := List.mem_filter.mp h
  obtain ⟨k, -, rfl⟩ := List.mem_map.mp hp
  have : min (pa + n) ((pa / 8 + k + 1) * 8) - max pa ((pa / 8 + k) * 8) ≠ 0 := by simpa using hne
  dsimp only
  omega

theorem exists_piecesOf {pa n a : Nat} (h1 : pa ≤ a) (h2 : a < pa + n) : ∃ p ∈ piecesOf pa n, p.1 ≤ a ∧ a < p.1 + p.2 := by
  refine ⟨_, List.mem_filter.mpr ⟨List.mem_map.mpr ⟨a / 8 - pa / 8, List.mem_range.mpr (by omega), rfl⟩, ?_⟩, ?_⟩
  · simp only [bne_iff_ne]
    omega
  · dsimp only
    omega

/-- Pieces of some bytes, written one after the other, leave at each address that they meet its byte. -/
theorem foldl_writeHome_byte (pa : Nat) (bs : List Byte) (l : List (Nat × Nat)) (hl : ∀ p ∈ l, pa ≤ p.1 ∧ p.1 + p.2 ≤ pa + bs.length)
    (h : s.memWf) (a : Nat) : (l.foldl (fun s p => s.writeHome p.1 ((bs.drop (p.1 - pa)).take p.2)) s).byte a
      = if ∃ p ∈ l, p.1 ≤ a ∧ a < p.1 + p.2 then bs.getD (a - pa) 0 else s.byte a := by
  induction l generalizing s with
  | nil => simp
  | cons p r ih =>
    obtain ⟨hlo, hhi⟩ := hl p (List.mem_cons_self ..)
    have hlen : ((bs.drop (p.1 - pa)).take p.2).length = p.2 := by simp; omega
    rw [List.foldl_cons, ih (fun q hq => hl q (List.mem_cons_of_mem _ hq)) (writeHome_wf _ _ h), writeHome_byte _ _ _ h, hlen]
    by_cases hr : ∃ q ∈ r, q.1 ≤ a ∧ a < q.1 + q.2
    · obtain ⟨q, hqr, hqa⟩ := hr
      rw [if_pos ⟨q, hqr, hqa⟩, if_pos ⟨q, List.mem_cons_of_mem _ hqr, hqa⟩]
    · rw [if_neg hr]
      by_cases hp : p.1 ≤ a ∧ a < p.1 + p.2
      · rw [if_pos hp, if_pos ⟨p, List.mem_cons_self .., hp⟩]
        simp only [List.getD_eq_getElem?_getD, List.getElem?_take, List.getElem?_drop, show a - p.1 < p.2 by omega, if_true,
          show p.1 - pa + (a - p.1) = a - pa by omega]
      · rw [if_neg hp, if_neg]
        rintro ⟨q, hqr, hqa⟩
        rcases List.mem_cons.mp hqr with rfl | hqr
        · exact hp hqa
        · exact hr ⟨q, hqr, hqa⟩

theorem hostWrite_byte (h : s.memWf) (pa : Nat) (bs : List Byte) (a : Nat) :
    (s.hostWrite pa bs).byte a = if pa ≤ a ∧ a < pa + bs.length then bs.getD (a - pa) 0 else s.byte a := by
  rw [State.hostWrite, foldl_writeHome_byte pa bs _ (fun p hp => mem_piecesOf hp) h]
  refine if_congr ⟨fun ⟨p, hp, hlo, hhi⟩ => ?_, fun ⟨h1, h2⟩ => exists_piecesOf h1 h2⟩ rfl rfl
  have := mem_piecesOf hp
  omega

theorem writeHome_hostOut (s : State) (pa : Nat) (bs : List Byte) : (s.writeHome pa bs).hostOut = s.hostOut := by
  obtain ⟨_, _, _, _, h⟩ := writeHome_changes s pa bs
  rw [h]

theorem writeHome_regs (s : State) (pa : Nat) (bs : List Byte) : (s.writeHome pa bs).regs = s.regs := by
  obtain ⟨_, _, _, _, h⟩ := writeHome_changes s pa bs
  rw [h]

theorem hostWrite_hostOut (s : State) (pa : Nat) (bs : List Byte) : (s.hostWrite pa bs).hostOut = s.hostOut :=
  List.foldlRecOn (motive := fun u : State => u.hostOut = s.hostOut) _ _ rfl fun _ hu _ _ => (writeHome_hostOut ..).trans hu

/-! ### A request that nothing holds back -/

section
variable (hq : s.hostQueue = [])
include hq

theorem hostRequest_read {who pa n time : Nat} (hc : s.hostCut pa n = false) :
    s.hostRequest (.read who pa n time)
      = { ({ s with hostQueue := [.read who pa n time] } : State).hostRead pa n with hostQueue := [] } := by
  have hc' : ({ s with hostQueue := [.read who pa n time] } : State).hostCut pa n = false := hc
  simp only [State.hostRequest, State.drainHost, State.drainGo, hq, List.nil_append, hc', List.contains_nil, Bool.or_self,
    Bool.false_eq_true, if_false]

theorem hostRequest_write {who pa : Nat} {ro : Bool} {bs : List Byte} (hc : s.hostCut pa bs.length = false) :
    s.hostRequest (.write who ro pa bs)
      = { ({ s with hostQueue := [.write who ro pa bs] } : State).hostWrite pa bs with hostQueue := [] } := by
  have hc' : ({ s with hostQueue := [.write who ro pa bs] } : State).hostCut pa bs.length = false := hc
  simp only [State.hostRequest, State.drainHost, State.drainGo, hq, List.nil_append, hc', List.contains_nil, Bool.false_and, Bool.or_self,
    Bool.false_eq_true, if_false]

theorem hostRequest_atomic {who pa time : Nat} {op : HostAtomic} {a b : Word} (hc : s.hostCut pa (hostOpBytes op) = false) :
    s.hostRequest (.atomic who pa op a b time)
      = { ({ s with hostQueue := [.atomic who pa op a b time] } : State).hostAtomic pa op a b with hostQueue := [] } := by
  have hc' : ({ s with hostQueue := [.atomic who pa op a b time] } : State).hostCut pa (hostOpBytes op) = false := hc
  simp only [State.hostRequest, State.drainHost, State.drainGo, hq, List.nil_append, hc', List.contains_nil, Bool.or_self,
    Bool.false_eq_true, if_false]

theorem hostRequest_input {who : Nat} {bs : List Byte} (hc : s.inputCut = false) :
    s.hostRequest (.input who bs) = { ({ s with hostQueue := [.input who bs] } : State).inputEnter bs with hostQueue := [] } := by
  have hc' : ({ s with hostQueue := [.input who bs] } : State).inputCut = false := hc
  simp only [State.hostRequest, State.drainHost, State.drainGo, hq, List.nil_append, hc', List.contains_nil, Bool.or_self,
    Bool.false_eq_true, if_false]

end

/-! ### AtomicOps (18_link R375, 09_memory R227) -/

/-- What an AtomicOp leaves, from the old value and the operands cut to its width. -/
def hostAtomicValue (op : HostAtomic) (old a b : Nat) : Nat :=
  match op with
  | .fetchAdd32 | .fetchAdd64 => (old + a) % (1 <<< (8 * hostOpBytes op))
  | .swap32 | .swap64 => a
  | .cas32 | .cas64 => if old = a then b else old

theorem hostOpBytes_pow (op : HostAtomic) : 256 ^ hostOpBytes op = 1 <<< (8 * hostOpBytes op) := by cases op <;> rfl

theorem atomicInt_host (op : HostAtomic) (old a b : Nat) :
    (atomicInt (hostOpCode op) (8 * hostOpBytes op) old a b).getD old = hostAtomicValue op old a b := by
  cases op
  case cas32 | cas64 => by_cases h : old = a <;> simp [hostOpCode, atomicInt, hostAtomicValue, h]
  all_goals rfl

theorem hostAtomicValue_lt (op : HostAtomic) {old a b : Nat} (ho : old < 256 ^ hostOpBytes op) (ha : a < 256 ^ hostOpBytes op)
    (hb : b < 256 ^ hostOpBytes op) : hostAtomicValue op old a b < 256 ^ hostOpBytes op := by
  have hpos : 0 < 256 ^ hostOpBytes op := by positivity
  cases op
  case fetchAdd32 | fetchAdd64 => exact hostOpBytes_pow _ ▸ Nat.mod_lt _ (hostOpBytes_pow _ ▸ hpos)
  case swap32 | swap64 => exact ha
  case cas32 | cas64 =>
    simp only [hostAtomicValue]
    split
    · exact hb
    · exact ho

theorem leNat_lt (bs : List Byte) : leNat bs < 256 ^ bs.length := by
  induction bs with
  | nil => simp [leNat]
  | cons b r ih =>
    rw [leNat, List.length_cons, Nat.pow_succ']
    have := b.isLt
    omega

/-- An AtomicOp on clean bytes answers the old ones, and leaves its value. -/
theorem hostAtomic_acts (h : s.memWf) {pa : Nat} {op : HostAtomic} (hclean : s.homePoison pa (hostOpBytes op) = none) (a b : Word) :
    (s.hostAtomic pa op a b).hostOut = s.hostOut ++ [.data (s.bytes pa (hostOpBytes op))]
      ∧ leNat ((s.hostAtomic pa op a b).bytes pa (hostOpBytes op))
        = hostAtomicValue op (leNat (s.bytes pa (hostOpBytes op))) (a.toNat % (1 <<< (8 * hostOpBytes op)))
          (b.toNat % (1 <<< (8 * hostOpBytes op))) := by
  have hlen : (s.bytes pa (hostOpBytes op)).length = hostOpBytes op := by simp [State.bytes]
  have hcut : ∀ w : Word, w.toNat % (1 <<< (8 * hostOpBytes op)) < 256 ^ hostOpBytes op := fun w => by
    rw [← hostOpBytes_pow]
    exact Nat.mod_lt _ (by positivity)
  have hold : leNat (s.bytes pa (hostOpBytes op)) < 256 ^ hostOpBytes op := by
    have := leNat_lt (s.bytes pa (hostOpBytes op))
    rwa [hlen] at this
  have hlt := hostAtomicValue_lt op hold (hcut a) (hcut b)
  rw [← atomicInt_host] at hlt ⊢
  unfold State.hostAtomic
  simp only [hclean, Option.isSome_none, Bool.false_eq_true, if_false]
  cases hv : atomicInt (hostOpCode op) (8 * hostOpBytes op) (leNat (s.bytes pa (hostOpBytes op))) (a.toNat % (1 <<< (8 * hostOpBytes op)))
      (b.toNat % (1 <<< (8 * hostOpBytes op))) with
  | none => exact ⟨rfl, rfl⟩
  | some v =>
    rw [hv, Option.getD_some] at hlt
    have hbytes := writeHome_bytes h pa (leBytes (hostOpBytes op) v)
    rw [leBytes_length] at hbytes
    refine ⟨congrArg (· ++ [HostMsg.data _]) (writeHome_hostOut s pa _), ?_⟩
    change leNat (State.bytes (s.writeHome pa (leBytes (hostOpBytes op) v)) pa (hostOpBytes op)) = v
    rw [hbytes, leNat_leBytes, Nat.mod_eq_of_lt hlt]

/-! ### The input window (18_link R377, R378) -/

/-- Bytes written to the window from an offset on; those beyond its sequence word have no place in it. -/
theorem getD_foldl_window (bs : List Byte) (o : Nat) {m : SMap Byte} (hm : SMap.sorted m = true) (k : Nat) :
    SMap.getD ((bs.zipIdx o).foldl (fun w (p : Byte × Nat) => if p.2 < 56 then SMap.put w 0 p.2 p.1 else w) m) k 0
      = if o ≤ k ∧ k < o + bs.length ∧ k < 56 then bs.getD (k - o) 0 else SMap.getD m k 0 := by
  induction bs generalizing o m with
  | nil => exact (if_neg (by simp only [List.length_nil]; omega)).symm
  | cons b r ih =>
    rw [List.zipIdx_cons, List.foldl_cons, ih (o + 1) (by split <;> [exact SMap.sorted_put hm; exact hm]), List.length_cons]
    by_cases hk : o + 1 ≤ k ∧ k < o + 1 + r.length ∧ k < 56
    · rw [if_pos hk, if_pos (by omega), show k - o = k - (o + 1) + 1 by omega, List.getD_cons_succ]
    · rw [if_neg hk]
      by_cases ho : o < 56
      · rw [if_pos ho, SMap.getD_put _ _ _ hm]
        by_cases hko : k = o
        · rw [if_pos hko, if_pos (by omega), hko, Nat.sub_self, List.getD_cons_zero]
        · rw [if_neg hko, if_neg (by omega)]
      · rw [if_neg ho, if_neg (by omega)]

/-- The window's bytes with its sequence word written. -/
theorem window_record (hs : SMap.sorted s.window = true) (w : Word) :
    (List.range 56).map (fun k => SMap.getD (((bytesOfWord w).zipIdx 48).foldl
        (fun w (p : Byte × Nat) => if p.2 < 56 then SMap.put w 0 p.2 p.1 else w) s.window) k 0)
      = (List.range 48).map (SMap.getD s.window · 0) ++ bytesOfWord w := by
  have hlen : (bytesOfWord w).length = 8 := rfl
  rw [show 56 = 48 + 8 from rfl, List.range_add, List.map_append, List.map_map]
  congr 1
  · refine List.map_congr_left fun k hk => ?_
    have := List.mem_range.mp hk
    rw [getD_foldl_window _ _ hs, if_neg (by omega)]
  · refine List.ext_getElem (by simp [hlen]) fun i hi hi' => ?_
    have : i < 8 := by simpa using hi
    simp only [List.getElem_map, List.getElem_range, Function.comp_apply]
    rw [getD_foldl_window _ _ hs, if_pos (by rw [hlen]; omega), Nat.add_sub_cancel_left, List.getD_eq_getElem _ _ hi']

/-- A trail record is 32 bytes, in the ring's own place for it. -/
theorem trailAt_byte (h : s.memWf) (d time kind ctx index : Nat) (payload : List Byte) {a : Nat}
    (ha : s.rf (0x786 + d) 0 5 < 8 ∨ 20 < s.rf (0x786 + d) 0 5
      ∨ a < s.base (0x786 + d) + 32 * ((s.die d).trailSeq % (1 <<< s.rf (0x786 + d) 0 5))
      ∨ s.base (0x786 + d) + 32 * ((s.die d).trailSeq % (1 <<< s.rf (0x786 + d) 0 5)) + 32 ≤ a) :
    (s.trailAt d time kind ctx index payload).byte a = s.byte a := by
  unfold State.trailAt
  dsimp only
  split
  · rfl
  · split
    · next hlog =>
      have hlog' : 8 ≤ s.rf (0x786 + d) 0 5 ∧ s.rf (0x786 + d) 0 5 ≤ 20 := by simpa using hlog
      refine writeHome_byte_outside h ?_
      simp only [List.length_append, leBytes_length, List.length_cons, List.length_nil, List.length_take, List.length_replicate]
      omega
    · rfl

theorem trailAt_regs (s : State) (d time kind ctx index : Nat) (payload : List Byte) :
    (s.trailAt d time kind ctx index payload).regs = s.regs := by
  unfold State.trailAt
  dsimp only
  split
  · rfl
  · split
    · rw [State.modDie_regs, writeHome_regs]
    · rfl

/-- The ring takes a record: TAIL counts it. -/
def State.inputCount (s : State) : State :=
  let u := if 1 <<< s.rf 0x744 0 5 ≤ s.inputs then s.inputLost else s
  { u.setRaw 0x745 (setBits (u.raw 0x745) 0 32 (u.rf 0x745 0 32 + 1)) with inputs := u.inputs + 1 }

theorem inputEnter_of_ring (h : s.inputRing = true) (bs : List Byte) :
    s.inputEnter bs = (s.writeHome s.inputSlot bs).inputCount.trail 0 0x01 0 (bs.getD 8 0).toNat ((bs.drop 48).take 8 ++ bs.take 8) := by
  rw [State.inputEnter, if_neg (by simp [h])]
  rfl

theorem inputCount_tail (hs : SMap.sorted s.regs = true) : s.inputCount.rf 0x745 0 32 = (s.rf 0x745 0 32 + 1) % 4294967296 := by
  have hcount : ∀ u : State, SMap.sorted u.regs = true →
      ({ u.setRaw 0x745 (setBits (u.raw 0x745) 0 32 (u.rf 0x745 0 32 + 1)) with inputs := u.inputs + 1 } : State).rf 0x745 0 32
        = (u.rf 0x745 0 32 + 1) % 4294967296 := fun u hu =>
    (congrArg (fld · 0 32) (raw_setRaw_same u 0x745 _ hu)).trans (fld_setBits_same _ _ (by decide))
  unfold State.inputCount
  dsimp only
  split
  · refine (hcount s.inputLost (sorted_setRaw _ _ _ hs)).trans (congrArg (fun n => (n + 1) % 4294967296) ?_)
    exact (congrArg (fld · 0 32) (raw_setRaw_same s 0x745 _ hs)).trans (fld_setBits_other _ _ (by decide) (by decide))
  · exact hcount s hs

theorem inputCount_keeps (s : State) : s.inputCount.mem = s.mem ∧ s.inputCount.dies = s.dies ∧ s.inputCount.raw 0x786 = s.raw 0x786 := by
  unfold State.inputCount
  dsimp only
  split
  · exact ⟨rfl, rfl, (raw_setRaw_other _ _ (by decide)).trans (raw_setRaw_other _ _ (by decide))⟩
  · exact ⟨rfl, rfl, raw_setRaw_other _ _ (by decide)⟩

/-- A record that enters its ring: TAIL counts it, and but for the bytes of its trail record memory holds it and what it held. -/
theorem inputEnter_enters (h : s.memWf) (hs : SMap.sorted s.regs = true) (hring : s.inputRing = true) (bs : List Byte) :
    (s.inputEnter bs).rf 0x745 0 32 = (s.rf 0x745 0 32 + 1) % 4294967296
      ∧ ∀ a, (s.rf 0x786 0 5 < 8 ∨ 20 < s.rf 0x786 0 5 ∨ a < s.base 0x786 + 32 * ((s.die 0).trailSeq % (1 <<< s.rf 0x786 0 5))
          ∨ s.base 0x786 + 32 * ((s.die 0).trailSeq % (1 <<< s.rf 0x786 0 5)) + 32 ≤ a) →
        (s.inputEnter bs).byte a = if s.inputSlot ≤ a ∧ a < s.inputSlot + bs.length then bs.getD (a - s.inputSlot) 0 else s.byte a := by
  have hwf := writeHome_wf s.inputSlot bs h
  have hbyte := fun a => writeHome_byte s.inputSlot a bs h
  have hregs := writeHome_regs s s.inputSlot bs
  have hdies : (s.writeHome s.inputSlot bs).dies = s.dies := by
    obtain ⟨_, _, _, _, hch⟩ := writeHome_changes s s.inputSlot bs
    rw [hch]
  rw [inputEnter_of_ring hring]
  generalize s.writeHome s.inputSlot bs = u at hwf hbyte hregs hdies ⊢
  obtain ⟨hmem, hdies', hraw⟩ := inputCount_keeps u
  have hraw' : u.inputCount.raw 0x786 = s.raw 0x786 := hraw.trans (by simp only [State.raw, hregs])
  have hdie : u.inputCount.die 0 = s.die 0 := by simp only [State.die, hdies', hdies]
  refine ⟨?_, fun a ha => ?_⟩
  · have htail := inputCount_tail (s := u) (hregs ▸ hs)
    simp only [State.rf, State.raw, State.trail, trailAt_regs, hregs] at htail ⊢
    exact htail
  · have hapart : (u.inputCount.trail 0 0x01 0 (bs.getD 8 0).toNat ((bs.drop 48).take 8 ++ bs.take 8)).byte a = u.inputCount.byte a :=
      trailAt_byte (memWf_of_mem hmem hwf) 0 _ _ _ _ _ (by simpa only [State.base, State.rf, hraw', hdie] using ha)
    rw [hapart, ← hbyte a]
    simp only [State.byte, hmem]

theorem inputCommit_enters (h : s.memWf) (hs : SMap.sorted s.regs = true) (hw : SMap.sorted s.window = true) (hq : s.hostQueue = [])
    (hring : s.inputRing = true) (hcut : s.inputCut = false) (w : Word) :
    let record := (List.range 48).map (SMap.getD s.window · 0) ++ bytesOfWord w ++ leBytes 8 (s.die 0).ticks
    let t := s.windowWrite 48 (bytesOfWord w)
    t.rf 0x745 0 32 = (s.rf 0x745 0 32 + 1) % 4294967296 ∧ t.hostQueue = []
      ∧ ∀ a, (s.rf 0x786 0 5 < 8 ∨ 20 < s.rf 0x786 0 5 ∨ a < s.base 0x786 + 32 * ((s.die 0).trailSeq % (1 <<< s.rf 0x786 0 5))
          ∨ s.base 0x786 + 32 * ((s.die 0).trailSeq % (1 <<< s.rf 0x786 0 5)) + 32 ≤ a) →
        t.byte a = if s.inputSlot ≤ a ∧ a < s.inputSlot + 64 then record.getD (a - s.inputSlot) 0 else s.byte a := by
  intro record t
  let win := ((bytesOfWord w).zipIdx 48).foldl (fun w (p : Byte × Nat) => if p.2 < 56 then SMap.put w 0 p.2 p.1 else w) s.window
  have ht : t = ({ s with window := win } : State).hostRequest (.input s.requester.1 record) := by
    have hin : (decide (48 < 56) && decide (48 < 48 + (bytesOfWord w).length)) = true := rfl
    simp only [t, State.windowWrite]
    rw [if_pos hin, State.inputCommit, window_record hw]
    rfl
  have hlen : record.length = 64 := by simp [record, leBytes_length, show (bytesOfWord w).length = 8 from rfl]
  have hrun : t = { ({ s with window := win, hostQueue := [.input s.requester.1 record] } : State).inputEnter record with hostQueue := [] } :=
    ht.trans (hostRequest_input (s := { s with window := win }) hq hcut)
  obtain ⟨htail, hbytes⟩ := inputEnter_enters (s := { s with window := win, hostQueue := [.input s.requester.1 record] }) h hs hring record
  rw [hlen] at hbytes
  rw [hrun]
  exact ⟨htail, rfl, hbytes⟩

/-! ### The referee port (19_trail R394-R396) -/

section
variable (hd : s.endpointDown = false) (hb : 3 ≤ s.boot)
include hd hb

theorem referee_open (f : State → State) : s.referee f = f s := by
  have hopen : s.refereeRefuse = none := by simp [State.refereeRefuse, hd]; omega
  simp only [State.referee, hopen]

theorem kuide_idle (h : s.quote = none) (f : State → State) : s.kuide f = f s := by
  rw [State.kuide, referee_open hd hb, if_neg (by simp [h])]

theorem kuide_busy (h : s.quote.isSome = true) (f : State → State) : s.kuide f = s.send .busy := by
  rw [State.kuide, referee_open hd hb, if_pos h]

end

end

/-- Settles O58: a request that nothing holds back is performed whole as it arrives, so that each answer is its own operation's. -/
theorem hostRequests : Obligations.HostRequests := by
  unfold Obligations.HostRequests
  intro s hd hq
  refine ⟨fun off n hr hc => ?read, fun off bs hr hc hwf => ?write, ?atomic, fun off op a b hr hal => ?misaligned,
    fun off n m hr => ?refused, fun off hb => congrArg Host.Outcome.next (referee_open hd hb _),
    fun nonce mask hb h => congrArg Host.Outcome.next (kuide_idle hd hb h _), fun hb h => congrArg Host.Outcome.next (kuide_idle hd hb h _),
    fun off hb h => congrArg Host.Outcome.next (kuide_idle hd hb h _), fun hb h => congrArg Host.Outcome.next (kuide_busy hd hb h _),
    fun m h => ?quote, fun v h => ?msix, fun w hb hring hcut hwf hs hw => ?input,
    fun hb => congrArg Host.Outcome.next (hostCommand_of_booted hb hd _)⟩
  case read =>
    refine ⟨{ ({ s with hostQueue := [.read s.requester.1 off n s.now] } : State).hostRead off n with hostQueue := [] },
      congrArg Host.Outcome.next ?_, rfl, rfl, rfl⟩
    rw [hr]
    exact hostRequest_read hq hc
  case write =>
    let u : State := { s with hostQueue := [.write s.requester.1 s.requester.2 off bs] }
    have hbyte := hostWrite_byte (s := u) hwf off bs
    refine ⟨{ u.hostWrite off bs with hostQueue := [] }, congrArg Host.Outcome.next ?_, ?_, hostWrite_hostOut u off bs, fun a ha => ?_⟩
    · rw [hr]
      exact hostRequest_write hq hc
    · refine List.ext_getElem (by simp [State.bytes]) fun i _ hi => ?_
      simp only [State.bytes, List.getElem_map, List.getElem_range]
      refine (hbyte (off + i)).trans ?_
      rw [if_pos (by omega), Nat.add_sub_cancel_left, List.getD_eq_getElem _ _ hi]
    · exact (hbyte a).trans (if_neg (by omega))
  case atomic =>
    intro off op a b n old a' hr hal hc hclean hwf
    let u : State := { s with hostQueue := [.atomic s.requester.1 off op a b s.now] }
    obtain ⟨hout, hval⟩ := hostAtomic_acts (s := u) hwf (pa := off) (op := op) hclean a b
    refine ⟨{ u.hostAtomic off op a b with hostQueue := [] }, congrArg Host.Outcome.next ?_, hout, hval.trans ?_⟩
    · rw [hr]
      exact (if_neg (by simp [show off % hostOpBytes op = 0 from hal])).trans (hostRequest_atomic hq hc)
    · cases op <;> rfl
  case misaligned =>
    refine congrArg Host.Outcome.next ?_
    rw [hr]
    exact if_pos (by simpa using hal)
  case refused =>
    refine congrArg Host.Outcome.next ?_
    rw [hr]
  case quote =>
    refine congrArg Host.Outcome.next ?_
    rw [h]
    exact if_neg (by simp [hd])
  case msix =>
    exact ⟨_, congrArg Host.Outcome.next (if_pos h), rfl, fun hv => by simp [State.send] at hv⟩
  case input =>
    obtain ⟨htail, hqueue, hbyte⟩ := inputCommit_enters hwf hs hw hq hring hcut w
    refine ⟨_, congrArg Host.Outcome.next (hostCommand_of_booted hb hd _), htail, hqueue, fun k hk ha => ?_, fun a ha hapart => ?_⟩
    · refine (hbyte _ ha).trans ?_
      rw [if_pos (by omega), Nat.add_sub_cancel_left]
    · exact (hbyte a hapart).trans (if_neg (by omega))

end Sys2Proof.Machine
end

section
/-! PROOFS. The return from a trap (O20). -/

namespace Sys2Proof.Machine

/-! ### Threads after a change of some of them -/

theorem thread_modThreads (g : Group) (m : Mask) (f : Thread → Thread) {l : Nat} (hl : l < 32) :
    (g.modThreads m f).thread l = if m.getLsbD l then f (g.thread l) else g.thread l := by
  have hth : g.thread l = g.threads[l] := by simp [Group.thread, Array.getD, hl]
  rw [hth]
  simp [Group.thread, Group.modThreads, Array.getD, hl]

theorem thread_withSusp (g : Group) (xs : List IssueGroup) (l : Nat) : ({ g with susp := xs } : Group).thread l = g.thread l := rfl

theorem thread_splitHalted (g : Group) (l : Nat) : g.splitHalted.thread l = g.thread l := rfl

/-- A thread that reaches its header anew keeps its predicates. -/
theorem reachAnew_preds (g : Group) (m : Mask) {l : Nat} (hl : l < 32) : ((g.reachAnew m).thread l).preds = (g.thread l).preds := by
  unfold Group.reachAnew Group.atHeader
  extract_lets move back h split
  have hh : (h.thread l).preds = (g.thread l).preds :=
    List.foldlRecOn (motive := fun u : Group => (u.thread l).preds = (g.thread l).preds) _ _ rfl fun u hu ig _ => by
      rw [thread_modThreads _ _ _ hl]
      split
      · exact hu
      · exact hu
  rw [thread_modThreads _ _ _ hl]
  split
  · split
    · exact hh
    · exact hh
  · exact hh

/-- Where no issue group is held in a clause's first instruction, every thread stays where and as it stands. -/
theorem reachAnew_stays (g : Group) (m : Mask) (h : ∀ ig ∈ g.susp, ig.pos ≠ 0) {l : Nat} (hl : l < 32) :
    ((g.reachAnew m).thread l).hdr = (g.thread l).hdr ∧ ((g.reachAnew m).thread l).pos = (g.thread l).pos
      ∧ ((g.reachAnew m).thread l).block = (g.thread l).block := by
  unfold Group.reachAnew Group.atHeader
  extract_lets move back u split
  have hback : back = [] := List.filter_eq_nil_iff.mpr fun ig hig => by simp [move, h ig hig]
  have hu : u = g := by simp only [u, hback, List.foldl_nil]
  rw [thread_modThreads _ _ _ hl, hu]
  split
  · split
    · exact ⟨rfl, rfl, rfl⟩
    · exact ⟨rfl, rfl, rfl⟩
  · exact ⟨rfl, rfl, rfl⟩

/-! ### The threads of a frame (15_context R320) -/

section
variable {g : Group} {f : Frame} {skip ret : Bool} {next : Word × Nat} {l : Nat}

/-- A thread that has not exited since its trap, before it reaches its header: its predicates are those that it has now. -/
def Frame.thread (f : Frame) (g : Group) (skip ret : Bool) (next : Word × Nat) (l : Nat) : Thread :=
  let now := g.thread l
  let old := f.threads.toArray.getD l (Thread.init 0)
  if f.issue.getLsbD l then
    if (if skip then f.issue else f.done).getLsbD l then
      { (old.stand next.1 next.2 (next == (f.hdr, f.pos)) g.opSeq) with preds := now.preds, gen := now.gen, halt := now.halt }
    else { (old.stand f.hdr f.pos (ret || old.viaBranch) g.opSeq) with preds := now.preds, gen := now.gen, halt := now.halt }
  else { old with preds := now.preds, gen := now.gen, halt := now.halt }

theorem Frame.thread_preds : (f.thread g skip ret next l).preds = (g.thread l).preds := by
  unfold Frame.thread
  generalize (if skip then f.issue else f.done) = done
  dsimp only
  split
  · split
    · rfl
    · rfl
  · rfl

/-- The issue groups of a frame, without the threads that have exited since. -/
def Frame.groups (f : Frame) (g : Group) : List IssueGroup :=
  (f.susp.map fun ig => ig.part (maskOf fun l => !(g.thread l).exited)).filter fun ig => ig.mask != 0

/-- The group of a frame before its threads reach their headers. -/
def Frame.group (f : Frame) (g : Group) (skip ret : Bool) (next : Word × Nat) : Group :=
  { g with threads := lanes fun l => if (g.thread l).exited then g.thread l else f.thread g skip ret next l,
           susp := f.groups g ++ g.susp }

theorem Frame.thread_group (hl : l < 32) (hex : (g.thread l).exited = false) :
    (f.group g skip ret next).thread l = f.thread g skip ret next l := by
  refine (thread_of_lanes { g with susp := f.groups g ++ g.susp } _ l).trans ?_
  rw [if_pos hl, hex]
  exact if_neg Bool.false_ne_true

theorem restore_of_noGroup (h : f.ig = none) :
    g.restore f skip ret next = ((f.group g skip ret next).reachAnew 0xFFFFFFFF).splitHalted := by
  unfold Group.restore
  rw [h]
  rfl

/-- A thread that has not exited since its trap goes on with the predicates that it has. -/
theorem restore_preds (hl : l < 32) (hex : (g.thread l).exited = false) :
    ((g.restore f skip ret next).thread l).preds = (g.thread l).preds := by
  have hbase : ((f.group g skip ret next).thread l).preds = (g.thread l).preds := by
    rw [Frame.thread_group hl hex, Frame.thread_preds]
  unfold Group.restore
  extract_lets done th live g1 g2
  rw [thread_splitHalted, reachAnew_preds _ _ hl]
  have h1 : (g1.thread l).preds = (g.thread l).preds := hbase
  clear_value g1
  unfold g2
  split
  · exact h1
  · extract_lets ig
    split
    · exact h1
    · rw [thread_withSusp (g1.modThreads ig.mask _), thread_modThreads _ _ _ hl]
      split
      · exact h1
      · exact h1

/-- Where no issue group, of the frame or of the group, is held in a clause's first instruction, the threads stand as the frame has
them. -/
theorem restore_stands (hl : l < 32) (hex : (g.thread l).exited = false) (hno : f.ig = none)
    (hpos : ∀ ig ∈ f.susp ++ g.susp, ig.pos ≠ 0) :
    let t := (g.restore f skip ret next).thread l
    let base := f.thread g skip ret next l
    t.hdr = base.hdr ∧ t.pos = base.pos ∧ t.block = base.block := by
  have hsusp : ∀ ig ∈ (f.group g skip ret next).susp, ig.pos ≠ 0 := by
    intro ig hig
    rcases List.mem_append.mp hig with hig | hig
    · obtain ⟨o, ho, rfl⟩ := List.mem_map.mp (List.mem_filter.mp hig).1
      exact hpos o (List.mem_append_left _ ho)
    · exact hpos ig (List.mem_append_right _ hig)
  rw [restore_of_noGroup hno, thread_splitHalted]
  have hstay := reachAnew_stays (f.group g skip ret next) 0xFFFFFFFF hsusp hl
  rw [Frame.thread_group hl hex] at hstay
  exact hstay

end

/-! ### `TRET` -/

section
variable {e : Env} {s : State} {gd : Guard} {skip : Bool}

/-- `TRET` at which every thread that has not exited stands, its guard holding in all. -/
theorem tret_returns {fr : Frame} {rest : List Frame} (hfr : e.g.frames = fr :: rest) (hw : e.waiting e.g .conv = [])
    (hlive : e.ig.mask = e.g.live) (h0 : e.ig.mask ≠ 0) (hguard : e.ig.mask &&& e.g.guardMask gd = e.ig.mask) :
    ∃ next susp, tret e s gd skip
      = .move (((s.setGroup e.gk e.g).setIg e.pk e.ig).setGroup e.gk { e.g with frames := rest, susp := susp }) {}
          (fun l _ => (e.g.restore fr skip true next).thread l) [] id := by
  have hsusp : (e.g.susp.filter fun ig => !([] : List IssueGroup).contains ig) = e.g.susp := List.filter_eq_self.mpr fun _ _ => rfl
  unfold tret
  rw [hfr]
  dsimp only
  rw [hw, List.foldl_nil, hguard, ← hlive, hsusp]
  simp only [bne_self_eq_false, Bool.and_false, Bool.false_eq_true, if_false, beq_eq_false_iff_ne.mpr h0]
  exact ⟨_, _, rfl⟩

end

/-- Settles O20: `TRET` returns the handler set and places every thread as its frame has it; outside a handler it traps. -/
theorem trapReturn : Obligations.TrapReturn := by
  intro g f s e h
  refine ⟨fun fr rest hfr hw hlive h0 hguard => ?inside, fun hfr h0 => ?outside, fun hfr h0 => ?idle⟩
  case inside =>
    obtain ⟨next, susp, hbody⟩ := tret_returns (s := s) (skip := f.bit 0) hfr hw hlive h0 hguard
    refine ⟨_, _, moves_of_runWord h rfl hbody, rfl, ⟨_, State.group?_setGroup .., rfl, rfl, rfl⟩, ?_⟩
    intro l th hl hex
    refine ⟨restore_preds hl hex, fun hno hpos => ?_⟩
    obtain ⟨hhdr, hp, hblock⟩ := restore_stands (skip := f.bit 0) (ret := true) (next := next) hl hex hno hpos
    refine ⟨fun hi hd hskip => ?_, fun hi => ?_⟩
    · have hbase : (fr.thread e.g (f.bit 0) true next l).hdr = fr.hdr ∧ (fr.thread e.g (f.bit 0) true next l).pos = fr.pos := by
        simp [Frame.thread, hi, hd, hskip, Thread.stand]
      exact ⟨hhdr.trans hbase.1, hp.trans hbase.2⟩
    · have hbase : fr.thread e.g (f.bit 0) true next l
          = { fr.threads.toArray.getD l (Thread.init 0) with
              preds := (e.g.thread l).preds, gen := (e.g.thread l).gen, halt := (e.g.thread l).halt } :=
        if_neg (by simp [hi])
      rw [hbase] at hhdr hp hblock
      exact ⟨hhdr, hp, hblock⟩
  case outside => exact exec_trap_of_runWord h rfl (by simp only [tret, hfr, bne_iff_ne.mpr h0, if_true])
  case idle =>
    have hbody : tret e s g (f.bit 0) = .move s {} atNext [] id := by simp [tret, hfr, h0]
    exact moves_of_runWord h rfl hbody

end Sys2Proof.Machine
end

section
/-! PROOFS. The decoder and the encoder: what row an opcode has, what the fields of a word give when they are put together again, and
the statements on words and instructions (O1, O2, O3, O4). -/

namespace Sys2Proof

/-! ### Fields put together again -/

/-- Two neighbouring fields of a word are one field. -/
theorem extractLsb'_append_next (w : Word) {lo hi n k : Nat} (h : hi = lo + k) :
    w.extractLsb' hi n ++ w.extractLsb' lo k = w.extractLsb' lo (n + k) := by
  subst h
  exact BitVec.extractLsb'_append_extractLsb'_eq_extractLsb' rfl

theorem bit1_getLsbD (w : Word) (k : Nat) : bit1 (w.getLsbD k) = w.extractLsb' k 1 := by
  ext i hi
  obtain rfl : i = 0 := by omega
  simp [bit1]

/-- [51:0] of a word, read as each of the six formats. -/
def Word.readings (w : Word) : List Fmt := [.r (parseR w), .i (parseI w), .m (parseM w), .b (parseB w), .t (parseT w), .x (parseX w)]

/-- Whichever format a word is read as, its fields hold all of [51:0]. -/
theorem bits_of_readings {w : Word} {f : Fmt} (h : f ∈ w.readings) : f.bits = w.extractLsb' 0 52 := by
  simp only [Word.readings, List.mem_cons, List.not_mem_nil, or_false] at h
  rcases h with rfl | rfl | rfl | rfl | rfl | rfl
  all_goals
    simp only [Fmt.bits, parseR, parseI, parseM, parseB, parseT, parseX, bit1_getLsbD]
    simp (disch := decide) only [extractLsb'_append_next]

/-- Opcode, guard and [51:0] are all of a word (03_encoding R59). -/
theorem word_of_parts (w : Word) : w.extractLsb' 56 8 ++ (parseGuard w).p ++ bit1 (parseGuard w).n ++ w.extractLsb' 0 52 = w := by
  simp only [parseGuard, bit1_getLsbD]
  simp (disch := decide) only [extractLsb'_append_next, allBits]

/-! ### The rows of the opcode map -/

/-- The opcodes that the map leaves out (03_encoding R71). -/
def Unmapped (n : Nat) : Prop :=
  n ∈ [0x0B, 0x0C, 0x0D, 0x0E, 0x0F, 0x46, 0x47, 0x5F, 0x6D, 0x6E, 0x6F, 0x76, 0x77, 0x94, 0x95, 0x96, 0x97, 0xAD, 0xAE, 0xAF, 0xBF]
    ∨ 0xC0 ≤ n

theorem mapped_ranges {n : Nat} (hn : ¬ Unmapped n) :
    n ≤ 0x0A ∨ (0x10 ≤ n ∧ n ≤ 0x45) ∨ (0x48 ≤ n ∧ n ≤ 0x5E) ∨ (0x60 ≤ n ∧ n ≤ 0x6C) ∨ (0x70 ≤ n ∧ n ≤ 0x75) ∨ (0x78 ≤ n ∧ n ≤ 0x93)
      ∨ (0x98 ≤ n ∧ n ≤ 0xAC) ∨ (0xB0 ≤ n ∧ n ≤ 0xBE) := by
  simp only [Unmapped, List.mem_cons, List.not_mem_nil, or_false] at hn
  omega

/-- A row names an instruction of opcode `n` and guard `g` whose operands are one of the readings `fs`. -/
def RowNames (o : Option Instr) (n : Nat) (g : Guard) (fs : List Fmt) : Prop :=
  ∃ i, o = some i ∧ ∃ f ∈ fs, i.word = some (BitVec.ofNat 8 n, g, f)

theorem rowNames_row {o : Option Instr} {i : Instr} {n : Nat} {g : Guard} {fs : List Fmt} {f : Fmt} (ho : o = some i)
    (hw : i.word = some (BitVec.ofNat 8 n, g, f)) (hf : f ∈ fs) : RowNames o n g fs := ⟨i, ho, f, hf, hw⟩

/-- An opcode of several rows, of which a selector field decides. -/
theorem rowNames_select {o p q : Option Instr} {c : Prop} {hc : Decidable c} {n : Nat} {g : Guard} {fs : List Fmt}
    (ho : o = if c then p else q) (hp : RowNames p n g fs) (hq : RowNames q n g fs) : RowNames o n g fs := by
  subst ho
  split
  · exact hp
  · exact hq

section
variable (g : Guard) (r : FmtR) (i : FmtI) (m : FmtM) (b : FmtB) (t : FmtT) (x : FmtX)

theorem rowOf_unmapped {n : Nat} (hn : n < 256) (hu : Unmapped n) : rowOf n g r i m b t x = none := by
  rcases hu with hu | hu
  · simp only [List.mem_cons, List.not_mem_nil, or_false] at hu
    rcases hu with rfl | rfl | rfl | rfl | rfl | rfl | rfl | rfl | rfl | rfl | rfl | rfl | rfl | rfl | rfl | rfl | rfl | rfl | rfl | rfl | rfl
    all_goals rfl
  · interval_cases n
    all_goals rfl

theorem rowOf_mapped {n : Nat} (hu : ¬ Unmapped n) : RowNames (rowOf n g r i m b t x) n g [.r r, .i i, .m m, .b b, .t t, .x x] := by
  rcases mapped_ranges hu with h | ⟨h, h'⟩ | ⟨h, h'⟩ | ⟨h, h'⟩ | ⟨h, h'⟩ | ⟨h, h'⟩ | ⟨h, h'⟩ | ⟨h, h'⟩
  all_goals
    interval_cases n
    all_goals
      repeat' refine rowNames_select rfl ?_ ?_
      all_goals exact rowNames_row rfl rfl (by simp)

end

theorem decodeRaw_unmapped {w : Word} (h : Unmapped (w.extractLsb' 56 8).toNat) : decodeRaw w = none :=
  rowOf_unmapped _ _ _ _ _ _ _ (w.extractLsb' 56 8).isLt h

theorem decodeRaw_mapped {w : Word} (h : ¬ Unmapped (w.extractLsb' 56 8).toNat) :
    ∃ i, decodeRaw w = some i ∧ ∃ f ∈ w.readings, i.word = some (w.extractLsb' 56 8, parseGuard w, f) := by
  obtain ⟨i, hi, f, hf, hw⟩ := rowOf_mapped (parseGuard w) (parseR w) (parseI w) (parseM w) (parseB w) (parseT w) (parseX w) h
  rw [BitVec.ofNat_toNat, BitVec.setWidth_eq] at hw
  exact ⟨i, hi, f, hf, hw⟩

theorem decodeRaw_eq_none {w : Word} : decodeRaw w = none ↔ Unmapped (w.extractLsb' 56 8).toNat := by
  refine ⟨fun h => ?_, decodeRaw_unmapped⟩
  by_contra hu
  obtain ⟨i, hi, -⟩ := decodeRaw_mapped hu
  rw [h] at hi
  cases hi

/-- The instruction that a word names has the word's opcode and guard and one of its readings as operands. -/
theorem word_of_decodeRaw {w : Word} {i : Instr} (h : decodeRaw w = some i) :
    ∃ f ∈ w.readings, i.word = some (w.extractLsb' 56 8, parseGuard w, f) := by
  have hu : ¬ Unmapped (w.extractLsb' 56 8).toNat := fun hu => by rw [decodeRaw_unmapped hu] at h; cases h
  obtain ⟨j, hj, hw⟩ := decodeRaw_mapped hu
  rw [h] at hj
  cases hj
  exact hw

theorem decode_ok {w : Word} {i : Instr} : decode w = .ok i ↔ decodeRaw w = some i ∧ i.illFormed = none := by
  unfold decode
  cases decodeRaw w with
  | none => simp
  | some j =>
    cases hj : j.illFormed with
    | none => simp only [hj, Except.ok.injEq, Option.some.injEq, iff_self_and]; rintro rfl; exact hj
    | some c => simp only [hj, reduceCtorEq, Option.some.injEq, false_iff]; rintro ⟨rfl, h⟩; simp [hj] at h

theorem decode_illegal {w : Word} : decode w = .error .illegalOpcode ↔ decodeRaw w = none := by
  unfold decode
  cases decodeRaw w with
  | none => simp
  | some j => cases hj : j.illFormed <;> simp [hj]

/-! ### The statements -/

/-- Every instruction is read back from the word of its encoding: the laws of the single constructors, and the steps without a
word. -/
theorem decodeRaw_encode (i : Instr) : Laws.Roundtrip.Statement i := by
  open Laws.Roundtrip in
  cases i with
  | nop g f => exact nop g f
  | bra g f => exact bra g f
  | brx g f => exact brx g f
  | call g f => exact call g f
  | callIndirect g f => exact callIndirect g f
  | ret g f => exact ret g f
  | exit g f => exact exit g f
  | yield g f => exact yield g f
  | conv g f => exact conv g f
  | trap g f => exact trap g f
  | bkpt g f => exact bkpt g f
  | tret g f => exact tret g f
  | iadd g f => exact iadd g f
  | iaddi g f => exact iaddi g f
  | isub g f => exact isub g f
  | iaddc g f => exact iaddc g f
  | imul g f => exact imul g f
  | imuli g f => exact imuli g f
  | imulh g f => exact imulh g f
  | imad g f => exact imad g f
  | imin g f => exact imin g f
  | imax g f => exact imax g f
  | iabs g f => exact iabs g f
  | isad g f => exact isad g f
  | shl g f => exact shl g f
  | shr g f => exact shr g f
  | sar g f => exact sar g f
  | shf g f => exact shf g f
  | bitf g f => exact bitf g f
  | bitfi g f => exact bitfi g f
  | popc g f => exact popc g f
  | clz g f => exact clz g f
  | brev g f => exact brev g f
  | bfe g f => exact bfe g f
  | bfi g f => exact bfi g f
  | bswz g f => exact bswz g f
  | icmp g f => exact icmp g f
  | icmpi g f => exact icmpi g f
  | sel g f => exact sel g f
  | mov g f => exact mov g f
  | movi g f => exact movi g f
  | lea g f => exact lea g f
  | plop g f => exact plop g f
  | pmovGet g f => exact pmovGet g f
  | pmovSet g f => exact pmovSet g f
  | fadd g f => exact fadd g f
  | fmul g f => exact fmul g f
  | ffma g f => exact ffma g f
  | fmin g f => exact fmin g f
  | fmax g f => exact fmax g f
  | fcmp g f => exact fcmp g f
  | fclamp g f => exact fclamp g f
  | frnd g f => exact frnd g f
  | faddi g f => exact faddi g f
  | fmuli g f => exact fmuli g f
  | padd2 g f => exact padd2 g f
  | pmul2 g f => exact pmul2 g f
  | pfma2 g f => exact pfma2 g f
  | pmnx2 g f => exact pmnx2 g f
  | pcmp2 g f => exact pcmp2 g f
  | bfma2 g f => exact bfma2 g f
  | cvt g f => exact cvt g f
  | f2i g f => exact f2i g f
  | i2f g f => exact i2f g f
  | ncvtPack g f => exact ncvtPack g f
  | ncvtUnpack g f => exact ncvtUnpack g f
  | qcvtPack g f => exact qcvtPack g f
  | qcvtUnpack g f => exact qcvtUnpack g f
  | scaleExp g f => exact scaleExp g f
  | scaleWord g f => exact scaleWord g f
  | scaleWordinv g f => exact scaleWordinv g f
  | rcp g f => exact rcp g f
  | rsq g f => exact rsq g f
  | sqrt g f => exact sqrt g f
  | lg2 g f => exact lg2 g f
  | ex2 g f => exact ex2 g f
  | sin g f => exact sin g f
  | cos g f => exact cos g f
  | tanh g f => exact tanh g f
  | shfl g f => exact shfl g f
  | poll g f => exact poll g f
  | lead g f => exact lead g f
  | ifold g f => exact ifold g f
  | ffold g f => exact ffold g f
  | peers g f => exact peers g f
  | qbcast g f => exact qbcast g f
  | prefixOp g f => exact prefixOp g f
  | smov g f => exact smov g f
  | smovImm g f => exact smovImm g f
  | smovIns g f => exact smovIns g f
  | salu g f => exact salu g f
  | scmp g f => exact scmp g f
  | v2sFirst g f => exact v2sFirst g f
  | v2sUni g f => exact v2sUni g f
  | v2sLane g f => exact v2sLane g f
  | sload g f => exact sload g f
  | sbra g f => exact sbra g f
  | slea g f => exact slea g f
  | spark g f => exact spark g f
  | rmask g f => exact rmask g f
  | ld g f => exact ld g f
  | st g f => exact st g f
  | lds g f => exact lds g f
  | sts g f => exact sts g f
  | ldc g f => exact ldc g f
  | ldb g f => exact ldb g f
  | stb g f => exact stb g f
  | ldl g f => exact ldl g f
  | stl g f => exact stl g f
  | pref g f => exact pref g f
  | fence g f => exact fence g f
  | cinv g f => exact cinv g f
  | ccln g f => exact ccln g f
  | atom g f => exact atom g f
  | atomc g f => exact atomc g f
  | atomf g f => exact atomf g f
  | red g f => exact red g f
  | atoms g f => exact atoms g f
  | waitc g f => exact waitc g f
  | mma g f => exact mma g f
  | mmas g f => exact mmas g f
  | zclr g f => exact zclr g f
  | zrd g f => exact zrd g f
  | zst g f => exact zst g f
  | zld g f => exact zld g f
  | tld g f => exact tld g f
  | tst g f => exact tst g f
  | cpy g f => exact cpy g f
  | cpyo g f => exact cpyo g f
  | cpys g f => exact cpys g f
  | cpyg g f => exact cpyg g f
  | fesetFull g f => exact fesetFull g f
  | fesetEmpty g f => exact fesetEmpty g f
  | feqry g f => exact feqry g f
  | evpop g f => exact evpop g f
  | evpush g f => exact evpush g f
  | barInit g f => exact barInit g f
  | barArv g f => exact barArv g f
  | barWait g f => exact barWait g f
  | barSync g f => exact barSync g f
  | barDrop g f => exact barDrop g f
  | barWpar g f => exact barWpar g f
  | barQ g f => exact barQ g f
  | nprb g f => exact nprb g f
  | npre g f => exact npre g f
  | trd g f => exact trd g f
  | twr g f => exact twr g f
  | tatm g f => exact tatm g f
  | enq g f => exact enq g f
  | launch g f => exact launch g f
  | depdec g f => exact depdec g f
  | grow g f => exact grow g f
  | shrink g f => exact shrink g f
  | qpop g f => exact qpop g f
  | qrel g f => exact qrel g f
  | heat g f => exact heat g f
  | srec g f => exact srec g f
  | sld g f => exact sld g f
  | sldSp g f => exact sldSp g f
  | sbktQ g f => exact sbktQ g f
  | sbktLock g f => exact sbktLock g f
  | sbktUnlock g f => exact sbktUnlock g f
  | sevtLimit g f => exact sevtLimit g f
  | sevtAge g f => exact sevtAge g f
  | sevtDrop g f => exact sevtDrop g f
  | prio g f => exact prio g f
  | prioW g f => exact prioW g f
  | emap g f => exact emap g f
  | rbox g f => exact rbox g f
  | rtri g f => exact rtri g f
  | probe g f => exact probe g f
  | reproj g f => exact reproj g f
  | xeye g f => exact xeye g f
  | rowq g f => exact rowq g f
  | roww g f => exact roww g f
  | stamp g f => exact stamp g f
  | trail g f => exact trail g f
  | tmark g f => exact tmark g f
  | perfc g f => exact perfc g f
  | sysrd g f => exact sysrd g f
  | syswr g f => exact syswr g f
  | wset g f => exact wset g f
  | wclr g f => exact wclr g f
  | hlist g f => exact hlist g f
  | hins g f => exact hins g f
  | hput g f => exact hput g f
  | hstep g f => exact hstep g f
  | hres g f => exact hres g f
  | _ => exact noWord rfl

/-- Settles O1: what the tables read from the encoding is the instruction, and its checks pass by hypothesis. -/
theorem decodeEncode : Obligations.DecodeEncode :=
  fun i w hi hw => decode_ok.mpr ⟨decodeRaw_encode i w hi hw, hi⟩

/-- Settles O2: opcode, guard and operands of the decoded instruction are all of the word. -/
theorem encodeDecode : Obligations.EncodeDecode := by
  intro i w h
  obtain ⟨f, hf, hw⟩ := word_of_decodeRaw (decode_ok.mp h).1
  unfold encode
  rw [hw, Option.map_some]
  dsimp only
  rw [bits_of_readings hf, word_of_parts]

/-- Settles O3: the decoder's own evaluation of the seven words. -/
theorem decodedWords : Obligations.DecodedWords := by
  unfold Obligations.DecodedWords
  decide

/-- Settles O4: the opcode map has no row for exactly the opcodes that R71 leaves out. -/
theorem unmappedOpcodes : Obligations.UnmappedOpcodes :=
  fun _ => decode_illegal.trans decodeRaw_eq_none

end Sys2Proof
end

section
/-! PROOFS. The issue of a word of any kind: every instruction word is issued by the one operation `State.issueWord`, so that the checks of
its encoding and its guard act alike for all of them (O5, O7, O8). -/

namespace Sys2Proof.Machine

/-- The instruction word `i` is issued by `State.issueWord` in environment `e`, with the operands `ops` for its destinations. -/
def Issues (i : Instr) (s : State) (e : Env) : Prop :=
  ∃ (ops : List Operand) (pre : PreCheck) (body : Env → State → Res),
    exec i s = .next (afterWord i e (s.issueWord i { e with ops := ops } pre body))

section
variable {i : Instr} {s : State} {e : Env} {pre : PreCheck} {body : Env → State → Res}

theorem issues_of_runWord (he : s.env? i = some e) (hexec : exec i s = runWord i pre body s) (hafter : afterWord i e = id) : Issues i s e := by
  refine ⟨e.ops, pre, body, ?_⟩
  rw [hexec, hafter]
  simp only [runWord, he, id]

theorem issues_of_runMtx {op : QuarterOp} {long : Option OpClass} (he : s.env? i = some e) (hw : e.waiting e.g .quarter = [])
    (hexec : exec i s = runMtx i pre op long s) (hafter : afterWord i e = id) : Issues i s e := by
  refine ⟨e.ops, pre, mxRes op long, ?_⟩
  rw [hexec, hafter]
  simp only [runMtx, he, join_alone hw, id]

/-- `ZRD` and `TLD`, whose destinations a guard that holds nowhere may keep out of the budget. -/
theorem unguarded_eq (e : Env) : e.unguarded = { e with ops := e.unguarded.ops } := by
  unfold Env.unguarded
  split <;> rfl

end

/-- Every instruction word is issued by the one operation. -/
theorem issues_of_isWord {i : Instr} {s : State} {e : Env} (hi : i.isWord = true) (he : s.env? i = some e) (hj : unjoined i e) : Issues i s e := by
  cases i
  case hstep g f => exact ⟨e.ops, noCheck, hstepRes f, by simp only [exec, execHstep, he]; rfl⟩
  case mma | mmas | zclr | zst | zld | tst => exact issues_of_runMtx he (hj rfl) rfl rfl
  case zrd g f =>
    refine ⟨e.unguarded.ops, zrdPre f, fun e s => qDests e s (mxRes (zrdQuarter f) (some .mx) e s), ?_⟩
    simp only [exec, execZrd, he, join_alone (hj rfl), ← unguarded_eq, afterWord]
  case tld g f =>
    refine ⟨e.unguarded.ops, noCheck, fun e s => qDests e s (mxRes (tldQuarter f) (some .ld) e s), ?_⟩
    simp only [exec, execTld, he, join_alone (hj rfl), ← unguarded_eq, afterWord]
  all_goals simp only [Instr.isWord, Instr.word, Option.isSome_none, Option.isSome_some, Bool.false_eq_true] at hi
  all_goals exact issues_of_runWord he rfl rfl

section
variable {i : Instr} {s : State} {e : Env}

/-- What an encoding check that fails makes of the word, whatever its operands. -/
theorem exec_encoding {c : Cause} (h : Issues i s e) (hw : s.watches e.ck 0 = []) (hc : s.encCheck i e = some c) :
    exec i s = .next (afterWord i e (s.trapBefore e 0 c 0 0 0 (lowLane (e.ig.mask &&& ~~~e.ig.done)))) := by
  obtain ⟨ops, pre, body, h⟩ := h
  have hc' : s.encCheck i { e with ops := ops } = some c := hc
  rw [h, issueWord_unwatched (e := { e with ops := ops }) hw, hc']
  rfl

theorem exec_never (h : Issues i s e) (hw : s.watches e.ck 0 = []) (hc : s.encCheck i e = none) (hn : neverGuard i.guard = true) :
    exec i s = .next (afterWord i e (s.finish { e with act := 0, guarded := 0, ops := [] } {} none [] true id)) := by
  obtain ⟨ops, pre, body, h⟩ := h
  have hc' : s.encCheck i { e with ops := ops } = none := hc
  rw [h, issueWord_unwatched (e := { e with ops := ops }) hw, hc']
  simp only [hn, if_true]

theorem encCheck_unprivileged (hcls : (opClass i.op).code = e.ig.cls) (hctl : controlOp i.op = false) (hp : privilegedOp i.op = true)
    (hx : s.privileged e.x = false) : s.encCheck i e = some 0x07 := by
  unfold State.encCheck
  simp [hcls, hctl, hp, hx]

end

/-- Settles O7: every word is issued by the one operation, which makes the checks of the encoding before anything else. -/
theorem encodingTraps : Obligations.EncodingTraps := by
  refine ⟨fun i s e c hi he hj hw hc => exec_encoding (issues_of_isWord hi he hj) hw hc, fun g f s e i hi he hw hcls hx => ?_,
    fun g f s e he hw hc hn => ?_⟩
  · have hc : s.encCheck i e = some 0x07 := by
      rcases hi with rfl | rfl
      · exact encCheck_unprivileged hcls rfl rfl hx
      · exact encCheck_unprivileged hcls rfl rfl hx
    rcases hi with rfl | rfl
    · exact exec_encoding (issues_of_isWord rfl he (fun h => absurd h Bool.false_ne_true)) hw hc
    · exact exec_encoding (issues_of_isWord rfl he (fun h => absurd h Bool.false_ne_true)) hw hc
  · exact (exec_never (issues_of_isWord rfl he (fun h => absurd h Bool.false_ne_true)) hw hc hn).trans (by simp only [afterWord])

theorem afterWord_of_ne {i : Instr} (e : Env) (h : ∀ g f, i ≠ .hstep g f) : afterWord i e = id := by
  funext t
  unfold afterWord
  split
  · exact absurd rfl (h _ _)
  · rfl

/-- A lane in which the guard's predicate, negated or not, holds. -/
theorem guardMask_getLsbD (h : Group) (gd : Guard) {l : Nat} (hl : l < 32) :
    (h.guardMask gd).getLsbD l = Bool.xor gd.n (if gd.p = 7 then true else (h.thread l).preds.getLsbD gd.p.toNat) := by
  have hp : (h.predMask gd.p).getLsbD l = if gd.p = 7 then true else (h.thread l).preds.getLsbD gd.p.toNat := by
    unfold Group.predMask
    by_cases h7 : gd.p = 7
    · rw [h7]
      exact predMask_p7 h hl
    · simp only [beq_eq_false_iff_ne.mpr h7, h7, Bool.false_eq_true, if_false]
      exact maskOf_getLsbD _ hl
  unfold Group.guardMask
  split <;> simp_all

/-- Settles O8: opcode and guard are fields of the word, and a never-guarded word completes with no operand and no effect. -/
theorem neverGuarded : Obligations.NeverGuarded := by
  refine ⟨fun w i h => ?word, fun h gd l hl => ?lanes, fun gd => ?never, fun i s e hi he hj hw hc hn hne => ?done⟩
  case word =>
    obtain ⟨f, -, hf⟩ := word_of_decodeRaw (decode_ok.mp h).1
    exact ⟨by rw [Instr.op, hf]; exact BitVec.ofNat_toNat ..,  by simp [Instr.guard, hf, parseGuard]⟩
  case lanes => exact guardMask_getLsbD h gd hl
  case never => simp [neverGuard]
  case done =>
    rw [exec_never (issues_of_isWord hi he hj) hw hc hn, afterWord_of_ne e hne, id]


/-- A fetch that meets no error and finds what was placed. -/
theorem fetchCode_word {s v : State} {ck : Nat} {t : Team} {va : Word} {p : Phys} (htr : s.translate ck (s.teamCtx t) va.toNat 2 = (.ok p, v))
    (hhome : v.homePoison p.pa 8 = none) (hcopy : v.copyPoison (ErrPlace.icache? ck) p.pa 8 = none)
    (hcode : (SMap.get? t.code va.toNat).getD (v.word64 p.pa) = v.word64 p.pa) : s.fetchCode ck t va = (.word (v.word64 p.pa), v) := by
  unfold State.fetchCode
  rw [htr]
  simp only [hhome, hcopy]
  cases hold : SMap.get? t.code va.toNat with
  | none => rfl
  | some old =>
    rw [hold] at hcode
    simp only [Option.getD_some] at hcode
    subst hcode
    simp

theorem step_word {s u : State} {pk : Nat} (ha : s.agenda = []) (ht : s.turn = (.word pk, u)) : step s = u.issueStep pk := by
  unfold step State.ownStep
  rw [ha]
  simp only [ht]

/-- Settles O5: the turn of a partition fetches the word at its PC, and its meaning is that of the decoded instruction. -/
theorem stepRunsDecoded : Obligations.StepRunsDecoded := by
  intro s u v pk e p i ha ht he htr hhome hcopy hcode hd
  rw [step_word ha ht]
  unfold State.issueStep
  simp only [he, fetchCode_word htr hhome hcopy hcode, (decode_ok.mp hd).1]
end Sys2Proof.Machine
end

section
/-! PROOFS. Two statements that do not ask for canonical maps, refuted in states whose maps list a key twice: the registers that an
instruction leaves (O10) and what follows a word at its boundary (O9). -/

namespace Sys2Proof.Machine

/-! ### Registers of a frame that are listed twice -/

/-- Lane `k` holds 1 and the others 0. -/
def oneIn (k : Nat) : Lanes W32 := lanes fun l => if l = k then 1 else 0

/-- A frame whose map of `h` registers lists register 0 twice. -/
def doubledFrame : Frame :=
  { cause := 0, hdr := 0, pos := 0, issue := 0, done := 0, info := 0, threads := Vector.replicate 32 (Thread.init 0), susp := [], hset := 0,
    h := [(0, oneIn 1), (0, oneIn 0)], kind := 0, lvl := 0, lane := 0, ig := none }

def doubledRegs : Group := { Group.fresh 0 0 0 0 0 with frames := [doubledFrame] }

/-- A write of 0 to lane 1 of `h` register 0. -/
def clearsLane1 : Eff := { regs := [{ reg := 216, mask := 2, vals := zeros }] }

theorem doubledRegs_commit : Lanes.at ((doubledRegs.commit [] 0 clearsLane1).readH 0) 0 = 1 ∧ Lanes.at (doubledRegs.readH 0) 0 = 0 := by
  decide +kernel

/-- Refutes O10: the statement does not ask that the map of `h` registers be in canonical form. Where it lists a register twice, a write
that leaves 0 in every lane takes the first entry away, and the second shows in the lanes that it does not name. -/
theorem not_commitFrame : ¬ Obligations.CommitFrame := by
  intro h
  obtain ⟨-, -, -, -, hh, -, -⟩ := h doubledRegs [] 0 clearsLane1
  have hno : ¬ ∃ w ∈ clearsLane1.regs, regKind w.reg = .h ∧ w.reg.toNat = 216 + 0 ∧ w.mask.getLsbD 0 = true := by decide
  have := hh 0 0 (by decide) (by decide) hno
  rw [doubledRegs_commit.1, doubledRegs_commit.2] at this
  exact absurd this (by decide)

/-! ### A partition that is listed twice -/

/-- The issue group of lane 0 of group 0, and one of another slot that no run leaves beside it. -/
def word0 : IssueGroup := IssueGroup.form 0 1 0 0 0 1 false
def strayIg : IssueGroup := IssueGroup.form 1 1 0 0 0 1 false

/-- A group whose trap waits for the host, so that a further trap only stands behind it. -/
def waitingFrame : Frame := { doubledFrame with h := [] }
def waitingGroup : Group := { Group.fresh 0 0 0 0 0 with hostTrap := some (waitingFrame, 0) }

/-- A state that no run reaches: partition 0 is listed twice. -/
def doubledActive : State := { State.reset with groups := [(0, waitingGroup)], active := [(0, word0), (0, strayIg)] }

def doubledEnv : Env :=
  { op := 0, pk := 0, gk := 0, tid := 0, x := 0, g := waitingGroup, t := Team.place 0 0 0 0 0 0 0 0 (Kernel.blank 0), ig := word0, act := 0,
    guarded := 0, ops := [], vals := [] }

theorem doubledActive_quiet : Quiet doubledActive doubledEnv :=
  { group := by decide, ig := by decide, slot := by decide, part := by decide, watch := by decide, halts := by decide, pending := by decide,
    runs := ⟨0, by decide⟩ }

theorem doubledActive_finish :
   (doubledActive.finish doubledEnv {} (some fun _ t => t) [(1, 0)] true id).active = [] := by
  decide +kernel

theorem parkIg_other {s : State} {gk : Nat} {ig : IssueGroup} (h : s.ig? (gkPart gk) = some ig) (hs : ig.slot ≠ gkSlot gk) : s.parkIg gk = s := by
  unfold State.parkIg
  simp only [h, bne_iff_ne.mpr hs, if_true]


theorem convRelease_hostTrap (g : Group) : g.convRelease.hostTrap = g.hostTrap := by
  unfold Group.convRelease
  split
  · simp only [Group.modThreads]
  · rfl

/-- Traps of a group that waits for the host stand behind its trap; with a live thread it stays, and nothing is delivered. -/
theorem behindHost_active {s : State} {gk : Nat} {g : Group} {ig : IssueGroup} (hg : s.group? gk = some g) (hhost : g.hostTrap.isSome = true)
    (hlive : g.allExited = false) (hig : s.ig? (gkPart gk) = some ig) (hslot : ig.slot ≠ gkSlot gk) (a : TrapAt) (as : List TrapAt)
    (force : Bool) (b : Mask) : (((s.takeTraps gk (a :: as) force).settle gk).deliverPending gk b).active = s.active := by
  obtain ⟨h, htake, hh, hl⟩ : ∃ h, s.takeTraps gk (a :: as) force = s.setGroup gk h ∧ h.hostTrap.isSome = true ∧ h.allExited = false := by
    unfold State.takeTraps
    simp only [parkIg_other hig hslot, hg, hhost, Bool.or_true, Bool.true_or, if_true]
    exact ⟨_, rfl, hhost, hlive⟩
  have hsettle : (s.setGroup gk h).settle gk = s.setGroup gk h.convRelease := by
    unfold State.settle
    simp only [State.group?_setGroup, hl, Bool.false_eq_true, if_false]
    exact setGroup_setGroup ..
  rw [htake, hsettle]
  unfold State.deliverPending
  simp only [State.group?_setGroup, convRelease_hostTrap, hh, Bool.true_or, if_true]
  rfl

/-- Refutes O9: the statement does not ask that the issue groups be in canonical form (`SMap.sorted s.active`). Where a partition is listed
twice, the boundary with a trap takes both entries away, and a boundary that has only let the threads stand takes one. -/
theorem not_wordBoundary : ¬ Obligations.WordBoundary := by
  intro h
  obtain ⟨-, -, htraps, -⟩ := h doubledActive doubledEnv {} doubledActive_quiet
  obtain ⟨u, ⟨-, hactive, hgroup⟩, hfin⟩ := htraps (some fun _ t => t) [(1, 0)] [] 1 0 rfl (.inr rfl) (by decide)
  have hig : u.ig? 0 = some strayIg := by rw [State.ig?, hactive]; rfl
  have hlost := congrArg State.active hfin
  rw [doubledActive_finish, List.map_cons, behindHost_active hgroup rfl (by decide +kernel) hig (by decide), hactive] at hlost
  exact absurd hlost (by decide)
end Sys2Proof.Machine
end

section
/-! PROOFS. Loads and stores: generic accesses (O25), the scratchpad, the constant bank and the berm (O27, O28). -/

namespace Sys2Proof.Machine

/-! ### Generic loads and stores (09_memory R203, R213, R221, R222) -/

section
variable {f : FmtM} {e : Env} {s : State}

/-- No lane of an access is misaligned where it has an ordering. -/
theorem orderedMisaligned_none {ordered : Bool} {n : Nat} {addr : Nat → Nat} (h : ordered = true → ∀ l ∈ e.lanes, addr l % n = 0) :
    orderedMisaligned e ordered n addr = none := by
  unfold orderedMisaligned
  split
  · rename_i ho
    rw [List.find?_eq_none]
    intro a ha
    obtain ⟨l, hl, rfl⟩ := List.mem_map.mp ha
    simp [h ho l hl]
  · rfl

theorem noAction : (actionLanes [] == 0) = true := rfl
theorem act_unwatched (m : Mask) : m &&& ~~~actionLanes [] = m := BitVec.and_allOnes

/-- Lanes that pass, after which the state has become `t`. -/
theorem Perf.passes.res_at {p : Perf} (h : p.passes) (t : State) (x : Eff) : ({ p with s := t } : Perf).res x [] = .done t x :=
  Perf.passes.res (p := { p with s := t }) h x

/-- A load whose ordering neither traps nor waits: its lanes, and the acquire after them. -/
theorem ldRes_passes (hw : s.watches e.ck 0 = []) (hal : memAcq f = true → ∀ l ∈ e.lanes, genAddr e (f.off.signExtend 64) l % widthBytes f.width = 0)
    (hclean : s.mustClean e (memAcq f) f.scope.toNat = false) {p : Perf}
    (hp : perLane s e.act (fun s l => s.loadLane e (genAddr e (f.off.signExtend 64) l) (widthBytes f.width) (memAcq f) f.scope.toNat) = p)
    (hpass : p.passes) :
    ldRes f e s = .done (if memAcq f && p.done != 0 then p.s.acquire e.ck f.scope.toNat else p.s)
      { regs := loadRegs f.width f.data p.done p.vals, long := some .ld } := by
  unfold ldRes
  simp only [orderedMisaligned_none hal, hclean, Bool.false_eq_true, if_false, addrHits_unwatched hw, act_unwatched, hp, noAction, if_true,
    recordHits_nil]
  exact hpass.res_at _ _

/-- A store whose ordering neither traps nor waits: its lanes, after the release. -/
theorem stRes_passes (hw : s.watches e.ck 0 = []) (hal : memRel f = true → ∀ l ∈ e.lanes, genAddr e (f.off.signExtend 64) l % widthBytes f.width = 0)
    (hclean : s.mustClean e (memRel f) f.scope.toNat = false) {p : Perf}
    (hp : perLane (if memRel f && e.act != 0 then s.release e.ck f.scope.toNat else s) e.act
      (fun s l => s.storeLane e (genAddr e (f.off.signExtend 64) l) (storeBytes e 1 f.width l) (memRel f) f.scope.toNat) = p)
    (hpass : p.passes) : stRes f e s = .done p.s {} := by
  unfold stRes
  simp only [orderedMisaligned_none hal, hclean, Bool.false_eq_true, if_false, addrHits_unwatched hw, act_unwatched]
  exact (congrArg (Perf.res · {} []) hp).trans (Perf.passes.res hpass _)

/-- The scalar load of the lowest member. -/
theorem sloadRes_loads {bs : List Byte} {t : State} (hw : s.watches e.ck 0 = [])
    (hal : genAddr e (f.off.signExtend 64) e.low % widthBytes f.width = 0) (hclean : s.mustClean e (memAcq f) f.scope.toNat = false)
    (hload : s.loadLane e (genAddr e (f.off.signExtend 64) e.low) (widthBytes f.width) (memAcq f) f.scope.toNat = (.ok bs, t)) :
    sloadRes f e s = .done (if memAcq f then t.acquire e.ck f.scope.toNat else t) { sreg := some (f.data, BitVec.ofNat 64 (leNat bs)) } := by
  unfold sloadRes
  simp only [hal, bne_self_eq_false, hclean, Bool.false_eq_true, if_false, addrHits_unwatched hw, recordHits_nil, hload]
  rfl

end

/-- Settles O25: with the orderings' checks passed, each word is its lanes in ascending order, and its acquire or release. -/
theorem genericAccess : Obligations.GenericAccess := by
  intro g f s e
  refine ⟨fun h hal hclean hpass => ?load, fun h hal hclean hpass => ?store, fun bs t h h0 hall hal hclean hload => ?scalar⟩
  case load => exact completes_to_of_runWord h rfl (ldRes_passes h.watch hal hclean rfl hpass)
  case store => exact completes_to_of_runWord h rfl (stRes_passes h.watch hal hclean rfl hpass)
  case scalar =>
    refine completes_to_of_runWord h rfl ?_
    rw [scalarRes, beq_eq_false_iff_ne.mpr h0, bne_eq_false_iff_eq.mpr hall]
    exact sloadRes_loads h.watch hal hclean hload

/-! ### The scratchpad, the constant bank and the berm: loads -/

/-- Lanes that all complete without a change of the state, each with its own bytes. -/
theorem perLane_reads {s : State} {m : Mask} {fn : State → Nat → LaneEnd × State} {v : Nat → List Byte}
    (h : ∀ l ∈ maskLanes m, fn s l = (.ok (v l), s)) :
    (perLane s m fn).Through (· = s) (fun l bs => bs = v l) (maskLanes m) :=
  perLane_through rfl fun u hu l hl => by
    subst hu
    exact ⟨_, _, h l hl, rfl, rfl⟩

/-- A load of which every lane reads `v` and nothing else happens completes with `v` in its lanes. -/
theorem completes_of_reads {i : Instr} {s : State} {e : Env} {w : BitVec 3} {r : BitVec 8} {fn : State → Nat → LaneEnd × State}
    {v : Nat → List Byte} {body : Env → State → Res} (h : Ready s i e) (hexec : exec i s = runWord i noCheck body s)
    (hbody : body e s = (perLane s e.act fn).res
      { regs := loadRegs w r (perLane s e.act fn).done (perLane s e.act fn).vals, long := some .ld } [])
    (hv : ∀ l ∈ e.lanes, fn s l = (.ok (v l), s)) :
    ∃ vals, Completes s i e s { regs := loadRegs w r e.act vals, long := some .ld } ∧ ∀ l ∈ e.lanes, Lanes.at vals l = v l := by
  have hall := perLane_reads hv
  refine ⟨(perLane s e.act fn).vals, completes_to_of_runWord h hexec (hbody.trans ?_), fun l hl => hall.vals l hl (maskLanes_lt hl).1⟩
  simp only [hall.res, hall.done_eq]
  rw [hall.state]

section
variable {e : Env} {s : State}

theorem scratchLane_reads {tl : Bool} {a n : Nat} (ht : s.team? e.tid = some e.t) (hm : s.marks = []) (hv : s.moved = [])
    (hc : scratchCheck e.t a n = none) (hline : e.t.lineEmpty a = false) : s.scratchLane e tl a n = (.ok (e.t.scratchBytes a n), s) := by
  simp [State.scratchLane, ht, hc, hline, localPoison_clean hm hv]

/-- A byte of the constant bank, which memory still holds as it was placed. -/
theorem bankByte_placed {o : Nat} (h : e.t.kernel.constSize ≤ o
      ∨ s.readVirt e.d e.x (e.t.kernel.image.toNat + e.t.kernel.constOff + o) 1 0 = some [SMap.getD e.t.const o 0]) :
    s.bankByte e o = (if e.t.kernel.constSize ≤ o then 0 else SMap.getD e.t.const o 0, s) := by
  unfold State.bankByte
  by_cases hsize : e.t.kernel.constSize ≤ o
  · simp only [hsize, if_true]
  · simp only [hsize, if_false, h.resolve_left hsize, beq_self_eq_true, if_true]

/-- Bytes read one after another, none of whose reads changes the state. -/
theorem foldl_reads {read : State → Nat → Byte × State} {v : Nat → Byte} (ks : List Nat) (h : ∀ k ∈ ks, read s k = (v k, s)) (acc : List Byte) :
    ks.foldl (fun (acc : List Byte × State) k => let (b, s) := read acc.2 k; (acc.1 ++ [b], s)) (acc, s) = (acc ++ ks.map v, s) := by
  induction ks generalizing acc with
  | nil => simp
  | cons k r ih =>
    rw [List.foldl_cons]
    simp only [h k (by simp)]
    rw [ih (fun j hj => h j (by simp [hj]))]
    simp

theorem bankPoison_clean (hm : s.marks = []) (hv : s.moved = []) (o n : Nat) : s.bankPoison e o n = none := by
  simp [State.bankPoison, hm, hv]

/-- `n` bytes of the berm window that an offset names. -/
def Team.bermBytes (t : Team) (a n : Nat) : List Byte :=
  (t.windows[bitsOf a 18 2]?).elim [] fun w => (List.range n).map fun k => SMap.getD w.data (bitsOf a 0 18 + k) 0

theorem bermBytes_of_window {t : Team} {a : Nat} {w : Window} (h : t.windows[bitsOf a 18 2]? = some w) (n : Nat) :
    t.bermBytes a n = (List.range n).map fun k => SMap.getD w.data (bitsOf a 0 18 + k) 0 := by
  rw [Team.bermBytes, h]
  rfl

theorem bermCheck_window {t : Team} {a n : Nat} {w : Window} (h : bermCheck t a n = .ok w) : t.windows[bitsOf a 18 2]? = some w := by
  unfold bermCheck at h
  split at h
  · cases h
  · split at h
    · cases h
    · rename_i w' hw
      split at h
      · cases h
      · split at h
        · cases h
        · exact hw.trans (congrArg some (Except.ok.inj h))

end

/-- Settles O27: no lane of the three loads changes the state, and each reads its own bytes. -/
theorem localLoads : Obligations.LocalLoads := by
  intro g f s e ht hm hv
  refine ⟨fun h hok => ?scratch, fun h hok => ?bank, fun h hok => ?berm⟩
  case scratch =>
    exact completes_of_reads h rfl rfl fun l hl => scratchLane_reads ht hm hv (hok l hl).1 (hok l hl).2
  case bank =>
    refine completes_of_reads h rfl rfl fun l hl => ?_
    obtain ⟨hsize, hplaced⟩ := hok l hl
    have hfold := foldl_reads (read := fun s k => s.bankByte e (localAddr e (f.off.signExtend 32) l + k)) (List.range (widthBytes f.width))
      (fun k hk => bankByte_placed (hplaced k (List.mem_range.mp hk))) []
    simp only [Nat.not_lt.mpr hsize, if_false, hfold, bankPoison_clean hm hv, List.nil_append]
  case berm =>
    obtain ⟨vals, hdone, hvals⟩ := completes_of_reads
      (v := fun l => e.t.bermBytes (localAddr e (f.off.signExtend 32) l) (widthBytes f.width)) h rfl rfl fun l hl => by
        obtain ⟨w, hw⟩ := hok l hl
        simp only [hw, localPoison_clean hm hv, ← bermBytes_of_window (bermCheck_window hw)]
    exact ⟨vals, hdone, fun l hl w hw => (hvals l hl).trans (bermBytes_of_window hw _)⟩

/-! ### The scratchpad and the berm: stores -/

/-- Lanes that all complete, each with one step of the state. -/
theorem perLane_steps {s : State} {m : Mask} {fn : State → Nat → LaneEnd × State} {next : State → Nat → State}
    (h : ∀ u, ∀ l ∈ maskLanes m, fn u l = (.ok [], next u l)) :
    (perLane s m fn).passes ∧ (perLane s m fn).s = (maskLanes m).foldl next s := by
  have hsteps : ∀ (ls : List Nat) (p : Perf), (∀ l ∈ ls, l ∈ maskLanes m) → p.passes →
      (ls.foldl (fun p l => p.add l (fn p.s l).1 (fn p.s l).2) p).passes
        ∧ (ls.foldl (fun p l => p.add l (fn p.s l).1 (fn p.s l).2) p).s = ls.foldl next p.s := by
    intro ls
    induction ls with
    | nil => exact fun p _ hp => ⟨hp, rfl⟩
    | cons l r ih =>
      intro p hls hp
      rw [List.foldl_cons, List.foldl_cons, h p.s l (hls l (by simp))]
      exact ih (p.add l (.ok []) (next p.s l)) (fun j hj => hls j (by simp [hj])) hp
  exact hsteps (maskLanes m) (Perf.start s) (fun _ hl => hl) ⟨rfl, rfl⟩

/-- A store all of whose lanes pass completes when they have written in ascending order. -/
theorem completes_of_stores {i : Instr} {s : State} {e : Env} {fn : State → Nat → LaneEnd × State} {next : State → Nat → State}
    {body : Env → State → Res} (h : Ready s i e) (hexec : exec i s = runWord i noCheck body s)
    (hbody : body e s = (perLane s e.act fn).res {} []) (hnext : ∀ u, ∀ l ∈ e.lanes, fn u l = (.ok [], next u l)) :
    Completes s i e (e.lanes.foldl next s) {} := by
  obtain ⟨hpass, hs⟩ := perLane_steps (s := s) hnext
  exact completes_to_of_runWord h hexec (hbody.trans ((hpass.res {}).trans (congrArg (Res.done · {}) hs)))

/-- The bytes put are read back; every other byte stays. -/
theorem getD_putBytes {m : SMap Byte} (h : SMap.sorted m = true) (a b : Nat) (bs : List Byte) :
    SMap.getD (putBytes m a bs) b 0 = if a ≤ b ∧ b < a + bs.length then bs.getD (b - a) 0 else SMap.getD m b 0 := by
  have hput : ∀ (bs : List Byte) (j : Nat) (m : SMap Byte), SMap.sorted m = true →
      SMap.getD ((bs.zipIdx j).foldl (fun m p => SMap.put m 0 (a + p.2) p.1) m) b 0
        = if a + j ≤ b ∧ b < a + j + bs.length then bs.getD (b - (a + j)) 0 else SMap.getD m b 0 := by
    intro bs
    induction bs with
    | nil => intro j m _; rw [if_neg (by simp only [List.length_nil]; omega)]; rfl
    | cons c r ih =>
      intro j m h
      rw [List.zipIdx_cons, List.foldl_cons, ih (j + 1) _ (sorted_put h), SMap.getD_put _ _ _ h]
      by_cases hj : b = a + j
      · subst hj
        simp
      · by_cases hr : a + (j + 1) ≤ b ∧ b < a + (j + 1) + r.length
        · obtain ⟨k, hk⟩ : ∃ k, b - (a + j) = k + 1 := ⟨b - (a + j) - 1, by omega⟩
          rw [if_pos hr, if_pos (by simp only [List.length_cons]; omega), hk, List.getD_cons_succ]
          congr 1
          omega
        · rw [if_neg hr, if_neg hj, if_neg (by simp only [List.length_cons]; omega)]
  exact hput bs 0 m h

/-- A write to the scratchpad leaves the machine as it is but for the team's bytes and marks. -/
theorem writeScratch_fields (s : State) (tid a : Nat) (bs : List Byte) :
    ∃ ms vs, s.writeScratch tid a bs
      = { s.modTeam tid (fun t => { t with scratch := putBytes t.scratch a bs }) with marks := ms, moved := vs } := by
  unfold State.writeScratch State.dropMarks
  split
  · exact ⟨_, _, rfl⟩
  · exact ⟨_, _, rfl⟩

/-- Settles O28: the lanes of a store write in ascending order, and a write to the scratchpad is one of the team's bytes. -/
theorem localStores : Obligations.LocalStores := by
  refine ⟨fun g f s e => ⟨fun h hok => ?scratch, fun h hok => ?berm⟩, fun s tid a bs t ht hs => ?frame⟩
  case scratch => exact completes_of_stores h rfl rfl fun u l hl => by simp only [hok l hl]
  case berm =>
    exact completes_of_stores h rfl rfl fun u l hl => by
      obtain ⟨w, hw⟩ := hok l hl
      simp only [hw]
  case frame =>
    obtain ⟨ms, vs, hw⟩ := writeScratch_fields s tid a bs
    have hteam : (s.writeScratch tid a bs).team? tid = some { t with scratch := putBytes t.scratch a bs } := by
      rw [hw]
      exact (State.team?_modTeam s tid _).trans (by rw [ht]; rfl)
    refine ⟨_, hteam, fun b hb => ?_, fun k hk => ?_, fun k hk => ?_, fun pa => ?_, ?_⟩
    · exact (getD_putBytes hs a b bs).trans (if_neg (by omega))
    · rw [getD_putBytes hs, if_pos (by omega), Nat.add_sub_cancel_left]
    · rw [hw]
      exact State.team?_modTeam_other s _ hk
    · rw [hw]
      exact congrArg (Memory.read · pa) (State.modTeam_mem s tid _)
    · rw [hw]
      exact State.modTeam_groups s tid _

end Sys2Proof.Machine
end

section
/-! PROOFS. Line accesses, fences and the cache instructions (O29): what cleaning a column cache writes, and a line store as one write for
each lane. -/

namespace Sys2Proof.Machine

/-! ### Writes of memory, one after another -/

theorem Memory.writes_append (m : List Host.Cell) (pa : Nat) (as bs : List Byte) :
    Memory.writes m pa (as ++ bs) = Memory.writes (Memory.writes m pa as) (pa + as.length) bs := by
  induction as generalizing m pa with
  | nil => rfl
  | cons a r ih =>
    rw [List.cons_append, Memory.writes, ih, List.length_cons, Memory.writes]
    congr 1
    omega

/-- Writes at several places. -/
def Memory.writeAll (m : List Host.Cell) (ws : List (Nat × List Byte)) : List Host.Cell := ws.foldl (fun m w => Memory.writes m w.1 w.2) m

theorem Memory.writeAll_wf {m : List Host.Cell} (h : Memory.wf m) (ws : List (Nat × List Byte)) : Memory.wf (Memory.writeAll m ws) := by
  induction ws generalizing m with
  | nil => exact h
  | cons w r ih => exact ih (Memory.writes_wf w.1 w.2 h)

/-- A byte that none of the writes names stays. -/
theorem Memory.read_writeAll_outside {m : List Host.Cell} (h : Memory.wf m) {a : Nat} {ws : List (Nat × List Byte)}
    (ha : ∀ w ∈ ws, a < w.1 ∨ w.1 + w.2.length ≤ a) : Memory.read (Memory.writeAll m ws) a = Memory.read m a := by
  induction ws generalizing m with
  | nil => rfl
  | cons w r ih =>
    refine (ih (Memory.writes_wf w.1 w.2 h) fun v hv => ha v (by simp [hv])).trans ?_
    rw [Memory.read_writes _ _ _ h, if_neg (by have := ha w (by simp); omega)]

/-! ### Cleaning a column cache (09_memory R202, R226) -/

/-- The writes of dirty bytes: neighbouring bytes of an 8-byte unit go together. `acc` is the run that is being gathered. -/
def cleanRuns : List (Nat × ColByte) → Option (Nat × List Byte) → List (Nat × List Byte)
  | [], none => []
  | [], some w => [w]
  | e :: r, none => cleanRuns r (some (e.1, [e.2.val]))
  | e :: r, some (a, bs) =>
    if e.1 == a + bs.length && e.1 / 8 == a / 8 then cleanRuns r (some (a, bs ++ [e.2.val]))
    else (a, bs) :: cleanRuns r (some (e.1, [e.2.val]))

/-- What the gathered run makes of memory. -/
def writeRun (m : List Host.Cell) (acc : Option (Nat × List Byte)) : List Host.Cell := acc.elim m fun w => Memory.writes m w.1 w.2

/-- The runs write each dirty byte to its address. -/
theorem writeAll_cleanRuns (es : List (Nat × ColByte)) (acc : Option (Nat × List Byte)) (m : List Host.Cell) :
    Memory.writeAll m (cleanRuns es acc) = es.foldl (fun m e => Memory.write m e.1 e.2.val) (writeRun m acc) := by
  induction es generalizing acc m with
  | nil => cases acc <;> rfl
  | cons e r ih =>
    rcases acc with - | ⟨a, bs⟩
    · exact ih _ _
    · unfold cleanRuns
      split
      · rename_i hnext
        have hat : e.1 = a + bs.length := by simp at hnext; exact hnext.1
        rw [ih]
        simp only [writeRun, Option.elim_some, Memory.writes_append, Memory.writes, ← hat]
        rfl
      · exact ih _ _

/-- One dirty byte joins the run that is being gathered, or the run goes home and the byte begins the next. -/
def cleanStep (acc : State × Option (Nat × List Byte)) (e : Nat × ColByte) : State × Option (Nat × List Byte) :=
  match acc.2 with
  | none => (acc.1, some (e.1, [e.2.val]))
  | some (a, bs) =>
    if e.1 == a + bs.length && e.1 / 8 == a / 8 then (acc.1, some (a, bs ++ [e.2.val]))
    else (acc.1.writeHome a bs, some (e.1, [e.2.val]))

/-- The run gathered last goes home. -/
def cleanEnd (acc : State × Option (Nat × List Byte)) : State := acc.2.elim acc.1 fun w => acc.1.writeHome w.1 w.2

/-- Events that write at several homes, one after another. -/
def State.writeHomes (s : State) (ws : List (Nat × List Byte)) : State := ws.foldl (fun s w => s.writeHome w.1 w.2) s

/-- The steps of a cleaning are its runs written to their homes. -/
theorem cleanEnd_foldl (es : List (Nat × ColByte)) (acc : Option (Nat × List Byte)) (s : State) :
    cleanEnd (es.foldl cleanStep (s, acc)) = s.writeHomes (cleanRuns es acc) := by
  induction es generalizing acc s with
  | nil => cases acc <;> rfl
  | cons e r ih =>
    rcases acc with - | ⟨a, bs⟩
    · exact ih _ _
    · rw [List.foldl_cons, cleanRuns, cleanStep]
      by_cases h : (e.1 == a + bs.length && e.1 / 8 == a / 8) = true
      · simp only [h, if_true]
        exact ih _ _
      · simp only [h]
        exact ih _ _

/-- The dirty bytes that a cleaning of the bytes of `f` writes back. -/
def State.toClean (s : State) (ck : Nat) (f : Nat → Bool) : List (Nat × ColByte) :=
  (s.core ck).col.filter fun b => b.2.dirty && (f b.1 && s.canClean ck (lineOf b.1))

/-- The core once those bytes are clean. -/
def State.cleaned (s : State) (ck : Nat) (f : Nat → Bool) : Core :=
  { s.core ck with col := (s.core ck).col.map fun b => if f b.1 && s.canClean ck (lineOf b.1) then (b.1, { b.2 with dirty := false }) else b }

/-- Without dirty bytes to write back nothing happens. -/
theorem cleanColumn_idle {s : State} {ck : Nat} {f : Nat → Bool} (h : s.toClean ck f = []) : s.cleanColumn ck f = s := by
  have hempty : (s.toClean ck f).isEmpty = true := by rw [h]; rfl
  exact if_pos hempty

/-- Units that were poisoned stay so, at their home. -/
def State.keepPoison (s : State) (bad : List Nat) : State :=
  if bad.isEmpty then s else { s with moved := bad.map ErrPlace.memory ++ s.moved }

@[simp] theorem keepPoison_nil (s : State) : s.keepPoison [] = s := rfl
@[simp] theorem keepPoison_mem (s : State) (bad : List Nat) : (s.keepPoison bad).mem = s.mem := by
  unfold State.keepPoison
  split <;> rfl
@[simp] theorem keepPoison_cores (s : State) (bad : List Nat) : (s.keepPoison bad).cores = s.cores := by
  unfold State.keepPoison
  split <;> rfl

/-- A cleaning: the bytes are clean, the runs go home, and the poison with them. -/
theorem cleanColumn_runs {s : State} {ck : Nat} {f : Nat → Bool} (h : s.toClean ck f ≠ []) :
    s.cleanColumn ck f = ((s.setCore ck (s.cleaned ck f)).writeHomes (cleanRuns (s.toClean ck f) none)).keepPoison
      (s.dirtyMarks ck fun a => f a && s.canClean ck (lineOf a)) := by
  have hsome : (s.toClean ck f).isEmpty = false := by simpa using h
  rw [← cleanEnd_foldl]
  have hlast : ∀ acc : State × Option (Nat × List Byte),
      (match acc with
        | (s, none) => s
        | (s, some (a, bs)) => s.writeHome a bs) = cleanEnd acc := by
    rintro ⟨t, - | w⟩ <;> rfl
  exact (if_neg (ne_true_of_eq_false hsome)).trans (congrArg (State.keepPoison · _)
    (hlast ((s.toClean ck f).foldl cleanStep (s.setCore ck (s.cleaned ck f), none))))

theorem dropCopyMarks_cores (s : State) (at_ : ErrPlace → Option Nat) (f : Nat → Bool) : (s.dropCopyMarks at_ f).cores = s.cores := by
  unfold State.dropCopyMarks
  split <;> rfl

theorem writeHomes_cores (s : State) (ws : List (Nat × List Byte)) : (s.writeHomes ws).cores = s.cores := by
  induction ws generalizing s with
  | nil => rfl
  | cons w r ih =>
    obtain ⟨_, _, _, _, h⟩ := writeHome_changes s w.1 w.2
    exact (ih (s.writeHome w.1 w.2)).trans (by rw [h])

theorem writeHomes_mem (s : State) (ws : List (Nat × List Byte)) : (s.writeHomes ws).mem = Memory.writeAll s.mem ws := by
  induction ws generalizing s with
  | nil => rfl
  | cons w r ih => exact (ih (s.writeHome w.1 w.2)).trans (by rw [writeHome_mem]; rfl)

/-- Cleaning writes each dirty byte to its home. -/
theorem cleanColumn_mem (s : State) (ck : Nat) (f : Nat → Bool) :
    (s.cleanColumn ck f).mem = (s.toClean ck f).foldl (fun m e => Memory.write m e.1 e.2.val) s.mem := by
  by_cases h : s.toClean ck f = []
  · rw [cleanColumn_idle h, h]
    rfl
  · rw [cleanColumn_runs h, keepPoison_mem, writeHomes_mem, writeAll_cleanRuns]
    rfl

theorem ColByte.undirty_clean {b : ColByte} (h : b.dirty = false) : { b with dirty := false } = b := by
  rw [← h]

/-- A core of which no byte is to be written back is clean as it stands. -/
theorem cleaned_idle {s : State} {ck : Nat} {f : Nat → Bool} (h : s.toClean ck f = []) : s.cleaned ck f = s.core ck := by
  have hmap : (s.core ck).col.map (fun b => if f b.1 && s.canClean ck (lineOf b.1) then (b.1, { b.2 with dirty := false }) else b)
      = (s.core ck).col.map id := List.map_congr_left fun b hb => ?_
  · rw [State.cleaned, hmap, List.map_id]
  have hclean := List.filter_eq_nil_iff.mp h b hb
  split
  · rename_i hf
    exact congrArg (Prod.mk b.1) (ColByte.undirty_clean (by simpa [hf] using hclean))
  · rfl

theorem cleanColumn_core (s : State) (ck : Nat) (f : Nat → Bool) : (s.cleanColumn ck f).core ck = s.cleaned ck f := by
  by_cases h : s.toClean ck f = []
  · rw [cleanColumn_idle h, cleaned_idle h]
  · rw [cleanColumn_runs h, State.core, keepPoison_cores, writeHomes_cores]
    exact State.core_setCore ..

/-! ### Sorted maps -/

theorem SMap.get?_filter {α : Type} {m : SMap α} (hs : SMap.sorted m = true) (p : Nat × α → Bool) (k : Nat) :
    SMap.get? (m.filter p) k = (SMap.get? m k).filter fun v => p (k, v) := by
  induction m with
  | nil => rfl
  | cons q r ih =>
    obtain ⟨j, v⟩ := q
    obtain ⟨habove, hr⟩ := SMap.sorted_cons.mp hs
    by_cases hj : j = k
    · subst hj
      cases hp : p (j, v)
      · simp [hp, ih hr, SMap.get?, SMap.get?_none_of_above habove, Option.filter]
      · simp [hp, SMap.get?, Option.filter]
    · cases hp : p (j, v) <;> simp [hp, ih hr, SMap.get?, hj]

theorem SMap.sorted_filter {α : Type} {m : SMap α} (hs : SMap.sorted m = true) (p : Nat × α → Bool) : SMap.sorted (m.filter p) = true := by
  induction m with
  | nil => rfl
  | cons q r ih =>
    obtain ⟨j, v⟩ := q
    obtain ⟨habove, hr⟩ := SMap.sorted_cons.mp hs
    cases hp : p (j, v)
    · simpa [hp] using ih hr
    · rw [List.filter_cons_of_pos hp]
      exact SMap.sorted_cons.mpr ⟨fun x hx => habove x (List.mem_filter.mp hx).1, ih hr⟩

/-- Bytes written at rising addresses: each address reads as the byte written there, the others as before. -/
theorem Memory.read_foldl_write {es : SMap ColByte} (hs : SMap.sorted es = true) {m : List Host.Cell} (hm : Memory.wf m) (a : Nat) :
    Memory.read (es.foldl (fun m e => Memory.write m e.1 e.2.val) m) a = (SMap.get? es a).elim (Memory.read m a) (·.val) := by
  induction es generalizing m with
  | nil => rfl
  | cons q r ih =>
    obtain ⟨j, b⟩ := q
    obtain ⟨habove, hr⟩ := SMap.sorted_cons.mp hs
    rw [List.foldl_cons, ih hr (Memory.write_wf _ _ hm), Memory.read_write _ _ _ hm]
    by_cases hj : a = j
    · subst hj
      simp [SMap.get?, SMap.get?_none_of_above habove]
    · simp [SMap.get?, Ne.symm hj, hj]

/-! ### A cleaning that nothing holds up -/

/-- A line lies within one range of physical addresses, which says whether its bytes cross the culvert. -/
theorem crosses_line (d a : Nat) : crosses d (256 * lineOf a) = crosses d a := by
  have hhost : isHost (256 * lineOf a) = isHost a := by
    unfold isHost lineOf
    congr 1 <;> exact decide_eq_decide.mpr (by omega)
  have hdie : dieOf (256 * lineOf a) = dieOf a := by
    unfold dieOf lineOf
    exact if_congr (by omega) rfl rfl
  rw [crosses, crosses, hhost, hdie]

section
variable {s : State} {ck : Nat} (h : s.cleanWaits ck = false)
include h

theorem canClean_dirty {e : Nat × ColByte} (he : e ∈ (s.core ck).col) (hd : e.2.dirty = true) : s.canClean ck (lineOf e.1) = true := by
  rw [State.canClean, crosses_line]
  cases ho : s.culvertOpen
  · have hhome : ∀ a b, (a, b) ∈ (s.core ck).col → b.dirty = true → crosses (ck / 96) a = false := by
      simpa [State.cleanWaits, ho] using h
    simp [hhome e.1 e.2 he hd]
  · rfl

theorem toClean_all : s.toClean ck (fun _ => true) = (s.core ck).col.filter fun b => b.2.dirty := by
  refine List.filter_congr fun b hb => ?_
  cases hd : b.2.dirty
  · rfl
  · simp [canClean_dirty h hb hd]

theorem cleaned_all : s.cleaned ck (fun _ => true)
    = { s.core ck with col := (s.core ck).col.map fun b => (b.1, { b.2 with dirty := false }) } := by
  refine congrArg (fun col => { s.core ck with col := col }) (List.map_congr_left fun b hb => ?_)
  split
  · rfl
  · rename_i hno
    have hd : b.2.dirty = false := by
      by_contra hd
      exact hno (by simpa using canClean_dirty h hb (by simpa using hd))
    exact congrArg (Prod.mk b.1) (ColByte.undirty_clean hd).symm

theorem ccln_core : (s.ccln ck).core ck = { s.core ck with col := (s.core ck).col.map fun b => (b.1, { b.2 with dirty := false }) } :=
  (cleanColumn_core ..).trans (cleaned_all h)

theorem cinv_core : (s.cinv ck).core ck = { s.core ck with col := [], l1 := [] } := by
  have hdrop : (s.dropColumn ck fun _ => true).core ck = { s.core ck with col := [] } := by
    rw [State.dropColumn, State.core, dropCopyMarks_cores]
    refine (State.core_setCore ..).trans ?_
    rw [cleanColumn_core, cleaned_all h]
    refine congrArg (fun col => { s.core ck with col := col }) (List.filter_eq_nil_iff.mpr fun b hb => ?_)
    obtain ⟨b, -, rfl⟩ := List.mem_map.mp hb
    simp
  rw [State.cinv, State.dropL1, State.core, dropCopyMarks_cores]
  refine (State.core_setCore ..).trans ?_
  rw [hdrop]
  simp

theorem ccln_byte (hm : s.memWf) (hs : SMap.sorted (s.core ck).col = true) (a : Nat) :
    (s.ccln ck).byte a = match SMap.get? (s.core ck).col a with
      | some b => if b.dirty then b.val else s.byte a
      | none => s.byte a := by
  rw [State.byte, State.ccln, cleanColumn_mem, toClean_all h, Memory.read_foldl_write (SMap.sorted_filter hs _) hm, SMap.get?_filter hs]
  cases SMap.get? (s.core ck).col a with
  | none => rfl
  | some b => cases hd : b.dirty <;> simp [Option.filter, hd, State.byte]

omit h in
theorem cinv_mem (s : State) (ck : Nat) : (s.cinv ck).mem = (s.ccln ck).mem :=
  (dropL1_mem ..).trans ((dropCopyMarks_mem ..).trans rfl)

end

/-! ### Units that are not poisoned -/

/-- No unit is poisoned. -/
def State.unpoisoned (s : State) : Prop := s.marks = [] ∧ s.moved = []

theorem unpoisoned_unmark {s : State} (h : s.unpoisoned) (pa n : Nat) : (s.unmark pa n).unpoisoned := by
  obtain ⟨hm, hv⟩ := h
  simp [State.unmark, State.unpoisoned, hm, hv]

theorem unpoisoned_wakeMonitors {s : State} (h : s.unpoisoned) (pa n : Nat) : (s.wakeMonitors pa n).unpoisoned := by
  unfold State.wakeMonitors
  split <;> exact h

theorem unpoisoned_writeHome {s : State} (h : s.unpoisoned) (pa : Nat) (bs : List Byte) : (s.writeHome pa bs).unpoisoned :=
  unpoisoned_wakeMonitors (unpoisoned_unmark (s := { s with mem := Memory.writes s.mem pa bs }) h ..) ..

theorem unpoisoned_dropCopyMarks {s : State} (h : s.unpoisoned) (at_ : ErrPlace → Option Nat) (f : Nat → Bool) :
    (s.dropCopyMarks at_ f).unpoisoned := by
  obtain ⟨hm, hv⟩ := h
  simp [State.dropCopyMarks, State.unpoisoned, hm, hv]

theorem unpoisoned_writeHomes {s : State} (h : s.unpoisoned) (ws : List (Nat × List Byte)) : (s.writeHomes ws).unpoisoned := by
  induction ws generalizing s with
  | nil => exact h
  | cons w r ih => exact ih (unpoisoned_writeHome h w.1 w.2)

theorem unpoisoned_cleanColumn {s : State} (h : s.unpoisoned) (ck : Nat) (f : Nat → Bool) : (s.cleanColumn ck f).unpoisoned := by
  by_cases hc : s.toClean ck f = []
  · rwa [cleanColumn_idle hc]
  · have hmarks : s.dirtyMarks ck (fun a => f a && s.canClean ck (lineOf a)) = [] := by
      obtain ⟨hm, hv⟩ := h
      simp [State.dirtyMarks, hm, hv]
    rw [cleanColumn_runs hc, hmarks, keepPoison_nil]
    exact unpoisoned_writeHomes (s := s.setCore ck (s.cleaned ck f)) h _

theorem unpoisoned_dropLine {s : State} (h : s.unpoisoned) (ck pa : Nat) : (s.dropLine ck pa).unpoisoned := by
  have hcol : ∀ f, (s.dropColumn ck f).unpoisoned := fun f =>
    unpoisoned_dropCopyMarks (s := (s.cleanColumn ck f).modCore ck _) (unpoisoned_cleanColumn h ck f) ..
  exact unpoisoned_dropCopyMarks (s := (s.dropColumn ck _).modCore ck _) (hcol _) ..

theorem homePoison_unpoisoned {s : State} (h : s.unpoisoned) (pa n : Nat) : s.homePoison pa n = none := by
  obtain ⟨hm, hv⟩ := h
  simp [State.homePoison, hm, hv]

/-! ### Line accesses (09_memory R205, R223) -/

section
variable {f : FmtM} {e : Env} {s u : State} {p : Phys} {la : Nat}

/-- A line load whose line is not poisoned. -/
theorem ldlRes_reads (h0 : e.act ≠ 0) (hline : lineCheck f e s 0 = (.ok (p, la), u)) (hu : u.unpoisoned) :
    ldlRes f e s = .done (if memAcq f then (u.dropLine e.ck p.pa).acquire e.ck f.scope.toNat else u.dropLine e.ck p.pa)
      { regs := bytesRegs f.data 1 e.act (lanes fun l => (u.dropLine e.ck p.pa).bytes (p.pa + 4 * l) 4), long := some .ld } := by
  have hpoison : (e.lanes.findSome? fun l => (u.dropLine e.ck p.pa).homePoison (p.pa + 4 * l) 4) = none :=
    List.findSome?_eq_none_iff.mpr fun l _ => homePoison_unpoisoned (unpoisoned_dropLine hu ..) _ _
  unfold ldlRes
  simp only [beq_eq_false_iff_ne.mpr h0, Bool.false_eq_true, if_false, hline, hpoison]

/-- The 4 bytes that lane `l` of a line store writes, and their address. -/
def lineWrite (pa : Nat) (v : Nat → Nat) (l : Nat) : Nat × List Byte := (pa + 4 * l, leBytes 4 (v l))

/-- The bytes that a run of lanes writes, and their address. -/
def runWrite (pa : Nat) (v : Nat → Nat) (r : Nat × Nat) : Nat × List Byte :=
  (pa + 4 * r.1, ((List.range r.2).map fun k => leBytes 4 (v (r.1 + k))).flatten)

theorem stlRes_stores (h0 : e.act ≠ 0) (hline : lineCheck f e s 1 = (.ok (p, la), u)) :
    stlRes f e s = .done (((if memRel f then u.release e.ck f.scope.toNat else u).dropLine e.ck p.pa).writeRuns
      ((laneRuns e.act).map (runWrite p.pa fun l => (e.src32 1 l).toNat))) {} := by
  unfold stlRes
  simp only [beq_eq_false_iff_ne.mpr h0, Bool.false_eq_true, if_false, hline]
  rfl

end

theorem Memory.writeAll_append (m : List Host.Cell) (as bs : List (Nat × List Byte)) :
    Memory.writeAll m (as ++ bs) = Memory.writeAll (Memory.writeAll m as) bs := List.foldl_append

/-- A run's write is its lanes' writes. -/
theorem writes_runWrite (m : List Host.Cell) (pa : Nat) (v : Nat → Nat) (r : Nat × Nat) :
    Memory.writes m (runWrite pa v r).1 (runWrite pa v r).2
      = Memory.writeAll m (((List.range r.2).map (r.1 + ·)).map (lineWrite pa v)) := by
  obtain ⟨a, n⟩ := r
  induction n with
  | zero => rfl
  | succ n ih =>
    have hlen : ∀ n, ((List.range n).map fun k => leBytes 4 (v (a + k))).flatten.length = 4 * n := fun n => by
      induction n with
      | zero => rfl
      | succ n ih => rw [List.range_succ, List.map_append, List.flatten_append, List.length_append, ih]; rfl
    simp only [runWrite] at ih
    simp only [runWrite, List.range_succ, List.map_append, List.flatten_append, Memory.writes_append, ih, Memory.writeAll_append, hlen]
    simp [Memory.writeAll, lineWrite, Nat.mul_add, Nat.add_assoc]

/-- The lanes of the runs are the lanes of the mask. -/
theorem laneRuns_lanes (m : Mask) : (laneRuns m).flatMap (fun r => (List.range r.2).map (r.1 + ·)) = maskLanes m := by
  unfold laneRuns
  induction maskLanes m with
  | nil => rfl
  | cons l r ih =>
    rw [List.foldr_cons]
    split
    · rename_i k n t heq
      rw [heq] at ih
      split
      · rename_i hk
        obtain rfl : l + 1 = k := by simpa using hk
        rw [← ih]
        simp [List.range_succ_eq_map, Function.comp_def, Nat.add_assoc, Nat.add_comm 1]
      · rw [List.flatMap_cons, heq, ih]
        rfl
    · rename_i heq
      rw [heq] at ih
      rw [← ih]
      rfl

theorem unmark_mem (s : State) (pa n : Nat) : (s.unmark pa n).mem = s.mem := by
  unfold State.unmark
  dsimp only
  split <;> rfl

/-- A fold of which each step changes memory as `step` does. -/
theorem foldl_mem {α : Type} {f : State → α → State} {step : List Host.Cell → α → List Host.Cell} (h : ∀ t a, (f t a).mem = step t.mem a)
    (as : List α) (s : State) : (as.foldl f s).mem = as.foldl step s.mem := by
  induction as generalizing s with
  | nil => rfl
  | cons a r ih => rw [List.foldl_cons, ih, h, List.foldl_cons]

theorem writeRuns_mem (s : State) (rs : List (Nat × List Byte)) : (s.writeRuns rs).mem = Memory.writeAll s.mem rs := by
  have hwake : ∀ t : State, (rs.foldl (fun (s : State) r => s.wakeMonitors r.1 r.2.length) t).mem = t.mem := fun t =>
    (foldl_mem (step := fun m _ => m) (fun _ _ => wakeMonitors_mem ..) rs t).trans (by induction rs <;> simp_all)
  exact (hwake _).trans (foldl_mem (fun _ _ => unmark_mem ..) rs s)

/-- A line store writes each lane's bytes. -/
theorem writeRuns_lanes (s : State) (m : Mask) (pa : Nat) (v : Nat → Nat) :
    (s.writeRuns ((laneRuns m).map (runWrite pa v))).mem = Memory.writeAll s.mem ((maskLanes m).map (lineWrite pa v)) := by
  rw [writeRuns_mem, ← laneRuns_lanes m]
  generalize s.mem = mem
  induction laneRuns m generalizing mem with
  | nil => rfl
  | cons r rs ih =>
    rw [List.map_cons, List.flatMap_cons, List.map_append, Memory.writeAll_append, ← writes_runWrite, ← ih]
    rfl

/-- Lanes write apart from each other: each lane's bytes are read back. -/
theorem Memory.read_lineWrites {m : List Host.Cell} (h : Memory.wf m) {pa : Nat} {v : Nat → Nat} {ls : List Nat} (hn : ls.Nodup) {l k : Nat}
    (hl : l ∈ ls) (hk : k < 4) :
    Memory.read (Memory.writeAll m (ls.map (lineWrite pa v))) (pa + 4 * l + k) = (leBytes 4 (v l)).getD k 0 := by
  induction ls generalizing m with
  | nil => cases hl
  | cons j r ih =>
    obtain ⟨hj, hr⟩ := List.nodup_cons.mp hn
    rcases List.mem_cons.mp hl with rfl | hl
    · refine (Memory.read_writeAll_outside (Memory.writes_wf _ _ h) fun w hw => ?_).trans ?_
      · obtain ⟨i, hi, rfl⟩ := List.mem_map.mp hw
        have hne : i ≠ l := fun he => hj (he ▸ hi)
        simp only [lineWrite, leBytes_length]
        omega
      · rw [Memory.read_writes _ _ _ h, if_pos (by simp [lineWrite, leBytes]; omega)]
        congr 1
        simp only [lineWrite]
        omega
    · exact ih (Memory.writes_wf _ _ h) hr hl

theorem release_idle {u : State} {ck : Nat} (h : (u.core ck).col = []) (scope : Nat) : u.release ck scope = u := by
  unfold State.release
  split
  · exact cleanColumn_idle (by simp [State.toClean, h])
  · rfl

/-! ### Cache instructions (09_memory R213, R226) -/

theorem cleanRes_acts {s : State} {e : Env} {scope : Nat} (h0 : e.act ≠ 0) (hclean : scope < 4 ∨ s.cleanWaits e.ck = false) (act : State → State) :
    s.cleanRes e scope act = .done (act s) {} := by
  have hgo : s.mustClean e true scope = false := by
    rcases hclean with h | h <;> simp [State.mustClean, State.orderWaits, h]
  rw [State.cleanRes, hgo, if_neg Bool.false_ne_true, beq_eq_false_iff_ne.mpr h0, if_neg Bool.false_ne_true]

theorem cleanRes_none {s : State} {e : Env} (h0 : e.act = 0) (scope : Nat) (act : State → State) : s.cleanRes e scope act = .done s {} := by
  simp [State.cleanRes, State.mustClean, h0]

/-- At a scope below the die a fence does nothing to the caches. -/
theorem fence_near (s : State) {ck order scope : Nat} (h : scope < 4) : s.fence ck order scope = s := by
  simp [State.fence, State.release, State.acquire, Nat.not_le.mpr h]

/-- The bytes of a line store, and the line's other bytes, in a machine that holds `w`'s memory before it. -/
theorem lineStore_bytes {w t : State} {ls : List Nat} (hw : w.memWf) {pa : Nat} {v : Nat → Nat} (hn : ls.Nodup)
    (ht : t.mem = Memory.writeAll w.mem (ls.map (lineWrite pa v))) :
    (∀ a, (∀ l ∈ ls, a < pa + 4 * l ∨ pa + 4 * l + 4 ≤ a) → t.byte a = w.byte a)
      ∧ ∀ l ∈ ls, t.bytes (pa + 4 * l) 4 = leBytes 4 (v l) := by
  refine ⟨fun a ha => ?_, fun l hl => List.ext_getElem (by simp [State.bytes, leBytes]) fun k hk hk' => ?_⟩
  · rw [State.byte, ht]
    refine Memory.read_writeAll_outside hw fun x hx => ?_
    obtain ⟨l, hl, rfl⟩ := List.mem_map.mp hx
    simpa [lineWrite, leBytes] using ha l hl
  · have hk4 : k < 4 := by simpa [State.bytes] using hk
    have hread := Memory.read_lineWrites hw (pa := pa) (v := v) hn hl hk4
    rw [List.getD_eq_getElem _ _ hk'] at hread
    simpa [State.bytes, State.byte, ht] using hread

/-- Settles O29: what a cleaning writes is its dirty bytes, each at its home; a line store is one write for each lane. -/
theorem linesAndCaches : Obligations.LinesAndCaches := by
  refine ⟨fun g f s u e p la => ⟨fun h h0 hline hm hv => ?load, fun h h0 hline hu => ?store, fun h h0 => ?noLoad, fun h h0 => ?noStore⟩,
    fun g s e => ⟨fun f h => completes_to_of_runWord h rfl rfl, fun f => ⟨fun h h0 hfar hclean => ?fence, fun h h0 hnear => ?near,
      fun h h0 hclean => ?cinv, fun h h0 hclean => ?ccln, fun i hi h h0 => ?none⟩⟩,
    fun s ck hm hs hclean => ?cleaning⟩
  case load =>
    refine ⟨_, completes_to_of_runWord h rfl (ldlRes_reads h0 hline ⟨hm, hv⟩), rfl, fun hr => ?_⟩
    refine writes32_of (bytesRegs_one hr ..) fun l hl _ => ?_
    rw [at_lanes _ hl, List.take_of_length_le (by simp [State.bytes])]
  case store =>
    intro w
    have hrel : (if memRel f then u.release e.ck f.scope.toNat else u).memWf := by
      split
      · exact release_memWf _ _ hu
      · exact hu
    refine ⟨fun hcol => ?_, _, completes_to_of_runWord h rfl (stlRes_stores h0 hline),
      lineStore_bytes (dropLine_memWf _ _ hrel) (List.nodup_range.filter _) (writeRuns_lanes ..)⟩
    have hidle : (if memRel f then u.release e.ck f.scope.toNat else u) = u := by rw [release_idle hcol, ite_self]
    simp only [w, hidle]
    exact dropLine_mem_of_empty hcol _
  case noLoad => exact completes_to_of_runWord h rfl (if_pos (beq_iff_eq.mpr h0))
  case noStore => exact completes_to_of_runWord h rfl (if_pos (beq_iff_eq.mpr h0))
  case fence =>
    have hfence := completes_to_of_runWord h rfl (cleanRes_acts h0 (.inr hclean) fun s => s.fence e.ck (f.fld 26 2).toNat (f.fld 23 3).toNat)
    refine ⟨fun ho => ?_, fun ho => ?_, fun ho => ?_⟩ <;> simpa [ho, State.fence, State.release, State.acquire, hfar] using hfence
  case near =>
    refine completes_to_of_runWord h rfl ((cleanRes_acts h0 (.inl hnear) _).trans ?_)
    rw [fence_near s hnear]
  case cinv => exact completes_to_of_runWord h rfl (cleanRes_acts h0 (.inr hclean) _)
  case ccln => exact completes_to_of_runWord h rfl (cleanRes_acts h0 (.inr hclean) _)
  case none =>
    simp only [List.mem_cons, List.not_mem_nil, or_false] at hi
    rcases hi with rfl | rfl | rfl <;> exact completes_to_of_runWord h rfl (cleanRes_none h0 _ _)
  case cleaning =>
    exact ⟨fun a => ⟨ccln_byte hclean hm hs a, (congrArg (Memory.read · a) (cinv_mem s ck)).trans (ccln_byte hclean hm hs a)⟩,
      ccln_core hclean, cinv_core hclean⟩

end Sys2Proof.Machine
end

section
/-! PROOFS. The atomics (O30): a lane at its home, all lanes in order, the scratchpad, and the operations on 32-bit words. -/

namespace Sys2Proof.Machine

section
variable {f : FmtM} {e : Env}

/-- The meaning of a generic atomic is `atomRes`, with the class of its result. -/
theorem exec_atomic {i : Instr} {g : Guard} {cls : Option OpClass}
    (hi : (i ∈ [.atom g f, .atomc g f, .atomf g f] ∧ cls = some .at) ∨ (i = .red g f ∧ cls = none)) (s : State) :
    exec i s = runWord i noCheck (atomRes f cls) s := by
  simp only [List.mem_cons, List.not_mem_nil, or_false] at hi
  rcases hi with ⟨rfl | rfl | rfl, rfl⟩ | ⟨rfl, rfl⟩
  · exact rfl
  · exact rfl
  · exact rfl
  · exact rfl

/-- What a lane of a generic atomic does to the state, once its line has left the core: the new value goes to its home. -/
def State.storeNew (v : State) (pa : Nat) : Option (List Byte) → State
  | some new => v.writeHome pa new
  | none => v

/-- Lane `l`, whose check gave the address `pa`, performs: its old value and its exceptions join those of the lanes before it. -/
def atomLane (f : FmtM) (e : Env) (pas : Lanes (List Byte)) (p : Perf) (l : Nat) : Perf :=
  let pa := leNat (Lanes.at pas l)
  let v := p.s.dropLine e.ck pa
  let old := v.bytes pa (atomicBytes f)
  let r := atomicPerform f e l (leNat old)
  { p.add l (.ok old) (v.storeNew pa r.1) with fx := Lanes.upd p.fx l fun _ => r.2 }

/-- The lanes that have passed perform in ascending order. -/
def atomLanes (f : FmtM) (e : Env) (q : Perf) (s : State) : Perf :=
  (maskLanes q.done).foldl (atomLane f e q.vals) { q with s := s, done := 0 }

/-- An atomic whose ordering neither traps nor waits. -/
theorem atomRes_unwatched {s : State} {cls : Option OpClass} (hw : s.watches e.ck 0 = [])
    (hal : ∀ l ∈ e.lanes, genAddr e ((atomicOff f).signExtend 64) l % atomicBytes f = 0)
    (hclean : s.mustClean e (memRel f || memAcq f) f.scope.toNat = false) {q : Perf}
    (hq : perLane s e.act (fun s l => atomicPages f e s (genAddr e ((atomicOff f).signExtend 64) l)) = q) :
    atomRes f cls e s =
      let p := atomLanes f e q (if memRel f && q.done != 0 then q.s.release e.ck f.scope.toNat else q.s)
      ({ p with s := if memAcq f && p.done != 0 then p.s.acquire e.ck f.scope.toNat else p.s } : Perf).res
        { regs := if cls.isSome then bytesRegs f.data (atomicBytes f / 4) p.done p.vals else [], fx := p.fx, long := cls } [] := by
  unfold atomRes
  simp only [orderedMisaligned_none (fun _ => hal), hclean, Bool.false_eq_true, if_false, addrHits_unwatched hw, act_unwatched, hq, noAction,
    if_true, recordHits_nil]
  rfl

/-- Lanes that perform neither fail nor wait. -/
theorem atomLanes_passes {q : Perf} (h : q.passes) (s : State) : (atomLanes f e q s).passes :=
  List.foldlRecOn (motive := Perf.passes) _ _ h fun _ hp _ _ => hp

/-- An atomic all of whose lanes pass their checks completes. -/
theorem atomRes_completes {s : State} {cls : Option OpClass} (hw : s.watches e.ck 0 = [])
    (hal : ∀ l ∈ e.lanes, genAddr e ((atomicOff f).signExtend 64) l % atomicBytes f = 0)
    (hclean : s.mustClean e (memRel f || memAcq f) f.scope.toNat = false)
    (hpass : (perLane s e.act fun s l => atomicPages f e s (genAddr e ((atomicOff f).signExtend 64) l)).passes) :
    ∃ t x, atomRes f cls e s = .done t x := by
  rw [atomRes_unwatched hw hal hclean rfl]
  exact ⟨_, _, Perf.passes.res_at (atomLanes_passes hpass _) _ _⟩

theorem act_of_lanes {l : Nat} (h : e.lanes = [l]) : e.act = laneBit l := by
  have hunion := foldl_laneBit_maskLanes e.act
  unfold Env.lanes at h
  rw [h] at hunion
  simpa using hunion.symm

/-- One active lane, without ordering: its old value, its exceptions, its new value at its home. -/
theorem atomRes_one {s u : State} {cls : Option OpClass} {l : Nat} {bs : List Byte} (hw : s.watches e.ck 0 = []) (hl : e.lanes = [l])
    (ha : memAcq f = false) (hr : memRel f = false) (hal : genAddr e ((atomicOff f).signExtend 64) l % atomicBytes f = 0)
    (hp : atomicPages f e s (genAddr e ((atomicOff f).signExtend 64) l) = (.ok bs, u)) {v : State} (hv : u.dropLine e.ck (leNat bs) = v)
    {old : List Byte} (hold : v.bytes (leNat bs) (atomicBytes f) = old) :
    atomRes f cls e s = .done (v.storeNew (leNat bs) (atomicPerform f e l (leNat old)).1)
      { regs := if cls.isSome then bytesRegs f.data (atomicBytes f / 4) (laneBit l) (Lanes.upd (Vector.replicate 32 []) l fun _ => old) else [],
        fx := Lanes.upd noFx l fun _ => (atomicPerform f e l (leNat old)).2, long := cls } := by
  subst hv hold
  have hlanes : maskLanes (Perf.one u l bs).done = [l] := by rw [Perf.one, ← act_of_lanes hl]; exact hl
  have hclean : s.mustClean e (memRel f || memAcq f) f.scope.toNat = false := by rw [ha, hr]; rfl
  have hbs : Lanes.at (Perf.one u l bs).vals l = bs := (Perf.one_val u (lane_of_lanes hl).1 bs l).trans (if_pos rfl)
  have hunion : (0 : Mask) ||| laneBit l = laneBit l := BitVec.zero_or
  have hupd : ∀ old, Lanes.upd (Perf.one u l bs).vals l (fun _ => old) = Lanes.upd (Vector.replicate 32 []) l fun _ => old := fun old => by
    refine Vector.ext fun j hj => ?_
    by_cases hjl : j = l <;> simp [Lanes.upd, Perf.one, Perf.start, hjl]
  rw [atomRes_unwatched hw (by simpa [hl] using hal) hclean (perLane_one hl hp), atomLanes, hlanes, ha, hr]
  simp only [List.foldl_cons, List.foldl_nil, atomLane, hbs, Perf.add, hupd, hunion, Bool.false_and, Bool.false_eq_true, if_false]
  rfl

end

/-! ### The scratchpad (09_memory R228) -/

section
variable {f : FmtM} {e : Env}

/-- The new value of a scratchpad atomic, where there is one, is written to the team's scratchpad. -/
def State.storeScratch (s : State) (tid a : Nat) : Option (List Byte) → State
  | some new => s.writeScratch tid a new
  | none => s

/-- Lane `l` of a scratchpad atomic performs at `addr l`. -/
def atomsLane (f : FmtM) (e : Env) (addr : Nat → Nat) (p : Perf) (l : Nat) : Perf :=
  let old := ((p.s.team? e.tid).map fun t => t.scratchBytes (addr l) (atomicBytes f)).getD []
  let r := atomicPerform f e l (leNat old)
  { p.add l (.ok old) (p.s.storeScratch e.tid (addr l) r.1) with fx := Lanes.upd p.fx l fun _ => r.2 }

/-- The lanes that have passed perform in ascending order. -/
def atomsLanes (f : FmtM) (e : Env) (addr : Nat → Nat) (q : Perf) : Perf := (maskLanes q.done).foldl (atomsLane f e addr) { q with done := 0 }

/-- Lanes that perform on the scratchpad fail nowhere and leave memory and the groups as they are. -/
theorem atomsLanes_keeps (addr : Nat → Nat) {q : Perf} (h : q.passes) :
    (atomsLanes f e addr q).passes ∧ (atomsLanes f e addr q).s.mem = q.s.mem ∧ (atomsLanes f e addr q).s.groups = q.s.groups := by
  refine List.foldlRecOn (motive := fun p : Perf => p.passes ∧ p.s.mem = q.s.mem ∧ p.s.groups = q.s.groups) _ _ ⟨h, rfl, rfl⟩
    fun p ⟨hpass, hmem, hgroups⟩ l _ => ⟨hpass, ?_⟩
  unfold atomsLane State.storeScratch
  dsimp only [Perf.add]
  split
  · obtain ⟨ms, vs, hw⟩ := writeScratch_fields p.s e.tid (addr l) _
    rw [hw]
    exact ⟨(State.modTeam_mem ..).trans hmem, (State.modTeam_groups ..).trans hgroups⟩
  · exact ⟨hmem, hgroups⟩

/-- A scratchpad atomic that no empty line holds up. -/
theorem atomsRes_ready {s : State} {q : Perf}
    (hq : (perLane s e.act fun s l => s.scratchLane e false (localAddr e ((atomicOff f).signExtend 32) l) (atomicBytes f)) = q)
    (hwait : q.wait = none) :
    atomsRes f e s =
      let p := atomsLanes f e (localAddr e ((atomicOff f).signExtend 32)) q
      p.res { regs := bytesRegs f.data (atomicBytes f / 4) p.done p.vals, fx := p.fx, long := some .at } [] := by
  obtain ⟨t, done, vals, fx, bad, wait⟩ := q
  obtain rfl : wait = none := hwait
  unfold atomsRes
  simp only [hq, Option.isSome_none, Bool.false_eq_true, if_false]
  rfl

theorem atomsRes_completes {s : State} (ht : s.team? e.tid = some e.t) (hm : s.marks = []) (hv : s.moved = [])
    (hok : ∀ l ∈ e.lanes, scratchCheck e.t (localAddr e ((atomicOff f).signExtend 32) l) (atomicBytes f) = none
      ∧ e.t.lineEmpty (localAddr e ((atomicOff f).signExtend 32) l) = false) :
    ∃ t x, atomsRes f e s = .done t x ∧ t.mem = s.mem ∧ t.groups = s.groups := by
  have hall := perLane_reads (fn := fun s l => s.scratchLane e false (localAddr e ((atomicOff f).signExtend 32) l) (atomicBytes f))
    fun l hl => scratchLane_reads (tl := false) ht hm hv (hok l hl).1 (hok l hl).2
  obtain ⟨hpass, hmem, hgroups⟩ := atomsLanes_keeps (f := f) (e := e) (localAddr e ((atomicOff f).signExtend 32)) ⟨hall.bad, hall.wait⟩
  exact ⟨_, _, (atomsRes_ready rfl hall.wait).trans (hpass.res _), hmem.trans (congrArg State.mem hall.state),
    hgroups.trans (congrArg State.groups hall.state)⟩

end

/-! ### The operations (09_memory R227) -/

theorem atomicInt_words (old b b2 : W32) :
    let op := fun k => atomicInt k 32 old.toNat b.toNat b2.toNat
    op 0 = some (old + b).toNat ∧ op 1 = some (if b.toInt < old.toInt then b else old).toNat
    ∧ op 2 = some (if old.toInt < b.toInt then b else old).toNat ∧ op 3 = some (min old.toNat b.toNat)
    ∧ op 4 = some (max old.toNat b.toNat) ∧ op 5 = some (old &&& b).toNat ∧ op 6 = some (old ||| b).toNat
    ∧ op 7 = some (old ^^^ b).toNat ∧ op 8 = some b.toNat ∧ op 9 = some (if b.toNat ≤ old.toNat then 0 else (old + 1).toNat)
    ∧ op 10 = some (if old = 0 ∨ b.toNat < old.toNat then b.toNat else (old - 1).toNat)
    ∧ op 15 = if old = b then some b2.toNat else none := by
  have hchoose : ∀ (c : Prop) [Decidable c] (x y : W32), (if c then x.toNat else y.toNat) = (if c then x else y).toNat :=
    fun c _ x y => (apply_ite BitVec.toNat c x y).symm
  refine ⟨?add, ?min, ?max, rfl, rfl, ?and, ?or, ?xor, rfl, ?inc, ?dec, ?cas⟩
  case add => simp [atomicInt, BitVec.toNat_add]
  case min => simp [atomicInt, signedOf_toNat, hchoose]
  case max => simp [atomicInt, signedOf_toNat, hchoose]
  case and => exact congrArg some (BitVec.toNat_and ..).symm
  case or => exact congrArg some (BitVec.toNat_or ..).symm
  case xor => exact congrArg some (BitVec.toNat_xor ..).symm
  case inc =>
    have h : ¬ b.toNat ≤ old.toNat → (old + 1).toNat = old.toNat + 1 := by bv_omega
    by_cases hle : b.toNat ≤ old.toNat
    · simp only [atomicInt, if_pos hle]
    · simp only [atomicInt, if_neg hle, h hle]
  case dec =>
    have hsub : old ≠ 0 → (old - 1).toNat = old.toNat - 1 := fun h => by
      have hpos : old.toNat ≠ 0 := fun h0 => h (BitVec.eq_of_toNat_eq h0)
      bv_omega
    have hzero : old.toNat = 0 ↔ old = 0 := ⟨fun h => BitVec.eq_of_toNat_eq h, fun h => h ▸ rfl⟩
    by_cases h : old = 0 ∨ b.toNat < old.toNat
    · simp only [atomicInt, Bool.or_eq_true, beq_iff_eq, hzero, decide_eq_true_eq, if_pos h]
    · have hne : old ≠ 0 := fun h0 => h (.inl h0)
      simp only [atomicInt, Bool.or_eq_true, beq_iff_eq, hzero, decide_eq_true_eq, if_neg h, hsub hne]
  case cas => simp [atomicInt, BitVec.toNat_inj]

/-- Settles O30: the lanes of an atomic perform one after another, and one lane alone has its old value, its new value and its exceptions. -/
theorem atomics : Obligations.Atomics := by
  refine ⟨fun g f s u e i cls l bs hi h hl ha hr hal hp => ?one, fun g f s e => ⟨fun i hi h hal hclean hpass => ?all, fun h ht hm hv hok => ?scratch⟩,
    atomicInt_words⟩
  case one =>
    intro pa v old
    have hrun := atomRes_one (cls := cls) (v := v) (old := old) h.watch hl ha hr hal hp rfl rfl
    generalize atomicPerform f e l (leNat old) = r at hrun ⊢
    have hfx : Lanes.at (Lanes.upd noFx l fun _ => r.2) l = r.2 := (at_upd noFx l _ (lane_of_lanes hl).1).trans (if_pos rfl)
    rcases r with ⟨- | new, fx⟩
    · exact ⟨_, completes_to_of_runWord h (exec_atomic hi s) hrun, rfl, hfx, rfl⟩
    · exact ⟨_, completes_to_of_runWord h (exec_atomic hi s) hrun, rfl, hfx, rfl⟩
  case all =>
    have hform : ∃ cls : Option OpClass, (i ∈ [.atom g f, .atomc g f, .atomf g f] ∧ cls = some .at) ∨ (i = .red g f ∧ cls = none) := by
      simp only [List.mem_cons, List.not_mem_nil, or_false] at hi ⊢
      rcases hi with h | h | h | h
      · exact ⟨_, .inl ⟨.inl h, rfl⟩⟩
      · exact ⟨_, .inl ⟨.inr (.inl h), rfl⟩⟩
      · exact ⟨_, .inl ⟨.inr (.inr h), rfl⟩⟩
      · exact ⟨_, .inr ⟨h, rfl⟩⟩
    obtain ⟨cls, hform⟩ := hform
    obtain ⟨t, x, hrun⟩ := atomRes_completes (cls := cls) h.watch hal hclean hpass
    exact ⟨t, x, completes_to_of_runWord h (exec_atomic hform s) hrun⟩
  case scratch =>
    obtain ⟨t, x, hrun, hmem, hgroups⟩ := atomsRes_completes ht hm hv hok
    exact ⟨t, x, completes_to_of_runWord h rfl hrun, hmem, hgroups⟩

end Sys2Proof.Machine
end

section
/-! PROOFS. The columns (O55): what leaves their sensors alone, and the events of sensors, power, droop and berm windows. -/

namespace Sys2Proof.Machine

/-- Each die's columns are the same. -/
structure KeepsColumns (s t : State) : Prop where
  die : ∀ d, (t.die d).columns = (s.die d).columns

namespace KeepsColumns

theorem refl (s : State) : KeepsColumns s s := ⟨fun _ => rfl⟩

theorem trans {s t u : State} (h : KeepsColumns s t) (k : KeepsColumns t u) : KeepsColumns s u := ⟨fun d => (k.die d).trans (h.die d)⟩

theorem of_dies {s t : State} (h : t.dies = s.dies) : KeepsColumns s t := ⟨fun d => by simp only [State.die, h]⟩

theorem foldl {α : Type} {f : State → α → State} (hf : ∀ s a, KeepsColumns s (f s a)) (l : List α) (s : State) : KeepsColumns s (l.foldl f s) :=
  List.foldlRecOn (motive := KeepsColumns s) l f (refl s) fun t ht a _ => ht.trans (hf t a)

theorem modDie (s : State) (d : Nat) {f : Die → Die} (hf : (f (s.die d)).columns = (s.die d).columns) : KeepsColumns s (s.modDie d f) := by
  refine ⟨fun e => ?_⟩
  by_cases he : e = d
  · rw [he, die_modDie_same, hf]
  · rw [die_modDie_other _ _ he]

theorem column {s t : State} (h : KeepsColumns s t) (ck : Nat) : t.column ck = s.column ck := by simp only [State.column, h.die]

theorem writeHome (s : State) (pa : Nat) (bs : List Byte) : KeepsColumns s (s.writeHome pa bs) := by
  obtain ⟨_, _, _, _, h⟩ := writeHome_changes s pa bs
  exact of_dies (by rw [h])

theorem trailAt (s : State) (d time kind ctx index : Nat) (payload : List Byte) : KeepsColumns s (s.trailAt d time kind ctx index payload) := by
  unfold State.trailAt
  dsimp only
  split
  · exact refl s
  · split
    · exact (writeHome ..).trans (modDie _ _ rfl)
    · exact modDie _ _ rfl

theorem thermalEvent (s : State) (ck ev : Nat) : KeepsColumns s (s.thermalEvent ck ev) := by
  unfold State.thermalEvent
  dsimp only
  have hreport : ∀ mk, KeepsColumns s (s.report (ck / 96) mk) := fun mk => ⟨fun d => by rw [report_die]⟩
  split
  · exact (hreport _).trans (trailAt ..)
  · exact hreport _

theorem migrate (s : State) (ck : Nat) : KeepsColumns s (s.migrate ck) := by
  unfold State.migrate
  dsimp only
  split
  · exact refl s
  · split
    · exact thermalEvent ..
    · exact of_dies ((State.modTeam_dies ..).trans (State.modTeam_dies ..))

end KeepsColumns

theorem column_setColumn (s : State) (ck : Nat) (x : Column) : (s.setColumn ck x).column ck = x := by
  rw [State.column, State.setColumn, die_modDie_same]
  simp [SMap.getD]

/-- A test of the limits leaves the sensors of its column as they are. -/
theorem testLimits_sensors (s : State) (ck : Nat) :
    ((s.testLimits ck).column ck).u = (s.column ck).u ∧ ((s.testLimits ck).column ck).l = (s.column ck).l := by
  have hkeeps : ∀ (new : List Nat) (b : Bool) (t : State), KeepsColumns t (let u := new.foldl (fun s e => s.thermalEvent ck e) t
      if b then u.migrate ck else u) := fun new b t => by
    have hevents := KeepsColumns.foldl (fun s e => KeepsColumns.thermalEvent s ck e) new t
    cases b
    · exact hevents
    · exact hevents.trans (.migrate ..)
  have hcol : (s.testLimits ck).column ck = { s.column ck with reported := s.conditions ck } := by
    refine Eq.trans (KeepsColumns.column ?_ ck) (column_setColumn s ck { s.column ck with reported := s.conditions ck })
    exact hkeeps _ _ _
  rw [hcol]
  exact ⟨rfl, rfl⟩

/-- A sensor that has taken a sample. -/
def Sensor.taken (x : Sensor) (code : Nat) (partner : Option Nat) : Sensor := { x.run code partner with eff := code, accepted := some code }

theorem Sensor.run_state (x : Sensor) (code : Nat) (partner : Option Nat) : (x.run code partner).state = x.state := by
  unfold Sensor.run
  split <;> rfl

theorem Sensor.taken_state (x : Sensor) (code : Nat) (partner : Option Nat) : (x.taken code partner).state = x.state := x.run_state code partner

/-- A sensor in service takes a sample that passes every check. -/
theorem Sensor.sample_ok {x : Sensor} {code est : Nat} {partner : Option Nat} (hok : x.state = .ok) (hpass : x.fails code est partner = false) :
    x.sample code est partner = (x.taken code partner, none) := by
  simp [Sensor.sample, Sensor.run_state, hok, hpass, Sensor.taken]

/-- A sensor in service stands in for itself. -/
theorem Sensor.substitute_ok {x : Sensor} (hok : x.state = .ok) (partner : Sensor) (est : Nat) : x.substitute partner est = x := by
  simp [Sensor.substitute, hok]

theorem coreKey_die {d c : Nat} (hc : c < 96) : coreKey d c / 96 = d := by
  unfold coreKey
  omega

theorem clusterKey_die {d cl : Nat} (hcl : cl < 8) : (8 * d + cl) / 8 = d := by omega

theorem setRaw_cluster (s : State) (n : Nat) (v : Word) (k : Nat) : (s.setRaw n v).cluster k = s.cluster k := rfl

theorem trail_cluster (s : State) (d kind ctx index : Nat) (payload : List Byte) (k : Nat) :
    (s.trail d kind ctx index payload).cluster k = s.cluster k := by
  have hhome : ∀ pa bs, (s.writeHome pa bs).cluster k = s.cluster k := fun pa bs => by
    obtain ⟨_, _, _, _, h⟩ := writeHome_changes s pa bs
    rw [h]
    rfl
  unfold State.trail State.trailAt
  dsimp only
  split
  · rfl
  · split
    · exact hhome _ _
    · rfl

theorem thermalEvent_teams (s : State) (ck ev : Nat) : (s.thermalEvent ck ev).teams = s.teams := by
  have htrail : ∀ t : State, ∀ d kind ctx index payload, (t.trail d kind ctx index payload).teams = t.teams := fun t _ _ _ _ _ => by
    unfold State.trail State.trailAt
    dsimp only
    split
    · rfl
    · split
      · obtain ⟨_, _, _, _, h⟩ := writeHome_changes t (t.base _ + _) _
        rw [h]
        rfl
      · rfl
  unfold State.thermalEvent
  dsimp only
  split
  · exact htrail ..
  · rfl

/-! ### The sensors (14_column R300, R301) -/

/-- The sensors of a column after a sample that passes every check. -/
theorem sensorSample_passes {s : State} {ck u l : Nat} (hsu : (s.column ck).u.state = .ok) (hsl : (s.column ck).l.state = .ok)
    (hfu : (s.column ck).u.fails u (s.column ck).est (s.column ck).l.accepted = false)
    (hfl : (s.column ck).l.fails l (s.column ck).est (s.column ck).u.accepted = false) :
    ((s.sensorSample ck u l).column ck).u = (s.column ck).u.taken u (s.column ck).l.accepted
    ∧ ((s.sensorSample ck u l).column ck).l = (s.column ck).l.taken l (s.column ck).u.accepted := by
  have htest := testLimits_sensors (s.setColumn ck { s.column ck with
    u := (s.column ck).u.taken u (s.column ck).l.accepted, l := (s.column ck).l.taken l (s.column ck).u.accepted }) ck
  rw [column_setColumn] at htest
  unfold State.sensorSample
  simp only [Sensor.sample_ok hsu hfu, Sensor.sample_ok hsl hfl, Option.toList_none, List.append_nil, List.foldl_nil,
    Sensor.substitute_ok ((Sensor.taken_state ..).trans hsu), Sensor.substitute_ok ((Sensor.taken_state ..).trans hsl)]
  exact htest

theorem powerUpdate_power (s : State) (ck mw est : Nat) :
    ((s.powerUpdate ck mw est).die (ck / 96)).powerSum = (s.die (ck / 96)).powerSum + mw
    ∧ ((s.powerUpdate ck mw est).die (ck / 96)).powerN = (s.die (ck / 96)).powerN + 1 := by
  have hcol : ∀ x, ((s.setColumn ck x).die (ck / 96)).powerSum = (s.die (ck / 96)).powerSum
      ∧ ((s.setColumn ck x).die (ck / 96)).powerN = (s.die (ck / 96)).powerN := fun x => by
    rw [State.setColumn, die_modDie_same]
    exact ⟨rfl, rfl⟩
  obtain ⟨hsum, hn⟩ := hcol { s.column ck with mw := mw, est := est }
  rw [State.powerUpdate, die_modDie_same]
  exact ⟨congrArg (· + mw) hsum, congrArg (· + 1) hn⟩

/-- Settles O55: the reports, the trail and a migration that follow an event leave the columns alone. -/
theorem columnEvents : Obligations.ColumnEvents := by
  intro s d c cl hd hc hcl ck col k
  have hcd : coreKey d c / 96 = d := coreKey_die hc
  have hkd : (8 * d + cl) / 8 = d := clusterKey_die hcl
  refine ⟨fun line => ?writeback, fun u l hup hu hl hsu hsl hfu hfl => ?sample, fun hb he => ?rearm, fun mw est hup hmw hest => ?power,
    fun hmode => ?cap, fun hup ha hph => ?rise, fun left start hup hph => ?riseAgain, fun hup => ?clear, fun left start hph hover => ?stretch,
    fun hup hheld => ?hold, fun hlent => ?reclaim, fun hlent => ?noWindow⟩
  case writeback =>
    have hexec : exec (.columnWriteback d c line) s
        = .next (if d < 2 && c < 96 && s.canClean (coreKey d c) line then s.cleanColumn (coreKey d c) fun a => lineOf a == line else s) := rfl
    refine ⟨fun hcan => hexec.trans ?_, fun hcan => hexec.trans ?_⟩
    · simp [hd, hc, show s.canClean (coreKey d c) line = true from hcan, ck]
    · simp [show s.canClean (coreKey d c) line = false from hcan]
  case sample =>
    have hexec : exec (.sensorSample d c u l) s
        = .next (if d < 2 && c < 96 && !(s.die d).tripped then s.sensorSample (coreKey d c) (u % 1024) (l % 1024) else s) := rfl
    have hrun : exec (.sensorSample d c u l) s = .next (s.sensorSample ck u l) := by
      simp [hexec, hd, hc, hup, Nat.mod_eq_of_lt hu, Nat.mod_eq_of_lt hl, ck]
    obtain ⟨htu, htl⟩ := sensorSample_passes hsu hsl hfu hfl
    refine ⟨_, hrun, ?_⟩
    dsimp only
    rw [htu, htl]
    exact ⟨rfl, rfl, (Sensor.taken_state ..).trans hsu, (Sensor.taken_state ..).trans hsl, rfl, rfl⟩
  case rearm =>
    have hexec : exec (.sensorRearm ck) s = .next (if ck < 192 then s.hostCommand fun s => s.sensorRearm ck else s) := rfl
    have hck : ck < 192 := by simp only [ck, coreKey]; omega
    refine ⟨_, hexec.trans (by rw [if_pos hck, hostCommand_of_booted hb he]), ?_⟩
    unfold State.sensorRearm
    dsimp only
    rw [(KeepsColumns.foldl (fun t _ => KeepsColumns.thermalEvent t ck 8) _ _).column, column_setColumn]
    simp only [beq_iff_eq]
    exact ⟨rfl, rfl⟩
  case power =>
    have hexec : exec (.powerModelUpdate d c mw est) s
        = .next (if d < 2 && c < 96 && !(s.die d).tripped then s.powerUpdate (coreKey d c) (mw % 65536) (est % 1024) else s) := rfl
    have hrun : exec (.powerModelUpdate d c mw est) s = .next (s.powerUpdate ck mw est) := by
      simp [hexec, hd, hc, hup, Nat.mod_eq_of_lt hmw, Nat.mod_eq_of_lt hest, ck]
    have hcol : (s.powerUpdate ck mw est).column ck = { s.column ck with mw := mw, est := est } :=
      (KeepsColumns.column ((KeepsColumns.of_dies (State.modCluster_dies ..)).trans (.modDie _ _ rfl)) ck).trans (column_setColumn s ck _)
    obtain ⟨hsum, hn⟩ := powerUpdate_power s ck mw est
    rw [show ck / 96 = d from hcd] at hsum hn
    refine ⟨_, hrun, ?_⟩
    dsimp only
    rw [hcol]
    exact ⟨rfl, rfl, hsum, hn⟩
  case cap =>
    have hexec : exec (.powerCapInterval d) s = .next (if d < 2 then s.capInterval d else s) := rfl
    refine ⟨_, hexec.trans (by rw [if_pos hd]), ?_⟩
    have hcap : s.capInterval d = s.modDie d fun x => { x with
        overCap := s.rf (0x280 + d) 0 12 != 0 && (s.die d).powerVs (1000 * s.rf (0x280 + d) 0 12) == .gt, powerSum := 0, powerN := 0 } :=
      if_pos hmode
    dsimp only
    rw [hcap, die_modDie_same]
    refine ⟨rfl, rfl, rfl, ?_⟩
    simp [Die.powerVs, Nat.compare_eq_gt]
  case rise =>
    have hexec : exec (.droopAlarmRise d cl) s = .next (if d < 2 && cl < 8 && !(s.die d).tripped then s.droopRise (8 * d + cl) else s) := rfl
    have hrun : exec (.droopAlarmRise d cl) s = .next (s.droopRise k) := by simp [hexec, hd, hcl, hup, k]
    refine ⟨_, hrun, ?_⟩
    unfold State.droopRise
    simp only [ha, Bool.false_eq_true, if_false]
    rw [setRaw_cluster, State.cluster_setCluster]
    exact ⟨rfl, by simp only [k, hkd]⟩
  case riseAgain =>
    have hexec : exec (.droopAlarmRise d cl) s = .next (if d < 2 && cl < 8 && !(s.die d).tripped then s.droopRise (8 * d + cl) else s) := rfl
    have hrun : exec (.droopAlarmRise d cl) s = .next (s.droopRise k) := by simp [hexec, hd, hcl, hup, k]
    rw [hrun, State.droopRise]
    simp only [hph]
  case clear =>
    have hexec : exec (.droopAlarmClear d cl) s
        = .next (if d < 2 && cl < 8 && !(s.die d).tripped then s.modCluster (8 * d + cl) fun c => { c with alarm := false } else s) := rfl
    rw [hexec, if_pos (by simp [hd, hcl, hup])]
    rfl
  case stretch =>
    have hexec : exec (.stretchEnd d cl) s = .next (if d < 2 && cl < 8 then s.stretchEnd (8 * d + cl) else s) := rfl
    have hend : (s.cluster k).stretchOver = true := by
      unfold Cluster.stretchOver
      rw [hph]
      simpa using hover
    refine ⟨_, hexec.trans (by rw [if_pos (by simp [hd, hcl])]), ?_⟩
    unfold State.stretchEnd
    simp only [show s.cluster (8 * d + cl) = s.cluster k from rfl, hph, hend, Bool.not_true, Bool.false_eq_true, if_false]
    rw [trail_cluster, State.cluster_setCluster]
    simp [k]
  case hold =>
    have hexec : exec (.holdEnd d cl) s = .next (if d < 2 && cl < 8 && !(s.die d).tripped then
        s.modCluster (8 * d + cl) fun c => if c.phase.held then { c with phase := .normal } else c else s) := rfl
    rw [hexec, if_pos (by simp [hd, hcl, hup]), State.modCluster]
    exact congrArg (fun c => Host.Outcome.next (s.setCluster k c)) (if_pos hheld)
  case reclaim =>
    have hexec : exec (.bermReclaim d c) s = .next (if d < 2 && c < 96 then s.reclaim (coreKey d c) else s) := rfl
    refine ⟨_, hexec.trans (by rw [if_pos (by simp [hd, hc])]), ?_⟩
    unfold State.reclaim
    simp only [beq_iff_eq, show s.lent (coreKey d c) ≠ 0 from hlent, if_false, thermalEvent_teams]
    intro p hp hres w hw hlender
    obtain ⟨q, -, rfl⟩ := List.mem_map.mp hp
    have hq : q.2.resident = true := by
      dsimp only at hres
      split at hres
      · exact ‹_›
      · exact hres
    simp only [hq, if_true] at hw
    obtain ⟨v, -, rfl⟩ := List.mem_map.mp hw
    by_cases hv : v.lender = coreKey d c
    · simp [hv]
    · simp only [hv, if_false] at hlender
      exact absurd hlender hv
  case noWindow =>
    have hexec : exec (.bermReclaim d c) s = .next (if d < 2 && c < 96 then s.reclaim (coreKey d c) else s) := rfl
    rw [hexec, State.reclaim]
    simp [show s.lent (coreKey d c) = 0 from hlent]

end Sys2Proof.Machine
end

section
/-! PROOFS. The canonical form of memory (O47): what it means of each kind of result, and the operations whose effect on memory is known already. -/

namespace Sys2Proof.Machine

/-! ### Results that carry a state -/

/-- The state of an outcome, where there is one, has its memory in canonical form. -/
def Out.memWf : Out → Prop
  | .next t => t.memWf
  | _ => True

/-- So has the state that a word's body leaves, and what the body does once its word is done keeps the form. -/
def Res.memWf : Res → Prop
  | .done t _ => t.memWf
  | .doneWith t _ _ => t.memWf
  | .move t _ _ _ after => t.memWf ∧ ∀ u : State, u.memWf → (after u).memWf
  | .stop t _ _ _ => t.memWf

theorem done_memWf {s : State} (h : s.memWf) (f : Eff) : (Res.done s f).memWf := h

theorem stop_memWf {s : State} (h : s.memWf) (f : Eff) (dn : Mask) (why : Stop) : (Res.stop s f dn why).memWf := h

/-- A word after which the threads move and nothing else is done. -/
theorem move_memWf {s : State} (h : s.memWf) (f : Eff) (place : Nat → Thread → Thread) (post : List (Cause × Word)) :
    (Res.move s f place post id).memWf := ⟨h, fun _ ht => ht⟩

theorem next_memWf {t : State} (h : t.memWf) : Out.memWf (.next t) := h

theorem memWf_snd {α : Type} {p : α × State} {a : α} {t : State} (he : p = (a, t)) (h : p.2.memWf) : t.memWf := by
  rw [he] at h
  exact h

theorem memWf_fst {α : Type} {p : State × α} {a : α} {t : State} (he : p = (t, a)) (h : p.1.memWf) : t.memWf := by
  rw [he] at h
  exact h

/-- A part `f` of a value that has been taken apart. -/
theorem memWf_at {α : Type} {p q : α} (f : α → State) (he : p = q) (h : (f p).memWf) : (f q).memWf := he ▸ h

theorem ite_memWf {c : Prop} [Decidable c] {s t : State} (hs : s.memWf) (ht : t.memWf) : (if c then s else t).memWf := by
  split
  · exact hs
  · exact ht

theorem snd_ite_memWf {α : Type} {c : Prop} [Decidable c] {p q : α × State} (hp : p.2.memWf) (hq : q.2.memWf) :
    (if c then p else q).2.memWf := by
  split
  · exact hp
  · exact hq

theorem elim_memWf {α : Type} {s : State} (h : s.memWf) {f : α → State} (hf : ∀ a, (f a).memWf) (o : Option α) : (o.elim s f).memWf := by
  cases o with
  | none => exact h
  | some a => exact hf a

/-- What each step of a fold keeps, the fold keeps. -/
theorem foldl_keeps {α β : Type} {P : β → Prop} {f : β → α → β} (hf : ∀ b a, P b → P (f b a)) {b : β} (h : P b) (l : List α) :
    P (l.foldl f b) :=
  List.foldlRecOn (motive := P) l f h fun _ hb a _ => hf _ a hb

/-! ### Operations whose effect on memory is known -/

theorem dropCopyMarks_memWf {s : State} (h : s.memWf) (at_ : ErrPlace → Option Nat) (f : Nat → Bool) : (s.dropCopyMarks at_ f).memWf :=
  memWf_of_mem (dropCopyMarks_mem ..) h

theorem dropL1_memWf {s : State} (h : s.memWf) (ck : Nat) (f : Nat → Bool) : (s.dropL1 ck f).memWf := memWf_of_mem (dropL1_mem ..) h

theorem walkVa_memWf {s : State} (h : s.memWf) (d x va : Nat) : (s.walkVa d x va).2.memWf := memWf_of_mem (walkVa_mem ..) h

theorem deviceReset_memWf {s : State} (h : s.memWf) (hot0 hot1 : Bool) : (s.deviceReset hot0 hot1).memWf := memWf_of_mem (deviceReset_mem ..) h

theorem writeRuns_memWf {s : State} (h : s.memWf) (rs : List (Nat × List Byte)) : (s.writeRuns rs).memWf := by
  unfold State.memWf
  rw [writeRuns_mem]
  exact Memory.writeAll_wf h rs

end Sys2Proof.Machine
end

section
/-! PROOFS. The canonical form of memory (O47): the operations of the state, of memory and of the issue. -/

namespace Sys2Proof.Machine

/-! ### The accessors -/

theorem setDie_memWf {s : State} (h : s.memWf) (d : Nat) (x : Die) : (s.setDie d x).memWf := by
  unfold State.setDie
  exact h

theorem modDie_memWf {s : State} (h : s.memWf) (d : Nat) (f : Die → Die) : (s.modDie d f).memWf := by
  unfold State.modDie
  exact setDie_memWf h _ _

theorem setCore_memWf {s : State} (h : s.memWf) (ck : Nat) (x : Core) : (s.setCore ck x).memWf := by
  unfold State.setCore
  exact h

theorem modCore_memWf {s : State} (h : s.memWf) (ck : Nat) (f : Core → Core) : (s.modCore ck f).memWf := by
  unfold State.modCore
  exact setCore_memWf h _ _

theorem setCluster_memWf {s : State} (h : s.memWf) (k : Nat) (x : Cluster) : (s.setCluster k x).memWf := by
  unfold State.setCluster
  exact h

theorem modCluster_memWf {s : State} (h : s.memWf) (k : Nat) (f : Cluster → Cluster) : (s.modCluster k f).memWf := by
  unfold State.modCluster
  exact setCluster_memWf h _ _

theorem setGroup_memWf {s : State} (h : s.memWf) (gk : Nat) (g : Group) : (s.setGroup gk g).memWf := by
  unfold State.setGroup
  exact h

theorem modGroup_memWf {s : State} (h : s.memWf) (gk : Nat) (f : Group → Group) : (s.modGroup gk f).memWf := by
  unfold State.modGroup
  split
  · exact setGroup_memWf h _ _
  · exact h

theorem setTeam_memWf {s : State} (h : s.memWf) (t : Nat) (x : Team) : (s.setTeam t x).memWf := by
  unfold State.setTeam
  exact h

theorem modTeam_memWf {s : State} (h : s.memWf) (t : Nat) (f : Team → Team) : (s.modTeam t f).memWf := by
  unfold State.modTeam
  split
  · exact setTeam_memWf h _ _
  · exact h

theorem setNode_memWf {s : State} (h : s.memWf) (n : Nat) (x : Node) : (s.setNode n x).memWf := by
  unfold State.setNode
  exact h

theorem modNode_memWf {s : State} (h : s.memWf) (n : Nat) (f : Node → Node) : (s.modNode n f).memWf := by
  unfold State.modNode
  split
  · exact setNode_memWf h _ _
  · exact h

theorem setCtx_memWf {s : State} (h : s.memWf) (x : Nat) (c : Ctx) : (s.setCtx x c).memWf := by
  unfold State.setCtx
  exact h

theorem setCopy_memWf {s : State} (h : s.memWf) (k : Nat) (x : Copy) : (s.setCopy k x).memWf := by
  unfold State.setCopy
  exact h

theorem setMonitor_memWf {s : State} (h : s.memWf) (k : Nat) (x : Monitor) : (s.setMonitor k x).memWf := by
  unfold State.setMonitor
  exact h

theorem fresh_memWf {s : State} (h : s.memWf) : (s.fresh).2.memWf := by
  unfold State.fresh
  exact h

theorem flip_memWf {s : State} (h : s.memWf) : (s.flip).2.memWf := by
  unfold State.flip
  exact h

theorem pick_memWf {s : State} (h : s.memWf) (n : Nat) : (s.pick n).2.memWf := by
  unfold State.pick
  exact h

/-! ### System registers -/

theorem setRaw_memWf {s : State} (h : s.memWf) (n : Nat) (v : Word) : (s.setRaw n v).memWf := by
  unfold State.setRaw
  exact h

theorem setColumn_memWf {s : State} (h : s.memWf) (ck : Nat) (x : Column) : (s.setColumn ck x).memWf := by
  unfold State.setColumn
  exact modDie_memWf h _ _

/-! ### Memory and its copies -/

theorem poisonStored_memWf {s : State} (h : s.memWf) (ck : Nat) (units : List Nat) : (s.poisonStored ck units).memWf := by
  unfold State.poisonStored
  exact h

theorem countPerf_memWf {s : State} (h : s.memWf) (ck sel : Nat) : (s.countPerf ck sel).memWf := by
  unfold State.countPerf
  exact modCore_memWf h _ _

theorem fillColumn_memWf {s : State} (h : s.memWf) (ck : Nat) (p : Phys) : (s.fillColumn ck p).memWf := by
  unfold State.fillColumn
  exact ite_memWf (modCore_memWf (columnRoom_memWf _ _ h) _ _) (by exact dropCopyMarks_memWf (modCore_memWf (columnRoom_memWf _ _ h) _ _) _ _)

theorem readColumn_memWf {s : State} (h : s.memWf) (ck : Nat) (p : Phys) (n : Nat) : (s.readColumn ck p n).2.2.memWf := by
  unfold State.readColumn
  dsimp only
  split
  · exact h
  · split
    · split
      · exact countPerf_memWf (flip_memWf h) _ _
      · exact countPerf_memWf (fillColumn_memWf (ite_memWf (modCore_memWf (flip_memWf h) _ _) (flip_memWf h)) _ _) _ _
    · dsimp only
      split
      · exact countPerf_memWf h _ _
      · exact countPerf_memWf (fillColumn_memWf h _ _) _ _

theorem dropParts_memWf {s : State} (h : s.memWf) (ck lo len : Nat) : (s.dropParts ck lo len).memWf := by
  unfold State.dropParts
  exact ite_memWf (modCore_memWf h _ _) h

theorem fillL1_memWf {s : State} (h : s.memWf) (ck : Nat) (p : Phys) (n : Nat) : (s.fillL1 ck p n).memWf := by
  unfold State.fillL1
  extract_lets lo len others u v below w
  have hu : u.memWf := ite_memWf h (dropL1_memWf (pick_memWf h others.length) _ _)
  have hw : w.memWf := modCore_memWf (dropParts_memWf hu _ _ _) _ _
  exact ite_memWf hw (memWf_of_mem (s := w.dropCopyMarks _ _) rfl (dropCopyMarks_memWf hw _ _))

theorem readLine_memWf {s : State} (h : s.memWf) (ck : Nat) (p : Phys) (n : Nat) : (s.readLine ck p n).2.2.memWf := by
  unfold State.readLine
  dsimp only
  split
  · exact readColumn_memWf (keptAs_memWf _ _ h) _ _ _
  · split
    · split
      · exact countPerf_memWf (flip_memWf (keptAs_memWf _ _ h)) _ _
      · exact countPerf_memWf (fillL1_memWf (readColumn_memWf (dropL1_memWf (flip_memWf (keptAs_memWf _ _ h)) _ _) _ _ _) _ _ _) _ _
    · dsimp only
      split
      · exact countPerf_memWf (keptAs_memWf _ _ h) _ _
      · exact countPerf_memWf (fillL1_memWf (readColumn_memWf (dropL1_memWf (keptAs_memWf _ _ h) _ _) _ _ _) _ _ _) _ _

theorem readCached_memWf {s : State} (h : s.memWf) (ck : Nat) (p : Phys) (n : Nat) : (s.readCached ck p n).2.2.memWf := by
  unfold State.readCached
  dsimp only
  refine foldl_keeps (P := fun p : List Byte × Option Cause × State => p.2.2.memWf) (fun p1 a1 (hp1 : p1.2.2.memWf) => ?_) h _
  exact readLine_memWf hp1 _ _ _

theorem memRead_memWf {s : State} (h : s.memWf) (ck : Nat) (segs : List Seg) (acq : Bool) (scope : Nat) :
    (s.memRead ck segs acq scope).2.2.memWf := by
  unfold State.memRead
  dsimp only
  refine foldl_keeps (P := fun p : List Byte × Option Cause × State => p.2.2.memWf) (fun p1 a1 (hp1 : p1.2.2.memWf) => ?_) h _
  dsimp only
  split
  · exact dropLine_memWf _ _ hp1
  · exact readCached_memWf hp1 _ _ _

theorem touchPages_memWf {s : State} (h : s.memWf) (d x va n kind : Nat) : (s.touchPages d x va n kind).memWf := by
  unfold State.touchPages
  split
  · exact h
  · refine foldl_memWf _ (fun t1 a1 ht1 => ?_) _ _ h
    split
    · rename_i t2 he1
      have ht2 : t2.memWf := memWf_snd he1 (walkVa_memWf ht1 _ _ _)
      exact ite_memWf ht2 (setAccessed_memWf _ _ _ ht2)
    · rename_i he1
      exact memWf_snd he1 (walkVa_memWf ht1 _ _ _)

/-! ### Reports and messages -/

theorem send_memWf {s : State} (h : s.memWf) (m : HostMsg) : (s.send m).memWf := by
  unfold State.send
  exact h

theorem hostCommand_memWf {s : State} (h : s.memWf) {f : State → State} (hf : ∀ (t : State), t.memWf → (f t).memWf) :
    (s.hostCommand f).memWf := by
  unfold State.hostCommand
  exact ite_memWf (send_memWf h _) (ite_memWf h (hf _ h))

theorem report_memWf {s : State} (h : s.memWf) (d : Nat) (mk : Nat → Report) : (s.report d mk).memWf := by
  unfold State.report
  exact modDie_memWf (by exact h) _ _

theorem trail_memWf {s : State} (h : s.memWf) (d kind ctx index : Nat) (payload : List Byte) :
    (s.trail d kind ctx index payload).memWf := by
  unfold State.trail
  exact trailAt_memWf _ _ _ _ _ _ h

theorem countLost_memWf {s : State} (h : s.memWf) (n : Nat) : (s.countLost n).memWf := by
  unfold State.countLost
  exact h

/-! ### Groups, teams and traps -/

theorem setIg_memWf {s : State} (h : s.memWf) (pk : Nat) (ig : IssueGroup) : (s.setIg pk ig).memWf := by
  unfold State.setIg
  exact h

theorem dropIg_memWf {s : State} (h : s.memWf) (pk : Nat) : (s.dropIg pk).memWf := by
  unfold State.dropIg
  exact h

theorem suspend_memWf {s : State} (h : s.memWf) (pk : Nat) (ig : IssueGroup) (b : Block) : (s.suspend pk ig b).memWf := by
  unfold State.suspend
  dsimp only
  refine dropIg_memWf (modGroup_memWf ?_ _ _) _
  split
  · exact flip_memWf h
  · exact h

theorem orFxCtx_memWf {s : State} (h : s.memWf) (x : Nat) (f : BitVec 8) : (s.orFxCtx x f).memWf := by
  unfold State.orFxCtx
  exact setRaw_memWf h _ _

theorem groupExit_memWf {s : State} (h : s.memWf) (gk : Nat) : (s.groupExit gk).memWf := by
  unfold State.groupExit
  dsimp only
  split
  · exact h
  · refine setGroup_memWf ?_ _ _
    unfold State.memWf
    dsimp only
    change State.memWf _
    split
    · exact ite_memWf (dropIg_memWf (orFxCtx_memWf h _ _) _) (orFxCtx_memWf h _ _)
    · exact orFxCtx_memWf h _ _

theorem teamCheck_memWf {s : State} (h : s.memWf) (t : Nat) : (s.teamCheck t).memWf := by
  unfold State.teamCheck
  exact ite_memWf (modTeam_memWf h _ _) h

theorem settle_memWf {s : State} (h : s.memWf) (gk : Nat) : (s.settle gk).memWf := by
  unfold State.settle
  split
  · exact h
  · exact ite_memWf (teamCheck_memWf (groupExit_memWf h _) _) (setGroup_memWf h _ _)

theorem endTeam_memWf {s : State} (h : s.memWf) (t : Nat) (cause : Cause) : (s.endTeam t cause).memWf := by
  unfold State.endTeam
  dsimp only
  split
  · exact h
  · refine teamCheck_memWf (modTeam_memWf ?_ _ _) _
    refine foldl_memWf _ (fun t1 a1 ht1 => ?_) _ _ (report_memWf h _ _)
    exact groupExit_memWf (modGroup_memWf ht1 _ _) _

theorem toHost_memWf {s : State} (h : s.memWf) (gk : Nat) (f : Frame) (rkind : Nat) : (s.toHost gk f rkind).memWf := by
  unfold State.toHost
  exact report_memWf (modGroup_memWf h _ _) _ _

theorem toHandler_memWf {s : State} (h : s.memWf) (gk : Nat) (f : Frame) : (s.toHandler gk f).memWf := by
  unfold State.toHandler
  dsimp only
  split
  · exact h
  · split
    · exact h
    · split
      · exact endTeam_memWf h _ _
      · split
        · exact ite_memWf (setGroup_memWf h _ _) (setGroup_memWf h _ _)
        · exact ite_memWf (setGroup_memWf h _ _) (toHost_memWf h _ _ _)

theorem deliverLimit_memWf {s : State} (h : s.memWf) (gk : Nat) (f : Frame) : (s.deliverLimit gk f).memWf := by
  unfold State.deliverLimit
  split
  · exact modGroup_memWf h _ _
  · exact toHandler_memWf h _ _

theorem deliver_memWf {s : State} (h : s.memWf) (gk : Nat) (f : Frame) : (s.deliver gk f).memWf := by
  unfold State.deliver
  exact ite_memWf (deliverLimit_memWf h _ _) (ite_memWf (toHost_memWf h _ _ _) (toHandler_memWf h _ _))

theorem parkIg_memWf {s : State} (h : s.memWf) (gk : Nat) : (s.parkIg gk).memWf := by
  unfold State.parkIg
  dsimp only
  split
  · exact h
  · exact ite_memWf h (modGroup_memWf (dropIg_memWf h _) _ _)

theorem takeTraps_memWf {s : State} (h : s.memWf) (gk : Nat) (as : List TrapAt) (force : Bool) : (s.takeTraps gk as force).memWf := by
  unfold State.takeTraps
  dsimp only
  split
  · exact h
  · split
    · exact parkIg_memWf h _
    · exact ite_memWf (setGroup_memWf (parkIg_memWf h _) _ _) (deliver_memWf (setGroup_memWf (parkIg_memWf h _) _ _) _ _)

theorem takeTrap_memWf {s : State} (h : s.memWf) (gk : Nat) (a : TrapAt) : (s.takeTrap gk a).memWf := by
  unfold State.takeTrap
  exact takeTraps_memWf h _ _ _

theorem asyncTrap_memWf {s : State} (h : s.memWf) (gk : Nat) (cause : Cause) : (s.asyncTrap gk cause).memWf := by
  unfold State.asyncTrap
  dsimp only
  split
  · exact parkIg_memWf h _
  · exact takeTrap_memWf (parkIg_memWf h _) _ _

theorem laneTrap_memWf {s : State} (h : s.memWf) (gk : Nat) (cause : Cause) (m : Mask) : (s.laneTrap gk cause m).memWf := by
  unfold State.laneTrap
  dsimp only
  split
  · exact parkIg_memWf h _
  · split
    · exact takeTrap_memWf (setGroup_memWf (parkIg_memWf h _) _ _) _ _
    · exact takeTrap_memWf (parkIg_memWf h _) _ _

theorem resumeFrame_memWf {s : State} (h : s.memWf) (gk : Nat) (f : Frame) (skip ret : Bool) : (s.resumeFrame gk f skip ret).memWf := by
  unfold State.resumeFrame
  split
  · exact h
  · split
    · exact h
    · exact settle_memWf (setGroup_memWf h _ _) _

theorem deliverPending_memWf {s : State} (h : s.memWf) (gk : Nat) (force : Mask) : (s.deliverPending gk force).memWf := by
  unfold State.deliverPending
  dsimp only
  split
  · exact h
  · split
    · exact h
    · split
      · exact h
      · exact deliver_memWf (setGroup_memWf h _ _) _ _

theorem haltLanes_memWf {s : State} (h : s.memWf) (gk : Nat) (m : Mask) (x : Halt) : (s.haltLanes gk m x).memWf := by
  unfold State.haltLanes
  dsimp only
  split
  · exact h
  · split
    · exact h
    · refine setGroup_memWf ?_ _ _
      split
      · exact ite_memWf (dropIg_memWf h _) (setIg_memWf h _ _)
      · exact h

theorem haltReport_memWf {s : State} (h : s.memWf) (gk : Nat) (x : Halt) : (s.haltReport gk x).memWf := by
  unfold State.haltReport
  dsimp only
  split
  · exact h
  · split
    · exact h
    · exact report_memWf h _ _

theorem stopTeam_memWf {s : State} (h : s.memWf) (t : Nat) (all : Bool) : (s.stopTeam t all).memWf := by
  unfold State.stopTeam
  exact modTeam_memWf h _ _

theorem haltScope_memWf {s : State} (h : s.memWf) (gk : Nat) (m : Mask) (scope : Nat) (x : Halt) : (s.haltScope gk m scope x).memWf := by
  unfold State.haltScope
  dsimp only
  split
  · exact h
  · split
    · split
      · refine haltReport_memWf ?_ _ _
        refine foldl_memWf _ (fun t1 a1 ht1 => ?_) _ _ (haltLanes_memWf (stopTeam_memWf h _ _) _ _ _)
        exact haltLanes_memWf ht1 _ _ _
      · refine foldl_memWf _ (fun t1 a1 ht1 => ?_) _ _ (haltLanes_memWf (stopTeam_memWf h _ _) _ _ _)
        exact haltLanes_memWf ht1 _ _ _
    · exact ite_memWf h (haltReport_memWf (modGroup_memWf (haltLanes_memWf (ite_memWf (stopTeam_memWf h _ _) h) _ _ _) _ _) _ _)

theorem stepStatus_memWf {s : State} (h : s.memWf) (by_ gk : Nat) (m : Mask) (st : Nat) : (s.stepStatus by_ gk m st).memWf := by
  unfold State.stepStatus
  exact modGroup_memWf h _ _

theorem rehalt_memWf {s : State} (h : s.memWf) (by_ gk : Nat) (m : Mask) : (s.rehalt by_ gk m).memWf := by
  unfold State.rehalt
  dsimp only
  split
  · exact h
  · exact modGroup_memWf h _ _

/-! ### Operands -/

theorem unmarkRegs_memWf {s : State} (h : s.memWf) (gk : Nat) (freed : List Nat) (ws : List RegWrite) :
    (s.unmarkRegs gk freed ws).memWf := by
  unfold State.unmarkRegs
  exact ite_memWf h (by exact h)

/-! ### Flags and watch hits -/

theorem countHits_memWf {s : State} (h : s.memWf) (e : Env) (m : Mask) : (s.countHits e m).2.memWf := by
  unfold State.countHits
  dsimp only
  refine foldl_keeps (P := fun p : Hits × State => p.2.memWf) (fun p1 a1 (hp1 : p1.2.memWf) => ?_) h _
  exact modCore_memWf hp1 _ _

theorem recordHits_memWf {s : State} (h : s.memWf) (e : Env) (hits : Hits) : (s.recordHits e hits).memWf := by
  unfold State.recordHits
  dsimp only
  refine foldl_memWf _ (fun t1 a1 ht1 => ?_) _ _ h
  exact modCore_memWf ht1 _ _

/-! ### The issue of a word -/

theorem leaveDone_memWf {s : State} (h : s.memWf) (e : Env) (ig : IssueGroup) : (s.leaveDone e ig).2.2.memWf := by
  unfold State.leaveDone
  dsimp only
  split
  · exact h
  · exact recordHits_memWf (countHits_memWf h _ _) _ _

theorem haltFor_memWf {s : State} (h : s.memWf) (e : Env) (skid : Nat) (hits : Hits) : (s.haltFor e skid hits).memWf := by
  unfold State.haltFor
  split
  · exact haltScope_memWf h _ _ _ _
  · exact h

theorem trapIg_memWf {s : State} (h : s.memWf) (e : Env) (ig : IssueGroup) (cause : Cause) (info : Word) (kind lvl lane : Nat) :
    (s.trapIg e ig cause info kind lvl lane).memWf := by
  unfold State.trapIg
  dsimp only
  split
  · exact stepStatus_memWf (takeTraps_memWf (haltFor_memWf (leaveDone_memWf (modGroup_memWf (dropIg_memWf h _) _ _) _ _) _ _ _) _ _ _) _ _ _ _
  · exact takeTraps_memWf (haltFor_memWf (leaveDone_memWf (modGroup_memWf (dropIg_memWf h _) _ _) _ _) _ _ _) _ _ _

theorem trapBefore_memWf {s : State} (h : s.memWf) (e : Env) (done : Mask) (cause : Cause) (info : Word) (kind lvl lane : Nat) :
    (s.trapBefore e done cause info kind lvl lane).memWf := by
  unfold State.trapBefore
  exact trapIg_memWf h _ _ _ _ _ _ _

theorem blockHere_memWf {s : State} (h : s.memWf) (e : Env) (done : Mask) (b : Block) : (s.blockHere e done b).memWf := by
  unfold State.blockHere
  dsimp only
  split
  · exact stepStatus_memWf (modGroup_memWf (suspend_memWf h _ _ _) _ _) _ _ _ _
  · exact suspend_memWf h _ _ _

theorem watchStop_memWf {s : State} (h : s.memWf) (e : Env) (done : Mask) (hits : Hits) : (s.watchStop e done hits).memWf := by
  unfold State.watchStop
  extract_lets u ig ig' v tl w
  have hv : v.memWf := setIg_memWf (recordHits_memWf h _ _) _ _
  have hw : w.memWf := haltFor_memWf hv _ _ _
  split
  · exact trapIg_memWf hw _ _ _ _ _ _ _
  · split
    · exact stepStatus_memWf (haltFor_memWf (modGroup_memWf (dropIg_memWf hv _) _ _) _ _ _) _ _ _ _
    · split
      · exact ite_memWf (suspend_memWf hw _ _ _) hw
      · exact hw

theorem setSkids_memWf {s : State} (h : s.memWf) (ck : Nat) (hs : List (Nat × Nat)) : (s.setSkids ck hs).memWf := by
  unfold State.setSkids
  exact modCore_memWf h _ _

theorem landHalts_memWf {s : State} (h : s.memWf) (e : Env) (m : Mask) : (s.landHalts e m).1.memWf := by
  unfold State.landHalts
  dsimp only
  split
  · exact h
  · split
    · exact h
    · exact setSkids_memWf (setGroup_memWf (flip_memWf (flip_memWf h)) _ _) _ _

theorem advance_memWf {s : State} (h : s.memWf) (e : Env) (place : Option (Nat → Thread → Thread)) : (s.advance e place).memWf := by
  unfold State.advance
  exact ite_memWf (setIg_memWf h _ _) (modGroup_memWf (dropIg_memWf h _) _ _)

theorem boundary_memWf {s : State} (h : s.memWf) (e : Env) (m : Mask) (hits : Hits) (traps : List (Cause × Word)) (force : Bool) :
    (s.boundary e m hits traps force).memWf := by
  unfold State.boundary
  extract_lets tl post
  split
  · exact h
  · extract_lets u v
    have hu : u.memWf := by
      refine ite_memWf h ?_
      split
      · exact h
      · exact modGroup_memWf (dropIg_memWf h _) _ _
    have hv : v.memWf := by
      dsimp only [v]
      split
      · exact haltScope_memWf hu _ _ _ _
      · exact hu
    split
    · exact hv
    · exact takeTraps_memWf hv _ _ _

theorem finish_memWf {s : State} (h : s.memWf) {after : State → State} (hafter : ∀ (t : State), t.memWf → (after t).memWf) (e : Env) (f : Eff)
    (place : Option (Nat → Thread → Thread)) (post : List (Cause × Word)) (fmt : Bool) : (s.finish e f place post fmt after).memWf := by
  unfold State.finish
  extract_lets m raised fx vh u fh
  split
  next ch v hch =>
  have hu : u.memWf := modGroup_memWf (unmarkRegs_memWf h _ _ _) _ _
  have hv : v.memWf := memWf_snd hch (countHits_memWf hu _ _)
  extract_lets w traps x at_ waits
  have hx : x.memWf := hafter _ (advance_memWf (recordHits_memWf hv _ _) _ _)
  split
  next y landed hland =>
  have hy : y.memWf := memWf_fst hland (landHalts_memWf hx _ _)
  extract_lets z z'
  have hz : z.memWf := ite_memWf hy (modGroup_memWf hy _ _)
  have hz' : z'.memWf := by
    dsimp only [z']
    split
    · exact stepStatus_memWf (rehalt_memWf hz _ _ _) _ _ _ _
    · exact hz
  exact deliverPending_memWf (settle_memWf (boundary_memWf hz' _ _ _ _ _) _) _ _

theorem apply_memWf {s0 : State} (h : s0.memWf) {r : Res} (hr : r.memWf) (e : Env) : (r.apply s0 e).memWf := by
  unfold Res.apply
  cases r with
  | done s f =>
    have hs : s.memWf := hr
    exact finish_memWf hs (fun _ ht => ht) _ _ _ _ _
  | doneWith s f post =>
    have hs : s.memWf := hr
    exact finish_memWf hs (fun _ ht => ht) _ _ _ _ _
  | move s f place post after =>
    obtain ⟨hs, hafter⟩ := hr
    exact finish_memWf hs hafter _ _ _ _ _
  | stop s f dn why =>
    have hs : s.memWf := hr
    dsimp -zeta only
    extract_lets vh u v
    have hu : u.memWf := by
      dsimp only [u]
      split
      · exact setIg_memWf hs _ _
      · exact hs
    have hv : v.memWf := ite_memWf hu (modGroup_memWf (recordHits_memWf hu _ _) _ _)
    cases why with
    | trap c info => exact trapBefore_memWf hv _ _ _ _ _ _ _
    | fault c kind lvl va lane => exact ite_memWf (blockHere_memWf h _ _ _) (trapBefore_memWf hv _ _ _ _ _ _ _)
    | block b => exact blockHere_memWf hv _ _ _
    | halt hits => exact watchStop_memWf hv _ _ _

theorem issueWord_memWf {s : State} (h : s.memWf) {body : Env → State → Res} (hbody : ∀ (e : Env) (t : State), t.memWf → (body e t).memWf)
    (i : Instr) (e : Env) (pre : PreCheck) : (s.issueWord i e pre body).memWf := by
  unfold State.issueWord
  extract_lets xh stops u
  have hu : u.memWf := ite_memWf h (recordHits_memWf h _ _)
  split
  · exact watchStop_memWf h _ _ _
  · split
    · exact trapBefore_memWf hu _ _ _ _ _ _ _
    · split
      · exact finish_memWf hu (fun _ ht => ht) _ _ _ _ _
      · split
        · exact trapBefore_memWf hu _ _ _ _ _ _ _
        · split
          · exact apply_memWf hu (stop_memWf hu _ _ _) _
          · exact apply_memWf hu (hbody _ _ hu) _

/-- A word leaves memory in canonical form where its own effect does. -/
theorem runWord_memWf {i : Instr} {pre : PreCheck} {body : Env → State → Res} (hbody : ∀ (e : Env) (t : State), t.memWf → (body e t).memWf)
    {s : State} (h : s.memWf) : (runWord i pre body s).memWf := by
  unfold runWord
  split
  · trivial
  · exact issueWord_memWf h hbody _ _ _

theorem runAlu_memWf {i : Instr} {body : Env → State → Eff} {s : State} (h : s.memWf) : (runAlu i body s).memWf :=
  runWord_memWf (fun _ _ ht => done_memWf ht _) h

end Sys2Proof.Machine
end

section
/-! PROOFS. The canonical form of memory (O47): time and the words of the pipes. -/

namespace Sys2Proof.Machine

/-! ### Turns and time -/

theorem fetchCode_memWf {s : State} (h : s.memWf) (ck : Nat) (t : Team) (va : Word) : (s.fetchCode ck t va).2.memWf := by
  unfold State.fetchCode
  dsimp only
  split
  · rename_i he1
    exact memWf_snd he1 (translate_memWf _ _ _ _ h)
  · rename_i he1
    exact memWf_snd he1 (translate_memWf _ _ _ _ h)
  · rename_i t1 he1
    have ht1 : t1.memWf := memWf_snd he1 (translate_memWf _ _ _ _ h)
    split
    · exact ht1
    · split
      · exact ht1
      · split
        · exact ht1
        · exact flip_memWf ht1

theorem trapAtPc_memWf {s : State} (h : s.memWf) (gk : Nat) (m : Mask) (pc : Word × Nat) (cause : Cause) (info kind lvl : Nat) :
    (s.trapAtPc gk m pc cause info kind lvl).memWf := by
  unfold State.trapAtPc
  exact takeTrap_memWf h _ _

theorem startClause_memWf {s : State} (h : s.memWf) (gk : Nat) (m : Mask) (pc : Word × Nat) (x : Word) :
    (s.startClause gk m pc x).memWf := by
  unfold State.startClause
  dsimp only
  unfold State.memWf
  dsimp only
  change State.memWf _
  refine setIg_memWf ?_ _ _
  split
  · exact modGroup_memWf h _ _
  · exact modTeam_memWf (modGroup_memWf h _ _) _ _

theorem tailOk_memWf {s : State} (h : s.memWf) (ck x : Nat) (hdr : Word) (count : Nat) : (s.tailOk ck x hdr count).2.memWf := by
  unfold State.tailOk
  dsimp only
  split
  · exact h
  · split
    · exact h
    · split
      · rename_i he1
        exact memWf_snd he1 (translate_memWf _ _ _ _ h)
      · rename_i he1
        exact memWf_snd he1 (translate_memWf _ _ _ _ h)
      · rename_i he1
        exact memWf_snd he1 (translate_memWf _ _ _ _ h)

theorem reachCheck_memWf {s : State} (h : s.memWf) (gk : Nat) (t : Team) (branch : Bool) (pc : Word × Nat) :
    (s.reachCheck gk t branch pc).2.memWf := by
  unfold State.reachCheck
  dsimp only
  split
  · exact h
  · split
    · exact h
    · split
      · rename_i he1
        exact memWf_snd he1 (fetchCode_memWf h _ _ _)
      · rename_i he1
        exact memWf_snd he1 (fetchCode_memWf h _ _ _)
      · rename_i he1
        exact memWf_snd he1 (fetchCode_memWf h _ _ _)
      · rename_i t1 he1
        have ht1 : t1.memWf := memWf_snd he1 (fetchCode_memWf h _ _ _)
        split
        · exact ht1
        · split
          · exact ht1
          · split
            · rename_i he3
              exact memWf_snd he3 (tailOk_memWf ht1 _ _ _ _)
            · rename_i he3
              exact memWf_snd he3 (tailOk_memWf ht1 _ _ _ _)
            · rename_i he3
              exact memWf_snd he3 (tailOk_memWf ht1 _ _ _ _)

theorem spend_memWf {s : State} (h : s.memWf) (pk : Nat) : (s.spend pk).memWf := by
  unfold State.spend
  exact h

theorem reachPc_memWf {s : State} (h : s.memWf) (gk : Nat) (g : Group) (t : Team) (m : Mask) (pc : Word × Nat) :
    (s.reachPc gk g t m pc).memWf := by
  unfold State.reachPc
  dsimp only
  split
  · rename_i t1 he1
    have ht1 : t1.memWf := memWf_snd he1 (reachCheck_memWf h _ _ _ _)
    exact trapAtPc_memWf ht1 _ _ _ _ _ _ _
  · rename_i t1 he1
    have ht1 : t1.memWf := memWf_snd he1 (reachCheck_memWf h _ _ _ _)
    exact spend_memWf (modGroup_memWf (flip_memWf ht1) _ _) _
  · rename_i t1 he1
    have ht1 : t1.memWf := memWf_snd he1 (reachCheck_memWf h _ _ _ _)
    exact spend_memWf ht1 _
  · rename_i t1 he1
    have ht1 : t1.memWf := memWf_snd he1 (reachCheck_memWf h _ _ _ _)
    exact ite_memWf (spend_memWf ht1 _) (startClause_memWf ht1 _ _ _ _)

theorem selectGroup_memWf {s : State} (h : s.memWf) (gk : Nat) : (s.selectGroup gk).memWf := by
  unfold State.selectGroup
  refine modGroup_memWf ?_ _ _
  refine foldl_memWf _ (fun t1 a1 ht1 => ?_) _ _ h
  exact modGroup_memWf ht1 _ _

theorem countPassed_memWf {s : State} (h : s.memWf) (gk : Nat) : (s.countPassed gk).memWf := by
  unfold State.countPassed
  dsimp only
  refine foldl_memWf _ (fun t1 a1 ht1 => ?_) _ _ h
  exact modGroup_memWf ht1 _ _

theorem resumeIg_memWf {s : State} (h : s.memWf) (gk k : Nat) : (s.resumeIg gk k).memWf := by
  unfold State.resumeIg
  dsimp only
  split
  · exact h
  · split
    · split
      · exact h
      · unfold State.memWf
        dsimp only
        change State.memWf _
        exact setIg_memWf (modTeam_memWf (selectGroup_memWf (setGroup_memWf h _ _) _) _ _) _ _
    · exact h

theorem clauseIssue_memWf {s : State} (h : s.memWf) (d c slot sel : Nat) : (s.clauseIssue d c slot sel).memWf := by
  unfold State.clauseIssue
  dsimp only
  split
  · exact h
  · split
    · exact resumeIg_memWf h _ _
    · split
      · exact h
      · split
        · exact ite_memWf h (reachPc_memWf (countPassed_memWf h _) _ _ _ _ _)
        · exact h

theorem tickDeadlock_memWf {s : State} (h : s.memWf) (n : Nat → Nat) : (s.tickDeadlock n).memWf := by
  unfold State.tickDeadlock
  dsimp only
  refine foldl_memWf _ (fun t1 a1 ht1 => ?_) _ _ (by exact h)
  exact modCore_memWf ht1 _ _

theorem tickClusters_memWf {s : State} (h : s.memWf) (dt : Nat) (now : Nat → Nat) : (s.tickClusters dt now).memWf := by
  unfold State.tickClusters
  dsimp only
  refine foldl_memWf _ (fun t1 a1 ht1 => ?_) _ _ h
  exact modCluster_memWf ht1 _ _

theorem ticked_memWf {s : State} (h : s.memWf) (slew : Option (Bool × Nat)) (gs : SMap Group) (ts : SMap Team) :
    ({ s with slew := slew, groups := gs, teams := ts } : State).memWf := h

theorem tick_memWf {s : State} (h : s.memWf) : s.tick.memWf := by
  unfold State.tick
  extract_lets dt
  split
  extract_lets u n v
  have hu : u.memWf := tickClusters_memWf h _ _
  have hv : v.memWf := ticked_memWf hu _ _ _
  exact tickDeadlock_memWf (modDie_memWf (modDie_memWf hv _ _) _ _) _

/-! ### Control transfer -/

theorem branch_memWf {s : State} (h : s.memWf) (e : Env) (unif : Bool) (tgt : Nat → Word) (regs : List RegWrite) :
    (branch e s unif tgt regs).memWf := by
  unfold branch
  dsimp only
  split
  · exact h
  · exact ⟨h, fun t1 ht1 => ht1⟩

theorem tret_memWf {s : State} (h : s.memWf) (e : Env) (gd : Guard) (skip : Bool) : (tret e s gd skip).memWf := by
  unfold tret
  dsimp only
  split
  · split
    · exact h
    · exact ⟨h, fun t1 ht1 => ht1⟩
  · split
    · exact h
    · split
      · exact setIg_memWf (setGroup_memWf h _ _) _ _
      · split
        · exact ⟨setIg_memWf (setGroup_memWf h _ _) _ _, fun t1 ht1 => ht1⟩
        · exact ⟨setGroup_memWf (setIg_memWf (setGroup_memWf h _ _) _ _) _ _, fun t1 ht1 => ht1⟩

/-! ### The scalar pipe -/

theorem scalarRes_memWf {s : State} (h : s.memWf) {run : Res} (hr : run.memWf) (e : Env) : (scalarRes e s run).memWf := by
  unfold scalarRes
  split
  · exact h
  · split
    · exact h
    · exact hr

theorem scalarWrite_memWf {s : State} (h : s.memWf) (d : BitVec 8) (e : Env) (v : Word) : (scalarWrite d e s v).memWf := scalarRes_memWf h (done_memWf h _) e

/-! ### Loads and stores -/

theorem start_memWf {s : State} (h : s.memWf) : (Perf.start s).s.memWf := by
  unfold Perf.start
  exact h

theorem add_memWf (p : Perf) {s : State} (h : s.memWf) (l : Nat) (r : LaneEnd) : (p.add l r s).s.memWf := by
  unfold Perf.add
  dsimp only
  split
  · exact h
  · exact h
  · exact h
  · exact h

theorem perLane_memWf {s : State} (h : s.memWf) {fn : State → Nat → LaneEnd × State} (hfn : ∀ (t : State) (b1 : Nat), t.memWf → (fn t b1).2.memWf)
    (m : Mask) :
    (perLane s m fn).s.memWf := by
  unfold perLane
  dsimp only
  refine foldl_keeps (P := fun p : Perf => p.s.memWf) (fun p1 a1 (hp1 : p1.s.memWf) => ?_) (start_memWf h) _
  exact add_memWf _ (hfn _ _ hp1) _ _

theorem seqLanes_memWf {s : State} (h : s.memWf) {fn : State → Nat → LaneEnd × State} (hfn : ∀ (t : State) (b1 : Nat), t.memWf → (fn t b1).2.memWf)
    (m : Mask) :
    (seqLanes s m fn).s.memWf := by
  unfold seqLanes
  dsimp only
  refine foldl_keeps (P := fun p : Perf => p.s.memWf) (fun p1 a1 (hp1 : p1.s.memWf) => ?_) (start_memWf h) _
  split
  · exact hp1
  · exact add_memWf _ (hfn _ _ hp1) _ _

theorem res_memWf {p : Perf} (h : p.s.memWf) (f : Eff) (hits : Hits) : (Perf.res p f hits).memWf := by
  unfold Perf.res
  split
  · exact h
  · split
    · exact h
    · exact h
    · exact h

theorem pagesAt_memWf {s : State} (h : s.memWf) (ck x a n kind : Nat) : (s.pagesAt ck x a n kind).2.memWf := by
  unfold State.pagesAt
  split
  · exact h
  · split
    · rename_i he1
      exact memWf_snd he1 (translateRange_memWf _ _ _ _ _ h)
    · rename_i he1
      exact memWf_snd he1 (translateRange_memWf _ _ _ _ _ h)
    · rename_i t1 he1
      have ht1 : t1.memWf := memWf_snd he1 (translateRange_memWf _ _ _ _ _ h)
      split
      · exact ht1
      · exact ht1

theorem lanePages_memWf {s : State} (h : s.memWf) (e : Env) (a n kind : Nat) : (s.lanePages e a n kind).2.memWf := by
  unfold State.lanePages
  exact pagesAt_memWf h _ _ _ _ _

theorem loadLane_memWf {s : State} (h : s.memWf) (e : Env) (a n : Nat) (acq : Bool) (scope : Nat) :
    (s.loadLane e a n acq scope).2.memWf := by
  unfold State.loadLane
  split
  · rename_i he1
    exact memWf_snd he1 (lanePages_memWf h _ _ _ _)
  · rename_i t1 he1
    have ht1 : t1.memWf := memWf_snd he1 (lanePages_memWf h _ _ _ _)
    split
    · rename_i he2
      exact memWf_at (·.2.2) he2 (memRead_memWf ht1 _ _ _ _)
    · rename_i he2
      exact memWf_at (·.2.2) he2 (memRead_memWf ht1 _ _ _ _)

theorem storeLane_memWf {s : State} (h : s.memWf) (e : Env) (a : Nat) (bs : List Byte) (rel : Bool) (scope : Nat) :
    (s.storeLane e a bs rel scope).2.memWf := by
  unfold State.storeLane
  split
  · rename_i he1
    exact memWf_snd he1 (lanePages_memWf h _ _ _ _)
  · rename_i t1 he1
    have ht1 : t1.memWf := memWf_snd he1 (lanePages_memWf h _ _ _ _)
    exact memWrite_memWf _ _ _ _ _ ht1

theorem ldRes_memWf {s : State} (h : s.memWf) (f : FmtM) (e : Env) : (ldRes f e s).memWf := by
  unfold ldRes
  dsimp only
  split
  · exact h
  · split
    · exact h
    · refine res_memWf ?_ _ _
      split
      · exact recordHits_memWf (ite_memWf (acquire_memWf _ _ (perLane_memWf h (fun t1 n1 ht1 => loadLane_memWf ht1 _ _ _ _ _) _)) (perLane_memWf h
          (fun t1 n1 ht1 => loadLane_memWf ht1 _ _ _ _ _) _)) _ _
      · exact ite_memWf (acquire_memWf _ _ (perLane_memWf h (fun t1 n1 ht1 => loadLane_memWf ht1 _ _ _ _ _) _)) (perLane_memWf h
          (fun t1 n1 ht1 => loadLane_memWf ht1 _ _ _ _ _) _)

theorem stRes_memWf {s : State} (h : s.memWf) (f : FmtM) (e : Env) : (stRes f e s).memWf := by
  unfold stRes
  dsimp only
  split
  · exact h
  · split
    · exact h
    · exact res_memWf (perLane_memWf (ite_memWf (release_memWf _ _ (ite_memWf (recordHits_memWf h _ _) h)) (ite_memWf (recordHits_memWf h _ _) h))
        (fun t1 n1 ht1 => storeLane_memWf ht1 _ _ _ _ _) _) _ _

theorem sloadRes_memWf {s : State} (h : s.memWf) (f : FmtM) (e : Env) : (sloadRes f e s).memWf := by
  unfold sloadRes
  extract_lets n l a hits u
  have hl := loadLane_memWf (recordHits_memWf h e hits) e a n (memAcq f) f.scope.toNat
  split
  · exact h
  · split
    · exact h
    · split
      · exact h
      · split
        · next he => exact done_memWf (ite_memWf (acquire_memWf _ _ (memWf_snd he hl)) (memWf_snd he hl)) _
        · next he => exact memWf_snd he hl
        · next he => exact memWf_snd he hl
        · next he => exact memWf_snd he hl

theorem dropMarks_memWf {s : State} (h : s.memWf) (f : ErrPlace → Bool) : (s.dropMarks f).memWf := by
  unfold State.dropMarks
  exact ite_memWf h (by exact h)

theorem writeScratch_memWf {s : State} (h : s.memWf) (tid a : Nat) (bs : List Byte) : (s.writeScratch tid a bs).memWf := by
  unfold State.writeScratch
  exact dropMarks_memWf (modTeam_memWf h _ _) _

theorem scratchLane_memWf {s : State} (h : s.memWf) (e : Env) (tl : Bool) (a n : Nat) : (s.scratchLane e tl a n).2.memWf := by
  unfold State.scratchLane
  split
  · exact h
  · split
    · exact h
    · split
      · exact h
      · split
        · exact h
        · exact h

theorem ldsRes_memWf {s : State} (h : s.memWf) (f : FmtM) (e : Env) : (ldsRes f e s).memWf := by
  unfold ldsRes
  exact res_memWf (perLane_memWf h (fun t1 n1 ht1 => scratchLane_memWf ht1 _ _ _ _) _) _ _

theorem stsRes_memWf {s : State} (h : s.memWf) (f : FmtM) (e : Env) : (stsRes f e s).memWf := by
  unfold stsRes
  dsimp only
  refine res_memWf (perLane_memWf h (fun t1 n1 ht1 => ?_) _) _ _
  split
  · exact ht1
  · exact writeScratch_memWf ht1 _ _ _

theorem bankByte_memWf {s : State} (h : s.memWf) (e : Env) (o : Nat) : (s.bankByte e o).2.memWf := by
  unfold State.bankByte
  dsimp only
  split
  · exact h
  · split
    · split
      · exact h
      · exact h
    · exact h

theorem ldcRes_memWf {s : State} (h : s.memWf) (f : FmtM) (e : Env) : (ldcRes f e s).memWf := by
  unfold ldcRes
  dsimp only
  refine res_memWf (perLane_memWf h (fun t1 n1 ht1 => ?_) _) _ _
  split
  · exact ht1
  · split
    · dsimp only
      refine foldl_keeps (P := fun p : List Byte × State => p.2.memWf) (fun p1 a1 (hp1 : p1.2.memWf) => ?_) ht1 _
      exact bankByte_memWf hp1 _ _
    · dsimp only
      refine foldl_keeps (P := fun p : List Byte × State => p.2.memWf) (fun p1 a1 (hp1 : p1.2.memWf) => ?_) ht1 _
      exact bankByte_memWf hp1 _ _

theorem ldbRes_memWf {s : State} (h : s.memWf) (f : FmtM) (e : Env) : (ldbRes f e s).memWf := by
  unfold ldbRes
  dsimp only
  refine res_memWf (perLane_memWf h (fun t1 n1 ht1 => ?_) _) _ _
  split
  · exact ht1
  · split
    · exact ht1
    · exact ht1

theorem writeBerm_memWf {s : State} (h : s.memWf) (tid w a : Nat) (bs : List Byte) : (s.writeBerm tid w a bs).memWf := by
  unfold State.writeBerm
  exact dropMarks_memWf (modTeam_memWf h _ _) _

theorem stbRes_memWf {s : State} (h : s.memWf) (f : FmtM) (e : Env) : (stbRes f e s).memWf := by
  unfold stbRes
  dsimp only
  refine res_memWf (perLane_memWf h (fun t1 n1 ht1 => ?_) _) _ _
  split
  · exact ht1
  · exact writeBerm_memWf ht1 _ _ _ _

theorem lineCheck_memWf {s : State} (h : s.memWf) (f : FmtM) (e : Env) (kind : Nat) : (lineCheck f e s kind).2.memWf := by
  unfold lineCheck
  extract_lets addr la info hits u
  have hu : u.memWf := recordHits_memWf h _ _
  have ht := translate_memWf e.ck e.x (la + 4 * e.low) kind hu
  refine snd_ite_memWf h (snd_ite_memWf h (snd_ite_memWf h (snd_ite_memWf h (snd_ite_memWf h ?_))))
  split
  · next he => exact memWf_snd he ht
  · next he => exact memWf_snd he ht
  · next he =>
    have hv := memWf_snd he ht
    exact snd_ite_memWf hv (snd_ite_memWf hv hv)

theorem ldlRes_memWf {s : State} (h : s.memWf) (f : FmtM) (e : Env) : (ldlRes f e s).memWf := by
  unfold ldlRes
  dsimp only
  split
  · exact h
  · split
    · rename_i he1
      exact memWf_snd he1 (lineCheck_memWf h _ _ _)
    · rename_i t1 he1
      have ht1 : t1.memWf := memWf_snd he1 (lineCheck_memWf h _ _ _)
      split
      · exact dropLine_memWf _ _ ht1
      · exact ite_memWf (acquire_memWf _ _ (dropLine_memWf _ _ ht1)) (dropLine_memWf _ _ ht1)

theorem stlRes_memWf {s : State} (h : s.memWf) (f : FmtM) (e : Env) : (stlRes f e s).memWf := by
  unfold stlRes
  dsimp only
  split
  · exact h
  · split
    · rename_i he1
      exact memWf_snd he1 (lineCheck_memWf h _ _ _)
    · rename_i t1 he1
      have ht1 : t1.memWf := memWf_snd he1 (lineCheck_memWf h _ _ _)
      exact writeRuns_memWf (dropLine_memWf _ _ (ite_memWf (release_memWf _ _ ht1) ht1)) _

theorem fence_memWf {s : State} (h : s.memWf) (ck order scope : Nat) : (s.fence ck order scope).memWf := by
  unfold State.fence
  exact ite_memWf (ite_memWf h (release_memWf _ _ h)) (acquire_memWf _ _ (ite_memWf h (release_memWf _ _ h)))

theorem cleanRes_memWf {s : State} (h : s.memWf) {act : State → State} (hact : ∀ (t : State), t.memWf → (act t).memWf) (e : Env) (scope : Nat) :
    (s.cleanRes e scope act).memWf := by
  unfold State.cleanRes
  split
  · exact h
  · exact ite_memWf h (hact _ h)

/-! ### Atomics -/

theorem atomicPages_memWf {s : State} (h : s.memWf) (f : FmtM) (e : Env) (a : Nat) : (atomicPages f e s a).2.memWf := by
  unfold atomicPages
  dsimp only
  split
  · rename_i he1
    exact memWf_snd he1 (lanePages_memWf h _ _ _ _)
  · rename_i t1 he1
    have ht1 : t1.memWf := memWf_snd he1 (lanePages_memWf h _ _ _ _)
    split
    · exact ht1
    · split
      · exact ht1
      · split
        · exact dropLine_memWf _ _ ht1
        · exact dropLine_memWf _ _ ht1

theorem atomRes_memWf {s : State} (h : s.memWf) (f : FmtM) (cls : Option OpClass) (e : Env) : (atomRes f cls e s).memWf := by
  unfold atomRes
  extract_lets n addr
  split
  · exact h
  · split
    · exact h
    · rename_i hits q u v p p' _ _ _
      have hq : q.s.memWf := perLane_memWf h (fun t l ht => atomicPages_memWf ht _ _ _) _
      have hu : u.memWf := ite_memWf (recordHits_memWf hq _ _) hq
      have hv : v.memWf := ite_memWf (release_memWf _ _ hu) hu
      have hp : p.s.memWf := by
        refine foldl_keeps (P := fun a : Perf => a.s.memWf) (fun a l (ha : a.s.memWf) => ?_) hv _
        refine add_memWf _ ?_ _ _
        split
        · exact writeHome_wf _ _ (dropLine_memWf _ _ ha)
        · exact dropLine_memWf _ _ ha
      exact res_memWf (p := p') (ite_memWf (acquire_memWf _ _ hp) hp) _ _

theorem atomsRes_memWf {s : State} (h : s.memWf) (f : FmtM) (e : Env) : (atomsRes f e s).memWf := by
  unfold atomsRes
  extract_lets n addr q p
  have hq : q.s.memWf := perLane_memWf h (fun t l ht => scratchLane_memWf ht _ _ _ _) _
  have hp : p.s.memWf := by
    refine foldl_keeps (P := fun a : Perf => a.s.memWf) (fun a l (ha : a.s.memWf) => ?_) (b := { q with done := 0 }) hq _
    refine add_memWf _ ?_ _ _
    split
    · exact writeScratch_memWf ha _ _ _
    · exact ha
  split
  · exact hq
  · exact res_memWf hp _ _

/-! ### Barriers, monitors and team registers -/

theorem arriveGroup_memWf {s : State} (h : s.memWf) (tid gk : Nat) : (s.arriveGroup tid gk).memWf := by
  unfold State.arriveGroup
  dsimp only
  split
  · exact setTeam_memWf (setGroup_memWf h _ _) _ _
  · exact h

theorem releasePhases_memWf {s : State} (h : s.memWf) (tid : Nat) (t : Team) : (s.releasePhases tid t).memWf := by
  unfold State.releasePhases
  dsimp only
  split
  · exact h
  · refine foldl_memWf _ (fun t1 a1 ht1 => ?_) _ _ (setTeam_memWf h _ _)
    exact arriveGroup_memWf ht1 _ _

theorem releaseAll_memWf {s : State} (h : s.memWf) : (s.releaseAll).memWf := by
  unfold State.releaseAll
  refine foldl_memWf _ (fun t1 a1 ht1 => ?_) _ _ h
  exact releasePhases_memWf ht1 _ _

theorem barInitRes_memWf {s : State} (h : s.memWf) (f : FmtX) (e : Env) : (barInitRes f e s).memWf := by
  unfold barInitRes
  dsimp only
  split
  · exact h
  · split
    · exact h
    · exact modTeam_memWf h _ _

theorem barArrive_memWf {s : State} (h : s.memWf) (k : Nat) (drop : Bool) (e : Env) : (barArrive k drop e s).2.memWf := by
  unfold barArrive
  dsimp only
  split
  · exact h
  · split
    · exact h
    · split
      · exact setIg_memWf (setTeam_memWf h _ _) _ _
      · exact setIg_memWf (setTeam_memWf h _ _) _ _

theorem barArvRes_memWf {s : State} (h : s.memWf) (f : FmtX) (drop : Bool) (e : Env) : (barArvRes f drop e s).memWf := by
  unfold barArvRes
  split
  · exact h
  · split
    · rename_i he1
      exact memWf_snd he1 (barArrive_memWf h _ _ _)
    · rename_i he1
      exact memWf_snd he1 (barArrive_memWf h _ _ _)
    · rename_i he1
      exact memWf_snd he1 (barArrive_memWf h _ _ _)

theorem barSyncRes_memWf {s : State} (h : s.memWf) (f : FmtX) (e : Env) : (barSyncRes f e s).memWf := by
  unfold barSyncRes
  split
  · exact h
  · split
    · rename_i he1
      exact memWf_snd he1 (barArrive_memWf h _ _ _)
    · rename_i t1 he1
      have ht1 : t1.memWf := memWf_snd he1 (barArrive_memWf h _ _ _)
      split
      · exact ht1
      · split
        · exact ht1
        · exact ht1

theorem barWaitRes_memWf {s : State} (h : s.memWf) (f : FmtX) (par : Bool) (e : Env) : (barWaitRes f par e s).memWf := by
  unfold barWaitRes
  dsimp only
  split
  · exact h
  · split
    · exact h
    · split
      · exact setIg_memWf h _ _
      · exact setIg_memWf h _ _

theorem barQRes_memWf {s : State} (h : s.memWf) (f : FmtX) (e : Env) : (barQRes f e s).memWf := by
  unfold barQRes
  exact h

theorem endMonitor_memWf {s : State} (h : s.memWf) (k : Nat) (m : Monitor) (st : Nat) : (s.endMonitor k m st).memWf := by
  unfold State.endMonitor
  exact ite_memWf (by exact h) (setMonitor_memWf h _ _)

theorem monEnter_memWf {s : State} (h : s.memWf) (m : Monitor) : (s.monEnter m).2.memWf := by
  unfold State.monEnter
  dsimp only
  split
  · exact h
  · split
    · exact h
    · split
      · exact h
      · exact endMonitor_memWf h _ _ _

theorem register_memWf {s : State} (h : s.memWf) (ck : Nat) (m : Monitor) : (s.register ck m).2.memWf := by
  unfold State.register
  dsimp only
  split
  · exact endMonitor_memWf (fresh_memWf (dropLine_memWf _ _ h)) _ _ _
  · split
    · exact setMonitor_memWf (fresh_memWf (dropLine_memWf _ _ h)) _ _
    · exact setMonitor_memWf (monEnter_memWf (fresh_memWf (dropLine_memWf _ _ h)) _) _ _

theorem monLane_memWf {s : State} (h : s.memWf) (f : FmtX) (e : Env) (l : Nat) : (monLane f e s l).2.memWf := by
  unfold monLane
  dsimp only
  split
  · exact h
  · split
    · exact h
    · split
      · rename_i he1
        exact memWf_snd he1 (lanePages_memWf h _ _ _ _)
      · rename_i t1 he1
        have ht1 : t1.memWf := memWf_snd he1 (lanePages_memWf h _ _ _ _)
        split
        · exact ht1
        · split
          · exact ht1
          · split
            · exact dropLine_memWf _ _ ht1
            · exact dropLine_memWf _ _ ht1

theorem registerLanes_memWf {s : State} (h : s.memWf) (f : FmtX) (e : Env) (pas : Lanes (List Byte)) :
    (registerLanes f e pas s).2.memWf := by
  unfold registerLanes
  dsimp only
  refine foldl_keeps (P := fun p : List (Nat × Nat) × State => p.2.memWf) (fun p1 a1 (hp1 : p1.2.memWf) => ?_) h _
  split
  · dsimp only
    split
    · exact setMonitor_memWf hp1 _ _
    · exact hp1
  · exact register_memWf hp1 _ _

theorem monRead_memWf {s : State} (h : s.memWf) (k : Nat) (m : Mask) : (s.monRead k m).memWf := by
  unfold State.monRead
  split
  · exact h
  · exact ite_memWf (by exact h) (setMonitor_memWf h _ _)

theorem waitcEnd_memWf {s : State} (h : s.memWf) (f : FmtX) (e : Env) (mons : List (Nat × Nat)) : (waitcEnd f e s mons).memWf := by
  unfold waitcEnd
  dsimp only
  split
  · exact h
  · dsimp only [Res.memWf]
    split
    · refine acquire_memWf _ _ ?_
      refine foldl_memWf _ (fun t1 a1 ht1 => ?_) _ _ ?_
      · exact dropLine_memWf _ _ ht1
      · refine foldl_memWf _ (fun t1 a1 ht1 => ?_) _ _ h
        exact monRead_memWf ht1 _ _
    · refine foldl_memWf _ (fun t1 a1 ht1 => ?_) _ _ ?_
      · exact dropLine_memWf _ _ ht1
      · refine foldl_memWf _ (fun t1 a1 ht1 => ?_) _ _ h
        exact monRead_memWf ht1 _ _

theorem waitcEnter_memWf {s : State} (h : s.memWf) (f : FmtX) (e : Env) (m : Mask) : (waitcEnter f e m s).2.memWf := by
  unfold waitcEnter
  dsimp only
  split
  · exact h
  · split
    · exact seqLanes_memWf (recordHits_memWf h _ _) (fun t1 n1 ht1 => monLane_memWf ht1 _ _ _) _
    · exact seqLanes_memWf (recordHits_memWf h _ _) (fun t1 n2 ht1 => monLane_memWf ht1 _ _ _) _
    · exact modGroup_memWf (registerLanes_memWf (seqLanes_memWf (recordHits_memWf h _ _) (fun t1 n1 ht1 => monLane_memWf ht1 _ _ _) _) _ _ _) _ _

theorem waitcRes_memWf {s : State} (h : s.memWf) (f : FmtX) (e : Env) : (waitcRes f e s).memWf := by
  unfold waitcRes
  dsimp only
  split
  · exact h
  · split
    · rename_i t1 he1
      have ht1 : t1.memWf := by
        refine memWf_at (·.2) he1 ?_
        split
        · exact h
        · exact waitcEnter_memWf h _ _ _
      exact ht1
    · rename_i t1 he1
      have ht1 : t1.memWf := by
        refine memWf_at (·.2) he1 ?_
        split
        · exact h
        · exact waitcEnter_memWf h _ _ _
      split
      · exact ht1
      · split
        · exact setIg_memWf ht1 _ _
        · exact waitcEnd_memWf (setIg_memWf ht1 _ _) _ _ _

theorem monitorWake_memWf {s : State} (h : s.memWf) (k : Nat) : (s.monitorWake k).memWf := by
  unfold State.monitorWake
  split
  · exact ite_memWf (endMonitor_memWf h _ _ _) h
  · exact h

theorem monitorRecheck_memWf {s : State} (h : s.memWf) (k : Nat) : (s.monitorRecheck k).memWf := by
  unfold State.monitorRecheck
  split
  · exact ite_memWf h (ite_memWf (endMonitor_memWf h _ _ _) (setMonitor_memWf h _ _))
  · exact h

theorem monitorTimeout_memWf {s : State} (h : s.memWf) (k : Nat) : (s.monitorTimeout k).memWf := by
  unfold State.monitorTimeout
  split
  · exact ite_memWf (endMonitor_memWf h _ _ _) h
  · exact h

theorem dropMonitors_memWf {s : State} (h : s.memWf) (f : Monitor → Bool) : (s.dropMonitors f).memWf := by
  unfold State.dropMonitors
  refine foldl_memWf _ (fun t1 a1 ht1 => ?_) _ _ h
  exact ite_memWf (endMonitor_memWf ht1 _ _ _) ht1

theorem evictMonitors_memWf {s : State} (h : s.memWf) (f : Monitor → Bool) : (s.evictMonitors f).memWf := by
  unfold State.evictMonitors
  exact dropMonitors_memWf h _

theorem writeTreg_memWf {s : State} (h : s.memWf) (e : Env) (l i : Nat) (v : W32) : (s.writeTreg e l i v).memWf := by
  unfold State.writeTreg
  exact modTeam_memWf h _ _

theorem readTreg_memWf {s : State} (h : s.memWf) (e : Env) (l i : Nat) : (s.readTreg e l i).2.memWf := by
  unfold State.readTreg
  dsimp only
  split
  · exact h
  · split
    · exact h
    · dsimp only
      exact pick_memWf h _

theorem trdRes_memWf {s : State} (h : s.memWf) (f : FmtX) (e : Env) : (trdRes f e s).memWf := by
  unfold trdRes
  dsimp only
  split
  · exact h
  · exact res_memWf (seqLanes_memWf h (fun t1 n1 ht1 => readTreg_memWf ht1 _ _ _) _) _ _

theorem twrRes_memWf {s : State} (h : s.memWf) (f : FmtX) (e : Env) : (twrRes f e s).memWf := by
  unfold twrRes
  split
  · exact h
  · dsimp only [Res.memWf]
    refine foldl_memWf _ (fun t1 a1 ht1 => ?_) _ _ h
    exact writeTreg_memWf ht1 _ _ _ _

theorem tatmRes_memWf {s : State} (h : s.memWf) (f : FmtX) (e : Env) : (tatmRes f e s).memWf := by
  unfold tatmRes
  dsimp only
  split
  · exact h
  · refine res_memWf (seqLanes_memWf h (fun t1 n1 ht1 => ?_) _) _ _
    split
    · exact writeTreg_memWf ht1 _ _ _ _
    · exact ht1

theorem nprbRes_memWf {s : State} (h : s.memWf) (e : Env) : (nprbRes e s).memWf := by
  unfold nprbRes
  split
  · exact h
  · split
    · exact h
    · split
      · exact h
      · exact modGroup_memWf h _ _

theorem nprOverrun_memWf {s : State} (h : s.memWf) (d c slot : Nat) : (s.nprOverrun d c slot).memWf := by
  unfold State.nprOverrun
  dsimp only
  split
  · exact h
  · exact ite_memWf (asyncTrap_memWf (setGroup_memWf h _ _) _ _) h

end Sys2Proof.Machine
end

section
/-! PROOFS. The canonical form of memory (O47): tile words and copies. -/

namespace Sys2Proof.Machine

/-! ### Tile words -/

theorem qTrap_memWf {s : State} (h : s.memWf) (c : Cause) (info : Nat) : (qTrap s c info).s.memWf := by
  unfold qTrap
  exact h

theorem qBlock_memWf {s : State} (h : s.memWf) (b : Block) : (qBlock s b).s.memWf := by
  unfold qBlock
  exact h

theorem join_memWf {s : State} (h : s.memWf) (e : Env) (gd : Guard) : (Env.join e gd s).2.memWf := by
  unfold Env.join
  dsimp only
  split
  · split
    · exact h
    · exact setIg_memWf (setGroup_memWf h _ _) _ _
  · split
    · exact h
    · exact setIg_memWf (setGroup_memWf h _ _) _ _

theorem mxQuarter_memWf {op : QuarterOp} (hop : ∀ (e : Env) (q : Quarter) (t : State), t.memWf → (op e q t).s.memWf) {a : MxAcc} (h : a.r.s.memWf)
    (e : Env) (q : Nat) : (mxQuarter e op a q).r.s.memWf := by
  unfold mxQuarter
  dsimp only
  split
  · exact h
  · split
    · exact h
    · exact hop _ _ _ h

theorem mxRes_memWf {op : QuarterOp} (hop : ∀ (e : Env) (q : Quarter) (t : State), t.memWf → (op e q t).s.memWf) {s : State} (h : s.memWf)
    (long : Option OpClass) (e : Env) : (mxRes op long e s).memWf := by
  unfold mxRes
  extract_lets a ig ts eff keep
  have ha : a.r.s.memWf := foldl_keeps (P := fun a : MxAcc => a.r.s.memWf) (fun a q ha => mxQuarter_memWf hop ha e q) h _
  have hkeep : keep.memWf := setIg_memWf ha _ _
  split
  · exact hkeep
  · exact hkeep
  · exact ha

theorem qNames_memWf {s : State} (h : s.memWf) {k : QRes} (hs : k.s.memWf) (e : Env) (reads : List (Operand × Mask)) :
    (qNames s e reads k).s.memWf := by
  unfold qNames
  dsimp only
  split
  · exact qTrap_memWf h _ _
  · split
    · exact qBlock_memWf h _
    · split
      · exact qTrap_memWf h _ _
      · exact hs

theorem qTile_memWf {s : State} (h : s.memWf) {k : QRes} (hs : k.s.memWf) (e : Env) (z : BitVec 3) : (qTile s e z k).s.memWf := by
  unfold qTile
  split
  · exact qTrap_memWf h _ _
  · exact hs

theorem qLive_memWf {s : State} (h : s.memWf) {k : QRes} (hs : k.s.memWf) (t : Quarter) : (qLive s t k).s.memWf := by
  unfold qLive
  split
  · exact qTrap_memWf h _ _
  · exact hs

theorem qWhole_memWf {s : State} (h : s.memWf) {k : QRes} (hs : k.s.memWf) (t : Quarter) : (qWhole s t k).s.memWf := by
  unfold qWhole
  split
  · exact qTrap_memWf h _ _
  · exact hs

theorem qScratch_memWf {s : State} (h : s.memWf) {k : List Byte → QRes} (hk : ∀ (b0 : List Byte), (k b0).s.memWf) (e : Env) (t : Quarter)
    (a n : Nat) (lines tb : Bool) :
    (qScratch s e t a n lines tb k).s.memWf := by
  unfold qScratch
  split
  · exact h
  · split
    · exact qTrap_memWf h _ _
    · split
      · exact qTrap_memWf h _ _
      · split
        · split
          · exact qTrap_memWf h _ _
          · exact qBlock_memWf h _
        · split
          · exact qTrap_memWf h _ _
          · exact hk _

theorem qDests_memWf {s : State} (h : s.memWf) {k : Res} (hs : k.memWf) (e : Env) : (qDests e s k).memWf := by
  unfold qDests
  split
  · exact h
  · split
    · exact h
    · split
      · exact h
      · exact hs

theorem setZ_memWf {s : State} (h : s.memWf) (gk q z : Nat) (vals : List (Nat × Nat × BitVec 56)) : (s.setZ gk q z vals).memWf := by
  unfold State.setZ
  exact dropMarks_memWf (modGroup_memWf h _ _) _

theorem countMx_memWf {s : State} (h : s.memWf) (pk : Nat) (a b : List Byte) (latched : Bool) (zeros : Nat) :
    (s.countMx pk a b latched zeros).memWf := by
  unfold State.countMx
  exact modCore_memWf h _ _

theorem mmaCompute_memWf {s : State} (h : s.memWf) (f : FmtT) (scaled : Bool) (e : Env) (t : Quarter) (av : List (Lanes W32)) (latched : Bool)
    (data : List Byte) :
    (mmaCompute f scaled e t s av latched data).s.memWf := by
  unfold mmaCompute
  dsimp only
  split
  · exact qTrap_memWf h _ _
  · exact modGroup_memWf (countMx_memWf (setZ_memWf h _ _ _ _) _ _ _ _ _) _ _

theorem tldFill_memWf {s : State} (h : s.memWf) (f : FmtT) (t : Quarter) (data : List Byte) : (tldFill f t s data).s.memWf := by
  unfold tldFill
  exact h

theorem qIte_memWf {c : Prop} [Decidable c] {a b : QRes} (ha : a.s.memWf) (hb : b.s.memWf) : (if c then a else b).s.memWf := by
  split
  · exact ha
  · exact hb

theorem mmaQuarter_memWf {s : State} (h : s.memWf) (f : FmtT) (scaled : Bool) (e : Env) (t : Quarter) : (mmaQuarter f scaled e t s).s.memWf := by
  unfold mmaQuarter
  split
  · exact h
  · refine qLive_memWf h (qTile_memWf h (qNames_memWf h ?_ _ _) _ _) _
    extract_lets av
    exact qIte_memWf h (qScratch_memWf h (fun _ => mmaCompute_memWf h _ _ _ _ _ _ _) _ _ _ _ _ _)

theorem zclrQuarter_memWf {s : State} (h : s.memWf) (f : FmtT) (e : Env) (t : Quarter) : (zclrQuarter f e t s).s.memWf := by
  unfold zclrQuarter
  split
  · exact h
  · exact qLive_memWf h (qTile_memWf h (qWhole_memWf h (setZ_memWf h _ _ _ _) _) _ _) _

theorem zstQuarter_memWf {s : State} (h : s.memWf) (f : FmtT) (e : Env) (t : Quarter) : (zstQuarter f e t s).s.memWf := by
  unfold zstQuarter
  split
  · exact h
  · refine qLive_memWf h (qTile_memWf h (qWhole_memWf h (qNames_memWf h ?_ _ _) _) _ _) _
    exact qIte_memWf h (qScratch_memWf h (fun _ => writeScratch_memWf h _ _ _) _ _ _ _ _ _)

theorem zldQuarter_memWf {s : State} (h : s.memWf) (f : FmtT) (e : Env) (t : Quarter) : (zldQuarter f e t s).s.memWf := by
  unfold zldQuarter
  split
  · exact h
  · exact qLive_memWf h (qTile_memWf h (qWhole_memWf h (qNames_memWf h (qScratch_memWf h (fun _ => setZ_memWf h _ _ _ _) _ _ _ _ _ _) _ _) _) _ _) _

theorem zrdQuarter_memWf {s : State} (h : s.memWf) (f : FmtT) (e : Env) (t : Quarter) : (zrdQuarter f e t s).s.memWf := by
  unfold zrdQuarter
  split
  · exact h
  · refine qLive_memWf h (qTile_memWf h (qNames_memWf h ?_ _ _) _ _) _
    extract_lets
    exact qIte_memWf h (qIte_memWf h h)

theorem tldQuarter_memWf {s : State} (h : s.memWf) (f : FmtT) (e : Env) (t : Quarter) : (tldQuarter f e t s).s.memWf := by
  unfold tldQuarter
  split
  · exact h
  · refine qLive_memWf h (qNames_memWf h ?_ _ _) _
    extract_lets n a l b hits
    split
    · exact qScratch_memWf h (fun _ => tldFill_memWf h _ _ _) _ _ _ _ _ _
    · split
      · split
        · exact h
        · exact h
        · split
          · exact h
          · split
            · exact h
            · exact tldFill_memWf h _ _ _
      · split
        · exact h
        · split
          · exact h
          · have hp := lanePages_memWf (recordHits_memWf h e hits) e b n 0
            split
            · next he => exact memWf_snd he hp
            · next he => exact memWf_snd he hp
            · next he => exact memWf_snd he hp
            · next he => exact memWf_snd he hp
            · next he =>
              have hr := memRead_memWf (memWf_snd he hp) e.ck
              split
              · next hm => exact memWf_at (·.2.2) hm (hr _ _ _)
              · next hm => exact tldFill_memWf (memWf_at (·.2.2) hm (hr _ _ _)) _ _ _

theorem tstQuarter_memWf {s : State} (h : s.memWf) (f : FmtT) (e : Env) (t : Quarter) : (tstQuarter f e t s).s.memWf := by
  unfold tstQuarter
  split
  · exact h
  · refine qNames_memWf h ?_ _ _
    extract_lets l a n w hits
    split
    · exact h
    · split
      · exact h
      · split
        · exact h
        · split
          · exact h
          · have hp := lanePages_memWf (recordHits_memWf h e hits) e a n 1
            split
            · next he => exact memWf_snd he hp
            · next he => exact memWf_snd he hp
            · next he => exact memWf_snd he hp
            · next he => exact memWf_snd he hp
            · next he =>
              have hu := memWf_snd he hp
              split
              · exact hu
              · split
                · exact hu
                · exact qWhole_memWf hu (qLive_memWf hu (writeHome_wf _ _ (dropLine_memWf _ _ hu)) _) _

theorem runMtx_memWf {i : Instr} {pre : PreCheck} {op : QuarterOp} (hop : ∀ (e : Env) (q : Quarter) (t : State), t.memWf → (op e q t).s.memWf)
    {long : Option OpClass} {s : State} (h : s.memWf) : (runMtx i pre op long s).memWf := by
  unfold runMtx
  split
  · trivial
  · exact issueWord_memWf (join_memWf h _ _) (fun _ _ ht => mxRes_memWf hop ht _ _) _ _ _

theorem execZrd_memWf {s : State} (h : s.memWf) (g : Guard) (f : FmtT) : (execZrd g f s).memWf := by
  unfold execZrd
  split
  · trivial
  · exact issueWord_memWf (join_memWf h _ _)
      (fun _ _ ht => qDests_memWf ht (mxRes_memWf (fun _ _ _ hu => zrdQuarter_memWf hu _ _ _) ht _ _) _) _ _ _

theorem execTld_memWf {s : State} (h : s.memWf) (g : Guard) (f : FmtT) : (execTld g f s).memWf := by
  unfold execTld
  split
  · trivial
  · exact issueWord_memWf (join_memWf h _ _)
      (fun _ _ ht => qDests_memWf ht (mxRes_memWf (fun _ _ _ hu => tldQuarter_memWf hu _ _ _) ht _ _) _) _ _ _

/-! ### Copies -/

theorem recordWords_memWf {s : State} (h : s.memWf) (ck x a l : Nat) : (s.recordWords ck x a l).2.memWf := by
  unfold State.recordWords
  split
  · rename_i he1
    exact memWf_snd he1 (pagesAt_memWf h _ _ _ _ _)
  · rename_i t1 he1
    have ht1 : t1.memWf := memWf_snd he1 (pagesAt_memWf h _ _ _ _ _)
    split
    · rename_i he2
      exact memWf_at (·.2.2) he2 (memRead_memWf ht1 _ _ _ _)
    · rename_i he2
      exact memWf_at (·.2.2) he2 (memRead_memWf ht1 _ _ _ _)

theorem copyPages_memWf {s : State} (h : s.memWf) (ck x l kind fuel a n : Nat) : (s.copyPages ck x l kind fuel a n).2.memWf := by
  fun_induction State.copyPages s ck x l kind fuel a n with
  | case1 s a n => exact h
  | case2 s fuel a => exact h
  | case3 s fuel a n hn hb => exact h
  | case4 s fuel a n hn hb len c lvl va t ht => exact memWf_snd ht (translateRange_memWf _ _ _ _ _ h)
  | case5 s fuel a n hn hb len t ht => exact memWf_snd ht (translateRange_memWf _ _ _ _ _ h)
  | case6 s fuel a n hn hb len segs t ht e u hu ih =>
    exact memWf_snd hu (ih (memWf_snd ht (translateRange_memWf _ _ _ _ _ h)))
  | case7 s fuel a n hn hb len segs t ht ps u hu ih =>
    exact memWf_snd hu (ih (memWf_snd ht (translateRange_memWf _ _ _ _ _ h)))

theorem copyAllPages_memWf {s : State} (h : s.memWf) (ck x l : Nat) (r : List (Nat × Nat × Nat)) : (s.copyAllPages ck x l r).2.memWf := by
  fun_induction State.copyAllPages s ck x l r with
  | case1 s => exact h
  | case2 s a n kind r e t ht => exact memWf_snd ht (copyPages_memWf h _ _ _ _ _ _ _)
  | case3 s a n kind r ps t ht e u hu ih => exact memWf_snd hu (ih (memWf_snd ht (copyPages_memWf h _ _ _ _ _ _ _)))
  | case4 s a n kind r ps t ht qs u hu ih => exact memWf_snd hu (ih (memWf_snd ht (copyPages_memWf h _ _ _ _ _ _ _)))

theorem copyLayout_memWf {s : State} (h : s.memWf) {watch : State → Nat → Option Stop × State}
    (hwatch : ∀ (t : State) (a : Nat), t.memWf → (watch t a).2.memWf) (ck x : Nat) (rq : CopyReq) (regs : Nat → Option Stop) :
    (copyLayout s ck x rq regs watch).2.memWf := by
  unfold copyLayout
  extract_lets record
  have hrecord : ∀ (t : State) (a : Nat), t.memWf → (record t a).2.memWf := by
    intro t a ht
    dsimp only [record]
    split
    · next he => exact memWf_snd he (hwatch _ _ ht)
    · next he => exact recordWords_memWf (memWf_snd he (hwatch _ _ ht)) _ _ _ _
  split
  · exact h
  · split
    · next he => exact memWf_snd he (hrecord _ _ h)
    · next t he =>
      have ht : t.memWf := memWf_snd he (hrecord _ _ h)
      split
      · exact ht
      · split
        · exact ht
        · split
          · exact ht
          · split
            · exact ht
            · split
              · next he => exact memWf_snd he (hrecord _ _ ht)
              · next he =>
                have hu := memWf_snd he (hrecord _ _ ht)
                split
                · exact hu
                · exact hu

theorem copyTranslate_memWf {s : State} (h : s.memWf) (x : Nat) (c : Copy) (rq : CopyReq) (acc : List (Nat × Nat × Nat)) :
    (copyTranslate s x c rq acc).2.memWf := by
  unfold copyTranslate
  dsimp only
  split
  · rename_i he1
    exact memWf_snd he1 (copyAllPages_memWf h _ _ _ _)
  · rename_i t1 he1
    have ht1 : t1.memWf := memWf_snd he1 (copyAllPages_memWf h _ _ _ _)
    split
    · exact ht1
    · split
      · exact ht1
      · split
        · rename_i he3
          exact memWf_snd he3 (copyPages_memWf ht1 _ _ _ _ _ _ _)
        · rename_i he3
          exact memWf_snd he3 (copyPages_memWf ht1 _ _ _ _ _ _ _)

theorem acceptCopy_memWf {s : State} (h : s.memWf) (c : Copy) : (s.acceptCopy c).memWf := by
  unfold State.acceptCopy
  exact ite_memWf (setCopy_memWf (fresh_memWf h) _ _) (modTeam_memWf (setCopy_memWf (fresh_memWf h) _ _) _ _)

theorem copyLane_memWf {a : CopyAcc} (h : a.s.memWf) (f : FmtX) (form : Nat) (e : Env) (l : Nat) : (copyLane f form e a l).s.memWf := by
  unfold copyLane
  split
  · exact h
  · extract_lets rq regs watch
    have hwatch : ∀ (t : State) (va : Nat), t.memWf → (watch t va).2.memWf := by
      intro t va ht
      dsimp -zeta only [watch]
      extract_lets hits
      split
      · exact ht
      · exact recordHits_memWf ht _ _
    have hlay : (match regs 1 with
        | some why => (Except.error why, a.s)
        | none => copyLayout a.s e.ck e.x rq regs watch).2.memWf := by
      split
      · exact h
      · exact copyLayout_memWf h hwatch _ _ _ _
    split
    · next he => exact memWf_snd he hlay
    · next t he =>
      have ht : t.memWf := memWf_snd he hlay
      dsimp only
      split
      · exact ht
      · split
        · next he => exact memWf_snd he (copyTranslate_memWf ht _ _ _ _)
        · next he => exact memWf_snd he (copyTranslate_memWf ht _ _ _ _)

theorem copyRes_memWf {s : State} (h : s.memWf) (f : FmtX) (form : Nat) (e : Env) : (copyRes f form e s).memWf := by
  unfold copyRes
  dsimp only
  split
  · exact h
  · split
    · exact h
    · split
      · exact h
      · split
        · dsimp only [Res.memWf]
          refine foldl_keeps (P := fun p : CopyAcc => p.s.memWf) (fun p1 a1 (hp1 : p1.s.memWf) => ?_) h _
          exact copyLane_memWf hp1 _ _ _ _
        · dsimp only [Res.memWf]
          refine foldl_memWf _ (fun t1 a1 ht1 => ?_) _ _ ?_
          · exact acceptCopy_memWf ht1 _
          · refine unmarkRegs_memWf (modGroup_memWf ?_ _ _) _ _ _
            refine foldl_keeps (P := fun p : CopyAcc => p.s.memWf) (fun p1 a1 (hp1 : p1.s.memWf) => ?_) h _
            exact copyLane_memWf hp1 _ _ _ _

theorem readBytes_memWf {m : Moved} (h : m.s.memWf) (c : Copy) (va n : Nat) : (c.readBytes m va n).2.s.memWf := by
  unfold Copy.readBytes
  extract_lets first part
  have hpart : ∀ (m : Moved) (va n : Nat), m.s.memWf → (part m va n).2.s.memWf := by
    intro m va n hm
    dsimp only [part]
    split
    · exact hm
    · split
      · exact hm
      · exact readCached_memWf hm _ _ _
  exact hpart _ _ _ (hpart _ _ _ h)

theorem storeAt_memWf {s : State} (h : s.memWf) (c : Copy) (p : Phys) (bs : List Byte) : (Copy.storeAt c s p bs).memWf := by
  unfold Copy.storeAt
  split
  · refine writeEvents_memWf _ _ ?_
    refine foldl_memWf _ (fun t1 a1 ht1 => ?_) _ _ h
    exact dropLine_memWf _ _ ht1
  · exact writeCached_memWf _ _ _ h

theorem writeBytes_memWf {m : Moved} (h : m.s.memWf) (c : Copy) (va : Nat) (bs mask : List Byte) : (c.writeBytes m va bs mask).s.memWf := by
  unfold Copy.writeBytes
  extract_lets first part
  have hpart : ∀ (m : Moved) (va : Nat) (bs mask : List Byte), m.s.memWf → (part m va bs mask).s.memWf := by
    intro m va bs mask hm
    dsimp only [part]
    split
    · exact hm
    · split
      · exact hm
      · split
        · exact storeAt_memWf hm _ _ _
        · exact poisonStored_memWf (storeAt_memWf hm _ _ _) _ _
  exact hpart _ _ _ _ (hpart _ _ _ _ h)

theorem readTile_memWf {m : Moved} (h : m.s.memWf) (c : Copy) (n : Nat) : (c.readTile m n).2.s.memWf := by
  unfold Copy.readTile
  extract_lets mp l bits
  split
  split
  · split
    · exact h
    · dsimp only
      split
      · dsimp only
        exact readBytes_memWf h _ _ _
      · exact readBytes_memWf h _ _ _
  · dsimp only
    refine foldl_keeps (P := fun a : (List (List Nat) × List (List Nat)) × Moved => a.2.s.memWf) (fun a r (ha : a.2.s.memWf) => ?_) h _
    split
    · exact ha
    · split
      · exact ha
      · exact readBytes_memWf ha _ _ _

theorem readScale_memWf {m : Moved} (h : m.s.memWf) (c : Copy) (n : Nat) : (Copy.readScale c m n).2.s.memWf := by
  unfold Copy.readScale
  dsimp only
  split
  · exact readBytes_memWf h _ _ _
  · exact h

theorem inRecord_memWf {m : Moved} (h : m.s.memWf) (c : Copy) (n : Nat) : (c.inRecord m n).2.s.memWf := by
  unfold Copy.inRecord
  dsimp only
  exact readScale_memWf (readTile_memWf h _ _) _ _

theorem formRecord_memWf {m : Moved} (h : m.s.memWf) (c : Copy) (n : Nat) : (Copy.formRecord c m n).2.1.s.memWf := by
  unfold Copy.formRecord
  dsimp only
  split
  · exact h
  · exact inRecord_memWf h _ _

theorem fillLine_memWf {s : State} (h : s.memWf) (c : Copy) (line : Nat) : (Copy.fillLine c s line).1.s.memWf := by
  unfold Copy.fillLine
  dsimp only
  refine foldl_keeps (P := fun p : Moved × Copy => p.1.s.memWf) (fun p1 a1 (hp1 : p1.1.s.memWf) => ?_) h _
  exact ite_memWf (writeScratch_memWf (formRecord_memWf hp1 _ _) _ _ _) (memWf_of_mem rfl (writeScratch_memWf (formRecord_memWf hp1 _ _) _ _ _))

theorem outRecord_memWf {s : State} (h : s.memWf) (c : Copy) (n : Nat) : (Copy.outRecord c s n).s.memWf := by
  unfold Copy.outRecord
  dsimp only
  split
  · refine writeBytes_memWf ?_ _ _ _ _
    refine foldl_keeps (P := fun p : Moved => p.s.memWf) (fun p1 a1 (hp1 : p1.s.memWf) => ?_) h _
    split
    · exact hp1
    · split
      · exact hp1
      · refine writeBytes_memWf ?_ _ _ _ _
        dsimp only
        split
        · exact readBytes_memWf hp1 _ _ _
        · exact hp1
  · refine foldl_keeps (P := fun p : Moved => p.s.memWf) (fun p1 a1 (hp1 : p1.s.memWf) => ?_) h _
    split
    · exact hp1
    · split
      · exact hp1
      · refine writeBytes_memWf ?_ _ _ _ _
        dsimp only
        split
        · exact readBytes_memWf hp1 _ _ _
        · exact hp1

theorem copyLineFill_memWf {s : State} (h : s.memWf) (k line : Nat) : (s.copyLineFill k line).memWf := by
  unfold State.copyLineFill
  dsimp only
  split
  · exact h
  · split
    · exact h
    · refine setCopy_memWf ?_ _ _
      split
      · exact outRecord_memWf h _ _
      · exact ite_memWf (fillLine_memWf h _ _) (modTeam_memWf (fillLine_memWf h _ _) _ _)

theorem copyComplete_memWf {s : State} (h : s.memWf) (k : Nat) (c : Copy) : (s.copyComplete k c).memWf := by
  unfold State.copyComplete
  exact h

theorem copyLanded_memWf {s : State} (h : s.memWf) (k : Nat) : (s.copyLanded k).memWf := by
  unfold State.copyLanded
  dsimp only
  split
  · exact h
  · split
    · exact h
    · split
      · exact h
      · split
        · refine setCopy_memWf ?_ _ _
          split
          · exact ite_memWf (cleanColumn_memWf _ _ h) h
          · exact writeHome_wf _ _ (dropLine_memWf _ _ (release_memWf _ _ (ite_memWf (cleanColumn_memWf _ _ h) h)))
        · refine copyComplete_memWf ?_ _ _
          split
          · exact ite_memWf (cleanColumn_memWf _ _ h) h
          · exact writeHome_wf _ _ (dropLine_memWf _ _ (release_memWf _ _ (ite_memWf (cleanColumn_memWf _ _ h) h)))

theorem pushEvent_memWf {s : State} (h : s.memWf) (cl : Nat) (r : EvRec) : (s.pushEvent cl r).memWf := by
  unfold State.pushEvent
  exact modCluster_memWf h _ _

theorem postEngine_memWf {s : State} (h : s.memWf) (cl : Nat) (r : EvRec) : (s.postEngine cl r).memWf := by
  unfold State.postEngine
  exact ite_memWf (modCluster_memWf h _ _) (pushEvent_memWf h _ _)

theorem copyPost_memWf {s : State} (h : s.memWf) (k : Nat) : (s.copyPost k).memWf := by
  unfold State.copyPost
  split
  · exact h
  · exact ite_memWf h (copyComplete_memWf (pushEvent_memWf h _ _) _ _)

theorem shiftScc_memWf {s : State} (h : s.memWf) (cl : Nat) : (s.shiftScc cl).memWf := by
  unfold State.shiftScc
  exact ite_memWf h (by exact h)

theorem popLane_memWf {s : State} (h : s.memWf) (cl : Nat) : (popLane s cl).2.memWf := by
  unfold popLane
  split
  · exact h
  · split
    · exact h
    · exact shiftScc_memWf (modCluster_memWf h _ _) _

theorem evpopRes_memWf {s : State} (h : s.memWf) (f : FmtX) (e : Env) : (evpopRes f e s).memWf := by
  unfold evpopRes
  dsimp only
  split
  · exact h
  · exact res_memWf (ite_memWf (seqLanes_memWf h (fun t1 n1 ht1 => popLane_memWf ht1 _) _) (acquire_memWf _ _ (seqLanes_memWf h
      (fun t1 n1 ht1 => popLane_memWf ht1 _) _))) _ _

theorem evpushRes_memWf {s : State} (h : s.memWf) (f : FmtX) (e : Env) : (evpushRes f e s).memWf := by
  unfold evpushRes
  dsimp only
  split
  · exact h
  · split
    · exact h
    · refine res_memWf (seqLanes_memWf (ite_memWf h (release_memWf _ _ h)) (fun t1 n1 ht1 => ?_) _) _ _
      split
      · exact ht1
      · exact pushEvent_memWf ht1 _ _

theorem setLines_memWf {s : State} (h : s.memWf) (tid first n : Nat) (full : Bool) : (s.setLines tid first n full).memWf := by
  unfold State.setLines
  exact modTeam_memWf h _ _

theorem fesetRes_memWf {s : State} (h : s.memWf) (f : FmtX) (full : Bool) (e : Env) : (fesetRes f full e s).memWf := by
  unfold fesetRes
  refine res_memWf (seqLanes_memWf h (fun t1 n1 ht1 => ?_) _) _ _
  split
  · exact ht1
  · split
    · exact ht1
    · exact setLines_memWf ht1 _ _ _ _

theorem feqryRes_memWf {s : State} (h : s.memWf) (f : FmtX) (e : Env) : (feqryRes f e s).memWf := by
  unfold feqryRes
  dsimp only
  refine res_memWf (seqLanes_memWf h (fun t1 n1 ht1 => ?_) _) _ _
  split
  · split
    · exact ht1
    · split
      · exact ht1
      · exact ht1
  · split
    · exact ht1
    · split
      · exact ht1
      · exact ht1

end Sys2Proof.Machine
end

section
/-! PROOFS. The canonical form of memory (O47): kernels, queues and distribution. -/

namespace Sys2Proof.Machine

/-! ### Kernels -/

theorem touchImage_memWf {s : State} (h : s.memWf) (d x : Nat) (image : Word) : (s.touchImage d x image).memWf := by
  unfold State.touchImage
  dsimp only
  split
  · exact h
  · split
    · exact touchPages_memWf h _ _ _ _ _
    · exact touchPages_memWf (touchPages_memWf h _ _ _ _ _) _ _ _ _ _

theorem laePush_memWf {s : State} (h : s.memWf) (tid gk : Nat) (l : Lae) (st : Stream) (entry : W32 × W32 × W32) :
    (s.laePush tid gk l st entry).memWf := by
  unfold State.laePush
  exact modTeam_memWf (modGroup_memWf h _ _) _ _

theorem laeFail_memWf {s : State} (h : s.memWf) (tid : Nat) (st : Stream) (cause : Cause) : (s.laeFail tid st cause).memWf := by
  unfold State.laeFail
  exact modTeam_memWf (by exact h) _ _

theorem laeReport_memWf {s : State} (h : s.memWf) (gk st : Nat) (cause : Cause) (kind lvl va : Nat) :
    (s.laeReport gk st cause kind lvl va).memWf := by
  unfold State.laeReport
  exact report_memWf h _ _

theorem laeServe_memWf {s : State} (h : s.memWf) (tid : Nat) : (s.laeServe tid).memWf := by
  unfold State.laeServe
  split
  · exact h
  · split
    · exact h
    · split
      · refine ite_memWf h ?_
        extract_lets a v off rq no unwatched fail
        refine ite_memWf (laePush_memWf h _ _ _ _ _) (ite_memWf h ?_)
        have hfail : ∀ (u : State) (why : Stop), u.memWf → (fail u why).memWf := by
          intro u why hu
          cases why with
          | trap c info => exact laeFail_memWf hu _ _ _
          | fault c k lvl va lane => exact ite_memWf hu (laeReport_memWf (modTeam_memWf hu _ _) _ _ _ _ _ _)
          | block b => exact hu
          | halt hits => exact hu
        have hlay := copyLayout_memWf (watch := unwatched) h (fun _ _ ht => ht)
        split
        · next hl => exact hfail _ _ (memWf_snd hl (hlay _ _ _ _))
        · next lay u hl =>
          have hu : u.memWf := memWf_snd hl (hlay _ _ _ _)
          extract_lets
          split
          · exact hfail _ _ hu
          · split
            · next ht => exact hfail _ _ (memWf_snd ht (copyTranslate_memWf hu _ _ _ _))
            · next ht => exact laePush_memWf (acceptCopy_memWf (memWf_snd ht (copyTranslate_memWf hu _ _ _ _)) _) _ _ _ _ _
      · exact h

theorem qpopRes_memWf {s : State} (h : s.memWf) (f : FmtX) (e : Env) : (qpopRes f e s).memWf := by
  unfold qpopRes
  dsimp only
  split
  · exact h
  · split
    · split
      · exact h
      · split
        · exact h
        · split
          · exact h
          · exact modGroup_memWf h _ _
    · split
      · exact h
      · split
        · exact h
        · split
          · exact h
          · exact modGroup_memWf h _ _

theorem qrelRes_memWf {s : State} (h : s.memWf) (f : FmtX) (e : Env) : (qrelRes f e s).memWf := by
  unfold qrelRes
  dsimp only
  split
  · exact h
  · split
    · exact h
    · split
      · exact h
      · exact modGroup_memWf h _ _

theorem growRes_memWf {s : State} (h : s.memWf) (f : FmtX) (e : Env) : (growRes f e s).memWf := by
  unfold growRes
  dsimp only
  split
  · exact h
  · split
    · exact h
    · split
      · exact h
      · split
        · exact h
        · split
          · exact h
          · exact modGroup_memWf h _ _

theorem shrinkRes_memWf {s : State} (h : s.memWf) (f : FmtX) (e : Env) : (shrinkRes f e s).memWf := by
  unfold shrinkRes
  dsimp only
  split
  · exact h
  · split
    · exact h
    · exact modGroup_memWf h _ _

theorem requestSave_memWf {s : State} (h : s.memWf) (tid : Nat) (reason : BitVec 8) : (s.requestSave tid reason).memWf := by
  unfold State.requestSave
  exact modTeam_memWf h _ _

theorem suspendSave_memWf {s : State} (h : s.memWf) (tid : Nat) : (s.suspendSave tid).memWf := by
  unfold State.suspendSave
  exact modTeam_memWf (requestSave_memWf h _ _) _ _

theorem denyGrows_memWf {s : State} (h : s.memWf) (pk : Nat) : (s.denyGrows pk).memWf := by
  unfold State.denyGrows
  refine foldl_memWf _ (fun t1 a1 ht1 => ?_) _ _ h
  exact modGroup_memWf ht1 _ _

theorem allocationDeadlock_memWf {s : State} (h : s.memWf) (d c part : Nat) : (s.allocationDeadlock d c part).memWf := by
  unfold State.allocationDeadlock
  dsimp only
  split
  · exact h
  · split
    · exact denyGrows_memWf (modCore_memWf h _ _) _
    · split
      · exact modCore_memWf h _ _
      · exact requestSave_memWf (modCore_memWf h _ _) _ _

/-! ### Measurements -/

theorem extendMeas_memWf {s : State} (h : s.memWf) (i : Nat) (m : List Byte) : (s.extendMeas i m).memWf := by
  unfold State.extendMeas
  exact trail_memWf (by exact h) _ _ _ _ _

/-! ### Queues and nodes -/

theorem setDeps_memWf {s : State} (h : s.memWf) (pa v : Nat) : (s.setDeps pa v).memWf := by
  unfold State.setDeps
  exact writeHome_wf _ _ h

theorem placeInPool_memWf {s : State} (h : s.memWf) (k : Nat) (n : Node) (level t : Nat) : (s.placeInPool k n level t).memWf := by
  unfold State.placeInPool
  exact setNode_memWf (fresh_memWf h) _ _

theorem nodeReady_memWf {s : State} (h : s.memWf) (k : Nat) (n : Node) (d : Nat) : (s.nodeReady k n d).memWf := by
  unfold State.nodeReady
  exact ite_memWf (setNode_memWf (fresh_memWf h) _ _) (placeInPool_memWf h _ _ _ _)

theorem heldEnter_memWf {s : State} (h : s.memWf) (d : Nat) : (s.heldEnter d).memWf := by
  unfold State.heldEnter
  split
  · exact ite_memWf h (placeInPool_memWf h _ _ _ _)
  · exact h

theorem nodeAge_memWf {s : State} (h : s.memWf) (d k : Nat) : (s.nodeAge d k).memWf := by
  unfold State.nodeAge
  split
  · exact ite_memWf (placeInPool_memWf h _ _ _ _) h
  · exact h

theorem arm_memWf {s : State} (h : s.memWf) (n : Node) (d depth : Nat) : (s.arm n d depth).memWf := by
  unfold State.arm
  exact ite_memWf (nodeReady_memWf (setDeps_memWf (fresh_memWf h) _ _) _ _ _) (setNode_memWf (setDeps_memWf (fresh_memWf h) _ _) _ _)

theorem decrement_memWf {s : State} (h : s.memWf) (d x pa n : Nat) : (s.decrement d x pa n).2.memWf := by
  unfold State.decrement
  dsimp only
  split
  · split
    · exact setDeps_memWf h _ _
    · split
      · exact nodeReady_memWf (setDeps_memWf h _ _) _ _ _
      · exact setDeps_memWf h _ _
  · split
    · exact setDeps_memWf h _ _
    · split
      · exact nodeReady_memWf (setDeps_memWf h _ _) _ _ _
      · exact setDeps_memWf h _ _

theorem measureImage_memWf {s : State} (h : s.memWf) (d x : Nat) (k : Kernel) : (s.measureImage d x k).memWf := by
  unfold State.measureImage
  exact ite_memWf h (ite_memWf (by exact extendMeas_memWf h _ _) (extendMeas_memWf h _ _))

theorem nodeOf_memWf {s : State} (h : s.memWf) (d x pa : Nat) : (s.nodeOf d x pa).2.memWf := by
  unfold State.nodeOf
  dsimp only
  split
  · exact h
  · split
    · exact touchImage_memWf h _ _ _
    · exact touchPages_memWf (touchImage_memWf (measureImage_memWf h _ _ _) _ _ _) _ _ _ _ _

theorem enqueue_memWf {s : State} (h : s.memWf) (ck x r : Nat) : (s.enqueue ck x r).2.memWf := by
  unfold State.enqueue
  dsimp only
  split
  · exact h
  · split
    · exact h
    · split
      · exact h
      · split
        · rename_i he1
          exact memWf_snd he1 (translate_memWf _ _ _ _ h)
        · rename_i he1
          exact memWf_snd he1 (translate_memWf _ _ _ _ h)
        · rename_i t1 he1
          have ht1 : t1.memWf := memWf_snd he1 (translate_memWf _ _ _ _ h)
          split
          · exact ht1
          · split
            · exact ht1
            · split
              · rename_i he2
                exact memWf_snd he2 (nodeOf_memWf ht1 _ _ _)
              · rename_i t2 he2
                have ht2 : t2.memWf := memWf_snd he2 (nodeOf_memWf ht1 _ _ _)
                split
                · exact ht2
                · split
                  · exact ht2
                  · dsimp only
                    exact arm_memWf ht2 _ _ _

theorem enqLane_memWf {s : State} (h : s.memWf) (e : Env) (l : Nat) : (enqLane e s l).2.memWf := by
  unfold enqLane
  dsimp only
  split
  · exact h
  · split
    · rename_i he1
      exact memWf_snd he1 (enqueue_memWf (release_memWf _ _ h) _ _ _)
    · rename_i he1
      exact memWf_snd he1 (enqueue_memWf (release_memWf _ _ h) _ _ _)
    · rename_i he1
      exact memWf_snd he1 (enqueue_memWf (release_memWf _ _ h) _ _ _)

theorem enqRes_memWf {s : State} (h : s.memWf) (f : FmtX) (e : Env) : (enqRes f e s).memWf := by
  unfold enqRes
  exact res_memWf (seqLanes_memWf (ite_memWf (recordHits_memWf h _ _) h) (fun t1 n1 ht1 => enqLane_memWf ht1 _ _) _) _ _

theorem launchCheck_memWf {s : State} (h : s.memWf) (e : Env) (a : Nat) (parent : Option Node) : (launchCheck e s a parent).2.memWf := by
  unfold launchCheck
  split
  · exact h
  · split
    · rename_i he1
      exact memWf_snd he1 (lanePages_memWf h _ _ _ _)
    · rename_i t1 he1
      have ht1 : t1.memWf := memWf_snd he1 (lanePages_memWf h _ _ _ _)
      split
      · exact ht1
      · split
        · exact ht1
        · split
          · rename_i he4
            exact memWf_snd he4 (nodeOf_memWf ht1 _ _ _)
          · rename_i t2 he4
            have ht2 : t2.memWf := memWf_snd he4 (nodeOf_memWf ht1 _ _ _)
            split
            · exact ht2
            · split
              · exact ht2
              · split
                · exact ht2
                · exact ht2

theorem launchLane_memWf {s : State} (h : s.memWf) (e : Env) (l : Nat) : (launchLane e s l).2.memWf := by
  unfold launchLane
  dsimp only
  split
  · exact h
  · split
    · rename_i he1
      exact memWf_snd he1 (launchCheck_memWf (release_memWf _ _ h) _ _ _)
    · rename_i t1 he1
      have ht1 : t1.memWf := memWf_snd he1 (launchCheck_memWf (release_memWf _ _ h) _ _ _)
      dsimp only
      exact arm_memWf ht1 _ _ _

theorem launchRes_memWf {s : State} (h : s.memWf) (f : FmtX) (e : Env) : (launchRes f e s).memWf := by
  unfold launchRes
  exact res_memWf (seqLanes_memWf (ite_memWf (recordHits_memWf h _ _) h) (fun t1 n1 ht1 => launchLane_memWf ht1 _ _) _) _ _

theorem depdecLane_memWf {s : State} (h : s.memWf) (e : Env) (l : Nat) : (depdecLane e s l).2.memWf := by
  unfold depdecLane
  dsimp only
  split
  · exact h
  · split
    · exact h
    · split
      · rename_i he1
        exact memWf_snd he1 (lanePages_memWf h _ _ _ _)
      · rename_i t1 he1
        have ht1 : t1.memWf := memWf_snd he1 (lanePages_memWf h _ _ _ _)
        split
        · exact ht1
        · split
          · exact ht1
          · split
            · exact dropLine_memWf _ _ (release_memWf _ _ ht1)
            · dsimp only
              exact decrement_memWf (dropLine_memWf _ _ (release_memWf _ _ ht1)) _ _ _ _

theorem depdecRes_memWf {s : State} (h : s.memWf) (f : FmtX) (e : Env) : (depdecRes f e s).memWf := by
  unfold depdecRes
  exact res_memWf (perLane_memWf (ite_memWf (recordHits_memWf h _ _) h) (fun t1 n1 ht1 => depdecLane_memWf ht1 _ _) _) _ _

theorem deviceTranslate_memWf {s : State} (h : s.memWf) (d x va kind : Nat) : (s.deviceTranslate d x va kind).2.memWf := by
  unfold State.deviceTranslate
  dsimp only
  split
  · exact h
  · split
    · rename_i he1
      exact memWf_snd he1 (walkVa_memWf h _ _ _)
    · rename_i he1
      exact memWf_snd he1 (walkVa_memWf h _ _ _)
    · rename_i t1 he1
      have ht1 : t1.memWf := memWf_snd he1 (walkVa_memWf h _ _ _)
      split
      · exact ht1
      · split
        · exact setAccessed_memWf _ _ _ ht1
        · exact setAccessed_memWf _ _ _ ht1

/-! ### Distribution and admission -/

theorem placeGroup_memWf {s : State} (h : s.memWf) (ck part : Nat) (g : Group) : (s.placeGroup ck part g).memWf := by
  unfold State.placeGroup
  split
  · exact setGroup_memWf h _ _
  · exact h

theorem ctxStart_memWf {s : State} (h : s.memWf) (x : Nat) : (s.ctxStart x).memWf := by
  unfold State.ctxStart
  exact ite_memWf (setCtx_memWf h _ _) h

theorem ctxSettle_memWf {s : State} (h : s.memWf) (x : Nat) : (s.ctxSettle x).memWf := by
  unfold State.ctxSettle
  exact ite_memWf (setCtx_memWf h _ _) h

theorem teamAdmit_memWf {s : State} (h : s.memWf) (tid : Nat) : (s.teamAdmit tid).memWf := by
  unfold State.teamAdmit
  dsimp only
  split
  · exact h
  · split
    · exact h
    · split
      · exact h
      · refine acquire_memWf _ _ (ctxStart_memWf ?_ _)
        refine foldl_memWf _ (fun t1 a1 ht1 => ?_) _ _ (setTeam_memWf (fresh_memWf (pick_memWf h _)) _ _)
        exact placeGroup_memWf ht1 _ _ _

theorem dieTake_memWf {s : State} (h : s.memWf) (d : Nat) : (s.dieTake d).memWf := by
  unfold State.dieTake
  dsimp only
  split
  · exact h
  · exact ite_memWf h (setNode_memWf (fresh_memWf h) _ _)

theorem placedAll_memWf {s : State} (h : s.memWf) (k : Nat) : (s.placedAll k).memWf := by
  unfold State.placedAll
  exact modNode_memWf h _ _

theorem placeFrom_memWf {s : State} (h : s.memWf) (cl k lo hi : Nat) (n : Node) : (s.placeFrom cl k lo hi n).memWf := by
  unfold State.placeFrom
  dsimp only
  split
  · exact h
  · split
    · exact h
    · exact placedAll_memWf (modCluster_memWf (touchImage_memWf (setTeam_memWf (fresh_memWf h) _ _) _ _ _) _ _) _

theorem takeChunk_memWf {s : State} (h : s.memWf) (d cl : Nat) : (s.takeChunk d cl).memWf := by
  unfold State.takeChunk
  dsimp only
  split
  · exact h
  · split
    · exact h
    · exact modCluster_memWf (setNode_memWf h _ _) _ _

theorem chunkPlace_memWf {s : State} (h : s.memWf) (d cl : Nat) : (s.chunkPlace d cl).memWf := by
  unfold State.chunkPlace
  dsimp only
  split
  · exact h
  · split
    · exact placeFrom_memWf (takeChunk_memWf h _ _) _ _ _ _ _
    · exact takeChunk_memWf h _ _

theorem clusterSteal_memWf {s : State} (h : s.memWf) (d cl : Nat) : (s.clusterSteal d cl).memWf := by
  unfold State.clusterSteal
  dsimp only
  split
  · exact h
  · split
    · exact h
    · exact modCluster_memWf (modCluster_memWf h _ _) _ _

theorem crossSteal_memWf {s : State} (h : s.memWf) (d : Nat) : (s.crossSteal d).memWf := by
  unfold State.crossSteal
  dsimp only
  split
  · exact h
  · split
    · exact h
    · split
      · exact h
      · exact setNode_memWf h _ _

theorem preempt_memWf {s : State} (h : s.memWf) (d : Nat) : (s.preempt d).memWf := by
  unfold State.preempt
  split
  · exact h
  · split
    · exact requestSave_memWf h _ _
    · exact h

theorem thermalEvent_memWf {s : State} (h : s.memWf) (ck ev : Nat) : (s.thermalEvent ck ev).memWf := by
  unfold State.thermalEvent
  exact ite_memWf (trail_memWf (report_memWf h _ _) _ _ _ _ _) (report_memWf h _ _)

theorem reclaim_memWf {s : State} (h : s.memWf) (ck : Nat) : (s.reclaim ck).memWf := by
  unfold State.reclaim
  exact ite_memWf h (thermalEvent_memWf (by exact h) _ _)

end Sys2Proof.Machine
end

section
/-! PROOFS. The canonical form of memory (O47): the sampler and retirement. -/

namespace Sys2Proof.Machine

/-! ### The sampler -/

theorem modBand_memWf {s : State} (h : s.memWf) (d p : Nat) (f : Band → Band) : (s.modBand d p f).memWf := by
  unfold State.modBand
  exact modDie_memWf h _ _

theorem moveDsb_memWf {s : State} (h : s.memWf) (old : State) (d : Nat) : (s.moveDsb old d).memWf :=
  ite_memWf h (memWf_of_mem rfl h)

theorem setBucket_memWf {s : State} (h : s.memWf) (d t : Nat) (b : Bucket) : (s.setBucket d t b).memWf :=
  moveDsb_memWf (modDie_memWf h _ _) _ _

theorem insertLive_memWf {s : State} (h : s.memWf) (d t : Nat) (r : SampleRec) : (s.insertLive d t r).memWf := by
  unfold State.insertLive
  exact setBucket_memWf (ite_memWf (modBand_memWf h _ _ _) h) _ _ _

theorem putRecord_memWf {s : State} (h : s.memWf) (d t : Nat) (r : SampleRec) : (s.putRecord d t r).memWf := by
  unfold State.putRecord
  exact ite_memWf (modDie_memWf h _ _) (ite_memWf (insertLive_memWf (modDie_memWf h _ _) _ _ _) (ite_memWf (setBucket_memWf
    (modDie_memWf h _ _) _ _ _) (modBand_memWf (modDie_memWf h _ _) _ _ _)))

theorem arrive_memWf {s : State} (h : s.memWf) (d : Nat) (i : Insertion) : (s.arrive d i).memWf := by
  unfold State.arrive
  exact ite_memWf (setBucket_memWf h _ _ _) (putRecord_memWf h _ _ _)

theorem unlock_memWf {s : State} (h : s.memWf) (d t : Nat) : (s.unlock d t).memWf := by
  unfold State.unlock
  dsimp only
  refine foldl_memWf _ (fun t1 a1 ht1 => ?_) _ _ (setBucket_memWf h _ _ _)
  exact putRecord_memWf ht1 _ _ _

theorem unlockAll_memWf {s : State} (h : s.memWf) (d tid : Nat) : (s.unlockAll d tid).memWf := by
  unfold State.unlockAll
  refine foldl_memWf _ (fun t1 a1 ht1 => ?_) _ _ h
  exact unlock_memWf ht1 _ _

theorem gateRise_memWf {s : State} (h : s.memWf) (d : Nat) : (s.gateRise d).memWf := by
  unfold State.gateRise
  dsimp only
  refine foldl_memWf _ (fun t1 a1 ht1 => ?_) _ _ h
  refine foldl_memWf _ (fun t2 a2 ht2 => ?_) _ _ (setBucket_memWf ht1 _ _ _)
  exact ite_memWf (setBucket_memWf ht2 _ _ _) (insertLive_memWf ht2 _ _ _)

theorem sampleInsertion_memWf {s : State} (h : s.memWf) (d : Nat) : (s.sampleInsertion d).memWf := by
  unfold State.sampleInsertion
  dsimp only
  split
  · exact h
  · split
    · exact pick_memWf h _
    · exact arrive_memWf (modDie_memWf (pick_memWf h _) _ _) _ _

theorem xeyeReceive_memWf {s : State} (h : s.memWf) (d : Nat) : (s.xeyeReceive d).memWf := by
  unfold State.xeyeReceive
  split
  · exact h
  · exact ite_memWf h (arrive_memWf (modDie_memWf h _ _) _ _)

theorem sendMark_memWf {s : State} (h : s.memWf) (d : Nat) : (s.sendMark d).memWf := by
  unfold State.sendMark
  exact ite_memWf h (modDie_memWf (modDie_memWf h _ _) _ _)

theorem markArrives_memWf {s : State} (h : s.memWf) (d : Nat) : (s.markArrives d).memWf := by
  unfold State.markArrives
  split
  · exact ite_memWf (modDie_memWf h _ _) h
  · exact h

theorem cutTrail_memWf {s : State} (h : s.memWf) (d t : Nat) (old : List Nat) : (s.cutTrail d t old).memWf := by
  unfold State.cutTrail
  refine foldl_memWf _ (fun t1 a1 ht1 => ?_) _ _ h
  exact trailAt_memWf _ _ _ _ _ _ ht1

theorem bandDeadline_memWf {s : State} (h : s.memWf) (d : Nat) : (s.bandDeadline d).memWf := by
  unfold State.bandDeadline
  extract_lets x q b band ctx old s1 s2 s3 s4
  refine ite_memWf h ?_
  have h3 : s3.memWf := setRaw_memWf (postEngine_memWf (trailAt_memWf _ _ _ _ _ _ h) _ _) _ _
  have h4 : s4.memWf := ite_memWf h (ite_memWf (trailAt_memWf _ _ _ _ _ _ (modDie_memWf h _ _)) (modDie_memWf h3 _ _))
  exact gateRise_memWf (cutTrail_memWf (modDie_memWf h4 _ _) _ _ _) _

theorem waitLimit_memWf {s : State} (h : s.memWf) (d : Nat) : (s.waitLimit d).memWf := by
  unfold State.waitLimit
  exact ite_memWf (modBand_memWf h _ _ _) h

theorem startOfScan_memWf {s : State} (h : s.memWf) (d : Nat) : (s.startOfScan d).memWf := by
  unfold State.startOfScan
  exact ite_memWf h (modDie_memWf h _ _)

theorem applyMaps_memWf {s : State} (h : s.memWf) (d : Nat) : (s.applyMaps d).memWf := by
  unfold State.applyMaps
  dsimp only
  refine modDie_memWf ?_ _ _
  refine foldl_memWf _ (fun t1 a1 ht1 => ?_) _ _ (by exact h)
  exact ite_memWf (setDie_memWf ht1 _ _) (ite_memWf (setDie_memWf ht1 _ _) (ite_memWf (setDie_memWf ht1 _ _) (ite_memWf (setRaw_memWf ht1 _ _)
    (setDie_memWf ht1 _ _))))

theorem makeDraws_memWf {s : State} (h : s.memWf) (d p : Nat) : (s.makeDraws d p).memWf := by
  unfold State.makeDraws
  refine ite_memWf h ?_
  extract_lets ds x
  split
  exact setDie_memWf h _ _

theorem smpReport_memWf {s : State} (h : s.memWf) (d : Nat) (c : Cause) (n va kind lvl : Nat) : (s.smpReport d c n va kind lvl).memWf := by
  unfold State.smpReport
  exact report_memWf h _ _

theorem deviceNode_memWf {s : State} (h : s.memWf) (d : Nat) (kind : NodeKind) (image : Word) (prio id : Nat) :
    (s.deviceNode d kind image prio id).2.memWf := by
  unfold State.deviceNode
  dsimp only
  split
  · exact smpReport_memWf (touchImage_memWf h _ _ _) _ _ _ _ _ _
  · exact nodeReady_memWf (fresh_memWf (touchImage_memWf (measureImage_memWf h _ _ _) _ _ _)) _ _ _

theorem waveWrite_memWf {s : State} (h : s.memWf) (d : Nat) : (s.waveWrite d).memWf := by
  unfold State.waveWrite
  dsimp only
  split
  · exact h
  · split
    · exact h
    · split
      · exact h
      · rename_i t1 he2
        have ht1 : t1.memWf := memWf_snd he2 (deviceTranslate_memWf h _ _ _ _)
        exact smpReport_memWf (modDie_memWf ht1 _ _) _ _ _ _ _ _
      · rename_i t1 he2
        have ht1 : t1.memWf := memWf_snd he2 (deviceTranslate_memWf h _ _ _ _)
        split
        · exact modDie_memWf (writeHome_wf _ _ ht1) _ _
        · split
          · rename_i he3
            exact memWf_snd he3 (deviceNode_memWf (modDie_memWf (writeHome_wf _ _ ht1) _ _) _ _ _ _ _)
          · rename_i t2 he3
            have ht2 : t2.memWf := memWf_snd he3 (deviceNode_memWf (modDie_memWf (writeHome_wf _ _ ht1) _ _) _ _ _ _ _)
            exact modDie_memWf ht2 _ _

theorem waveResume_memWf {s : State} (h : s.memWf) (d : Nat) (replay : Bool) : (s.waveResume d replay).memWf := by
  unfold State.waveResume
  exact modDie_memWf h _ _

theorem nodeGone_memWf {s : State} (h : s.memWf) (k : Nat) (n : Node) : (s.nodeGone k n).memWf := by
  unfold State.nodeGone
  dsimp only
  split
  · exact modDie_memWf h _ _
  · exact ite_memWf (gateRise_memWf (cutTrail_memWf (modBand_memWf (trail_memWf h _ _ _ _ _) _ _ _) _ _ _) _) h
  · exact h
  · exact h

theorem modeChange_memWf {s : State} (h : s.memWf) (t : Nat) : (s.modeChange t).memWf := by
  unfold State.modeChange
  dsimp only
  refine trailAt_memWf _ _ _ _ _ _ (trailAt_memWf _ _ _ _ _ _ (extendMeas_memWf ?_ _ _))
  refine foldl_memWf _ (fun t1 a1 ht1 => ?_) _ _ ?_
  · exact modCluster_memWf ht1 _ _
  · refine foldl_memWf _ (fun t1 a1 ht1 => ?_) _ _ (by exact h)
    exact modDie_memWf ht1 _ _

theorem boundaryMode_memWf {s : State} (h : s.memWf) (t len : Nat) : (s.boundaryMode t len).memWf := by
  unfold State.boundaryMode
  split
  · exact h
  · exact ite_memWf (by exact h) (ite_memWf (gateRise_memWf (modeChange_memWf h _) _) h)

theorem epochWrite_memWf {s : State} (h : s.memWf) (v : Word) : (s.epochWrite v).memWf := by
  unfold State.epochWrite
  exact h

theorem epochLater_memWf {s : State} (h : s.memWf) : (s.epochLater).memWf := by
  unfold State.epochLater
  split
  · exact epochWrite_memWf (by exact h) _
  · exact h

theorem restart_memWf {s : State} (h : s.memWf) (d : Nat) : (s.restart d).memWf := by
  unfold State.restart
  dsimp only
  refine modDie_memWf ?_ _ _
  split
  · exact ite_memWf (by exact h) (epochLater_memWf (by exact h))
  · exact h

theorem epochDue_memWf {s : State} (h : s.memWf) (d t len : Nat) : (s.epochDue d t len).memWf := by
  unfold State.epochDue
  split
  · exact h
  · exact ite_memWf (by exact h) h

theorem applyRegs_memWf {s : State} (h : s.memWf) (d : Nat) : (s.applyRegs d).memWf := by
  unfold State.applyRegs
  split
  extract_lets old u n
  have hu : u.memWf := foldl_memWf _ (fun _ _ ht => setRaw_memWf ht _ _) _ _ h
  split
  · exact hu
  · exact moveDsb_memWf (modDie_memWf hu _ _) _ _

theorem applyBuckets_memWf {s : State} (h : s.memWf) (d : Nat) : (s.applyBuckets d).memWf := by
  unfold State.applyBuckets
  exact moveDsb_memWf (modDie_memWf h _ _) _ _

theorem handOn_memWf {s : State} (h : s.memWf) (d : Nat) : (s.handOn d).memWf := by
  unfold State.handOn
  dsimp only
  split
  · exact h
  · refine modBand_memWf ?_ _ _ _
    refine foldl_memWf _ (fun t1 a1 ht1 => ?_) _ _ ?_
    · exact modBand_memWf ht1 _ _ _
    · refine foldl_memWf _ (fun t1 a1 ht1 => ?_) _ _ (modBand_memWf h _ _ _)
      exact modBand_memWf ht1 _ _ _

theorem enqueuePeriod_memWf {s : State} (h : s.memWf) (d : Nat) : (s.enqueuePeriod d).memWf := by
  unfold State.enqueuePeriod
  dsimp only
  split
  · exact smpReport_memWf (modBand_memWf h _ _ _) _ _ _ _ _ _
  · refine makeDraws_memWf ?_ _ _
    split
    · exact ite_memWf h (modDie_memWf (deviceNode_memWf h _ _ _ _ _) _ _)
    · split
      · rename_i t1 he1
        have ht1 : t1.memWf := memWf_snd he1 (deviceNode_memWf h _ _ _ _ _)
        exact ite_memWf ht1 (modDie_memWf (deviceNode_memWf ht1 _ _ _ _ _) _ _)
      · rename_i t1 he1
        have ht1 : t1.memWf := memWf_snd he1 (deviceNode_memWf h _ _ _ _ _)
        exact ite_memWf (copyShown_memWf _ _ (modBand_memWf ht1 _ _ _)) (modDie_memWf (deviceNode_memWf (copyShown_memWf _ _
          (modBand_memWf ht1 _ _ _)) _ _ _ _ _) _ _)

theorem periodTrail_memWf {s : State} (h : s.memWf) (d t : Nat) : (s.periodTrail d t).memWf := by
  unfold State.periodTrail
  exact modDie_memWf (trailAt_memWf _ _ _ _ _ _ (trailAt_memWf _ _ _ _ _ _ h)) _ _

theorem takeRate_memWf {s : State} (h : s.memWf) (d rate : Nat) : (s.takeRate d rate).memWf := by
  unfold State.takeRate
  dsimp only
  split
  · exact modNode_memWf (modDie_memWf h _ _) _ _
  · exact modDie_memWf h _ _

theorem rateBoundary_memWf {s : State} (h : s.memWf) (d : Nat) : (s.rateBoundary d).memWf := by
  unfold State.rateBoundary
  exact ite_memWf h (ite_memWf (modDie_memWf h _ _) (ite_memWf (takeRate_memWf (modDie_memWf h _ _) _ _) (modDie_memWf (modDie_memWf h _ _) _ _)))

theorem bandBoundary_memWf {s : State} (h : s.memWf) (d : Nat) : (s.bandBoundary d).memWf := by
  unfold State.bandBoundary
  extract_lets x len left t old s1 s2 again s3 s4 s5 s6 s7
  refine ite_memWf h ?_
  have h3 : s3.memWf := modDie_memWf (rateBoundary_memWf (epochDue_memWf (periodTrail_memWf h _ _) _ _ _) _) _ _
  have h4 : s4.memWf := ite_memWf (restart_memWf h3 _) h3
  have h6 : s6.memWf := applyRegs_memWf (applyMaps_memWf (modDie_memWf h4 _ _) _) _
  have h7 : s7.memWf := ite_memWf (boundaryMode_memWf h6 _ _) h6
  exact handOn_memWf (enqueuePeriod_memWf (gateRise_memWf (cutTrail_memWf (applyBuckets_memWf h7 _) _ _ _) _) _) _

/-! ### Sample words -/

theorem awaitReplies_memWf {s : State} (h : s.memWf) (e : Env) (done : Mask) : (s.awaitReplies e done).memWf := by
  unfold State.awaitReplies
  exact ite_memWf h (modGroup_memWf h _ _)

theorem srecRes_memWf {s : State} (h : s.memWf) (e : Env) : (srecRes e s).memWf := by
  unfold srecRes
  dsimp only
  refine res_memWf (awaitReplies_memWf (perLane_memWf h (fun t1 n1 ht1 => ?_) _) _ _) _ _
  split
  · exact ht1
  · exact modDie_memWf ht1 _ _

theorem xeyeRes_memWf {s : State} (h : s.memWf) (f : FmtX) (e : Env) : (xeyeRes f e s).memWf := by
  unfold xeyeRes
  dsimp only
  refine res_memWf (awaitReplies_memWf (perLane_memWf h (fun t1 n1 ht1 => ?_) _) _ _) _ _
  split
  · exact ht1
  · split
    · exact modDie_memWf ht1 _ _
    · split
      · exact ht1
      · exact ht1

theorem noteRead_memWf {s : State} (h : s.memWf) (d : Nat) (t : Team) (tile : Nat) : (s.noteRead d t tile).memWf := by
  unfold State.noteRead
  split
  · exact h
  · exact ite_memWf h (modBand_memWf h _ _ _)

theorem sldNow_memWf {s : State} (h : s.memWf) (d : Nat) (t : Team) (tile rank : Nat) : (sldNow s d t tile rank).2.memWf := by
  unfold sldNow
  exact noteRead_memWf h _ _ _

theorem sbktNow_memWf {s : State} (h : s.memWf) (d : Nat) (t : Team) (tile : Nat) : (sbktNow s d t tile).2.memWf := by
  unfold sbktNow
  exact noteRead_memWf h _ _ _

theorem bucketReads_memWf {s : State} (h : s.memWf) {now : State → Nat → List Byte × State} (hnow : ∀ (t : State) (b1 : Nat), t.memWf →
    (now t b1).2.memWf) (e : Env) (d : BitVec 8) (n : Nat) (check : Nat → Option (Cause × Word)) (tile : Nat → Nat) (wait : Pending) :
    (bucketReads e s d n check tile now wait).memWf := by
  unfold bucketReads
  dsimp only
  split
  · exact h
  · refine res_memWf (perLane_memWf h (fun t1 n1 ht1 => ?_) _) _ _
    split
    · exact ht1
    · exact hnow _ _ ht1

theorem sldRes_memWf {s : State} (h : s.memWf) (f : FmtM) (e : Env) : (sldRes f e s).memWf := by
  unfold sldRes
  exact bucketReads_memWf h (fun t1 n1 ht1 => sldNow_memWf ht1 _ _ _ _) _ _ _ _ _ _

theorem sbktqRes_memWf {s : State} (h : s.memWf) (f : FmtX) (e : Env) : (sbktqRes f e s).memWf := by
  unfold sbktqRes
  exact bucketReads_memWf h (fun t1 n1 ht1 => sbktNow_memWf ht1 _ _ _) _ _ _ _ _ _

theorem sbktLockRes_memWf {s : State} (h : s.memWf) (f : FmtX) (e : Env) : (sbktLockRes f e s).memWf := by
  unfold sbktLockRes
  dsimp only
  refine res_memWf (perLane_memWf h (fun t1 n1 ht1 => ?_) _) _ _
  split
  · exact ht1
  · split
    · exact ht1
    · exact sbktNow_memWf (ite_memWf (setBucket_memWf ht1 _ _ _) ht1) _ _ _

theorem sbktUnlockRes_memWf {s : State} (h : s.memWf) (e : Env) : (sbktUnlockRes e s).memWf := by
  unfold sbktUnlockRes
  dsimp only
  refine res_memWf (perLane_memWf h (fun t1 n1 ht1 => ?_) _) _ _
  split
  · exact ht1
  · exact ite_memWf (unlock_memWf ht1 _ _) ht1

theorem sldSpLane_memWf {s : State} (h : s.memWf) (f : FmtM) (e : Env) (l : Nat) : (sldSpLane f e s l).2.memWf := by
  unfold sldSpLane
  dsimp only
  split
  · exact h
  · split
    · exact h
    · split
      · exact h
      · split
        · exact h
        · split
          · exact h
          · exact acceptCopy_memWf h _

theorem sldSpRes_memWf {s : State} (h : s.memWf) (f : FmtM) (e : Env) : (sldSpRes f e s).memWf := by
  unfold sldSpRes
  split
  · exact h
  · exact res_memWf (perLane_memWf h (fun t1 n1 ht1 => sldSpLane_memWf ht1 _ _ _) _) _ _

theorem sldFill_memWf {s : State} (h : s.memWf) (k line : Nat) : (s.sldFill k line).memWf := by
  unfold State.sldFill
  dsimp only
  split
  · exact h
  · split
    · exact h
    · exact ite_memWf h (setCopy_memWf (modTeam_memWf (ite_memWf (writeScratch_memWf (ite_memWf (noteRead_memWf h _ _ _) h) _ _ _)
        (by exact writeScratch_memWf (ite_memWf (noteRead_memWf h _ _ _) h) _ _ _)) _ _) _ _)

theorem modBuckets_memWf {s : State} (h : s.memWf) (d : Nat) (tile : Option Nat) (f : Bucket → Bucket) : (s.modBuckets d tile f).memWf := by
  unfold State.modBuckets
  dsimp only
  split
  · exact setBucket_memWf h _ _ _
  · exact moveDsb_memWf (modDie_memWf (setBucket_memWf h _ _ _) _ _) _ _

theorem sevtRes_memWf {s : State} (h : s.memWf) (f : FmtX) (act : Word → Bucket → Bucket) (e : Env) : (sevtRes f act e s).memWf := by
  unfold sevtRes
  dsimp only
  refine res_memWf (perLane_memWf h (fun t1 n1 ht1 => ?_) _) _ _
  split
  · exact ht1
  · exact modBuckets_memWf ht1 _ _ _

theorem mapWrite_memWf {s : State} (h : s.memWf) (e : Env) (w : MapWrite) : (s.mapWrite e w).memWf := by
  unfold State.mapWrite
  exact modDie_memWf (ite_memWf (modBand_memWf h _ _ _) h) _ _

theorem mapRes_memWf {s : State} (h : s.memWf) (map : Nat) (op : MapOp) (e : Env) : (mapRes map op e s).memWf := by
  unfold mapRes
  dsimp only
  refine res_memWf (perLane_memWf h (fun t1 n1 ht1 => ?_) _) _ _
  split
  · exact ht1
  · exact mapWrite_memWf ht1 _ _

theorem prioWRes_memWf {s : State} (h : s.memWf) (e : Env) : (prioWRes e s).memWf := by
  unfold prioWRes
  dsimp only [Res.memWf]
  refine foldl_memWf _ (fun t1 a1 ht1 => ?_) _ _ h
  refine foldl_memWf _ (fun t2 a2 ht2 => ?_) _ _ ht1
  exact mapWrite_memWf ht2 _ _

theorem reprojRes_memWf {s : State} (h : s.memWf) (f : FmtX) (e : Env) : (reprojRes f e s).memWf := by
  unfold reprojRes
  dsimp only
  split
  · exact h
  · exact h

theorem rowqRes_memWf {s : State} (h : s.memWf) (f : FmtX) (e : Env) : (rowqRes f e s).memWf := by
  unfold rowqRes
  dsimp only
  refine res_memWf (perLane_memWf h (fun t1 n1 ht1 => ?_) _) _ _
  split
  · split
    · exact ht1
    · exact ht1
  · split
    · exact ht1
    · split
      · exact ht1
      · exact ht1

theorem rowwLane_memWf {s : State} (h : s.memWf) (e : Env) (l : Nat) : (rowwLane e s l).2.memWf := by
  unfold rowwLane
  dsimp only
  split
  · exact h
  · split
    · exact h
    · exact ite_memWf (writeHome_wf _ _ h) h

theorem rowwRes_memWf {s : State} (h : s.memWf) (e : Env) : (rowwRes e s).memWf := by
  unfold rowwRes
  exact res_memWf (perLane_memWf h (fun t1 n1 ht1 => rowwLane_memWf ht1 _ _) _) _ _

/-! ### Retirement -/

theorem freeGroups_memWf {s : State} (h : s.memWf) (tid : Nat) : (s.freeGroups tid).memWf := by
  unfold State.freeGroups
  exact h

theorem dropTeam_memWf {s : State} (h : s.memWf) (tid : Nat) : (s.dropTeam tid).memWf := by
  unfold State.dropTeam
  exact h

theorem retireAt_memWf {s : State} (h : s.memWf) {n : Node} {entry va kind : Nat} {f : State → Nat → State}
    (hf : ∀ (t : State) (pa : Nat), t.memWf → (f t pa).memWf) {t : State} (ht : s.retireAt n entry va kind f = some t) : t.memWf := by
  unfold State.retireAt at ht
  have htr := deviceTranslate_memWf h n.die n.ctx va kind
  split at ht
  · cases ht
  · next he =>
    cases ht
    exact report_memWf (memWf_snd he htr) _ _
  · next he =>
    cases ht
    exact hf _ _ (memWf_snd he htr)

theorem retireSuccs_memWf {s : State} (h : s.memWf) {n : Node} {ks : List Nat} {t : State} (ht : s.retireSuccs n ks = some t) : t.memWf := by
  fun_induction State.retireSuccs s n ks with
  | case1 s =>
    cases ht
    exact h
  | case2 s k r at_ he => cases ht
  | case3 s k r at_ u he p hp hq => cases ht
  | case4 s k r at_ u he p hp v hq ih =>
    exact ih (retireAt_memWf (retireAt_memWf h (fun _ _ hs => hs) he) (fun _ _ hs => decrement_memWf hs _ _ _ _) hq) ht
  | case5 s k r at_ u he hne ih => exact ih (retireAt_memWf h (fun _ _ hs => hs) he) ht

theorem retireNode_memWf {s : State} (h : s.memWf) {k : Nat} {n : Node} {t : State} (ht : s.retireNode k n = some t) : t.memWf := by
  unfold State.retireNode at ht
  dsimp only at ht
  split at ht
  · cases ht
  · next u hu =>
    have hword : u.memWf := by
      split at hu
      · cases hu
        exact h
      · exact retireAt_memWf h (fun _ _ hs => writeHome_wf _ _ hs) hu
    split at ht
    · cases ht
    · next v hv =>
      cases ht
      have hv' : v.memWf := retireSuccs_memWf (ite_memWf (postEngine_memWf hword _ _) hword) hv
      exact hv'

theorem nodeTeamGone_memWf {s : State} (h : s.memWf) {k : Nat} {t : State} (ht : s.nodeTeamGone k = some t) : t.memWf := by
  unfold State.nodeTeamGone at ht
  split at ht
  · cases ht
    exact h
  · dsimp only at ht
    split at ht
    · cases ht
      exact setNode_memWf h _ _
    · obtain ⟨u, hu, rfl⟩ := Option.map_eq_some_iff.mp ht
      exact nodeGone_memWf (retireNode_memWf (setNode_memWf h _ _) hu) _ _

theorem teamRetire_memWf {s : State} (h : s.memWf) (tid : Nat) : (s.teamRetire tid).memWf := by
  unfold State.teamRetire
  split
  · exact h
  · split
    · exact h
    · split
      · exact h
      · next he => exact ctxSettle_memWf (nodeTeamGone_memWf (dropTeam_memWf (unlockAll_memWf (release_memWf _ _ h) _ _) _) he) _

end Sys2Proof.Machine
end

section
/-! PROOFS. The canonical form of memory (O47): contexts, watch and trail. -/

namespace Sys2Proof.Machine

/-! ### Contexts and faults -/

theorem answerGroup_memWf {s : State} (h : s.memWf) (gk action : Nat) : (s.answerGroup gk action).memWf := by
  unfold State.answerGroup
  dsimp only
  split
  · exact h
  · split
    · exact h
    · split
      · exact deliverPending_memWf (resumeFrame_memWf (setGroup_memWf h _ _) _ _ _ _) _ _
      · exact toHandler_memWf (setGroup_memWf h _ _) _ _
      · exact endTeam_memWf (setGroup_memWf h _ _) _ _
      · exact setGroup_memWf h _ _

theorem answerLimit_memWf {s : State} (h : s.memWf) (tid seq action : Nat) : (s.answerLimit tid seq action).memWf := by
  unfold State.answerLimit
  dsimp only
  split
  · exact endTeam_memWf (ite_memWf (by exact modTeam_memWf h _ _) (modTeam_memWf h _ _)) _ _
  · refine foldl_memWf _ (fun t1 a1 ht1 => ?_) _ _ (ite_memWf (by exact modTeam_memWf h _ _) (modTeam_memWf h _ _))
    exact ite_memWf (answerGroup_memWf ht1 _ _) ht1

theorem answerLae_memWf {s : State} (h : s.memWf) (tid action : Nat) (l : Lae) (c : Cause) : (s.answerLae tid action l c).memWf := by
  unfold State.answerLae
  split
  · exact modTeam_memWf h _ _
  · split
    · exact laeFail_memWf h _ _ _
    · exact h
  · exact endTeam_memWf h _ _
  · exact h

theorem answerTeam_memWf {s : State} (h : s.memWf) (tid seq action : Nat) : (s.answerTeam tid seq action).memWf := by
  unfold State.answerTeam
  split
  · exact h
  · split
    · exact answerLimit_memWf h _ _ _
    · split
      · exact answerLae_memWf h _ _ _ _
      · split
        · exact answerGroup_memWf h _ _
        · exact h

theorem fltResume_memWf {s : State} (h : s.memWf) (x seq action : Nat) : (s.fltResume x seq action).memWf := by
  unfold State.fltResume
  dsimp only
  split
  · exact h
  · split
    · exact ite_memWf (setTeam_memWf h _ _) (answerTeam_memWf h _ _ _)
    · split
      · exact waveResume_memWf h _ _
      · exact h

theorem handlerEntry_memWf {s : State} (h : s.memWf) (gk : Nat) : (s.handlerEntry gk).memWf := by
  unfold State.handlerEntry
  split
  · split
    · exact setGroup_memWf h _ _
    · exact endTeam_memWf h _ _
    · exact h
  · exact h

theorem teamTimeLimit_memWf {s : State} (h : s.memWf) (tid : Nat) : (s.teamTimeLimit tid).memWf := by
  unfold State.teamTimeLimit
  dsimp only
  split
  · exact h
  · split
    · refine foldl_memWf _ (fun t1 a1 ht1 => ?_) _ _ h
      exact parkIg_memWf ht1 _
    · refine foldl_memWf _ (fun t1 a1 ht1 => ?_) _ _ ?_
      · exact asyncTrap_memWf ht1 _ _
      · refine report_memWf (modTeam_memWf ?_ _ _) _ _
        refine foldl_memWf _ (fun t1 a1 ht1 => ?_) _ _ h
        exact parkIg_memWf ht1 _

theorem cmdErr_memWf {s : State} (h : s.memWf) : (s.cmdErr).memWf := by
  unfold State.cmdErr
  exact setRaw_memWf h _ _

theorem ctxCreate_memWf {s : State} (h : s.memWf) (x : Nat) : (s.ctxCreate x).memWf := by
  unfold State.ctxCreate
  exact setCtx_memWf (setRaw_memWf (setRaw_memWf (setRaw_memWf (by exact h) _ _) _ _) _ _) _ _

theorem ctxSuspend_memWf {s : State} (h : s.memWf) (x : Nat) : (s.ctxSuspend x).memWf := by
  unfold State.ctxSuspend
  dsimp only
  refine foldl_memWf _ (fun t1 a2 ht1 => ?_) _ _ (setCtx_memWf h _ _)
  exact suspendSave_memWf ht1 _

theorem ctxResume_memWf {s : State} (h : s.memWf) (x : Nat) : (s.ctxResume x).memWf := by
  unfold State.ctxResume
  dsimp only
  refine foldl_memWf _ (fun t1 a2 ht1 => ?_) _ _ (setCtx_memWf h _ _)
  exact modTeam_memWf ht1 _ _

theorem ctxKill_memWf {s : State} (h : s.memWf) (x : Nat) : (s.ctxKill x).memWf := by
  unfold State.ctxKill
  dsimp only
  unfold State.memWf
  dsimp only
  change State.memWf _
  refine foldl_memWf _ (fun t1 a2 ht1 => ?_) _ _ (setCtx_memWf h _ _)
  exact endTeam_memWf ht1 _ _

theorem ctxCommand_memWf {s : State} (h : s.memWf) (x cmd : Nat) : (s.ctxCommand x cmd).memWf := by
  unfold State.ctxCommand
  dsimp only
  split
  · exact h
  · split
    · exact cmdErr_memWf h
    · split
      · exact ctxCreate_memWf h _
      · exact setCtx_memWf h _ _
      · exact ctxSuspend_memWf h _
      · exact ctxSuspend_memWf h _
      · exact ctxResume_memWf h _
      · exact ctxResume_memWf h _
      · exact ctxKill_memWf h _
      · exact ctxKill_memWf h _
      · exact ctxKill_memWf h _
      · exact ctxKill_memWf h _
      · exact ctxKill_memWf h _
      · exact setCtx_memWf h _ _
      · exact cmdErr_memWf h

theorem releasePins_memWf {s : State} (h : s.memWf) (f : TlbEntry → Bool) : (s.releasePins f).memWf := by
  unfold State.releasePins
  dsimp only
  unfold State.memWf
  dsimp only
  change State.memWf _
  refine foldl_memWf _ (fun t1 a1 ht1 => ?_) _ _ h
  exact ite_memWf ht1 (modCore_memWf (cleanColumn_memWf _ _ ht1) _ _)

theorem ctxDestroyed_memWf {s : State} (h : s.memWf) (x : Nat) : (s.ctxDestroyed x).memWf := by
  unfold State.ctxDestroyed
  exact ite_memWf (releasePins_memWf (setCtx_memWf h _ _) _) h

/-! ### Watch and halts -/

theorem setWatch_memWf {s : State} (h : s.memWf) (ck : Nat) (w : Watch) : (s.setWatch ck w).memWf := by
  unfold State.setWatch
  exact modCore_memWf h _ _

theorem wsetRes_memWf {s : State} (h : s.memWf) (f : FmtX) (e : Env) : (wsetRes f e s).memWf := by
  unfold wsetRes
  dsimp only
  split
  · exact h
  · split
    · exact h
    · split
      · exact h
      · split
        · exact h
        · split
          · exact h
          · split
            · exact h
            · split
              · exact h
              · split
                · exact h
                · exact setWatch_memWf h _ _

theorem clearWatch_memWf {s : State} (h : s.memWf) (ck n : Nat) : (s.clearWatch ck n).memWf := by
  unfold State.clearWatch
  exact modCore_memWf h _ _

theorem wclrRes_memWf {s : State} (h : s.memWf) (f : FmtX) (e : Env) : (wclrRes f e s).memWf := by
  unfold wclrRes
  dsimp only
  split
  · exact h
  · split
    · dsimp only [Res.memWf]
      refine foldl_memWf _ (fun t1 a1 ht1 => ?_) _ _ h
      exact clearWatch_memWf ht1 _ _
    · split
      · exact h
      · exact clearWatch_memWf h _ _

theorem hlistRes_memWf {s : State} (h : s.memWf) (f : FmtX) (e : Env) : (hlistRes f e s).memWf := by
  unfold hlistRes
  dsimp only
  split
  · split
    · exact h
    · exact h
  · split
    · exact h
    · exact h

theorem hinsLane_memWf {s : State} (h : s.memWf) (f : FmtX) (e : Env) (l : Nat) : (hinsLane f e s l).2.memWf := by
  unfold hinsLane
  split
  · exact h
  · split
    · exact h
    · exact h
    · exact h

theorem hinsRes_memWf {s : State} (h : s.memWf) (f : FmtX) (e : Env) : (hinsRes f e s).memWf := by
  unfold hinsRes
  dsimp only
  split
  · exact h
  · exact res_memWf (seqLanes_memWf h (fun t1 n1 ht1 => hinsLane_memWf ht1 _ _ _) _) _ _

theorem hputLane_memWf {s : State} (h : s.memWf) (f : FmtX) (e : Env) (l : Nat) : (hputLane f e s l).2.memWf := by
  unfold hputLane
  split
  · exact h
  · split
    · exact h
    · exact h
    · exact setGroup_memWf h _ _

theorem hputRes_memWf {s : State} (h : s.memWf) (f : FmtX) (e : Env) : (hputRes f e s).memWf := by
  unfold hputRes
  dsimp only
  split
  · exact h
  · exact res_memWf (seqLanes_memWf h (fun t1 n1 ht1 => hputLane_memWf ht1 _ _ _) _) _ _

theorem stepIg_memWf {s : State} (h : s.memWf) (by_ gk : Nat) (ig : IssueGroup) : (s.stepIg by_ gk ig).memWf := by
  unfold State.stepIg
  dsimp only
  unfold State.memWf
  dsimp only
  change State.memWf _
  exact setIg_memWf (modGroup_memWf (selectGroup_memWf h _) _ _) _ _

theorem stepAt_memWf {s : State} (h : s.memWf) (by_ gk : Nat) (g : Group) (t : Team) (l : Nat) (ig : IssueGroup) :
    (s.stepAt by_ gk g t l ig).memWf := by
  unfold State.stepAt
  dsimp only
  split
  · exact ite_memWf (ite_memWf (stepIg_memWf h _ _ _) (stepStatus_memWf h _ _ _ _)) (stepIg_memWf h _ _ _)
  · exact stepIg_memWf h _ _ _

theorem startStep_memWf {s : State} (h : s.memWf) (by_ gk l : Nat) : (s.startStep by_ gk l).memWf := by
  unfold State.startStep
  dsimp only
  split
  · exact stepStatus_memWf h _ _ _ _
  · split
    · exact stepStatus_memWf h _ _ _ _
    · split
      · exact stepStatus_memWf (deliverPending_memWf h _ _) _ _ _ _
      · split
        · exact h
        · split
          · exact stepStatus_memWf h _ _ _ _
          · split
            · exact stepAt_memWf (setGroup_memWf h _ _) _ _ _ _ _ _
            · split
              · rename_i t1 he4
                have ht1 : t1.memWf := memWf_snd he4 (reachCheck_memWf (setGroup_memWf h _ _) _ _ _ _)
                exact stepStatus_memWf (takeTraps_memWf ht1 _ _ _) _ _ _ _
              · rename_i t1 he4
                have ht1 : t1.memWf := memWf_snd he4 (reachCheck_memWf (setGroup_memWf h _ _) _ _ _ _)
                exact stepStatus_memWf ht1 _ _ _ _
              · rename_i t1 he4
                have ht1 : t1.memWf := memWf_snd he4 (reachCheck_memWf (setGroup_memWf h _ _) _ _ _ _)
                exact stepStatus_memWf ht1 _ _ _ _
              · rename_i t1 he4
                have ht1 : t1.memWf := memWf_snd he4 (reachCheck_memWf (setGroup_memWf h _ _) _ _ _ _)
                exact ite_memWf (stepStatus_memWf ht1 _ _ _ _) (stepAt_memWf ht1 _ _ _ _ _ _)

theorem startSteps_memWf {s : State} (h : s.memWf) (by_ : Nat) : (s.startSteps by_).memWf := by
  unfold State.startSteps
  split
  · exact h
  · refine foldl_memWf _ (fun t1 a1 ht1 => ?_) _ _ h
    split
    · exact ite_memWf (startStep_memWf ht1 _ _ _) ht1
    · exact ht1

theorem hstepRes_memWf {s : State} (h : s.memWf) (f : FmtX) (e : Env) : (hstepRes f e s).memWf := by
  unfold hstepRes
  dsimp only
  split
  · exact h
  · split
    · exact h
    · split
      · exact h
      · split
        · exact h
        · exact setIg_memWf h _ _

theorem resumeLanes_memWf {s : State} (h : s.memWf) (gk : Nat) (m : Mask) : (s.resumeLanes gk m).memWf := by
  unfold State.resumeLanes
  exact settle_memWf (deliverPending_memWf (modGroup_memWf h _ _) _ _) _

theorem unstop_memWf {s : State} (h : s.memWf) (tid : Nat) : (s.unstop tid).memWf := by
  unfold State.unstop
  dsimp only
  split
  · exact h
  · split
    · exact releasePhases_memWf (modTeam_memWf h _ _) _ _
    · exact modTeam_memWf h _ _

theorem hresRes_memWf {s : State} (h : s.memWf) (f : FmtX) (e : Env) : (hresRes f e s).memWf := by
  unfold hresRes
  dsimp only
  split
  · exact h
  · split
    · exact h
    · split
      · exact h
      · refine unstop_memWf (s := match (f.fld 26 2).toNat with | 0 => _ | 1 => _ | _ => _) ?_ _
        split
        · exact resumeLanes_memWf h _ _
        · exact resumeLanes_memWf h _ _
        · exact foldl_memWf _ (fun _ _ ht => resumeLanes_memWf ht _ _) _ _ h

theorem watchLand_memWf {s : State} (h : s.memWf) (gk l : Nat) : (s.watchLand gk l).memWf := by
  unfold State.watchLand
  dsimp only
  split
  · exact h
  · split
    · split
      · exact setSkids_memWf (setGroup_memWf h _ _) _ _
      · exact haltScope_memWf (setSkids_memWf (setGroup_memWf h _ _) _ _) _ _ _ _
    · refine laneTrap_memWf ?_ _ _ _
      split
      · exact setSkids_memWf (setGroup_memWf h _ _) _ _
      · exact haltScope_memWf (setSkids_memWf (setGroup_memWf h _ _) _ _) _ _ _ _

/-! ### The trail -/

theorem trailRes_memWf {s : State} (h : s.memWf) (f : FmtX) (e : Env) : (trailRes f e s).memWf := by
  unfold trailRes
  dsimp only [Res.memWf]
  refine foldl_memWf _ (fun t1 a1 ht1 => ?_) _ _ h
  exact trailAt_memWf _ _ _ _ _ _ ht1

theorem stampWrite_memWf {s : State} (h : s.memWf) (e : Env) (a : Nat) (bs : List Byte) : (s.stampWrite e a bs).2.memWf := by
  unfold State.stampWrite
  split
  · exact h
  · split
    · exact h
    · split
      · rename_i he1
        exact memWf_snd he1 (lanePages_memWf h _ _ _ _)
      · rename_i t1 he1
        have ht1 : t1.memWf := memWf_snd he1 (lanePages_memWf h _ _ _ _)
        split
        · exact ht1
        · split
          · exact ht1
          · exact writeHome_wf _ _ (dropLine_memWf _ _ ht1)

theorem tmarkRes_memWf {s : State} (h : s.memWf) (f : FmtX) (e : Env) : (tmarkRes f e s).memWf := by
  unfold tmarkRes
  split
  · exact h
  · extract_lets stage tag slots a hits
    split
    · exact modTeam_memWf h _ _
    · split
      · exact h
      · split
        · exact h
        · next p _ =>
          have hw := stampWrite_memWf h e a (stampRecord s e p)
          split
          · next he => exact modTeam_memWf (recordHits_memWf (memWf_snd he hw) _ _) _ _
          · next he => exact memWf_snd he hw
          · next he => exact memWf_snd he hw
          · next he => exact memWf_snd he hw

end Sys2Proof.Machine
end

section
/-! PROOFS. The canonical form of memory (O47): host, culvert, boot and saves. -/

namespace Sys2Proof.Machine

/-! ### Host, culvert and display -/

theorem hostWrite_memWf {s : State} (h : s.memWf) (pa : Nat) (bs : List Byte) : (s.hostWrite pa bs).memWf := by
  unfold State.hostWrite
  refine foldl_memWf _ (fun t1 a1 ht1 => ?_) _ _ h
  exact writeHome_wf _ _ ht1

theorem hostRead_memWf {s : State} (h : s.memWf) (pa n : Nat) : (s.hostRead pa n).memWf := by
  unfold State.hostRead
  exact send_memWf h _

theorem hostAtomic_memWf {s : State} (h : s.memWf) (pa : Nat) (op : HostAtomic) (a b : Word) : (s.hostAtomic pa op a b).memWf := by
  unfold State.hostAtomic
  dsimp only
  split
  · exact send_memWf h _
  · refine send_memWf ?_ _
    split
    · exact writeHome_wf _ _ h
    · exact h

theorem inputLost_memWf {s : State} (h : s.memWf) : (s.inputLost).memWf := by
  unfold State.inputLost
  exact setRaw_memWf h _ _

theorem inputEnter_memWf {s : State} (h : s.memWf) (bs : List Byte) : (s.inputEnter bs).memWf := by
  unfold State.inputEnter
  split
  · exact inputLost_memWf h
  · extract_lets u v set w
    have hu : u.memWf := writeHome_wf _ _ h
    have hv : v.memWf := ite_memWf (inputLost_memWf hu) hu
    have hset : set.memWf := setRaw_memWf hv _ _
    have hw : w.memWf := hset
    exact trail_memWf hw _ _ _ _ _

theorem drainGo_memWf {s : State} (h : s.memWf) (held : List Nat) (qs : List HostReq) : (s.drainGo held qs).2.memWf := by
  induction qs generalizing s held with
  | nil => exact h
  | cons q r ih =>
    cases q with
    | write who ro pa bs =>
      unfold State.drainGo
      dsimp only
      split
      · exact ih h _
      · exact ih (hostWrite_memWf h _ _) _
    | input who bs =>
      unfold State.drainGo
      dsimp only
      split
      · exact ih h _
      · exact ih (inputEnter_memWf h _) _
    | read who pa n at_ =>
      unfold State.drainGo
      dsimp only
      split
      · exact ih h _
      · exact ih (hostRead_memWf h _ _) _
    | atomic who pa op a b at_ =>
      unfold State.drainGo
      dsimp only
      split
      · exact ih h _
      · exact ih (hostAtomic_memWf h _ _ _ _) _

theorem drainHost_memWf {s : State} (h : s.memWf) : (s.drainHost).memWf := by
  unfold State.drainHost
  exact drainGo_memWf h _ _

theorem hostRequest_memWf {s : State} (h : s.memWf) (q : HostReq) : (s.hostRequest q).memWf := by
  unfold State.hostRequest
  exact drainHost_memWf (by exact h)

theorem configAnswer_memWf {s : State} (h : s.memWf) (q : ConfigReq) : (s.configAnswer q).memWf := by
  unfold State.configAnswer
  split
  · exact send_memWf h _
  · split
    · exact send_memWf h _
    · exact send_memWf h _
    · exact send_memWf (by exact h) _
    · exact ite_memWf (send_memWf (by exact h) _) (send_memWf h _)

theorem configServe_memWf {s : State} (h : s.memWf) : (s.configServe).memWf := by
  unfold State.configServe
  split
  · exact h
  · exact configAnswer_memWf (by exact h) _

theorem linkRecord_memWf {s : State} (h : s.memWf) (d ev a : Nat) : (s.linkRecord d ev a).memWf := by
  unfold State.linkRecord
  exact report_memWf h _ _

theorem linkReport_memWf {s : State} (h : s.memWf) (d ev : Nat) : (s.linkReport d ev).memWf := by
  unfold State.linkReport
  exact linkRecord_memWf h _ _ _

theorem culvertGo_memWf {s : State} (h : s.memWf) (st : CulvertState) : (s.culvertGo st).memWf := by
  unfold State.culvertGo
  split
  · exact h
  · extract_lets back c u v
    have hv : v.memWf := report_memWf (s := u) h _ _
    split
    · exact drainHost_memWf (memWf_of_mem rfl hv)
    · exact hv

theorem loseXeye_memWf {s : State} (h : s.memWf) (d : Nat) (i : Insertion) : (s.loseXeye d i).memWf := by
  unfold State.loseXeye
  exact modBand_memWf h _ _ _

theorem culTrap_memWf {s : State} (h : s.memWf) (gk : Nat) (g : Group) (k : Nat) (ig : IssueGroup) : (s.culTrap gk g k ig).memWf := by
  unfold State.culTrap
  exact takeTrap_memWf (setGroup_memWf h _ _) _ _

theorem loseGroup_memWf {s : State} (h : s.memWf) (gk : Nat) : (s.loseGroup gk).memWf := by
  unfold State.loseGroup
  dsimp only
  split
  · exact h
  · split
    · exact h
    · split
      · exact h
      · exact setGroup_memWf (countLost_memWf (linkRecord_memWf h _ _ _) _) _ _

theorem loseSent_memWf {s : State} (h : s.memWf) : (s.loseSent).memWf := by
  unfold State.loseSent
  refine foldl_memWf _ (fun t1 a1 ht1 => ?_) _ _ h
  exact loseGroup_memWf ht1 _

theorem culvertResolve_memWf {s : State} (h : s.memWf) : (s.culvertResolve).memWf := by
  unfold State.culvertResolve
  dsimp only
  refine countLost_memWf (dropMonitors_memWf (drainHost_memWf ?_) _) _
  unfold State.memWf
  dsimp only
  change State.memWf _
  refine foldl_memWf _ (fun t1 a1 ht1 => ?_) _ _ h
  refine modDie_memWf ?_ _ _
  refine foldl_memWf _ (fun t2 a2 ht2 => ?_) _ _ ht1
  exact loseXeye_memWf ht2 _ _

theorem culvertTrain_memWf {s : State} (h : s.memWf) : (s.culvertTrain).memWf := by
  unfold State.culvertTrain
  exact ite_memWf h (culvertGo_memWf (by exact h) _)

theorem culvertReset_memWf {s : State} (h : s.memWf) : (s.culvertReset).memWf := by
  unfold State.culvertReset
  exact culvertResolve_memWf (culvertGo_memWf (loseSent_memWf h) _)

theorem trainingResult_memWf {s : State} (h : s.memWf) (o : TrainOutcome) : (s.trainingResult o).memWf := by
  unfold State.trainingResult
  dsimp only
  split
  · exact h
  · split
    · exact culvertGo_memWf h _
    · exact culvertGo_memWf h _
    · exact ite_memWf (culvertResolve_memWf (culvertGo_memWf (loseSent_memWf (by exact h)) _)) (by exact h)

theorem lossOfLock_memWf {s : State} (h : s.memWf) : (s.lossOfLock).memWf := by
  unfold State.lossOfLock
  exact ite_memWf (culvertGo_memWf h _) h

theorem culExpire_memWf {s : State} (h : s.memWf) (gk : Nat) : (s.culExpire gk).memWf := by
  unfold State.culExpire
  split
  · exact h
  · split
    · exact h
    · split
      · exact culTrap_memWf h _ _ _ _
      · split
        · exact trapAtPc_memWf h _ _ _ _ _ _ _
        · exact h

theorem inputCommit_memWf {s : State} (h : s.memWf) : (s.inputCommit).memWf := by
  unfold State.inputCommit
  exact hostRequest_memWf h _

theorem windowWrite_memWf {s : State} (h : s.memWf) (off : Nat) (bs : List Byte) : (s.windowWrite off bs).memWf := by
  unfold State.windowWrite
  exact ite_memWf (inputCommit_memWf (by exact h)) (by exact h)

theorem displayGo_memWf {s : State} (h : s.memWf) (d st : Nat) : (s.displayGo d st).memWf := by
  unfold State.displayGo
  exact ite_memWf h (linkReport_memWf (modDie_memWf h _ _) _ _)

theorem displayEvent_memWf {s : State} (h : s.memWf) (d : Nat) (f : Nat → Option Nat) : (s.displayEvent d f).memWf := by
  unfold State.displayEvent
  split
  · exact h
  · split
    · exact displayGo_memWf h _ _
    · exact h

theorem setEn_memWf {s : State} (h : s.memWf) (d : Nat) (v : Bool) : (s.setEn d v).memWf := by
  unfold State.setEn
  exact setRaw_memWf h _ _

theorem displayEnable_memWf {s : State} (h : s.memWf) (d : Nat) : (s.displayEnable d).memWf := by
  unfold State.displayEnable
  exact ite_memWf h (displayEvent_memWf (setEn_memWf h _ _) _ _)

theorem displayDisable_memWf {s : State} (h : s.memWf) (d : Nat) : (s.displayDisable d).memWf := by
  unfold State.displayDisable
  exact ite_memWf h (displayEvent_memWf (setEn_memWf h _ _) _ _)

theorem displayRetrain_memWf {s : State} (h : s.memWf) (d : Nat) : (s.displayRetrain d).memWf := by
  unfold State.displayRetrain
  exact displayEvent_memWf h _ _

theorem measExtend_memWf {s : State} (h : s.memWf) : (s.measExtend).memWf := by
  unfold State.measExtend
  exact extendMeas_memWf h _ _

theorem referee_memWf {s : State} (h : s.memWf) {f : State → State} (hf : ∀ (t : State), t.memWf → (f t).memWf) : (s.referee f).memWf := by
  unfold State.referee
  split
  · exact send_memWf h _
  · exact hf _ h

theorem kuide_memWf {s : State} (h : s.memWf) {f : State → State} (hf : ∀ (t : State), t.memWf → (f t).memWf) : (s.kuide f).memWf := by
  unfold State.kuide
  exact referee_memWf h (fun t1 ht1 => ite_memWf (send_memWf ht1 _) (hf _ ht1))

/-! ### Reset and boot -/

theorem extendBoot_memWf {s : State} (h : s.memWf) (i : Nat) : (s.extendBoot i).memWf := by
  unfold State.extendBoot
  exact extendMeas_memWf h _ _

theorem startPeriods_memWf {s : State} (h : s.memWf) : (s.startPeriods).memWf := by
  unfold State.startPeriods
  refine foldl_memWf _ (fun t1 a1 ht1 => ?_) _ _ h
  exact modDie_memWf ht1 _ _

theorem junctionTrip_memWf {s : State} (h : s.memWf) (d : Nat) : (s.junctionTrip d).memWf := by
  unfold State.junctionTrip
  exact ite_memWf h (trainingResult_memWf (lossOfLock_memWf (send_memWf (setRaw_memWf (modDie_memWf h _ _) _ _) _)) _)

theorem corrected_memWf {s : State} (h : s.memWf) (e : ErrPlace) : (s.corrected e).memWf := by
  unfold State.corrected
  exact ite_memWf (setRaw_memWf h _ _) (report_memWf (modDie_memWf (setRaw_memWf h _ _) _ _) _ _)

/-! ### Saves and restores -/

theorem haltForSave_memWf {s : State} (h : s.memWf) (tid : Nat) : (s.haltForSave tid).memWf := by
  unfold State.haltForSave
  dsimp only
  split
  · exact h
  · split
    · exact h
    · split
      · exact modTeam_memWf h _ _
      · refine modTeam_memWf ?_ _ _
        refine foldl_memWf _ (fun t1 a1 ht1 => ?_) _ _ h
        refine modGroup_memWf ?_ _ _
        refine foldl_memWf _ (fun t2 a2 ht2 => ?_) _ _ (parkIg_memWf ht1 _)
        exact watchLand_memWf ht2 _ _

theorem ctxFault_memWf {s : State} (h : s.memWf) (t : Team) (d c : Nat) (cause : Cause) : (s.ctxFault t d c cause).memWf := by
  unfold State.ctxFault
  exact report_memWf (ite_memWf (setCtx_memWf h _ _) h) _ _

theorem saveTo_memWf {s : State} (h : s.memWf) (tid : Nat) (t : Team) (reason : BitVec 8) (slot pa : Nat) (img : List Byte) :
    (s.saveTo tid t reason slot pa img).memWf := by
  unfold State.saveTo
  extract_lets gs x bad u v kept w y z
  have hu : u.memWf := writeHome_wf _ _ (release_memWf _ _ h)
  have hw : w.memWf := setTeam_memWf (s := v) hu _ _
  have hy : y.memWf := freeGroups_memWf (unlockAll_memWf hw _ _) _
  exact ctxSettle_memWf (setCtx_memWf (s := z) hy _ _) _

theorem saveFailed_memWf {s : State} (h : s.memWf) (tid : Nat) (t : Team) : (s.saveFailed tid t).memWf := by
  unfold State.saveFailed
  exact ctxFault_memWf (modTeam_memWf h _ _) _ _ _ _

theorem saveImage_memWf {s : State} (h : s.memWf) (tid : Nat) : (s.saveImage tid).memWf := by
  unfold State.saveImage
  dsimp only
  split
  · exact h
  · split
    · exact h
    · split
      · split
        · exact saveFailed_memWf h _ _
        · exact ite_memWf h (ite_memWf (saveFailed_memWf h _ _) (saveTo_memWf h _ _ _ _ _ _))
      · exact h

theorem restoreGroup_memWf {s : State} (h : s.memWf) (ck part tid : Nat) (g : Group) : (s.restoreGroup ck part tid g).memWf := by
  unfold State.restoreGroup
  dsimp only
  split
  · exact h
  · exact h

theorem lateAnswers_memWf {s : State} (h : s.memWf) (tid : Nat) (as : List (Nat × Nat)) : (s.lateAnswers tid as).memWf := by
  unfold State.lateAnswers
  refine foldl_memWf _ (fun t1 a1 ht1 => ?_) _ _ (modTeam_memWf h _ _)
  exact answerTeam_memWf ht1 _ _ _

theorem restoreAt_memWf {s : State} (h : s.memWf) (tid : Nat) (t : Team) (pa ck : Nat) (bases : List Nat) (a : Nat) (ws : List Window) :
    (s.restoreAt tid t pa ck bases a ws).memWf := by
  unfold State.restoreAt
  dsimp only
  refine lateAnswers_memWf (acquire_memWf _ _ (ctxStart_memWf ?_ _)) _ _
  split
  · refine thermalEvent_memWf (setCtx_memWf ?_ _ _) _ _
    refine foldl_memWf _ (fun t1 a1 ht1 => ?_) _ _ (setTeam_memWf (fresh_memWf (pick_memWf h _)) _ _)
    exact restoreGroup_memWf ht1 _ _ _ _
  · refine setCtx_memWf ?_ _ _
    refine foldl_memWf _ (fun t1 a1 ht1 => ?_) _ _ (setTeam_memWf (fresh_memWf (pick_memWf h _)) _ _)
    exact restoreGroup_memWf ht1 _ _ _ _

theorem teamRestore_memWf {s : State} (h : s.memWf) (tid d c : Nat) : (s.teamRestore tid d c).memWf := by
  unfold State.teamRestore
  split
  · exact h
  · split
    · exact h
    · split
      · exact h
      · split
        · exact h
        · split
          · exact ctxFault_memWf h _ _ _ _
          · split
            · exact restoreAt_memWf h _ _ _ _ _ _ _
            · exact h

theorem swapOut_memWf {s : State} (h : s.memWf) (tid : Nat) : (s.swapOut tid).memWf := by
  unfold State.swapOut
  exact ite_memWf (requestSave_memWf h _ _) h

end Sys2Proof.Machine
end

section
/-! PROOFS. The canonical form of memory (O47): columns, registers and rays. -/

namespace Sys2Proof.Machine

/-! ### Columns, power and clocks -/

theorem migrate_memWf {s : State} (h : s.memWf) (ck : Nat) : (s.migrate ck).memWf := by
  unfold State.migrate
  dsimp only
  split
  · exact h
  · split
    · exact thermalEvent_memWf h _ _
    · exact modTeam_memWf (requestSave_memWf h _ _) _ _

theorem testLimits_memWf {s : State} (h : s.memWf) (ck : Nat) : (s.testLimits ck).memWf := by
  unfold State.testLimits
  dsimp only
  split
  · refine migrate_memWf ?_ _
    refine foldl_memWf _ (fun t1 a1 ht1 => ?_) _ _ (setColumn_memWf h _ _)
    exact thermalEvent_memWf ht1 _ _
  · refine foldl_memWf _ (fun t1 a1 ht1 => ?_) _ _ (setColumn_memWf h _ _)
    exact thermalEvent_memWf ht1 _ _

theorem sensorSample_memWf {s : State} (h : s.memWf) (ck u l : Nat) : (s.sensorSample ck u l).memWf := by
  unfold State.sensorSample
  dsimp only
  refine testLimits_memWf ?_ _
  refine foldl_memWf _ (fun t1 a1 ht1 => ?_) _ _ (setColumn_memWf h _ _)
  exact thermalEvent_memWf ht1 _ _

theorem sensorRearm_memWf {s : State} (h : s.memWf) (ck : Nat) : (s.sensorRearm ck).memWf := by
  unfold State.sensorRearm
  dsimp only
  refine foldl_memWf _ (fun t1 a1 ht1 => ?_) _ _ (setColumn_memWf h _ _)
  exact thermalEvent_memWf ht1 _ _

theorem droopRise_memWf {s : State} (h : s.memWf) (k : Nat) : (s.droopRise k).memWf := by
  unfold State.droopRise
  dsimp only
  split
  · exact h
  · split
    · exact setCluster_memWf h _ _
    · exact setRaw_memWf (setCluster_memWf h _ _) _ _

theorem stretchEnd_memWf {s : State} (h : s.memWf) (k : Nat) : (s.stretchEnd k).memWf := by
  unfold State.stretchEnd
  dsimp only
  split
  · exact ite_memWf h (trail_memWf (setCluster_memWf h _ _) _ _ _ _ _)
  · exact h

theorem powerUpdate_memWf {s : State} (h : s.memWf) (ck mw est : Nat) : (s.powerUpdate ck mw est).memWf := by
  unfold State.powerUpdate
  exact modDie_memWf (modCluster_memWf (setColumn_memWf h _ _) _ _) _ _

theorem capStep_memWf {s : State} (h : s.memWf) (d : Nat) : (s.capStep d).memWf := by
  unfold State.capStep
  dsimp only
  split
  · exact modDie_memWf h _ _
  · split
    · exact h
    · exact modCluster_memWf h _ _

theorem clockStep_memWf {s : State} (h : s.memWf) (d : Nat) (x : Die) : (s.clockStep d x).memWf := by
  unfold State.clockStep
  exact modDie_memWf h _ _

theorem biasStep_memWf {s : State} (h : s.memWf) {d : Nat} {t : State} (ht : s.biasStep d = some t) : t.memWf := by
  unfold State.biasStep at ht
  split at ht
  · cases ht
  · cases ht
    exact modCluster_memWf h _ _

theorem capInterval_memWf {s : State} (h : s.memWf) (d : Nat) : (s.capInterval d).memWf := by
  unfold State.capInterval
  extract_lets x cap vs tooHigh u
  have hu : u.memWf := modDie_memWf h _ _
  refine ite_memWf hu (ite_memWf (capStep_memWf hu _) (ite_memWf (ite_memWf (clockStep_memWf hu _ _) hu) ?_))
  split
  · next he => exact biasStep_memWf hu he
  · exact clockStep_memWf hu _ _

theorem clockSettings_memWf {s : State} (h : s.memWf) (d : Nat) (raise : Nat → Nat) : (s.clockSettings d raise).memWf := by
  unfold State.clockSettings
  dsimp only
  split
  · exact h
  · refine foldl_memWf _ (fun t1 a1 ht1 => ?_) _ _ (modDie_memWf h _ _)
    exact modCluster_memWf ht1 _ _

/-! ### Completion -/

theorem completeOp_memWf {s : State} (h : s.memWf) (gk : Nat) (o : PendOp) (ws : List (Nat × Mask × Lanes W32)) :
    (s.completeOp gk o ws).memWf := by
  unfold State.completeOp
  exact modGroup_memWf (unmarkRegs_memWf (elim_memWf h (fun x1 => recordHits_memWf h _ _) _) _ _ _) _ _

theorem readLanes_memWf {α : Type} {s : State} (h : s.memWf) {now : State → α → List Byte × State} (hnow : ∀ (t : State) (b1 : α), t.memWf →
    (now t b1).2.memWf) (reads : List (Nat × α)) :
    (readLanes s reads now).2.memWf := by
  unfold readLanes
  dsimp only
  refine foldl_keeps (P := fun p : Lanes (List Byte) × State => p.2.memWf) (fun p1 a1 (hp1 : p1.2.memWf) => ?_) h _
  exact hnow _ _ hp1

theorem sluiceDone_memWf {s : State} (h : s.memWf) (gk : Nat) (g : Group) (o : PendOp) (q : Nat) : (s.sluiceDone gk g o q).memWf := by
  unfold State.sluiceDone
  dsimp only
  split
  · exact modGroup_memWf (completeOp_memWf h _ _ _) _ _
  · exact laneTrap_memWf (modGroup_memWf (completeOp_memWf h _ _ _) _ _) _ _ _
  · exact modGroup_memWf (completeOp_memWf h _ _ _) _ _

theorem longComplete_memWf {s : State} (h : s.memWf) (d c slot op : Nat) : (s.longComplete d c slot op).memWf := by
  unfold State.longComplete
  dsimp only
  split
  · exact h
  · split
    · exact h
    · split
      · split
        · exact h
        · split
          · exact completeOp_memWf h _ _ _
          · exact completeOp_memWf h _ _ _
          · exact sluiceDone_memWf h _ _ _ _
          · exact completeOp_memWf (readLanes_memWf h (fun t1 x7 ht1 => sldNow_memWf ht1 _ _ _ _) _) _ _ _
          · exact completeOp_memWf (readLanes_memWf h (fun t1 n3 ht1 => sbktNow_memWf ht1 _ _ _) _) _ _ _
      · exact h

/-! ### Conversions -/

theorem scaleWordRes_memWf {s : State} (h : s.memWf) (f : FmtR) (inv : Bool) (e : Env) : (scaleWordRes f inv e s).memWf := by
  unfold scaleWordRes
  split
  · exact h
  · exact h

/-! ### Registers of the host -/

theorem tlbiGo_memWf {s : State} (h : s.memWf) (ctl : Word) : (s.tlbiGo ctl).memWf := by
  unfold State.tlbiGo
  exact ite_memWf h (ite_memWf (setRaw_memWf h _ _) (by exact h))

theorem tlbiComplete_memWf {s : State} (h : s.memWf) : (s.tlbiComplete).memWf := by
  unfold State.tlbiComplete
  dsimp only
  split
  · exact h
  · exact ite_memWf h (evictMonitors_memWf (releasePins_memWf (by exact h) _) _)

theorem tmodeWrite_memWf {s : State} (h : s.memWf) (v : Word) : (s.tmodeWrite v).memWf := by
  unfold State.tmodeWrite
  dsimp only
  split
  · exact h
  · exact h

theorem sceneEpochWrite_memWf {s : State} (h : s.memWf) (v : Word) : (s.sceneEpochWrite v).memWf := by
  unfold State.sceneEpochWrite
  exact ite_memWf (by exact h) (epochWrite_memWf h _)

theorem setWatchReg_memWf {s : State} (h : s.memWf) (ck n : Nat) (v : Word) : (s.setWatchReg ck n v).memWf := by
  unfold State.setWatchReg
  exact modCore_memWf h _ _

theorem trimPins_memWf {s : State} (h : s.memWf) (slice : Nat) : (s.trimPins slice).memWf := by
  unfold State.trimPins
  exact h

theorem regWrite_memWf {s : State} (h : s.memWf) (n : Nat) (v m rw w1c wo : Word) : (s.regWrite n v m rw w1c wo).memWf := by
  unfold State.regWrite
  extract_lets old new act on t raise dc u clr c dd w x
  have hset : (s.setRaw n new).memWf := setRaw_memWf h _ _
  refine ite_memWf ?_ (ite_memWf (ctxCommand_memWf hset _ _) (ite_memWf (trimPins_memWf hset _) (ite_memWf (ite_memWf (tlbiGo_memWf hset _) hset)
    (ite_memWf (fltResume_memWf h _ _ _) (ite_memWf (ite_memWf (reclaim_memWf h _) h) (ite_memWf (ite_memWf (sensorRearm_memWf h _) h)
    (ite_memWf (clockSettings_memWf hset _ _) (ite_memWf (ite_memWf (tmodeWrite_memWf h _) h) (ite_memWf (sceneEpochWrite_memWf h _)
    (ite_memWf ?_ (ite_memWf h (ite_memWf ?_ (ite_memWf (setRaw_memWf h _ _) (ite_memWf (ite_memWf (measExtend_memWf h) h)
    (ite_memWf (ite_memWf h (deviceReset_memWf (flip_memWf (flip_memWf h)) _ _)) ?_)))))))))))))))
  · split
    · exact hset
    · exact hset
    · exact cmdErr_memWf h
  · have hu : u.memWf := ite_memWf (culvertReset_memWf hset) hset
    exact ite_memWf (culvertTrain_memWf hu) hu
  · have hw : w.memWf := ite_memWf (displayEnable_memWf hset _) hset
    have hx : x.memWf := ite_memWf (displayRetrain_memWf hw _) hw
    exact ite_memWf (displayDisable_memWf hx _) hx
  · split
    · exact h
    · exact ite_memWf h hset

theorem hostReg_memWf {s : State} (h : s.memWf) (n : Nat) (v m : Word) : (s.hostReg n v m).memWf := by
  unfold State.hostReg
  dsimp only
  split
  · exact h
  · exact ite_memWf (ite_memWf h (setWatchReg_memWf h _ _ _)) (regWrite_memWf h _ _ _ _ _ _)

theorem msix_memWf {s : State} (h : s.memWf) (x : SMap Word) : ({ s with msix := x } : State).memWf := h

theorem bar0Write_memWf {s : State} (h : s.memWf) (off size : Nat) (v : Word) : (s.bar0Write off size v).memWf := by
  unfold State.bar0Write
  split
  · exact send_memWf h _
  · split
    · exact ite_memWf (send_memWf h _) h
    · extract_lets m
      exact ite_memWf (hostReg_memWf h _ _ _) (ite_memWf (msix_memWf h _) (ite_memWf (windowWrite_memWf h _ _) h))

theorem bar0Serve_memWf {s : State} (h : s.memWf) : (s.bar0Serve).memWf := by
  unfold State.bar0Serve
  split
  · exact h
  · exact send_memWf (by exact h) _

theorem hostWhole_memWf {s : State} (h : s.memWf) (n : Nat) (v : Word) : (s.hostWhole n v).memWf := by
  unfold State.hostWhole
  exact ite_memWf (hostReg_memWf h _ _ _) (ite_memWf (send_memWf h _) h)

/-! ### Rays and probes -/

theorem rayRes_memWf {s : State} (h : s.memWf) (n align k : Nat) (d : BitVec 8) (p : BitVec 3) (rayOk : Nat → Bool)
    (eval : Nat → List Byte → Except Cause (List Nat × Bool)) (e : Env) :
    (rayRes n align k d p rayOk eval e s).memWf := by
  unfold rayRes
  dsimp only
  refine res_memWf (perLane_memWf (ite_memWf (recordHits_memWf h _ _) h) (fun t1 n1 ht1 => ?_) _) _ _
  split
  · exact ht1
  · split
    · exact ht1
    · split
      · exact ht1
      · split
        · rename_i t2 he1
          have ht2 : t2.memWf := memWf_snd he1 (loadLane_memWf ht1 _ _ _ _ _)
          split
          · exact ht2
          · exact ht2
        · rename_i he1
          exact memWf_snd he1 (loadLane_memWf ht1 _ _ _ _ _)

/-! ### System registers from a thread -/

theorem sysWrite_memWf {s : State} (h : s.memWf) (e : Env) (privileged : Bool) (n : Nat) (v : Word) :
    (s.sysWrite e privileged n v).memWf := by
  unfold State.sysWrite
  dsimp only
  split
  · exact modGroup_memWf h _ _
  · split
    · exact modGroup_memWf h _ _
    · split
      · exact h
      · exact ite_memWf (setWatchReg_memWf h _ _ _) (regWrite_memWf h _ _ _ _ _ _)

theorem sysrdRes_memWf {s : State} (h : s.memWf) (f : FmtX) (e : Env) : (sysrdRes f e s).memWf := by
  unfold sysrdRes
  split
  · exact h
  · split
    · exact h
    · split
      · exact h
      · exact h

theorem syswrRes_memWf {s : State} (h : s.memWf) (f : FmtX) (e : Env) : (syswrRes f e s).memWf := by
  unfold syswrRes
  dsimp only
  split
  · exact h
  · split
    · exact h
    · split
      · exact h
      · exact sysWrite_memWf h _ _ _ _

end Sys2Proof.Machine
end

section
/-! PROOFS. Every step keeps memory in canonical form (O47): each instruction and event, the turns of the machine, and the step. -/

namespace Sys2Proof.Machine

/-! ### Words and events of more than one outcome -/

theorem execBkpt_memWf {s : State} (h : s.memWf) (g : Guard) (f : FmtX) : (execBkpt g f s).memWf := by
  refine runWord_memWf (fun e t ht => ?_) h
  extract_lets act code
  split
  · exact move_memWf ht _ _ _
  · split
    · exact move_memWf ht _ _ _
    · exact ⟨ht, fun _ hu => haltScope_memWf hu _ _ _ _⟩

theorem execV2sUni_memWf {s : State} (h : s.memWf) (g : Guard) (f : FmtR) : (execV2sUni g f s).memWf := by
  refine runWord_memWf (fun e t ht => scalarRes_memWf ht ?_ _) h
  split
  · exact done_memWf ht _
  · exact stop_memWf ht _ _ _

theorem execSbra_memWf {s : State} (h : s.memWf) (g : Guard) (f : FmtB) : (execSbra g f s).memWf := by
  refine runWord_memWf (fun e t ht => ?_) h
  extract_lets go
  have hgo : go.memWf := branch_memWf ht _ _ _ _
  split
  · exact hgo
  · exact scalarRes_memWf ht hgo _

theorem execHstep_memWf {s : State} (h : s.memWf) (g : Guard) (f : FmtX) : (execHstep g f s).memWf := by
  unfold execHstep
  split
  · trivial
  · exact startSteps_memWf (issueWord_memWf h (fun _ _ ht => hstepRes_memWf ht _ _) _ _ _) _

theorem execCulvertWaitExpiry_memWf {s : State} (h : s.memWf) (d c slot : Nat) : (execCulvertWaitExpiry d c slot s).memWf := by
  refine next_memWf (ite_memWf ?_ (culExpire_memWf h _))
  split
  · exact send_memWf (by exact h) _
  · exact h

theorem tbNext_memWf {s : State} (h : s.memWf) (n : Nat) : ({ s with tbNext := n } : State).memWf := h

theorem slew_memWf {s : State} (h : s.memWf) (x : Option (Bool × Nat)) : ({ s with slew := x } : State).memWf := h

theorem execTimeBaseCompare_memWf {s : State} (h : s.memWf) : (execTimeBaseCompare s).memWf := by
  unfold execTimeBaseCompare
  refine next_memWf (ite_memWf h ?_)
  extract_lets u l r same v
  have hu : u.memWf := tbNext_memWf h _
  have hv : v.memWf := setRaw_memWf hu _ _
  exact ite_memWf hv (slew_memWf hv _)

theorem execBar2Read_memWf {s : State} (h : s.memWf) (off n : Nat) : (execBar2Read off n s).memWf := by
  unfold execBar2Read
  split
  · exact send_memWf h _
  · exact hostRequest_memWf h _

theorem execBar2Write_memWf {s : State} (h : s.memWf) (off : Nat) (bs : List Byte) : (execBar2Write off bs s).memWf := by
  unfold execBar2Write
  split
  · exact send_memWf h _
  · exact hostRequest_memWf h _

theorem execBar2Atomicop_memWf {s : State} (h : s.memWf) (off : Nat) (op : HostAtomic) (a b : Word) : (execBar2Atomicop off op a b s).memWf := by
  unfold execBar2Atomicop
  split
  · exact send_memWf h _
  · exact ite_memWf (send_memWf h _) (hostRequest_memWf h _)

theorem execQuoteResponse_memWf {s : State} (h : s.memWf) : (execQuoteResponse s).memWf := by
  unfold execQuoteResponse
  split
  · exact ite_memWf h (send_memWf (by exact h) _)
  · exact h

theorem sorted_filter {α : Type} {m : SMap α} (h : SMap.sorted m = true) (f : Nat × α → Bool) : SMap.sorted (m.filter f) = true := by
  induction m with
  | nil => rfl
  | cons p r ih =>
    obtain ⟨habove, hr⟩ := SMap.sorted_cons.mp h
    rw [List.filter_cons]
    split
    · exact SMap.sorted_cons.mpr ⟨fun q hq => habove q (List.mem_filter.mp hq).1, ih hr⟩
    · exact ih hr

/-- Cells of a memory in canonical form are one in canonical form. -/
theorem Memory.filter_wf {m : List Host.Cell} (h : Memory.wf m) (f : Host.Cell → Bool) : Memory.wf (m.filter f) := by
  obtain ⟨hsorted, hall⟩ := Bool.and_eq_true_iff.mp h
  refine Bool.and_eq_true_iff.mpr ⟨sorted_filter hsorted f, List.all_eq_true.mpr fun p hp => ?_⟩
  exact List.all_eq_true.mp hall p (List.mem_filter.mp hp).1

theorem execPowerOn_memWf {s : State} (h : s.memWf) (hot0 hot1 : Bool) : (execPowerOn hot0 hot1 s).memWf :=
  next_memWf (deviceReset_memWf (s := { s with mem := s.mem.filter fun c => isHost c.1, marks := [], moved := [], awake := false })
    (Memory.filter_wf h _) _ _)

/-! ### Every instruction and event -/

/-- What an instruction or an event leaves has its memory in canonical form, in the order of `exec`. -/
theorem exec_memWf (i : Instr) {s : State} (h : s.memWf) : Out.memWf (exec i s) := by
  cases i with
  | nop | iadd | iaddi | isub | iaddc | imul | imuli | imulh | imad | imin | imax | iabs | isad | shl | shr | sar | shf | bitf | bitfi
  | popc | clz | brev | bfe | bfi | bswz | icmp | icmpi | sel | mov | movi | lea | plop | pmovGet | pmovSet | fadd | fmul | ffma | fmin
  | fmax | fcmp | fclamp | frnd | faddi | fmuli | padd2 | pmul2 | pfma2 | pmnx2 | pcmp2 | bfma2 | cvt | f2i | i2f | ncvtPack | ncvtUnpack
  | qcvtPack | qcvtUnpack | scaleExp | rcp | rsq | sqrt | lg2 | ex2 | sin | cos | tanh | shfl | poll | lead | ifold | ffold | peers
  | qbcast | prefixOp | spark | rmask | heat | stamp | perfc => exact runAlu_memWf h
  | bra | brx | call | callIndirect | ret => exact runWord_memWf (fun _ _ ht => branch_memWf ht _ _ _ _) h
  | exit | conv | trap => exact runWord_memWf (fun _ _ ht => move_memWf ht _ _ _) h
  | yield => exact runWord_memWf (fun _ _ ht => move_memWf (ite_memWf ht (modGroup_memWf ht _ _)) _ _ _) h
  | bkpt => exact execBkpt_memWf h _ _
  | tret => exact runWord_memWf (fun _ _ ht => tret_memWf ht _ _ _) h
  | scaleWord | scaleWordinv => exact runWord_memWf (fun _ _ ht => scaleWordRes_memWf ht _ _ _) h
  | smov | smovImm | smovIns | salu | v2sFirst | v2sLane | slea => exact runWord_memWf (fun _ _ ht => scalarWrite_memWf ht _ _ _) h
  | scmp => exact runWord_memWf (fun _ _ ht => scalarRes_memWf ht (done_memWf ht _) _) h
  | v2sUni => exact execV2sUni_memWf h _ _
  | sload => exact runWord_memWf (fun _ _ ht => scalarRes_memWf ht (sloadRes_memWf ht _ _) _) h
  | sbra => exact execSbra_memWf h _ _
  | ld => exact runWord_memWf (fun _ _ ht => ldRes_memWf ht _ _) h
  | st => exact runWord_memWf (fun _ _ ht => stRes_memWf ht _ _) h
  | lds => exact runWord_memWf (fun _ _ ht => ldsRes_memWf ht _ _) h
  | sts => exact runWord_memWf (fun _ _ ht => stsRes_memWf ht _ _) h
  | ldc => exact runWord_memWf (fun _ _ ht => ldcRes_memWf ht _ _) h
  | ldb => exact runWord_memWf (fun _ _ ht => ldbRes_memWf ht _ _) h
  | stb => exact runWord_memWf (fun _ _ ht => stbRes_memWf ht _ _) h
  | ldl => exact runWord_memWf (fun _ _ ht => ldlRes_memWf ht _ _) h
  | stl => exact runWord_memWf (fun _ _ ht => stlRes_memWf ht _ _) h
  | pref => exact runWord_memWf (fun _ _ ht => done_memWf ht _) h
  | fence => exact runWord_memWf (fun _ _ ht => cleanRes_memWf ht (fun _ hu => fence_memWf hu _ _ _) _ _) h
  | cinv => exact runWord_memWf (fun _ _ ht => cleanRes_memWf ht (fun _ hu => cinv_memWf _ hu) _ _) h
  | ccln => exact runWord_memWf (fun _ _ ht => cleanRes_memWf ht (fun _ hu => ccln_memWf _ hu) _ _) h
  | atom | atomc | atomf | red => exact runWord_memWf (fun _ _ ht => atomRes_memWf ht _ _ _) h
  | atoms => exact runWord_memWf (fun _ _ ht => atomsRes_memWf ht _ _) h
  | waitc => exact runWord_memWf (fun _ _ ht => waitcRes_memWf ht _ _) h
  | mma | mmas => exact runMtx_memWf (fun _ _ _ ht => mmaQuarter_memWf ht _ _ _ _) h
  | zclr => exact runMtx_memWf (fun _ _ _ ht => zclrQuarter_memWf ht _ _ _) h
  | zrd => exact execZrd_memWf h _ _
  | zst => exact runMtx_memWf (fun _ _ _ ht => zstQuarter_memWf ht _ _ _) h
  | zld => exact runMtx_memWf (fun _ _ _ ht => zldQuarter_memWf ht _ _ _) h
  | tld => exact execTld_memWf h _ _
  | tst => exact runMtx_memWf (fun _ _ _ ht => tstQuarter_memWf ht _ _ _) h
  | cpy | cpyo | cpys | cpyg => exact runWord_memWf (fun _ _ ht => copyRes_memWf ht _ _ _) h
  | fesetFull | fesetEmpty => exact runWord_memWf (fun _ _ ht => fesetRes_memWf ht _ _ _) h
  | feqry => exact runWord_memWf (fun _ _ ht => feqryRes_memWf ht _ _) h
  | evpop => exact runWord_memWf (fun _ _ ht => evpopRes_memWf ht _ _) h
  | evpush => exact runWord_memWf (fun _ _ ht => evpushRes_memWf ht _ _) h
  | barInit => exact runWord_memWf (fun _ _ ht => barInitRes_memWf ht _ _) h
  | barArv | barDrop => exact runWord_memWf (fun _ _ ht => barArvRes_memWf ht _ _ _) h
  | barWait | barWpar => exact runWord_memWf (fun _ _ ht => barWaitRes_memWf ht _ _ _) h
  | barSync => exact runWord_memWf (fun _ _ ht => barSyncRes_memWf ht _ _) h
  | barQ => exact runWord_memWf (fun _ _ ht => barQRes_memWf ht _ _) h
  | nprb => exact runWord_memWf (fun _ _ ht => nprbRes_memWf ht _) h
  | npre => exact runWord_memWf (fun _ _ ht => done_memWf (ite_memWf ht (modGroup_memWf ht _ _)) _) h
  | nprOverrun => exact next_memWf (nprOverrun_memWf h _ _ _)
  | trd => exact runWord_memWf (fun _ _ ht => trdRes_memWf ht _ _) h
  | twr => exact runWord_memWf (fun _ _ ht => twrRes_memWf ht _ _) h
  | tatm => exact runWord_memWf (fun _ _ ht => tatmRes_memWf ht _ _) h
  | enq => exact runWord_memWf (fun _ _ ht => enqRes_memWf ht _ _) h
  | launch => exact runWord_memWf (fun _ _ ht => launchRes_memWf ht _ _) h
  | depdec => exact runWord_memWf (fun _ _ ht => depdecRes_memWf ht _ _) h
  | grow => exact runWord_memWf (fun _ _ ht => growRes_memWf ht _ _) h
  | shrink => exact runWord_memWf (fun _ _ ht => shrinkRes_memWf ht _ _) h
  | qpop => exact runWord_memWf (fun _ _ ht => qpopRes_memWf ht _ _) h
  | qrel => exact runWord_memWf (fun _ _ ht => qrelRes_memWf ht _ _) h
  | srec => exact runWord_memWf (fun _ _ ht => srecRes_memWf ht _) h
  | sld => exact runWord_memWf (fun _ _ ht => sldRes_memWf ht _ _) h
  | sldSp => exact runWord_memWf (fun _ _ ht => sldSpRes_memWf ht _ _) h
  | sbktQ => exact runWord_memWf (fun _ _ ht => sbktqRes_memWf ht _ _) h
  | sbktLock => exact runWord_memWf (fun _ _ ht => sbktLockRes_memWf ht _ _) h
  | sbktUnlock => exact runWord_memWf (fun _ _ ht => sbktUnlockRes_memWf ht _) h
  | sevtLimit | sevtAge | sevtDrop => exact runWord_memWf (fun _ _ ht => sevtRes_memWf ht _ _ _) h
  | prio | emap => exact runWord_memWf (fun _ _ ht => mapRes_memWf ht _ _ _) h
  | prioW => exact runWord_memWf (fun _ _ ht => prioWRes_memWf ht _) h
  | rbox | rtri | probe => exact runWord_memWf (fun _ _ ht => rayRes_memWf ht _ _ _ _ _ _ _ _) h
  | reproj => exact runWord_memWf (fun _ _ ht => reprojRes_memWf ht _ _) h
  | xeye => exact runWord_memWf (fun _ _ ht => xeyeRes_memWf ht _ _) h
  | rowq => exact runWord_memWf (fun _ _ ht => rowqRes_memWf ht _ _) h
  | roww => exact runWord_memWf (fun _ _ ht => rowwRes_memWf ht _) h
  | trail => exact runWord_memWf (fun _ _ ht => trailRes_memWf ht _ _) h
  | tmark => exact runWord_memWf (fun _ _ ht => tmarkRes_memWf ht _ _) h
  | sysrd => exact runWord_memWf (fun _ _ ht => sysrdRes_memWf ht _ _) h
  | syswr => exact runWord_memWf (fun _ _ ht => syswrRes_memWf ht _ _) h
  | wset => exact runWord_memWf (fun _ _ ht => wsetRes_memWf ht _ _) h
  | wclr => exact runWord_memWf (fun _ _ ht => wclrRes_memWf ht _ _) h
  | hlist => exact runWord_memWf (fun _ _ ht => hlistRes_memWf ht _ _) h
  | hins => exact runWord_memWf (fun _ _ ht => hinsRes_memWf ht _ _) h
  | hput => exact runWord_memWf (fun _ _ ht => hputRes_memWf ht _ _) h
  | hstep => exact execHstep_memWf h _ _
  | hres => exact runWord_memWf (fun _ _ ht => hresRes_memWf ht _ _) h
  | clauseIssue => exact next_memWf (clauseIssue_memWf h _ _ _ _)
  | longLatencyComplete => exact next_memWf (longComplete_memWf h _ _ _ _)
  | allocationDeadlock => exact next_memWf (allocationDeadlock_memWf h _ _ _)
  | handlerEntry => exact next_memWf (handlerEntry_memWf h _)
  | reportRecordWrite => exact next_memWf (ite_memWf (writeReport_memWf _ h) h)
  | faultReplay | faultDeliver | faultEndTeam => exact next_memWf (hostCommand_memWf h (fun _ ht => fltResume_memWf ht _ _ _))
  | teamTimeLimit => exact next_memWf (teamTimeLimit_memWf h _)
  | tlbiRange | tlbiContext | tlbiAll | tmodeWrite | sceneEpochWrite => exact next_memWf (hostWhole_memWf h _ _)
  | tlbiComplete => exact next_memWf (tlbiComplete_memWf h)
  | columnWriteback => exact next_memWf (ite_memWf (cleanColumn_memWf _ _ h) h)
  | copyLineFill => exact next_memWf (sldFill_memWf (copyLineFill_memWf h _ _) _ _)
  | copyLanded => exact next_memWf (copyLanded_memWf h _)
  | copyPost => exact next_memWf (copyPost_memWf h _)
  | laeServeStream => exact next_memWf (laeServe_memWf h _)
  | monitorWake => exact next_memWf (monitorWake_memWf h _)
  | monitorRecheck => exact next_memWf (monitorRecheck_memWf h _)
  | monitorTimeout => exact next_memWf (monitorTimeout_memWf h _)
  | swapOut => exact next_memWf (swapOut_memWf h _)
  | dieDistributorTake => exact next_memWf (dieTake_memWf h _)
  | chunkPlace => exact next_memWf (chunkPlace_memWf h _ _)
  | clusterSteal => exact next_memWf (clusterSteal_memWf h _ _)
  | crossDieSteal => exact next_memWf (crossSteal_memWf h _)
  | distributorPreempt => exact next_memWf (preempt_memWf h _)
  | nodeAging => exact next_memWf (nodeAge_memWf h _ _)
  | heldNodeEnterPool => exact next_memWf (heldEnter_memWf h _)
  | teamAdmit => exact next_memWf (teamAdmit_memWf h _)
  | teamRetire => exact next_memWf (teamRetire_memWf h _)
  | saveRequest => exact next_memWf (ite_memWf (requestSave_memWf h _ _) h)
  | teamHaltForSave => exact next_memWf (haltForSave_memWf h _)
  | saveImageWrite => exact next_memWf (saveImage_memWf h _)
  | teamRestore => exact next_memWf (teamRestore_memWf h _ _ _)
  | ctxCreate | ctxAdmit | ctxSuspend | ctxResume | ctxKill | ctxFree =>
    exact next_memWf (hostCommand_memWf h (fun _ ht => ctxCommand_memWf ht _ _))
  | ctxDestroyed => exact next_memWf (ctxDestroyed_memWf h _)
  | watchHaltLand => exact next_memWf (watchLand_memWf h _ _)
  | bandPeriodBoundary => exact next_memWf (bandBoundary_memWf h _)
  | waveWrite => exact next_memWf (waveWrite_memWf h _)
  | lowWaterMarkSend => exact next_memWf (sendMark_memWf h _)
  | sampleInsertion => exact next_memWf (sampleInsertion_memWf h _)
  | bandDeadline => exact next_memWf (bandDeadline_memWf h _)
  | waitLimitExpiry => exact next_memWf (waitLimit_memWf h _)
  | xeyeReceive => exact next_memWf (xeyeReceive_memWf h _)
  | sensorSample => exact next_memWf (ite_memWf (sensorSample_memWf h _ _ _) h)
  | sensorRearm => exact next_memWf (ite_memWf (hostCommand_memWf h (fun _ ht => sensorRearm_memWf ht _)) h)
  | powerModelUpdate => exact next_memWf (ite_memWf (powerUpdate_memWf h _ _ _) h)
  | powerCapInterval => exact next_memWf (ite_memWf (capInterval_memWf h _) h)
  | droopAlarmRise => exact next_memWf (ite_memWf (droopRise_memWf h _) h)
  | stretchEnd => exact next_memWf (ite_memWf (stretchEnd_memWf h _) h)
  | holdEnd | droopAlarmClear => exact next_memWf (ite_memWf (modCluster_memWf h _ _) h)
  | bermReclaim => exact next_memWf (ite_memWf (reclaim_memWf h _) h)
  | junctionTrip => exact next_memWf (junctionTrip_memWf h _)
  | culvertTrain => exact next_memWf (hostCommand_memWf h (fun _ ht => culvertTrain_memWf ht))
  | culvertReset => exact next_memWf (hostCommand_memWf h (fun _ ht => culvertReset_memWf ht))
  | culvertTrainingResult => exact next_memWf (trainingResult_memWf h _)
  | culvertLossOfLock => exact next_memWf (lossOfLock_memWf h)
  | culvertWaitExpiry => exact execCulvertWaitExpiry_memWf h _ _ _
  | timeBaseCompare => exact execTimeBaseCompare_memWf h
  | ptmDialog => exact next_memWf (ite_memWf h (setRaw_memWf (setRaw_memWf (setRaw_memWf h _ _) _ _) _ _))
  | displayEnable => exact next_memWf (hostCommand_memWf h (fun _ ht => displayEnable_memWf ht _))
  | displayDisable => exact next_memWf (hostCommand_memWf h (fun _ ht => displayDisable_memWf ht _))
  | displayRetrain => exact next_memWf (hostCommand_memWf h (fun _ ht => displayRetrain_memWf ht _))
  | displayTrainingResult | displayLinkLoss => exact next_memWf (displayEvent_memWf h _ _)
  | startOfScan => exact next_memWf (startOfScan_memWf h _)
  | bar2Read => exact execBar2Read_memWf h _ _
  | bar2Write => exact execBar2Write_memWf h _ _
  | bar2Atomicop => exact execBar2Atomicop_memWf h _ _ _ _
  | bar4Read => exact next_memWf (referee_memWf h (fun _ ht => send_memWf ht _))
  | inputCommit => exact next_memWf (hostCommand_memWf h (fun _ ht => windowWrite_memWf ht _ _))
  | measExtend => exact next_memWf (hostCommand_memWf h (fun _ ht => measExtend_memWf ht))
  | getQuote => exact next_memWf (kuide_memWf h (fun _ ht => by exact ht))
  | getCert | getWindow => exact next_memWf (kuide_memWf h (fun _ ht => send_memWf ht _))
  | msixUnmaskSend => exact next_memWf (ite_memWf (send_memWf (by exact h) _) h)
  | l2QuotaWrite | drpThrWrite => exact next_memWf (ite_memWf (hostWhole_memWf h _ _) h)
  | registerWrite => exact next_memWf (bar0Write_memWf h _ _ _)
  | powerOn => exact execPowerOn_memWf h _ _
  | bootReset => exact next_memWf (deviceReset_memWf h _ _)
  | functionLevelReset => exact next_memWf (ite_memWf (deviceReset_memWf h _ _) (send_memWf h _))
  | bootStage1 => exact next_memWf (ite_memWf (by exact h) h)
  | bootStage2 =>
    exact next_memWf (ite_memWf h (ite_memWf (by exact extendBoot_memWf (by exact extendBoot_memWf h _) _) (by exact extendBoot_memWf h _)))
  | bootStage3 => exact next_memWf (ite_memWf h (ite_memWf (by exact h) (by exact h)))
  | bootStage4 => exact next_memWf (ite_memWf (by exact culvertTrain_memWf h) h)
  | bootStage5 => exact next_memWf (ite_memWf h (ite_memWf (by exact extendBoot_memWf h _) (by exact h)))
  | bootStage6 => exact next_memWf (ite_memWf h (ite_memWf (startPeriods_memWf (by exact extendBoot_memWf h _)) (by exact h)))
  | lowWaterMarkArrival => exact next_memWf (markArrives_memWf h _)
  | softError => exact next_memWf (ite_memWf h (ite_memWf (by exact h) (corrected_memWf h _)))
  | quoteResponse => exact execQuoteResponse_memWf h

/-- The machine's own events are events of `exec`. -/
theorem own_run_memWf (o : Own) {s : State} (h : s.memWf) : Out.memWf (o.run s) := by
  cases o with
  | stretchEnd => exact exec_memWf (.stretchEnd _ _) h
  | holdEnd => exact exec_memWf (.holdEnd _ _) h
  | nprOverrun => exact exec_memWf (.nprOverrun _ _ _) h
  | teamTimeLimit => exact exec_memWf (.teamTimeLimit _) h
  | waitLimitExpiry => exact exec_memWf (.waitLimitExpiry _) h
  | bandDeadline => exact exec_memWf (.bandDeadline _) h
  | startOfScan => exact exec_memWf (.startOfScan _) h
  | bandPeriodBoundary => exact exec_memWf (.bandPeriodBoundary _) h
  | clauseIssue => exact exec_memWf (.clauseIssue _ _ _ _) h
  | longLatencyComplete => exact exec_memWf (.longLatencyComplete _ _ _ _) h
  | handlerEntry => exact exec_memWf (.handlerEntry _ _ _) h
  | watchHaltLand => exact exec_memWf (.watchHaltLand _ _ _ _) h
  | culvertWaitExpiry => exact exec_memWf (.culvertWaitExpiry _ _ _) h
  | teamAdmit => exact exec_memWf (.teamAdmit _) h
  | teamRetire => exact exec_memWf (.teamRetire _) h
  | teamHaltForSave => exact exec_memWf (.teamHaltForSave _) h
  | saveImageWrite => exact exec_memWf (.saveImageWrite _) h
  | swapOut => exact exec_memWf (.swapOut _) h
  | laeServeStream => exact exec_memWf (.laeServeStream _) h
  | teamRestore => exact exec_memWf (.teamRestore _ _ _) h
  | copyLineFill => exact exec_memWf (.copyLineFill _ _) h
  | copyLanded => exact exec_memWf (.copyLanded _) h
  | copyPost => exact exec_memWf (.copyPost _) h
  | monitorWake => exact exec_memWf (.monitorWake _) h
  | monitorRecheck => exact exec_memWf (.monitorRecheck _) h
  | monitorTimeout => exact exec_memWf (.monitorTimeout _) h
  | chunkPlace => exact exec_memWf (.chunkPlace _ _) h
  | clusterSteal => exact exec_memWf (.clusterSteal _ _) h
  | reportRecordWrite => exact exec_memWf (.reportRecordWrite _) h
  | dieDistributorTake => exact exec_memWf (.dieDistributorTake _) h
  | heldNodeEnterPool => exact exec_memWf (.heldNodeEnterPool _) h
  | nodeAging => exact exec_memWf (.nodeAging _ _) h
  | crossDieSteal => exact exec_memWf (.crossDieSteal _) h
  | distributorPreempt => exact exec_memWf (.distributorPreempt _) h
  | bermReclaim => exact exec_memWf (.bermReclaim _ _) h
  | sampleInsertion => exact exec_memWf (.sampleInsertion _) h
  | xeyeReceive => exact exec_memWf (.xeyeReceive _) h
  | lowWaterMarkSend => exact exec_memWf (.lowWaterMarkSend _) h
  | lowWaterMarkArrival => exact exec_memWf (.lowWaterMarkArrival _) h
  | waveWrite => exact exec_memWf (.waveWrite _) h
  | powerCapInterval => exact exec_memWf (.powerCapInterval _) h
  | displayTrainingResult => exact exec_memWf (.displayTrainingResult _ _) h
  | allocationDeadlock => exact exec_memWf (.allocationDeadlock _ _ _) h
  | columnWriteback => exact exec_memWf (.columnWriteback _ _ _) h
  | bootStage1 => exact exec_memWf (.bootStage1 _ _ _) h
  | bootStage2 => exact exec_memWf (.bootStage2 _) h
  | bootStage3 => exact exec_memWf (.bootStage3 _ _) h
  | bootStage4 => exact exec_memWf .bootStage4 h
  | bootStage5 => exact exec_memWf (.bootStage5 _) h
  | bootStage6 => exact exec_memWf (.bootStage6 _) h
  | tlbiComplete => exact exec_memWf .tlbiComplete h
  | culvertTrainingResult => exact exec_memWf (.culvertTrainingResult _) h
  | timeBaseCompare => exact exec_memWf .timeBaseCompare h
  | quoteResponse => exact exec_memWf .quoteResponse h
  | msixUnmaskSend => exact exec_memWf (.msixUnmaskSend _) h
  | ctxDestroyed => exact exec_memWf (.ctxDestroyed _) h

/-! ### Turns -/

theorem admission_memWf {s : State} (h : s.memWf) : s.admission.memWf := by
  unfold State.admission
  split
  · exact h
  · extract_lets n slot x say
    have hsay : ∀ (t : State) (st : Nat), t.memWf → (say t st).memWf := fun _ _ ht => writeHome_wf _ _ (writeHome_wf _ _ ht)
    split
    · exact hsay _ _ h
    · split
      · exact h
      · next he => exact hsay _ _ (memWf_snd he (enqueue_memWf h _ _ _))
      · next he => exact hsay _ _ (memWf_snd he (enqueue_memWf h _ _ _))

theorem pass_memWf {s : State} (h : s.memWf) : s.pass.memWf := releaseAll_memWf (tick_memWf h)

theorem taking_memWf {s : State} (h : s.memWf) (pk : Nat) : (s.taking pk).memWf := by
  unfold State.taking
  extract_lets u
  have hu : u.memWf := elim_memWf h (fun _ => modGroup_memWf h _ _) _
  have hspend := spend_memWf hu pk
  exact hspend

theorem passOver_memWf {s : State} (h : s.memWf) (os : List Turn) (t : Turn) : (s.passOver os t).memWf := h

theorem turn_memWf {s : State} (h : s.memWf) : s.turn.2.memWf := by
  unfold State.turn
  split
  · exact h
  · exact h
  · split
    · exact passOver_memWf h _ _
    · exact passOver_memWf (pick_memWf h _) _ _

theorem issueStep_memWf {s : State} (h : s.memWf) (pk : Nat) : Out.memWf (s.issueStep pk) := by
  unfold State.issueStep
  extract_lets u
  have hu : u.memWf := taking_memWf h pk
  split
  · trivial
  · next e he =>
    have hf := fetchCode_memWf hu e.ck e.t e.ig.pc
    split
    · next hw => exact trapIg_memWf (memWf_snd hw hf) _ _ _ _ _ _ _
    · next v hw =>
      have hv : v.memWf := memWf_snd hw hf
      dsimp only
      refine blockHere_memWf ?_ _ _ _
      split
      · exact hv
      · exact flip_memWf hv
    · next hw => exact trapBefore_memWf (memWf_snd hw hf) _ _ _ _ _ _ _
    · next hw =>
      split
      · exact trapBefore_memWf (memWf_snd hw hf) _ _ _ _ _ _ _
      · exact exec_memWf _ (memWf_snd hw hf)

theorem ownStep_memWf {s : State} (h : s.memWf) : Out.memWf s.ownStep := by
  unfold State.ownStep
  have ht := turn_memWf h
  split
  · next he => exact issueStep_memWf (memWf_snd he ht) _
  · next he => exact own_run_memWf _ (memWf_snd he ht)
  · next he => exact next_memWf (admission_memWf (memWf_snd he ht))
  · next he => exact next_memWf (bar0Serve_memWf (memWf_snd he ht))
  · next he => exact next_memWf (configServe_memWf (memWf_snd he ht))
  · next he => exact next_memWf (pass_memWf (memWf_snd he ht))

theorem step_memWf {s : State} (h : s.memWf) : Out.memWf (step s) := by
  unfold step
  split
  · next i r _ =>
    have hr : ({ s with agenda := r } : State).memWf := h
    split
    · exact ownStep_memWf hr
    · exact exec_memWf i hr
  · exact ownStep_memWf h

/-- Settles O47: every operation of the model leaves memory alone or writes it through `Memory.writes`, which keeps the form. -/
theorem memoryCanonical : Obligations.MemoryCanonical := by
  unfold Obligations.MemoryCanonical
  intro s t h ht
  have hs := step_memWf h
  rw [ht] at hs
  exact hs

end Sys2Proof.Machine
end
